-- ==== Sys2Proof/Word.lean ====
section
/-! DEFINITION. The word types of the Zelkar Z8 model and their plainest arithmetic: saturating counters (the
counters of every register block saturate, e.g. R299, R321, R351), little-endian bytes (R15) and the one access
function of a fixed bank of like things. -/

namespace Sys2Proof

abbrev Byte := BitVec 8
abbrev Word16 := BitVec 16
abbrev Word32 := BitVec 32
abbrev Word64 := BitVec 64

/-- A tick of the time base, 1 ns (R37). -/
abbrev Tick := BitVec 64

/-- The largest value of a `w`-bit field. -/
def maxOf (w : Nat) : Nat := 2 ^ w - 1

/-- A counter that saturates at the largest value of its field. -/
def satAdd {w : Nat} (x : BitVec w) (n : Nat) : BitVec w :=
  BitVec.ofNat w (min (x.toNat + n) (maxOf w))

/-- One more on a saturating counter. -/
def bump {w : Nat} (x : BitVec w) : BitVec w := satAdd x 1

/-- A natural number narrowed to a field, at the field's largest value when it does not fit. -/
def satOf (w n : Nat) : BitVec w := BitVec.ofNat w (min n (maxOf w))

/-- The smallest natural number not below `a / b`. -/
def ceilDiv (a b : Nat) : Nat := (a + b - 1) / b

/-- `n` rounded up to a multiple of `k`. -/
def roundUp (n k : Nat) : Nat := ceilDiv n k * k

/-- One element of a fixed bank changed, every other left. -/
def Bank.upd {α : Type} {n : Nat} (v : Vector α n) (i : Fin n) (f : α → α) : Vector α n :=
  v.set i.val (f v[i]) i.isLt

/-- The positions of a fixed bank, in rising order. -/
def Bank.indices (n : Nat) : List (Fin n) := List.finRange n

/-- An index forced into a bank of `n + 1` elements (the last for a number outside it). -/
def clampFin (n k : Nat) : Fin (n + 1) := ⟨min k n, by omega⟩

/-- A number as a position of a bank of `n` elements, when it is one. -/
def asFin (n k : Nat) : Option (Fin n) := if h : k < n then some ⟨k, h⟩ else none

/-- The first element that satisfies a test is replaced by what `f` makes of it. -/
def updFirst {α : Type} (p : α → Bool) (f : α → α) : List α → List α
  | [] => []
  | a :: r => if p a then f a :: r else a :: updFirst p f r

/-- Every element that satisfies a test is replaced by what `f` makes of it. -/
def updWhere {α : Type} (p : α → Bool) (f : α → α) (l : List α) : List α :=
  l.map fun a => if p a then f a else a

/-- The values of a list of numbers added up. -/
def sumOf {α : Type} (f : α → Nat) (l : List α) : Nat := l.foldl (fun n a => n + f a) 0

/-- The largest of the values of a list, 0 for the empty list. -/
def maxOver {α : Type} (f : α → Nat) (l : List α) : Nat := l.foldl (fun n a => max n (f a)) 0

end Sys2Proof
end

