-- ==== Sys2Proof/Machine/Bits.lean ====
section
/-! DEFINITION. Bit fields and little-endian byte strings (R15). -/

namespace Sys2Proof

/-- Bits `hi` to `lo` of a natural number (`hi` is included). -/
def bitsOf (n hi lo : Nat) : Nat := n / 2 ^ lo % 2 ^ (hi + 1 - lo)

/-- The `n` bytes of a number, least significant first (R15). -/
def bytesOf : Nat → Nat → List Byte
  | 0, _ => []
  | k + 1, v => BitVec.ofNat 8 v :: bytesOf k (v / 256)

/-- The number whose bytes, least significant first, are given (R15). -/
def ofBytes : List Byte → Nat
  | [] => 0
  | b :: r => b.toNat + 256 * ofBytes r

/-- The little-endian field of `n` bytes at byte `off` of a byte string; bytes past its end count as zero. -/
def fieldAt (bs : List Byte) (off n : Nat) : Nat := ofBytes ((bs.drop off).take n)

end Sys2Proof
end

