-- ==== Sys2Proof/Machine/Status.lean ====
section
/-! DEFINITION. The status codes of replies (R20, R348), the refusal reasons (R336) and the causes of a broken promise
(R341), with the numbers the spec gives them. -/

namespace Sys2Proof

/-- The status codes of R20. -/
inductive Status where
  | ok | accepted | duplicate
  | badOpcode | badParam | badLength | notAdmin | notOwner | quota | noSpace | busy
  | refusedTime | promiseBroken | capBelowFloor | staging
  | frozen | version | stashFull | pagesDropped | singular
  | lagged | peerLost | expelled
  | holdup | authFail | limitReached
  | faulted | aborted | reset
deriving DecidableEq, Repr, Inhabited

/-- The 8-bit code of a status (R20). -/
def Status.code : Status → BitVec 8
  | .ok => 0x00 | .accepted => 0x01 | .duplicate => 0x02
  | .badOpcode => 0x10 | .badParam => 0x11 | .badLength => 0x12 | .notAdmin => 0x13
  | .notOwner => 0x14 | .quota => 0x15 | .noSpace => 0x16 | .busy => 0x17
  | .refusedTime => 0x20 | .promiseBroken => 0x21 | .capBelowFloor => 0x22 | .staging => 0x23
  | .frozen => 0x30 | .version => 0x31 | .stashFull => 0x32 | .pagesDropped => 0x33 | .singular => 0x34
  | .lagged => 0x40 | .peerLost => 0x41 | .expelled => 0x42
  | .holdup => 0x50 | .authFail => 0x51 | .limitReached => 0x52
  | .faulted => 0x60 | .aborted => 0x61 | .reset => 0x62

/-- The reasons of ST_REFUSED_TIME (R336, *Refusal reasons*). -/
inductive RefusalReason where
  | deadline | noTable | assumption | cap | reference | notPromisable | kvReserve | commitments
deriving DecidableEq, Repr, Inhabited

/-- The CAUSE code of a refusal reason (R336). -/
def RefusalReason.code : RefusalReason → BitVec 8
  | .deadline => 1 | .noTable => 2 | .assumption => 3 | .cap => 4
  | .reference => 5 | .notPromisable => 6 | .kvReserve => 7 | .commitments => 8

/-- The causes of a broken promise that have a delay counter (R341; cause 10, TABLE_OVERRUN, has none). -/
inductive DelayCause where
  | hardBrake | thermal | supply | holdup | peerLate | hostQuiesce | hostWrite | integrityRetry | debugHalt
deriving DecidableEq, Repr, Inhabited

/-- The place of a cause among the delay counters, its code less one (R341). -/
def DelayCause.index : DelayCause → Fin 9
  | .hardBrake => 0 | .thermal => 1 | .supply => 2 | .holdup => 3 | .peerLate => 4
  | .hostQuiesce => 5 | .hostWrite => 6 | .integrityRetry => 7 | .debugHalt => 8

/-- Severities of event records (R453). -/
inductive Severity where
  | info | warn | error | fatal
deriving DecidableEq, Repr, Inhabited

/-- The SEVERITY code (R453). -/
def Severity.code : Severity → BitVec 2
  | .info => 0 | .warn => 1 | .error => 2 | .fatal => 3

/-- The severity a code names (R453). -/
def Severity.ofCode (c : BitVec 2) : Severity :=
  if c = 0 then .info else if c = 1 then .warn else if c = 2 then .error else .fatal

/-- Who makes a register access (R463, R514). -/
inductive Requester where
  | port (p : Fin 2) | core (c : Fin 4) | smbus | jtag
deriving DecidableEq, Repr, Inhabited

/-- The number TOP_REQUESTER returns (R514); also the place of the requester's shadows (R463). -/
def Requester.index : Requester → Fin 8
  | .port 0 => 0 | .port 1 => 1
  | .core 0 => 2 | .core 1 => 3 | .core 2 => 4 | .core 3 => 5
  | .smbus => 6 | .jtag => 7

/-- The part of a 64-bit register an access covers (R462). A 32-bit register is accessed as `lo`. -/
inductive RegPart where
  | lo | hi | full
deriving DecidableEq, Repr, Inhabited

/-- The decoded header of a host command packet (R324): what a row that is a command carries of its packet besides
its parameters. -/
structure CmdHdr where
  port : Fin 2
  tag : Word64
  account : BitVec 6
  cls : BitVec 2
  powerClass : BitVec 4
  deadline : Word64
  noIrq : Bool
deriving DecidableEq, Repr, Inhabited

/-- CLASS 1 is PROMISED (R324). -/
def CmdHdr.promised (h : CmdHdr) : Bool := h.cls == 1

end Sys2Proof
end

