-- ==== Sys2Proof/Machine/TypesHost.lean ====
section
/-! DEFINITION. State of the host side: intake rings, reply rings and replay windows (R323-R333, R349), promises
(R334-R343, R351), the PCIe ports (R495-R516) and outstanding reads of host memory (R297, R502). -/

namespace Sys2Proof.Machine

/-- A reply before its CREDIT and PHASE are known (R329). -/
structure Reply where
  tag : Word64
  result : Word64 := 0
  status : Status
  aux : BitVec 8 := 0
  cause : BitVec 8 := 0
  final : Bool := true
  opcode : Word16
  detail : Word32 := 0
deriving DecidableEq, Repr, Inhabited

/-- One packet of a replay window: its TAG, its OPCODE and the latest reply written for it (R333). -/
structure ReplayRec where
  tag : Word64
  opcode : Word16
  reply : Option Reply := none
deriving DecidableEq, Repr, Inhabited

/-- A consumed command that has no final reply yet (R330, INT_CREDIT.OUTSTANDING). -/
structure OpenCmd where
  hdr : CmdHdr
  opcode : Word16
deriving DecidableEq, Repr, Inhabited

/-- An object mapped into a port's aperture (R499). -/
structure Mapping where
  object : Word32
  offset : Nat
  /-- The object's size rounded up to 2 MiB. -/
  span : Nat
deriving DecidableEq, Repr, Inhabited

/-- One entry of a port's MSI-X table with its pending bit (R503). -/
structure MsixEntry where
  addr : Word64 := 0
  data : Word32 := 0
  masked : Bool := true
  pend : Bool := false
deriving DecidableEq, Repr, Inhabited

/-- A host port: its intake block (R349), reply ring, replay window, link, aperture and MSI-X structures. -/
structure HostPort where
  /-- The 64 KiB intake window; an unlisted byte is zero, as every reset leaves it (R323). -/
  window : List Host.Cell := []
  readOffset : Word16 := 0
  expectPhase : Bool := true
  consumed : Word16 := 0
  /-- INT_CTRL.ENABLE as in force (INT_STATUS.ENABLED). -/
  enabled : Bool := false
  /-- A RING_RESET is zeroing the window, and an ENABLE = 1 written meanwhile (R323). -/
  clearing : Bool := false
  enablePending : Bool := false
  /-- INT_STATUS.QUIESCED, FAULTED, STALLED, REPLY_FULL. -/
  quiesced : Bool := true
  faulted : Bool := false
  stalled : Bool := false
  replyBase : Word64 := 0
  vector : BitVec 8 := 0
  coalesceN : BitVec 8 := 1
  sizeLog2 : BitVec 5 := 10
  coalesceUs : BitVec 11 := 0
  head : Word32 := 0
  tail : Word32 := 0
  countDuplicates : Word32 := 0
  countPackets : Word32 := 0
  /-- Replies not marked NO_IRQ written since the last interrupt, and the tick of the first of them (R331). -/
  coalesced : Nat := 0
  coalesceSince : Option Tick := none
  replay : List ReplayRec := []
  /-- Link state: DL_Up, PERSTn_N asserted after filtering, D3hot (R505). -/
  dlUp : Bool := false
  perst : Bool := false
  d3hot : Bool := false
  width : BitVec 5 := 0
  speed : BitVec 3 := 0
  downCount : Word16 := 0
  /-- Tick at which the link last went down (PCFG_LINKp.DOWN_MS counts from it). -/
  downSince : Tick := 0
  lostReplies : Word16 := 0
  lostReads : Word16 := 0
  lostWrites : Word32 := 0
  /-- BAR4 size, 2^bar4Log2 bytes (R498, R501). -/
  bar4Log2 : BitVec 6 := 30
  mappings : List Mapping := []
  msix : Vector MsixEntry 256 := Vector.replicate 256 {}
  msixEnable : Bool := false
  msixMask : Bool := false
  acctEn : Word64
  /-- Bytes of host memory this device has written through the port, newest value of each. -/
  hostMem : List Host.Cell := []
deriving DecidableEq, Repr, Inhabited

/-- An admitted PROMISED command that has not retired (R336-R343). -/
structure Promise where
  hdr : CmdHdr
  opcode : Word16
  /-- Resources held: bits 0-7 arrays, 8 Tundish, 9 Aster, 10 Octing, 11 Hoist (ADM_COMMIT_r). -/
  resources : BitVec 12
  tick : Nat
  /-- For a step: its program slot and step number. -/
  step : Option (Nat × Nat) := none
  /-- For a move: the Hoist engine it holds (R339), and its object. -/
  engine : Option (Fin 4) := none
  object : Option Word32 := none
  /-- Objects step-pinned for it (R288). -/
  pins : List Word32 := []
  /-- Delay counters, by cause code less one (R341). -/
  delays : Vector Nat 9 := Vector.replicate 9 0
  /-- Rank of the latest sender counted under PEER_LATE (R342). -/
  lateRank : Option (BitVec 14) := none
deriving DecidableEq, Repr, Inhabited

/-- ADMISSION (R351). -/
structure Admission where
  promises : List Promise := []
  accepted : Word32 := 0
  refused : Word32 := 0
  kept : Word32 := 0
  broken : Word32 := 0
  lateMax : Word64 := 0
  causes : Vector Word32 10 := Vector.replicate 10 0
deriving DecidableEq, Repr, Inhabited

/-- The admin role (R505, PCFG_ADMIN). -/
structure AdminRole where
  port : Fin 2 := 0
  changes : Word16 := 0
  lastByAdopt : Bool := false
deriving DecidableEq, Repr, Inhabited

/-- What a read of host memory by DMA is for (R297, R475, R404, R502). -/
inductive DmaPurpose where
  /-- Data of the OBJ_WRITE at the head of an object's queue. -/
  | objWrite (object : Word32)
  /-- T3 bytes of an object that the command at the head of its queue needs. -/
  | objT3 (object : Word32)
  /-- T3 bytes of an object that a lane of a BEST_EFFORT step reads. -/
  | stepT3 (slot : Nat) (step : Nat) (lane : Nat) (object : Word32) (offset : Nat)
  | fwChunk (chunkOffset : Nat)
  | assay
  /-- A list, a table or overrides that a command reads from an object in T3. -/
  | list (object : Word32)
deriving DecidableEq, Repr, Inhabited

/-- An outstanding read of host memory. -/
structure DmaRead where
  id : Nat
  port : Fin 2
  addr : Word64
  length : Nat
  purpose : DmaPurpose
  cmd : OpenCmd
  /-- Its requests have left the port; false while it waits at the limit of outstanding requests (R293). -/
  out : Bool := false
  /-- Ranges of device addresses written since it was asked for: what it brings for them is out of date. -/
  newer : List (Nat × Nat) := []
deriving DecidableEq, Repr, Inhabited

end Sys2Proof.Machine
end

