-- ==== Sys2Proof/Machine/TypesMemory.lean ====
section
/-! DEFINITION. State of the memory tiers: objects, extents, pins and queues (R273-R284), quotas (R280), hearths
(R285-R290, R299), Hoist (R282-R284, R300), bandwidth arbitration (R291, R292) and the stacks (R302-R322). -/

namespace Sys2Proof.Machine

/-- The home of an object (R276). For T1 the granules taken of each partition, in granule order (R279). -/
inductive Home where
  | t1 (hearth : Fin 8) (parts : List (Fin 10 × Nat))
  | t2 (mask : BitVec 20)
  | t3 (port : Fin 2) (addr : Word64)
deriving DecidableEq, Repr, Inhabited

/-- Where an extent lies (R277, R279). -/
inductive Place where
  | t0 (array : Fin 8)
  | t1 (hearth : Fin 8) (parts : List (Fin 10 × Nat))
  | t2 (mask : BitVec 20)
deriving DecidableEq, Repr, Inhabited

/-- A promoted range of an object (R277). -/
structure Extent where
  start : Nat
  length : Nat
  place : Place
deriving DecidableEq, Repr, Inhabited

/-- The target of an OBJ_PLACE (R297). -/
inductive Target where
  | t0 (array : Fin 8) | t1 (hearth : Fin 8) | t2 (mask : BitVec 20) | home
deriving DecidableEq, Repr, Inhabited

/-- States of a move (R284). -/
inductive MoveState where
  | queued | pinWait | moving
deriving DecidableEq, Repr, Inhabited

/-- A word in the Ingot code that a unit consumes (R314): of a tile store and of a hearth by device address, of a crucible the eight
entries of a region from `first` up, a flit of a sprue mesh, and of a stack by its unit and word, with the device address where it
is a word of an object. -/
inductive WordPlace where
  | tileStore (array : Fin 8) (addr : Nat)
  | crucible (array : Fin 8) (slot : Fin 16) (handle : BitVec 12) (first : Nat)
  | sprue (array : Fin 8)
  | hearth (die : Fin 8) (addr : Nat)
  | stack (k : Fin 20) (unit word : Nat) (addr : Option Nat)
deriving DecidableEq, Repr, Inhabited

/-- A word read with errors: where it lies, and what its 36 symbols differ by from those written. -/
structure WordError where
  place : WordPlace
  pattern : List Byte
deriving DecidableEq, Repr, Inhabited

/-- The commands that share an object's queue (R282), with what each carries. -/
inductive QueuedOp where
  | place (nowait : Bool) (target : Target) (offset length : Nat)
  /-- With the steps (slot, step) whose reads and updates it waits for (R180), and the slots that must have no step in
  flight (R240), as found when it arrived. -/
  | write (nowait : Bool) (convert : Bool) (offset length : Nat) (host : Word64) (waits : List (Nat × Nat))
      (idle : List Nat)
  /-- With the words that its read finds in error. -/
  | read (convert : Bool) (offset length : Nat) (host : Word64) (errs : List WordError)
  | map (unmap : Bool)
  | destroy
deriving DecidableEq, Repr, Inhabited

/-- What the operation at the head of an object's queue is waiting for. -/
inductive HeadState where
  /-- Not yet started. -/
  | fresh
  /-- A move: its state, the pieces already switched and the T1 granules its target has been given. -/
  | move (st : MoveState) (switched : Nat) (parts : List (Fin 10 × Nat))
  /-- Waiting for a read of host memory. -/
  | dma
  /-- Data arrived and the T3 bytes it needs are in hand. -/
  | ready
  /-- An OBJ_WRITE whose data has arrived and which R180 or R240 holds. -/
  | held (data : List Byte)
deriving DecidableEq, Repr, Inhabited

/-- A queued operation with the command that asked for it. -/
structure ObjOp where
  cmd : OpenCmd
  op : QueuedOp
  state : HeadState := .fresh
  /-- Writes to the piece being copied, held until it switches: device address and bytes (R283). -/
  heldWrites : List (Nat × List Byte) := []
deriving DecidableEq, Repr, Inhabited

/-- An object (R273-R276, R284). -/
structure Obj where
  id : Word32
  base : Nat
  size : Nat
  owner : BitVec 6
  readers : Word64 := 0
  home : Home
  extents : List Extent := []
  /-- Pins: step pins held by promises, program pins held by loaded programs and KV spaces, the ports that map it, and the
  accounts that hold a host pin. -/
  stepPins : Nat := 0
  progPins : Nat := 0
  mapPins : List (Fin 2) := []
  hostPins : Word64 := 0
  queue : List ObjOp := []
deriving DecidableEq, Repr, Inhabited

/-- The limits of one account (R280). -/
structure Quota where
  t0 : Vector (BitVec 32) 8 := Vector.replicate 8 0
  t1 : BitVec 32 := 0
  t2 : BitVec 32 := 0
deriving DecidableEq, Repr, Inhabited

/-- A hearth (R285-R290, R299). -/
structure Hearth where
  /-- HRT_PART.CACHE. -/
  cache : BitVec 10
  /-- The lines held: the partition and the number of the 256-byte line by device address (R286). -/
  lines : List (Fin 10 × Nat) := []
  misses : Word32 := 0
  hits : Word32 := 0
  late : Word32 := 0
  stall : Word32 := 0
  corr : Word32 := 0
deriving DecidableEq, Repr, Inhabited

/-- A Hoist engine (R300). Its moves are the operations of the objects' queues. -/
structure Hoist where
  bytes : Word64 := 0
  completed : Word32 := 0
  refused : Word32 := 0
deriving DecidableEq, Repr, Inhabited

/-- Bandwidth floors in percent (R291, R292). -/
structure Floors where
  read : BitVec 8 := 40
  write : BitVec 8 := 25
  remote : BitVec 8 := 10
deriving DecidableEq, Repr, Inhabited

/-- A request waiting at a stack controller (R291). -/
structure MemRequest where
  /-- 0 READ, 1 WRITE, 2 REMOTE; none for the patrol scrub, which is counted in no class (R308). -/
  cls : Option (Fin 3)
  /-- A read, which counts among the outstanding reads of the controller (R293). -/
  read : Bool
  requester : Nat
  deadline : Nat
  bytes : Nat
deriving DecidableEq, Repr, Inhabited

/-- The exerciser of one channel (R318, R321). -/
structure Exerciser where
  busy : Bool := false
  words : Word32 := 0
  mismatch : Word32 := 0
  uncorr : Word16 := 0
  corr2 : Word16 := 0
  corr1 : Word16 := 0
deriving DecidableEq, Repr, Inhabited

/-- An exerciser run in progress (R318). -/
structure ExerRun where
  cmd : OpenCmd
  pattern : BitVec 2
  raw : Bool
  inject : BitVec 3
  channels : Word32
  seed : Word32
  words : Nat
deriving DecidableEq, Repr, Inhabited

/-- A group of up to 64 W32 additions waiting at a stack's adders (R310, R311): device address of the first entry and
the addends. -/
structure AdderGroup where
  addr : Nat
  addends : List Word32
  /-- The program slot and region the additions belong to: the OS TMM that made them retires after the last of its
  additions leaves the queue (R310). -/
  slot : Nat
  handle : Nat
  /-- The Tundish's read-and-zero of entries from `addr` up: their bytes; 0 for additions (R311). -/
  zero : Nat := 0
deriving DecidableEq, Repr, Inhabited

/-- A corrected codeword waiting to be written back (R309): its word of the stack, the device address of that word where it is one of
an object, and the codeword. -/
structure WriteBack where
  unit : Nat
  word : Nat
  addr : Option Nat := none
  codeword : List Byte := []
deriving DecidableEq, Repr, Inhabited

/-- A word corrected by scrubbing, with the number of consecutive passes that corrected it (R309). -/
structure WeakWord where
  unit : Nat
  word : Nat
  passes : Nat
  /-- The pass (STK_SCRUB.PASSES) of the last correction. -/
  lastPass : Nat
deriving DecidableEq, Repr, Inhabited

/-- A stack and its controller (R302-R322). -/
structure Stack where
  scrubHours : BitVec 8 := 8
  cattrip : Bool := false
  hot : Bool := false
  ref2x : Bool := false
  diag : Bool := false
  trained : Bool := false
  lanesRepaired : BitVec 8 := 0
  temp : BitVec 8 := 0
  maxTemp : BitVec 8 := 0
  ondie : Word32 := 0
  corr : Word32 := 0
  scrubPasses : Word32 := 0
  scrubPos : Word32 := 0
  /-- The tick at which the unit at the position is due, and the bytes of its read already served (R308). -/
  scrubDue : Nat := 0
  scrubServed : Nat := 0
  adderStall : Word32 := 0
  adderGroups : Word32 := 0
  exer : Vector Exerciser 32 := Vector.replicate 32 {}
  runs : List ExerRun := []
  /-- STK_DIAG_EXIT is writing zero words for this command (R317). -/
  zeroing : Option OpenCmd := none
  adderQueue : List AdderGroup := []
  /-- Groups that wait for room in the queue, with the array whose drain latch holds them; none for the Tundish's (R311). -/
  adderWaiting : List (Option (Fin 8) × AdderGroup) := []
  /-- The tick up to which waits of drain latches have been counted in STK_ADDER.STALL. -/
  stallSince : Tick := 0
  writeBacks : List WriteBack := []
  weak : List WeakWord := []
  /-- Requests waiting at the controller (R291) and the bytes served to each in the last window. -/
  requests : List MemRequest := []
  /-- Requests whose requester waits at the limit of outstanding reads (R293). -/
  stalled : List MemRequest := []
  served : List (Nat × Nat) := []
  /-- STK_CORRECTED has been logged for the current step (R322). -/
  correctedLogged : Bool := false
deriving DecidableEq, Repr, Inhabited

/-- The memory tiers as a whole. -/
structure MemoryTiers where
  objects : List Obj := []
  /-- Bytes by device address (R274), in canonical form; an unlisted byte reads as zero. -/
  mem : List Host.Cell := []
  /-- The device bytes that nothing has written since their object was created, whatever `mem` says of them (R303): address, length
  and creation number. -/
  fresh : List (Nat × Nat × Nat) := []
  quotas : Vector Quota 64 := Vector.replicate 64 {}
  hearths : Vector Hearth 8
  hoists : Vector Hoist 4 := Vector.replicate 4 {}
  floors : Floors := {}
  hbm : Vector Stack 20 := Vector.replicate 20 {}
  /-- STK_INGOT.MODE: the decoder is in DEC mode (R315). -/
  dec : Bool := false
deriving DecidableEq, Repr, Inhabited

end Sys2Proof.Machine
end

