-- ==== Sys2Proof/Machine/TypesTrain.lean ====
section
/-! DEFINITION. State of programs, steps and streams (R117-R149, R150-R181), the arrays (R86-R112), the Pyrometer
(R76-R81), gradient exchange (R183-R215) and the update engine (R217-R241). -/

namespace Sys2Proof.Machine

/-! ### Programs as loaded -/

/-- Element formats of a descriptor (R138). -/
inductive Format where
  | z16 | h16 | z8a | z8b | z4
deriving DecidableEq, Repr, Inhabited

/-- Classes of a descriptor (R138). -/
inductive TClass where
  | transient | weight | stash | kv | state
deriving DecidableEq, Repr, Inhabited

/-- A tensor descriptor (R138). -/
structure Desc where
  object : Word32
  offset : Nat
  tensor : Word32
  dim0 : Nat
  dim1 : Nat
  dim2 : Nat
  dim3 : Nat
  stride1 : Nat
  stride2 : Nat
  stride3 : Nat
  folded : Bool
  format : Format
  sigmaEn : Bool
  normInclude : Bool
  frozen : Bool
  /-- ROUND: persistent writes round to nearest-even. -/
  rne : Bool
  cls : TClass
  /-- Layer scale at load. -/
  sigma : Int
  tierHint : BitVec 2
  tieGroup : Word16
deriving DecidableEq, Repr, Inhabited

abbrev Handle := BitVec 12

/-- A Byquel instruction, decoded (R120-R128). -/
inductive Byquel where
  | tmm (md : BitVec 3) (ord : BitVec 8) (pmask : BitVec 16) (m n k : Nat) (ha hb hd : Handle)
      (rop : BitVec 4) (rimm : Word16) (accEn : Bool) (hadd : Handle)
  | tew (chain : Bool) (ord : BitVec 8) (fn : BitVec 6) (m n : Nat) (imm : Word16) (ha hb hd : Handle)
  | tnorm (chain : Bool) (ord epse : BitVec 8) (m n stat : Nat) (ha hg hd : Handle)
  | tnormb (m n stat : Nat) (ha hb hg hd : Handle)
  | tsmax (chain : Bool) (ord : BitVec 8) (scale : Word16) (m n stat : Nat) (ha hd : Handle)
  | tsmaxb (scale : Word16) (m n stat : Nat) (ha hb hd : Handle)
  | tred (md : BitVec 3) (ord : BitVec 8) (m n : Nat) (ha hd : Handle)
  | ttie (group : Word16) (hd : Handle)
  | tstash (seg : Word16) (m n : Nat) (ha hd : Handle)
  | tunstash (seg : Word16) (m n : Nat) (ha hd : Handle)
  | tattn (causal : Bool) (kind : BitVec 2) (ord : BitVec 8) (pmask : BitVec 16) (m layer : Nat)
      (hq ho hs hup : Handle) (heads hdim rank : Nat) (scale : Word16) (hdo hdq : Handle)
  | tmov (ord : BitVec 8) (m n : Nat) (ha hd : Handle)
  | tsig (sem : BitVec 8) (inc : Nat)
  | twait (sem : BitVec 8) (target mbstride : Nat)
  | tfenceStream
  | tfenceVersion (ha : Handle)
  | tfencePmode (code : BitVec 2)
  | thint (tag : BitVec 8) (lead dur : Nat)
  | tend
deriving DecidableEq, Repr, Inhabited

/-- An instruction with the word index at which it stands in its body. -/
structure PlacedInstr where
  word : Nat
  instr : Byquel
deriving DecidableEq, Repr, Inhabited

/-- A lane's body (R117-R119, R141): present when `words` is non-zero. -/
structure LaneCode where
  present : Bool := false
  words : Nat := 0
  pmode : BitVec 2 := 0
  body : List PlacedInstr := []
deriving DecidableEq, Repr, Inhabited

/-- A recompute block (R160). -/
structure RecompBlock where
  seg : Nat
  lane : Nat
  body : List PlacedInstr
deriving DecidableEq, Repr, Inhabited

/-- The stash declaration (R155). -/
structure StashDecl where
  primary : Word32 := 0
  spill : Word32 := 0
  spillBytes : Nat := 0
  overflow : Word32 := 0
  overflowBytes : Nat := 0
  scratchBytes : Nat := 0
deriving DecidableEq, Repr, Inhabited

/-- Stash policies (R141, R158). -/
inductive StashPolicy where
  | spill | recompute | fail
deriving DecidableEq, Repr, Inhabited

/-- A placement record of a cycle table (R335). -/
structure CyclePlacement where
  object : Word32
  tier : BitVec 8
  bytesT0 : Nat
  bytesT1 : Nat
  bytesT2 : Nat
  mask : BitVec 24
deriving DecidableEq, Repr, Inhabited

/-- A cycle table (R335). -/
structure CycleTable where
  family : Word32
  steppings : Word32
  resources : BitVec 11
  readFloor : Nat
  writeFloor : Nat
  remoteFloor : Nat
  twin : Bool
  replayInterval : Nat
  coldBucket : Nat
  swap : Nat
  preRefresh : Nat
  base : List Nat
  successor : List Nat
  placements : List CyclePlacement
deriving DecidableEq, Repr, Inhabited

/-- Where one fold, or one 64-entry group, of a crucible region lies (R169, R170). -/
inductive FoldPlace where
  | slot (i row col side : Nat)
  | overflow (byteOff : Nat)
deriving DecidableEq, Repr, Inhabited

/-- A crucible region: the W32 accumulation space of one weight use (R169-R172), named by its descriptor's handle. -/
structure Region where
  handle : Handle
  /-- The array whose crucibles hold it (its lane index, R169). -/
  array : Nat
  /-- Rows and columns of the gradient, and rows and columns of one fold (one row of 64 for a row-engine region). -/
  rows : Nat
  cols : Nat
  foldRows : Nat
  foldCols : Nat
  places : List FoldPlace
  /-- Instructions of the program that name it, per micro-batch. -/
  namers : Nat
  /-- Entries in logical row-major order; the entries whose folds lie in overflow are held in OVERFLOW_OBJECT instead. -/
  cells : List Word32
  /-- The step now accumulating, and its additions so far. -/
  step : Option Nat := none
  additions : Nat := 0
  /-- Contributions whose turn has not come: their micro-batch and addends (R63, R169). -/
  held : List (Nat × List Word32) := []
deriving DecidableEq, Repr, Inhabited

/-! ### Pyrometer -/

/-- A histogram record (R77, R78). -/
structure Hist where
  tensor : Word32
  /-- 0 F, 1 B, 2 U. -/
  stream : Fin 3
  bins : Vector Word32 64 := Vector.replicate 64 0
  eMax : Option Int := none
  eMin : Option Int := none
  specials : Word16 := 0
  step : Word32 := 0
deriving DecidableEq, Repr, Inhabited

/-- A W32 value with what happened in forming it: an operation it depends on saturated (R45), or gave zero for a result that is not
(R66, R83); or it is an H16 special imported (R49). -/
structure Traced where
  word : Word32
  sat : Bool := false
  under : Bool := false
  special : Bool := false
deriving DecidableEq, Repr, Inhabited

/-- One value's contribution to a histogram: the outcome of its narrowing and the binade of the value written. -/
structure HistAdd where
  tensor : Word32
  stream : Fin 3
  outcome : BitVec 2      -- 0 zero, 1 underflow, 2 saturated, 3 finite
  binade : Int
  /-- The value written is not zero; only then does its binade count (R78). -/
  nonzero : Bool := true
  special : Bool := false
deriving DecidableEq, Repr, Inhabited

/-! ### Gradient exchange and rules -/

/-- Wire modes (R194). -/
inductive Wire where
  | w32 | b8 | s1
deriving DecidableEq, Repr, Inhabited

/-- GX_CONFIG of a program (R212); the defaults are those of a program that has had none. -/
structure GxConfig where
  defaultWire : Wire := .b8
  bucketMib : Nat := 4
  /-- 0 off, 1 norm only, 2 clip. -/
  normMode : BitVec 2 := 0
  clipNorm : Word16 := 0
  errmem : Word32 := 0
  overrides : List (Word32 × Wire) := []
deriving DecidableEq, Repr, Inhabited

/-- Update rules (R225, R233). -/
inductive Rule where
  | mom | adm | fac | pre | none
deriving DecidableEq, Repr, Inhabited

/-- An override of RULE_SET (R237). -/
structure RuleOverride where
  tensor : Word32
  rule : Rule
  wdEn : Bool
  lrMult : Word16
deriving DecidableEq, Repr, Inhabited

/-- RULE_SET of a program (R237). -/
structure RuleSet where
  default : Rule
  beta1 : Word16
  beta2 : Word16
  eps : Word16
  weightDecay : Word16
  prePeriod : Nat
  stateObject : Word32
  gradObject : Word32
  overrides : List RuleOverride
  ruleStart : Word32
deriving DecidableEq, Repr, Inhabited

/-- ALMANAC_SET of a program (R234, R237); the default is constant decay at BASE_LR 0. -/
structure Schedule where
  warmupKind : BitVec 2 := 0
  decayKind : BitVec 3 := 0
  tMult : Nat := 1
  baseLr : Word32 := 0
  minLr : Word32 := 0
  warmupSteps : Nat := 0
  decaySteps : Nat := 1
  gamma : Word32 := 0
  schedStart : Nat := 0
deriving DecidableEq, Repr, Inhabited

/-- States of a bucket (R207). -/
inductive BucketState where
  | filling | full | reducing | done | discarded
deriving DecidableEq, Repr, Inhabited

/-- The sum of one shard of a bucket as it passes this member (R191, R192). -/
structure ShardState where
  shard : Nat
  /-- The partial held here, once this member's turn has come. -/
  acc : List Word32 := []
  /-- The domain ring is complete at this member, which stands at the owner's position. -/
  ringDone : Bool := false
  /-- Tree levels completed. -/
  level : Nat := 0
  /-- This member has sent its partial on, or holds the group sum as the owner. -/
  finished : Bool := false
deriving DecidableEq, Repr, Inhabited

/-- A bucket of a step on this member (R184-R207). -/
structure Bucket where
  id : Nat
  /-- Release ordinal of its tensor. -/
  ord : Nat
  first : Nat
  length : Nat
  wire : Wire
  state : BucketState := .filling
  /-- Own contributions, one per element, padded with zeros to whole blocks (R184). -/
  own : List Word32 := []
  /-- The S1 blocks of the own contributions (R196). -/
  s1 : List Byte := []
  cold : Bool := false
  /-- The tick at which its reduction began. -/
  since : Tick := 0
  shards : List ShardState := []
  /-- Hops sent and not yet acknowledged. -/
  unacked : Nat := 0
deriving DecidableEq, Repr, Inhabited

/-- States of a rule block, or of the run of elements of a bucket under MOM or ADM (R223). -/
inductive UpdState where
  | waitGrad | waitApply | sending | done | discarded
deriving DecidableEq, Repr, Inhabited

/-- A rule-owned unit of work: a rule block of 16,384 elements under FAC or PRE, an owned shard's elements under MOM or
ADM (R217, R223). -/
structure UpdUnit where
  ord : Nat
  /-- Rule block index (FAC, PRE); first element index otherwise. -/
  index : Nat
  first : Nat
  length : Nat
  state : UpdState := .waitGrad
  /-- ĝ held so far: element index and value. -/
  grad : List (Nat × Word16) := []
  /-- The tick at which the member's own part of ĝ was there (R378). -/
  since : Tick := 0
  /-- Receivers that have not acknowledged the multicast (R223). -/
  unacked : Nat := 0
deriving DecidableEq, Repr, Inhabited

/-- A scale table (R200): one 16-bit entry per released tensor. -/
structure ScaleTable where
  step : Nat
  entries : List Word16
deriving DecidableEq, Repr, Inhabited

/-! ### Steps in flight -/

/-- Why a lane is not issuing (SEQ_STATUS.WAIT and R134, R135). -/
inductive LaneWait where
  | none | semaphore | version | crucible | pmode | stream
deriving DecidableEq, Repr, Inhabited

/-- A range of an object's bytes (R129). -/
structure Range where
  object : Word32
  lo : Nat
  hi : Nat
deriving DecidableEq, Repr, Inhabited

/-- A stat record: M records of 8 bytes under a STAT base and a micro-batch (R163). -/
structure StatEntry where
  lane : Nat
  stat : Nat
  mb : Nat
  records : List (Word32 × Word32)
  /-- Held in the stash (R164) rather than in the stat store. -/
  spilled : Bool := false
deriving DecidableEq, Repr, Inhabited

/-- A value leaving the plane as a digest takes it: its bits, its place and what it is (R385). -/
structure DigestTerm where
  v : Word32
  r : Nat
  c : Nat
  x : Nat
deriving DecidableEq, Repr, Inhabited

/-- A unit of twin mode: what leaves the plane in each of its passes (R389). -/
abbrev TwinUnit := List (List DigestTerm)

/-- An instruction that has issued and not retired (R129, R130): what its retirement will write. -/
structure InFlight where
  word : Nat
  instr : Byquel
  mb : Nat
  reads : List Range := []
  writes : List Range := []
  /-- Bytes written: object, offset and bytes. -/
  stores : List (Word32 × Nat × List Byte) := []
  hist : List HistAdd := []
  /-- Additions to crucible regions: handle and one addend per entry. -/
  adds : List (Handle × List Word32) := []
  /-- The overflow part of the additions has gone to the adders (R170, R310). -/
  sent : Bool := false
  stat : Option StatEntry := none
  /-- Issued from a recompute block (R159). -/
  block : Bool := false
  /-- WEIGHT tensors whose reads of the step it retires (R179). -/
  weights : List Word32 := []
  /-- Twin units not yet committed (R389). -/
  units : List TwinUnit := []
  /-- Passes, cycles with a row streamed and idle cycles to count at retirement (ARR_PASSES, ARR_BUSY, ARR_IDLE). -/
  passes : Nat := 0
  busy : Nat := 0
  idle : Nat := 0
  /-- A TRED GRAD or TTIE that waits for a region to be final (R171). -/
  early : Bool := false
  /-- A TATTN whose rows wait in a gather queue, or whose walk is under way (R266). -/
  gathering : Bool := false
deriving DecidableEq, Repr, Inhabited

/-- A lane of a step in flight. -/
structure LaneState where
  /-- Bodies completed: the micro-batch of the body the lane will run or runs. -/
  mb : Nat := 0
  /-- The slot is released to this lane and its TEND has not issued. -/
  active : Bool := false
  /-- Next instruction of the body. -/
  pc : Nat := 0
  /-- In a recompute block: its segment and next instruction. -/
  recomp : Option (Nat × Nat) := none
  wait : LaneWait := .none
  /-- The tick at which the present wait began. -/
  since : Tick := 0
  inflight : List InFlight := []
  /-- Chained rows waiting for the consumer (R125): W32 values in row-major order. -/
  chain : List Traced := []
  /-- What left the plane in each pass of the product they come from (R385). -/
  chainTerms : List (List DigestTerm) := []
  /-- Partition mode in force for the lane. -/
  pmode : BitVec 2 := 0
deriving DecidableEq, Repr, Inhabited

/-- Where a stash entry lies (R157-R159). -/
inductive StashPlace where
  | primary | spill | scratch
deriving DecidableEq, Repr, Inhabited

/-- A stash entry: the value of one STASH descriptor for one micro-batch (R157). -/
structure StashEntry where
  lane : Nat
  handle : Handle
  seg : Nat
  mb : Nat
  granules : Nat
  place : StashPlace
  /-- Stat records that found no room in the stat store (R164). -/
  stat : Bool := false
  /-- The stored bytes of the entry (its place within the object is not visible). -/
  bytes : List Byte := []
deriving DecidableEq, Repr, Inhabited

/-- A body slot (R151). -/
structure Slot where
  backward : Bool
  mb : Nat
deriving DecidableEq, Repr, Inhabited

/-- A step in flight. -/
structure StepState where
  step : Nat
  /-- The command that launched it; none for a re-prefill step that Aster launched (R259). -/
  cmd : Option OpenCmd
  promised : Bool
  /-- A re-prefill step: a write to a present page, and an advance of a length, are discarded (R259). -/
  reprefill : Bool := false
  /-- Descriptors as bound at the launch (R140). -/
  descs : List Desc
  slotIdx : Nat := 0
  /-- The slot `slotIdx` has been released. -/
  released : Bool := false
  lanes : Vector LaneState 17 := Vector.replicate 17 {}
  /-- Every slot has ended; the U lane has ended. -/
  slotsDone : Bool := false
  uDone : Bool := false
  live : List Hist := []
  /-- Reads of each WEIGHT tensor still to retire (R179). -/
  pendingReads : List (Word32 × Nat) := []
  stash : List StashEntry := []
  /-- Marked segments: lane, segment, micro-batch, and whether its recompute block has run (R159). -/
  marks : List (Nat × Nat × Nat × Bool) := []
  stats : List StatEntry := []
  /-- Release ordinals whose TRED GRAD has been read into buckets (R183). -/
  releasedOrds : List Nat := []
  buckets : List Bucket := []
  units : List UpdUnit := []
  /-- The scale table held for this step (R202). -/
  table : Option ScaleTable := none
  clip : Option (Word32 × Word32 × Word32) := none
  /-- Owned squared-norm partial has been sent (R206). -/
  normSent : Bool := false
  /-- Ticks at which the waits for the scale table, for the clip factor and for weights of other owners began, and the last tick
  counted as PEER_LATE (R378). -/
  scaleSince : Option Tick := none
  clipSince : Tick := 0
  rangeSince : Option Tick := none
  lateTick : Tick := 0
  /-- Elements of released tensors that hold the step's update: release ordinal, first element and length (R177). -/
  written : List (Nat × Nat × Nat) := []
  /-- Channel transfers triggered: channel and micro-batch (R376). -/
  sent : List (Nat × Nat) := []
  b8Sat : Nat := 0
  /-- Schedule in force for the step (R236). -/
  schedule : Schedule := {}
  /-- A PRE refresh is due, and has been made (R230). -/
  refreshDue : Bool := false
  refreshed : Bool := false
  /-- Events already raised for the step: code and lane (R182, R216). -/
  raised : List (Nat × Nat) := []
  /-- Retirement condition of R400: the hallmark of an earlier version has been agreed. -/
  hallmarkOk : Bool := true
  /-- The T3 bytes that have been read for this step. -/
  t3Ready : List Range := []
deriving DecidableEq, Repr, Inhabited

/-- States of a program slot (R145). -/
inductive ProgState where
  | loaded | running | halted
deriving DecidableEq, Repr, Inhabited

/-- A loaded program (R141-R148). -/
structure Program where
  state : ProgState := .loaded
  account : BitVec 6
  seed : Word64
  firstStep : Nat
  nextStep : Nat
  fLanes : Nat
  bLanes : Nat
  uLanes : Nat
  policy : StashPolicy
  mbCount : Nat
  stageCount : Nat
  stageIndex : Nat
  sigmaPeriod : Nat
  windowBase : Int
  fill : Vector Nat 3
  pyroObject : Word32
  descs : List Desc
  lanes : Vector LaneCode 17
  recomp : List RecompBlock
  stash : StashDecl
  cycle : Option CycleTable
  /-- Declared per-step SEM_SIGNAL totals (R141). -/
  hostSem : List (Nat × Nat)
  image : Word32
  /-- T1 granules charged for the program's tables (R148). -/
  t1Charge : Nat := 0
  /-- Two banks of semaphores: bank, semaphore, value (R132); unlisted is 0. -/
  sems : List (Nat × Nat × Nat) := []
  semSaturated : List (Nat × Nat) := []
  regions : List Region := []
  /-- Layer scale in force of each tensor (R73), and the retired step whose choice of new ones is still to be made. -/
  sigma : List (Word32 × Int) := []
  sigmaDue : Option Nat := none
  /-- Changes of a layer scale: tensor, step in which it takes effect, Δ, and whether the state is already rescaled (R74, R75). -/
  rescales : List (Word32 × Nat × Int × Bool) := []
  /-- Merged histograms of the group that stand in place of the device's own for the next choice (R203). -/
  merged : List Hist := []
  accumulated : List Hist := []
  versions : List (Word32 × Nat) := []
  /-- DESC_WRITEs staged for the next launch: handle, object, offset (R140). -/
  stagedDescs : List (Handle × Word32 × Nat) := []
  gx : GxConfig := {}
  /-- Scale table installed by GX_SCALE_LOAD, and the one received for the step to come. -/
  installedTable : Option ScaleTable := none
  tables : List ScaleTable := []
  rules : Option RuleSet := none
  /-- Tensors whose last PRE refresh fell back on some block (RULE_QUERY). -/
  singular : List Word32 := []
  schedule : Schedule := {}
  stagedSchedule : Option Schedule := none
  preRefresh : Bool := false
  steps : List StepState := []
  lastRetired : Option (Nat × Nat × Nat) := none
  /-- Hallmark interval K, replay interval Q (R391, R398). -/
  hallmarkK : Nat := 8
  replayQ : Nat := 32
  /-- The version PROG_LOAD or PROG_REWIND set (R177, R398). The hallmark itself describes the device's copy of the weights at
  every moment (R397) and is formed from memory. -/
  baseVersion : Nat := 0
  /-- Verdicts received: version and 0 agreed, 1 expelled, 2 hold (R400). -/
  verdicts : List (Nat × Nat) := []
  /-- Steps not yet launched for which a hop that does not fit the plan has come (R185). -/
  mismatched : List Nat := []
deriving DecidableEq, Repr, Inhabited

/-! ### Arrays -/

/-- A spare-column swap in progress (R111): the column the spare moves to now, the column successive swaps bring it to, and
whether the spare is locked there (R390, R407). -/
structure SwapState where
  target : Nat
  goal : Nat
  lock : Bool
deriving DecidableEq, Repr, Inhabited

/-- The weight registers of a MAC cell by plane row and physical plane column (R86, R87); a cell not listed holds zeros. -/
structure WeightCell where
  row : Nat
  col : Nat
  current : Word16
  shadow : Word16
deriving DecidableEq, Repr, Inhabited

/-- The accumulator unit of a MAC cell, with its entry of the tile's drain latch (R86, R87, R99): the running accumulator, the open
chunk window as its anchor, its integer and its sticky bit (R61), and the latch entry. A cell not listed holds zeros. -/
structure SumCell where
  row : Nat
  col : Nat
  acc : Word32
  window : Option (Int × Int × Bool)
  latch : Word32
deriving DecidableEq, Repr, Inhabited

/-- An array with its sequencer registers (R112, R181). -/
structure ArrayState where
  quiesce : Bool := false
  quiesced : Bool := false
  faulted : Bool := false
  spareLocked : Bool := false
  pmode : BitVec 2 := 0
  /-- A mode change requested and not yet in effect (R105). -/
  pmodeNext : Option (BitVec 2) := none
  spareCol : BitVec 7 := 100
  /-- DIR: true is downward. -/
  dirDown : Bool := true
  swap : Option SwapState := none
  passes : Word64 := 0
  busyCycles : Word64 := 0
  bubbles : Word64 := 0
  idle : Word64 := 0
  statSpills : Word32 := 0
  tstoreCorr : Word32 := 0
  crucibleCorr : Word16 := 0
  sprueCorr : Word16 := 0
  debugFrozen : Bool := false
  /-- The array waits for room in an adder queue (R311). -/
  frozenAdder : Bool := false
  recomputes : Word32 := 0
  spills : Word32 := 0
  versionWait : Word64 := 0
  /-- The MAC cells of the plane (R86, R87). -/
  weights : List WeightCell := []
  sums : List SumCell := []
  /-- The ticks at which QUIESCE was last set and the last swap began, and whether this quiesce is for a swap that the cycle table
  charges (R115). -/
  quiesceSince : Tick := 0
  lastSwap : Option Tick := none
  charged : Bool := false
  /-- SEQ_STATUS and occupancy at the last slot: step, slot index, backward, micro-batch, active. -/
  seqStep : Word32 := 0
  seqSlot : BitVec 9 := 0
  seqBackward : Bool := false
  seqMb : BitVec 8 := 0
  seqActive : Bool := false
  /-- PREFETCH_LATE has been logged for this step (R290). -/
  lateLogged : Option (Nat × Nat) := none
deriving DecidableEq, Repr, Inhabited

/-- A hop held in the receive buffer (R208). -/
structure HeldHop where
  program : Nat
  step : Nat
  bucket : Nat
  hop : Nat
  mode : BitVec 8
  segment : Nat
  root : Nat
  firstBlock : Nat
  sender : Nat
  payload : List Byte
deriving DecidableEq, Repr, Inhabited

/-- A scale report or the report of a domain, held by a manager: sender, whether it stands for a whole domain, entries and
histograms (R199, R203). -/
structure ScaleReport where
  step : Nat
  rank : Nat
  domain : Bool
  entries : List Word16
  hists : List Hist
deriving DecidableEq, Repr, Inhabited

/-- A squared-norm partial with its saturation count, of a member or of a domain (R206). -/
structure NormPartial where
  step : Nat
  rank : Nat
  domain : Bool
  value : Word32
  sats : Nat
deriving DecidableEq, Repr, Inhabited

/-- TUNDISH: gradient exchange and update registers (R214, R241) and the receive buffer. -/
structure Tundish where
  rxbufMib : BitVec 8 := 64
  quiesce : Bool := false
  quiesced : Bool := false
  faulted : Bool := false
  cold : Word32 := 0
  reduced : Word32 := 0
  txBytes : Word64 := 0
  rxBytes : Word64 := 0
  rxMinus128 : Word32 := 0
  encodeSat : Word32 := 0
  waitScale : Word32 := 0
  waitRxFull : Word32 := 0
  clip : Word32 := 0
  n2 : Word32 := 0
  held : List HeldHop := []
  /-- Scale reports and norm partials a manager has received (R199, R206). -/
  reports : List ScaleReport := []
  partials : List NormPartial := []
  elements : Word64 := 0
  handoffRx : Word32 := 0
  handoffTx : Word32 := 0
  preRefreshed : Word32 := 0
  preKept : Word16 := 0
  preIdentity : Word16 := 0
  almStep : Word32 := 0
  almLr : Word32 := 0
  /-- Received multicast ranges not yet applied: program, tensor, version, first element, values (R232). -/
  heldRanges : List (Nat × Word32 × Nat × Nat × List Word16) := []
deriving DecidableEq, Repr, Inhabited

end Sys2Proof.Machine
end

