-- ==== Sys2Proof/Machine/TypesAster.lean ====
section
/-! DEFINITION. State of the Aster engine (R243-R271): KV spaces, pages, sequences, the Trellis, walks and gather
queues. -/

namespace Sys2Proof.Machine

/-- One level-2 page-table entry that has been set (R251): the virtual page, the generation written and the page. -/
structure PageEntry where
  vpage : Nat
  gen : Word32
  page : Nat
deriving DecidableEq, Repr, Inhabited

/-- A sequence of a space (R251, R253, R255, R257). -/
structure Sequence where
  id : Word32
  length : Nat := 0
  /-- Pinned by KV_PIN. -/
  pinned : Bool := false
  /-- Pins of PROMISED steps that name it: program slot and step. -/
  stepPins : List (Nat × Nat) := []
  /-- The level-1 table page, and the level-2 table pages by level-1 index (R251). -/
  root : Nat := 0
  subs : List (Nat × Nat) := []
  /-- Entries of the level-2 tables that are set. -/
  table : List PageEntry := []
  /-- Token ids stored, by position. -/
  tokens : List (Nat × Word32) := []
deriving DecidableEq, Repr, Inhabited

/-- A page of a space: its generation and last-use tick (R252, R256). -/
structure PageDir where
  page : Nat
  gen : Word32 := 0
  lastUse : Tick := 0
deriving DecidableEq, Repr, Inhabited

/-- A node of the Trellis (R263, R265): which node it is, its key, its parent (none for block 0), token ids and one page per layer. -/
structure TrellisNode where
  id : Nat
  key : Word64
  parent : Option Nat
  tokens : List Word32
  pages : List Nat
deriving DecidableEq, Repr, Inhabited

/-- A page or table page awaiting reclamation, with the epoch its freeing produced (R262). -/
structure Reclaim where
  page : Nat
  epoch : Word64
deriving DecidableEq, Repr, Inhabited

/-- A host edit of a sequence held under R261. -/
inductive KvEdit where
  | close (id : Word32)
  | truncate (id : Word32) (length : Nat)
  | fork (src dst : Word32) (length : Nat)
deriving DecidableEq, Repr, Inhabited

/-- An edit held with the command that asked for it, in its place among the arrivals of the space's edits (R260, R261); it waits for pages
when `room` says so (R256). -/
structure HeldEdit where
  cmd : OpenCmd
  edit : KvEdit
  arrival : Nat := 0
  room : Bool := false
deriving DecidableEq, Repr, Inhabited

/-- Pages and table pages reserved by admission for a PROMISED step (R257). -/
structure KvReserve where
  slot : Nat
  step : Nat
  pages : Nat
  tables : Nat
deriving DecidableEq, Repr, Inhabited

/-- A KV space (R250-R268). -/
structure Space where
  owner : BitVec 6
  rank : Nat
  layers : Nat
  pool : Word32
  pages : Nat
  tablePages : Nat
  maxSeqs : Nat
  salt : Word64
  recompProg : Option Nat := none
  recompHandle : Handle := 0
  gatherHold : Nat := 0
  bounds : List Nat
  epoch : Word64 := 0
  /-- Directory entries of pages ever used; an unlisted page has generation 0 and last-use tick 0. -/
  dir : List PageDir := []
  /-- Free pages: never used from `nextFree` up, and those given back. -/
  nextFree : Nat := 0
  freeList : List Nat := []
  retired : List Nat := []
  /-- Free table pages, in the same way. -/
  nextTable : Nat := 0
  freeTables : List Nat := []
  seqs : List Sequence := []
  trellis : List TrellisNode := []
  /-- Nodes put in so far. -/
  nextNode : Nat := 0
  reclaim : List Reclaim := []
  tableReclaim : List Reclaim := []
  heldEdits : List HeldEdit := []
  reserved : List KvReserve := []
deriving DecidableEq, Repr, Inhabited

/-- What a TATTN appends to one sequence: positions, layer, token ids for a layer-0 append, and the pages allocated at issue
by virtual page, and table pages allocated for its edit of the tables (R255, R256, R260). -/
structure AppendPlan where
  seq : Word32
  layer : Nat
  qpos : Nat
  qlen : Nat
  trellis : Bool
  tokens : List Word32 := []
  pages : List (Nat × Nat) := []
  tables : List Nat := []
deriving DecidableEq, Repr, Inhabited

/-- A TATTN that waits for a page at issue, or that has issued and holds a snapshot (R256, R259, R261). -/
structure Walk where
  program : Nat
  step : Nat
  lane : Nat
  word : Nat
  mb : Nat
  space : Fin 16
  /-- The snapshot: the epoch, and the root of every sequence named that is open (R261). -/
  snapshot : Word64
  roots : List (Word32 × Nat) := []
  /-- Every sequence named. -/
  seqs : List Word32
  /-- Its place among the arrivals of edits (R260), and whether it belongs to a re-prefill step (R259). -/
  arrival : Nat := 0
  reprefill : Bool := false
  appends : List AppendPlan
  /-- Paused for a re-prefill (R259): the slot and, once it has been launched, its step. -/
  paused : Option (Nat × Option Nat) := none
  /-- Waiting for a page before its issue (R256). -/
  waitPage : Bool := false
  /-- Entries of its list that a re-prefill has restored (R259). -/
  refilled : List Nat := []
deriving DecidableEq, Repr, Inhabited

/-- A gather queue (R266): its key and its rows. -/
structure GatherRow where
  program : Nat
  step : Nat
  lane : Nat
  word : Nat
  mb : Nat
  latest : Nat
deriving DecidableEq, Repr, Inhabited

structure GatherQueue where
  array : Nat
  space : Fin 16
  layer : Nat
  hup : Word32
  heads : Nat
  hdim : Nat
  rank : Nat
  scale : Word16
  causal : Bool
  pmask : BitVec 16
  bucket : Nat
  /-- Fill target of the queue's array and mode (R110). -/
  target : Nat
  rows : List GatherRow := []
deriving DecidableEq, Repr, Inhabited

/-- ASTER (R270). -/
structure Aster where
  spaces : Vector (Option Space) 16 := Vector.replicate 16 none
  quiesce : Bool := false
  quiesced : Bool := false
  walks : List Walk := []
  /-- Edits and TATTNs that have arrived so far (R260). -/
  arrivals : Nat := 0
  queues : List GatherQueue := []
  retired : Word16 := 0
  reprefills : Word16 := 0
  dropped : Word32 := 0
  hits : Word32 := 0
  collisions : Word32 := 0
  products : Word32 := 0
  short : Word32 := 0
deriving DecidableEq, Repr, Inhabited

end Sys2Proof.Machine
end

