-- ==== Sys2Proof/Machine/TypesFabric.lean ====
section
/-! DEFINITION. State of the Octing fabric and the manager hierarchy (R353-R383, R188, R189). -/

namespace Sys2Proof.Machine

/-- Modes of an Octing port (R354). -/
inductive OctMode where
  | off | direct | switched
deriving DecidableEq, Repr, Inhabited

/-- Types of a frame: TYPE 0 to 7, and the eight reserved codes above them (R355). -/
inductive FrameType where
  | data | ack | heartbeat | control | linkAck | linkNak | pull | prune
  | reserved (n : Fin 8)
deriving DecidableEq, Repr, Inhabited

/-- An Octing frame: addresses, tag, EtherType, transport header and payload codewords (R355, R356). -/
structure Frame where
  destMac : BitVec 48 := 0xFFFFFFFFFFFF
  srcMac : BitVec 48 := 0
  pcp : BitVec 3 := 0
  vlan : BitVec 12 := 0
  ethertype : Word16 := 0x88B5
  version : BitVec 4 := 1
  type : FrameType
  hopsLeft : BitVec 4 := 15
  retransmit : Bool := false
  late : Bool := false
  last : Bool := true
  src : BitVec 14
  dst : BitVec 14
  lsn : Word16 := 0
  msgId : BitVec 48 := 0
  linkAcked : Word16 := 0
  offset : Word32 := 0
  msgLength : Word32 := 0
  firstSent : BitVec 48 := 0
  jobTag : Word16
  payload : List Byte := []
deriving DecidableEq, Repr, Inhabited

/-- A frame in a DIRECT port's replay buffer (R362). -/
structure ReplayFrame where
  frame : Frame
  firstSent : Tick
deriving DecidableEq, Repr, Inhabited

/-- An Octing port (R353-R362, R381, R383). -/
structure OctPort where
  mode : OctMode := .off
  dataPcp : BitVec 3 := 0
  ctrlPcp : BitVec 3 := 0
  mac : BitVec 48 := 0
  vlan : BitVec 12 := 0
  ethertype : Word16 := 0x88B5
  aligned : Bool := false
  /-- PFC pause in force on DATA_PCP, on CTRL_PCP. -/
  pausedData : Bool := false
  pausedCtrl : Bool := false
  sent : Word32 := 0
  abandoned : Word16 := 0
  replays : Word16 := 0
  retrains : Word16 := 0
  /-- Next LSN to send, next LSN expected, frames not yet acknowledged. -/
  txLsn : Word16 := 0
  rxLsn : Word16 := 0
  replay : List ReplayFrame := []
  /-- Tick of the last progress of the replay buffer. -/
  progress : Tick := 0
  /-- Frames have arrived since the last LINK_ACK. -/
  ackDue : Bool := false
  /-- Frames waiting to leave, with whether each is of class CTRL (R354). -/
  waiting : List (Bool × Frame) := []
deriving DecidableEq, Repr, Inhabited

/-- A route entry (R358). -/
structure Route where
  mac : BitVec 48
  primary : Fin 8
  alt : Option (Fin 8)
deriving DecidableEq, Repr, Inhabited

/-- What a message carries (R359). -/
inductive MsgKind where
  | hop (program : Nat) (step : Nat) (bucket : Nat)
  | handoff (program : Nat) (step : Nat) (bucket : Nat)
  | mcast (program : Nat) (step : Nat) (ord : Nat) (first : Nat)
  | channel (program : Nat) (step : Nat) (channel : Nat) (mb : Nat)
  | pull
  | control (code : Nat)
deriving DecidableEq, Repr, Inhabited

/-- A message sent and not acknowledged (R360-R363). -/
structure OutMsg where
  dst : BitVec 14
  msgId : BitVec 48
  kind : MsgKind
  ctrl : Bool := false
  type : FrameType := .data
  bytes : List Byte
  /-- Transmissions so far; 0 while the message waits for a window, for credit or for Octing itself (R293, R337, R360, R361). -/
  tries : Nat := 1
  lastSent : Tick
  firstSent : BitVec 48
  late : Bool := false
deriving DecidableEq, Repr, Inhabited

/-- A message being assembled: its frames' codewords by their offsets in the message, and, once every frame has arrived, whether the
message came late (R359, R360, R378). -/
structure Assembly where
  msgId : BitVec 48
  type : FrameType
  length : Nat
  late : Bool
  firstSent : BitVec 48
  /-- The port its last frame came by, where its codewords are counted. -/
  port : Nat
  parts : List (Nat × List Byte) := []
  whole : Option Bool := none
deriving DecidableEq, Repr, Inhabited

/-- What a receiver keeps of one source (R360, R361): lowest incomplete id, the completed ids above it, the messages being assembled, and
the bytes of receive buffer last granted to it. -/
structure RxSource where
  src : BitVec 14
  lowest : BitVec 48 := 0
  above : List (BitVec 48) := []
  partials : List Assembly := []
  told : Nat := 0
deriving DecidableEq, Repr, Inhabited

/-- Job states (R373). -/
inductive JobState where
  | none | joining | active | hold | resuming
deriving DecidableEq, Repr, Inhabited

/-- A row of the membership table (R188). -/
structure Member where
  domain : BitVec 6
  role : BitVec 2
  group : BitVec 14
deriving DecidableEq, Repr, Inhabited

/-- What a device knows of a peer's liveness (R369-R373). -/
structure Peer where
  rank : BitVec 14
  lastHeartbeat : Option Tick := none
  lost : Bool := false
  joining : Bool := false
  /-- READY received, with its resume step (R374). -/
  ready : Option Word32 := none
  /-- The program slot and step in which the peer last pruned this device (FAB_PEER_QUERY). -/
  prunedIn : Option (Nat × Nat) := none
  nextMsg : BitVec 48 := 0
  /-- t1 of the peer's latest heartbeat and its receipt t2, for the manager's answer (R368). -/
  stampT1 : Word64 := 0
  stampT2 : Word64 := 0
  /-- Bytes of receive buffer the peer last granted this device (R361); none before its first grant. -/
  credit : Option Nat := none
deriving DecidableEq, Repr, Inhabited

/-- A barrier this device is in (R375). -/
structure Barrier where
  id : Word32
  scope : BitVec 2
  cmd : OpenCmd
deriving DecidableEq, Repr, Inhabited

/-- A barrier a manager is counting: id, scope, and the ranks of its domain, or at the top manager the domains, that have
entered. -/
structure BarrierCount where
  id : Word32
  scope : BitVec 2
  /-- The group, for group scope; 0 for the others. -/
  group : Nat
  /-- The top manager's count of domains. -/
  ofDomains : Bool
  entered : List Nat := []
deriving DecidableEq, Repr, Inhabited

/-- A pipeline channel (R376, R381). -/
structure Channel where
  index : Nat
  backward : Bool
  trigger : BitVec 8
  destSem : BitVec 8
  destProg : Nat
  srcObject : Word32
  srcOffset : Nat
  destRank : BitVec 14
  destObject : Word32
  destOffset : Nat
  bytes : Nat
deriving DecidableEq, Repr, Inhabited

/-- Multicast parameters and channels of one program slot (R381). -/
structure FabProgram where
  slot : Nat
  lagUs : Nat := 64
  windowKib : Nat := 1024
  channels : List Channel := []
deriving DecidableEq, Repr, Inhabited

/-- A multicast in progress (R379, R380). -/
structure Multicast where
  program : Nat
  step : Nat
  ord : Nat
  first : Nat
  bytes : Nat
  /-- Rank, bytes acknowledged, and whether it was pruned. -/
  receivers : List (BitVec 14 × Nat × Bool)
  /-- Bytes sent so far. -/
  sent : Nat := 0
  firstSent : Tick
deriving DecidableEq, Repr, Inhabited

/-- A received channel transfer held for a step not yet launched (R377). -/
structure HeldTransfer where
  destProg : Nat
  step : Nat
  destObject : Word32
  destOffset : Nat
  destSem : BitVec 8
  mb : Nat
  bytes : List Byte
deriving DecidableEq, Repr, Inhabited

/-- OCTING (R353-R383). -/
structure Fabric where
  ports : Vector OctPort 8 := Vector.replicate 8 {}
  routes : List Route := []
  e2eUs : Nat := 200
  maxTries : Nat := 4
  transitUs : Nat := 20
  job : JobState := .none
  jobId : Word64 := 0
  rank : BitVec 14 := 0
  table : List Member := []
  jobOffset : Word64 := 0
  /-- The first exchange with the manager has set JOB_OFFSET (R367). -/
  offsetSet : Bool := false
  /-- Bytes of receive buffer every peer grants before its first ACK: a free value taken at job entry (R361; log entry 102). -/
  firstCredit : Nat := 0
  theta : Word32 := 0
  delay : Word32 := 0
  /-- Consecutive exchanges with |θ| above 20 ticks (R368). -/
  outOfRange : Nat := 0
  lastLost : BitVec 14 := 0
  peers : List Peer := []
  barriers : List Barrier := []
  counts : List BarrierCount := []
  resume : Option (OpenCmd × Word32) := none
  lastManagerBeat : Tick := 0
  out : List OutMsg := []
  rx : List RxSource := []
  programs : List FabProgram := []
  mcasts : List Multicast := []
  heldTransfers : List HeldTransfer := []
  retransmits : Word32 := 0
  duplicates : Word32 := 0
  prunes : Word32 := 0
  pulled : Word32 := 0
  dropped : Word32 := 0
  corr : Word32 := 0
deriving DecidableEq, Repr, Inhabited

end Sys2Proof.Machine
end

