-- ==== Sys2Proof/Config.lean ====
section
/-! DEFINITION. What a part fixes and the spec leaves to it, and the free values. Every constant here is opaque: no
statement can rest on its value. -/

namespace Sys2Proof

/-- The free values: the value the spec leaves open, by the number of its use (`Device.free` counts them; log entry 2). -/
opaque Config.freeValue : Nat → BitVec 64

/-- A byte of an object that nothing has written since the object was created (R303): by the object's creation number and the device
address. -/
opaque Config.freshByte : Nat → Nat → BitVec 8

/-- What an exerciser replaces in a word by INJECT, "pattern-chosen" (R318): by seed, channel, word and the number of the symbol. -/
opaque Config.injected : BitVec 32 → Nat → Nat → Nat → BitVec 16

/-- Array-die stepping of ARR_INFO, 0-15 (R112), and control-die stepping of TOP_ID (R514, R529). -/
opaque Config.arrayStepping : Fin 8 → BitVec 4
opaque Config.ctrlStepping : BitVec 4

/-- The fused FLOOR_CAL_W is 1,200 W to 1,600 W (R416); this is what it exceeds 1,200 W by, taken modulo 401. -/
opaque Config.floorAbove : BitVec 16

/-- FLOOR_CAL_W. -/
def Config.floorCalW : Nat := 1200 + Config.floorAbove.toNat % 401

/-- The converter ceiling with one converter left, which R417 does not state: the arrays are halted (log entry 5). -/
opaque Config.oneConverterW : BitVec 16

/-- The 64-bit device serial number fused at test (R495). -/
opaque Config.serial : BitVec 64

/-- SHA-384 of a byte string (R475, R479), and the two signature schemes (R475, R404): whether a signature of a byte string verifies
under the key the device holds, and the signature the device makes with an identity key. -/
opaque Config.sha384 : List Byte → BitVec 384
opaque Config.verifyFirst : List Byte → List Byte → Bool
opaque Config.verifySecond : List Byte → List Byte → Bool
opaque Config.signFirst : List Byte → List Byte
opaque Config.signSecond : List Byte → List Byte

/-- The part's identity public keys (R478, R479): the RSA modulus and the SLH-DSA public key. -/
opaque Config.rsaModulus : BitVec 3072
opaque Config.slhPublic : BitVec 384

/-- The firmware version that IDENTIFY returns, by the image's digest: the image has no field for it (R344, R475). -/
opaque Config.firmwareVersion : BitVec 384 → BitVec 16

/-- T1 granules that the tables of a program take, by its IMAGE_LENGTH (R148, which does not state the number): at most what 17 bits
hold, which is more than T1 has (R280). -/
opaque Config.tableCharge : Nat → BitVec 17
def Config.tableGranules (length : Nat) : Nat := (Config.tableCharge length).toNat

/-- Bytes of a KV space's metadata in its pool object (R250, which leaves the size to KV_CREATE's result), by pages, table pages,
sequences and layers: at most what 41 bits hold, which is more than T2 has (R280). -/
opaque Config.metadataBytes : Nat → Nat → Nat → Nat → BitVec 41
def Config.kvMetadata (pages tables seqs layers : Nat) : Nat := (Config.metadataBytes pages tables seqs layers).toNat

/-- The latent of a position that nothing has appended, which R244 gives no value: by sequence, position and index. -/
opaque Config.absentLatent : Nat → Nat → Nat → BitVec 16

/-- Instructions of the JTAG port (R483, R529): IDCODE and BYPASS, the boundary-scan instructions, and those of debug. -/
inductive TapInstr where
  | idcode | bypass | boundary | debug
deriving DecidableEq, Repr, Inhabited

/-- What R529 leaves to the part: the bits of the instruction register beyond the two that IEEE 1149.1 asks for, the codes of its
instructions, and what a data register other than IDCODE and BYPASS captures (log entry 130). -/
opaque Config.irExtra : BitVec 5
opaque Config.tapCode : List Bool → TapInstr
opaque Config.scanCells : Nat → List Bool

def Config.irLength : Nat := 2 + Config.irExtra.toNat

end Sys2Proof
end

