-- ==== Sys2Proof/Machine/TypesControl.lean ====
section
/-! DEFINITION. State of the control part: time base and PLLs (R36-R40), interrupt controller and control cores
(R440-R452, R469), event recorder (R453-R461, R470), register shadows (R463), outputs the block sends. -/

namespace Sys2Proof.Machine

/-- TIMEBASE (R36-R40, R533). -/
structure TimeBase where
  /-- TB_NOW. -/
  now : Tick := 0
  /-- TB_CTRL.SYNC_OUT_PERIOD, SYNC_OUT_EN, SYNC_IN_EN. -/
  syncOutPeriod : BitVec 5 := 20
  syncOutEn : Bool := false
  syncInEn : Bool := false
  /-- TB_CORR: the remainder of the correction, signed. -/
  corr : Word32 := 0
  /-- Control-clock cycles to the next slew step, 0 when it falls in the next cycle (R39). -/
  slewPhase : Nat := 0
  lastSync : Tick := 0
  refLost : Bool := false
  syncSeen : Bool := false
  /-- TB_STATUS.LOCKED: the island PLLs are locked to SYSREF. -/
  locked : Bool := false
  /-- A reference excursion is in progress (R36), since which tick, with the offset measured in ppm (R41). -/
  excursion : Bool := false
  excursionSince : Tick := 0
  ppm : Word16 := 0
  /-- Ticks left of the SYNC_OUT pulse (R40), 0 when SYNC_OUT is low. -/
  syncOutLeft : Nat := 0
  /-- A period boundary was reached or passed while SYNC_OUT_EN was 1, and its pulse has not begun (R40). -/
  syncDue : Bool := false
deriving DecidableEq, Repr, Inhabited

/-- One INTC source: its configuration and what the INTC has sensed of it (R445, R446, INTC_SRCs). -/
structure IntSource where
  coreMask : BitVec 4 := 0xF
  filter : BitVec 8 := 1
  priority : BitVec 4 := 0
  /-- MODE, for pins: true is level. -/
  level : Bool := false
  /-- The sensed value of the line. -/
  sensed : Bool := false
  /-- The pending bit. -/
  pend : Bool := false
deriving DecidableEq, Repr, Inhabited

/-- Privilege modes of a control core (R440). -/
inductive CoreMode where
  | machine | user
deriving DecidableEq, Repr, Inhabited

/-- One entry of an in-service stack (R449). -/
structure InService where
  source : BitVec 9
  level : BitVec 5
deriving DecidableEq, Repr, Inhabited

/-- A control core: the part of its state the spec's rules read or write (R440-R444, R447-R451, R460, R530). -/
structure Core where
  /-- CC_RUN: released from reset. -/
  running : Bool := false
  debugHalted : Bool := false
  mode : CoreMode := .machine
  pc : Word64 := 0
  mepc : Word64 := 0
  mcause : Word64 := 0
  mtval : Word64 := 0
  mtvec : Word64 := 0
  mstatusMIE : Bool := false
  mstatusMPIE : Bool := false
  mstatusMPP : CoreMode := .machine
  /-- mie.MEIE, mie.MTIE, mie.MSIE. -/
  meie : Bool := false
  mtie : Bool := false
  msie : Bool := false
  mtimecmp : Word64 := 0
  /-- The machine timer interrupt is raised (mip.MTIP). -/
  mtip : Bool := false
  msip : Bool := false
  threshold : BitVec 4 := 0
  /-- In-service stack, bottom first. -/
  stack : List InService := []
  /-- EVR_POSTc: the image's doublewords, and which have been written since the last submission. -/
  postImage : Vector Word64 8 := Vector.replicate 8 0
  postWritten : BitVec 8 := 0
deriving DecidableEq, Repr, Inhabited

/-- INTC (R445-R452, R469). -/
structure Intc where
  src : Vector IntSource 512 := Vector.replicate 512 {}
  faultCore : Fin 4 := 0
  entry : Word64 := 0
  vbase : Word64 := 0
  faultOrder : Bool := false
  faultParity : Bool := false
  faultPost : Bool := false
  orderCore : Fin 4 := 0
  /-- INTC_PARITY.BLOCKS. -/
  parity : BitVec 49 := 0
  /-- Round-robin pointer of R448. -/
  pointer : Fin 4 := 0
deriving DecidableEq, Repr, Inhabited

/-- An occurrence waiting in the recorder's input queue (R457): the record image before it is numbered. -/
structure Occurrence where
  code : Word16
  severity : Severity
  source : Word32
  tick : Tick
  /-- 24 bytes of event data (R453), as a number of 192 bits. -/
  data : BitVec 192 := 0
  /-- Order key (R457). -/
  key : Nat
  /-- The control-clock cycle, as the time base counts it, in which its block instance presents it (R457). -/
  arrives : Nat := 0
  /-- A later occurrence of an event that is raised at most once a step: it raises nothing and is folded (log entry 122). -/
  again : Bool := false
deriving DecidableEq, Repr, Inhabited

/-- A record of the event recorder (R453). -/
structure EventRecord where
  code : Word16
  lwTried : Bool := false
  lwCopied : Bool := false
  severity : Severity
  epoch : BitVec 8
  source : Word32
  firstTick : Tick
  lastTick : Tick
  repeats : Word16 := 0
  data : BitVec 192 := 0
  seq : BitVec 48
  valid : Bool := true
deriving DecidableEq, Repr, Inhabited

/-- EVR (R453-R461, R470). `records` holds the slots ever written since power-on, slot number and record, in slot
order; the slots are filled lowest first, so the list's length is the lowest slot never written. -/
structure Evr where
  records : List EventRecord := []
  /-- Input queue of at most 1,024 occurrences, and the 16 places kept for FATAL (R457). -/
  queue : List Occurrence := []
  minSeverity : Bool := false
  notify : Vector (BitVec 3) 2 := Vector.replicate 2 4
  repeatWindowMs : Word16 := 1000
  vec : Vector (BitVec 8) 2 := Vector.replicate 2 0
  faulted : Bool := false
  accepting : Bool := true
  epoch : BitVec 8 := 0
  nextSeq : BitVec 48 := 0
  dropFiltered : Word16 := 0
  dropError : Word16 := 0
  dropWarn : Word16 := 0
  dropInfo : Word16 := 0
  lastFatalCode : Word16 := 0
  lastFatalSeq : BitVec 48 := 0
deriving DecidableEq, Repr, Inhabited

/-- A requester's read or write shadow (R463): the register it is tagged with (its BAR0 offset) and the high word. -/
structure Shadow where
  reg : Nat
  value : Word32
deriving DecidableEq, Repr, Inhabited

/-- How a read of the device completes at its requester (R464). -/
inductive Completion where
  | value (v : Word64) | completerAbort
deriving DecidableEq, Repr, Inhabited

end Sys2Proof.Machine
end

