-- ==== Sys2Proof/Machine/TypesPower.lean ====
section
/-! DEFINITION. State of Bellows (R415-R438), integrity (R385-R413), start-up, security and the Seedbank (R472-R493),
and the lands of the package (R519-R530). -/

namespace Sys2Proof.Machine

/-- A learned phase profile (R425): program slot, tag, array, watts in units of 2^-16 W, occurrences. -/
structure Profile where
  slot : Nat
  tag : BitVec 8
  array : Fin 8
  value : Nat
  count : Nat
deriving DecidableEq, Repr, Inhabited

/-- The current phase of a lane's array (R425): the tag, the tick at which it takes effect, and the sums of estimated
activity and issued sixteenths observed so far. -/
structure Phase where
  slot : Nat
  lane : Nat
  array : Fin 8
  tag : BitVec 8
  start : Nat
  activity : Nat := 0
  issued : Nat := 0
  samples : Nat := 0
deriving DecidableEq, Repr, Inhabited

/-- Bellows (R415-R438). -/
structure Bellows where
  convOk : BitVec 4 := 0xF
  brake : Bool := false
  powerFail : Bool := false
  ballastActive : Bool := false
  rampLimiting : Bool := false
  binding : BitVec 3 := 0
  measured : Word16 := 0
  estimate : Word16 := 0
  target : Word16 := 0
  soft : Word16 := 5400
  board : Word16 := 5400
  thermal : Word16 := 5400
  /-- The supply ceiling min(5,400 W, 75 A x V_in) of the last reading (R419). -/
  supply : Word16 := 5400
  brakeLevel : Word16 := 2000
  ballastEn : Bool := true
  ballastFloor : Word16 := 4400
  slope : BitVec 8 := 20
  inlet : BitVec 8 := 0
  outlet : BitVec 8 := 0
  /-- Last junction reading of each die (arrays 0-7, hearths 8-15, bridge dies 16-19, others above). -/
  junction : Vector (BitVec 8) 32 := Vector.replicate 32 0
  voltage : Word16 := 0
  current : Word16 := 0
  trim : Word16 := 16384
  bubbleCycles : Word64 := 0
  beyondBrake : Word16 := 0
  beyondThermal : Word16 := 0
  beyondSupply : Word16 := 0
  /-- Ticks beyond a granted class not yet counted as a millisecond, by cause: brake, thermal, supply. -/
  beyondTicks : Vector Nat 3 := Vector.replicate 3 0
  /-- b_i of R420. -/
  bubbles : Vector (BitVec 4) 8 := Vector.replicate 8 0
  /-- Ballast rows per frame (R429). -/
  density : Nat := 0
  /-- The level the governor allows now (R428), in fifths of a watt (a slope of 0.1 kW/ms is 0.2 W an interval). -/
  governed : Nat := 0
  /-- Sum of the estimates since the last trim, and their number (R418). -/
  estSum : Nat := 0
  estCount : Nat := 0
  profiles : List Profile := []
  phases : List Phase := []
  /-- Ballast runs: a program has been loaded and not all unloaded (R429). -/
  ballastOn : Bool := false
  /-- No coolant reading has been taken since the reset (R431). -/
  firstCoolant : Bool := true
  coolantRange : Bool := false
  /-- Consecutive readings with outlet above inlet by more than 12 (R431), and the flow alert in force. -/
  flowBad : Nat := 0
  flowAlert : Bool := false
  supplyRange : Bool := false
  thermalExcursion : Bool := false
  /-- A rise after a brake, a power-fail halt or a Seedbank hold is under way: the cause its ticks count toward. -/
  rising : Option DelayCause := none
deriving DecidableEq, Repr, Inhabited

/-- A twin unit in progress (R389, R390). -/
inductive TwinState where
  | run | retry | assay | retry2 | quarantined
deriving DecidableEq, Repr, Inhabited

/-- The held assay pack (R404). -/
structure AssayPack where
  id : Word32
  version : Word32
  svn : Word32
  waTicks : Nat
  bytes : List Byte
deriving DecidableEq, Repr, Inhabited

/-- A whole-array assay asked for by ASSAY_RUN or in progress (R407). -/
structure AssayRun where
  array : Fin 8
  segments : Nat := 0
  /-- A segment is running now. -/
  active : Bool := false
  cmd : Option OpenCmd := none
deriving DecidableEq, Repr, Inhabited

/-- A hallmark report held by the top manager (R398, R399). -/
structure HallmarkReport where
  group : Nat
  rank : BitVec 14
  version : Nat
  k : Nat
  value : BitVec 128
deriving DecidableEq, Repr, Inhabited

/-- A TMM replayed on another array, awaiting its comparison (R391-R393). -/
structure Replayed where
  slot : Nat
  step : Nat
  array : Fin 8
  lane : Nat
  word : Nat
  mb : Nat
  /-- What its result digest sums (R386). -/
  terms : List DigestTerm := []
deriving DecidableEq, Repr, Inhabited

/-- INTEGRITY (R387-R413). -/
structure Integrity where
  waEn : Bool := true
  rotEn : Bool := true
  quarantine : BitVec 8 := 0
  twin : Bool := false
  pairs : Vector TwinState 4 := Vector.replicate 4 .run
  rotPeriod : BitVec 20 := 10000
  /-- Rotation swaps that have fallen due and wait for a run boundary (R405). -/
  rotDue : BitVec 8 := 0
  twinMismatches : Word32 := 0
  retryEqual : Word16 := 0
  escalations : Word16 := 0
  replayed : Word32 := 0
  replayMismatches : Word16 := 0
  sourceFaults : Word16 := 0
  passes : Word16 := 0
  fails : Word16 := 0
  pack : Option AssayPack := none
  /-- The idle-slot run in progress, the next array of those that run by themselves, and the runs that ASSAY_RUN has asked
  for: in idle slots, and at once (R407). -/
  run : Option AssayRun := none
  waNext : Fin 8 := 0
  asked : List AssayRun := []
  atOnce : List AssayRun := []
  replays : List Replayed := []
  reports : List HallmarkReport := []
  hallmark : BitVec 128 := 0
  hmVersion : Word32 := 0
  hmAgreed : Bool := false
  hmProg : BitVec 8 := 0
deriving DecidableEq, Repr, Inhabited

/-- A setting of the Seedbank a write concerns (R480, R485). -/
inductive SeedWrite where
  | svn | identity | debug | holdup (uf : Word32) | ceiling (w : Word16)
  | repair (array : Fin 8) (column : BitVec 7) | lastWords (seq : BitVec 48)
deriving DecidableEq, Repr, Inhabited

/-- A last-words entry: a record image and whether its commit word agrees (R481). -/
structure LastWords where
  record : EventRecord
  committed : Bool
deriving DecidableEq, Repr, Inhabited

/-- The Seedbank and the fuses: kept across every reset and power loss (R480, R488). -/
structure Seedbank where
  svn : Nat := 0
  identity : Bool := false
  debugDisabled : Bool := false
  capUf : Word32 := 0
  capWrites : Nat := 0
  ceiling : Word16 := 5400
  ceilingWrites : Nat := 0
  /-- Repair records of each array, latest last: column, pack id, tick (R409). -/
  repairs : Vector (List (BitVec 7 × Word32 × Tick)) 8 := Vector.replicate 8 []
  /-- Ring of 256 last-words entries (R481), oldest first. -/
  lastWords : List LastWords := []
deriving DecidableEq, Repr, Inhabited

/-- A started or waiting Seedbank write with the command it answers (R486). -/
structure SeedOp where
  write : SeedWrite
  cmd : Option OpenCmd
  started : Bool := false
deriving DecidableEq, Repr, Inhabited

/-- Boot states (SEC_STATUS.STATE). -/
inductive BootState where
  | bootRom | loading | running
deriving DecidableEq, Repr, Inhabited

/-- SECURITY and start-up (R472-R493). -/
structure Security where
  state : BootState := .bootRom
  ready : Bool := false
  imageSvn : Word16 := 0
  hold : Bool := false
  kind : BitVec 2 := 0
  dieFail : BitVec 26 := 0
  stackFail : BitVec 20 := 0
  holdupOutcome : BitVec 2 := 0
  lastEMj : BitVec 20 := 0
  measFw : BitVec 384 := 0
  /-- Image buffer: bytes received by offset, and the IMAGE_LENGTH of the chunks (R475). -/
  image : List Host.Cell := []
  imageLength : Option Nat := none
  writes : List SeedOp := []
  /-- A containment reset waits for its last-words attempt (R489). -/
  containmentPending : Bool := false
  /-- The tick at which it was begun. -/
  containmentSince : Tick := 0
deriving DecidableEq, Repr, Inhabited

/-- States of a TAP controller (R529, IEEE 1149.1). -/
inductive TapState where
  | testLogicReset | runTestIdle
  | selectDr | captureDr | shiftDr | exit1Dr | pauseDr | exit2Dr | updateDr
  | selectIr | captureIr | shiftIr | exit1Ir | pauseIr | exit2Ir | updateIr
deriving DecidableEq, Repr, Inhabited

/-- The JTAG port: TRST_N as last driven (its pull-down holds it low), the TAP controller, the instruction in force and the register being
shifted, its bit next to TDO first (R520, R529). -/
structure Tap where
  trstN : Bool := false
  state : TapState := .testLogicReset
  instr : TapInstr := .idcode
  shift : List Bool := []
deriving DecidableEq, Repr, Inhabited

/-- Lands of the package the rules read or drive (R519, R526, R528), and the state of the supply. -/
structure Pins where
  /-- V72 is above the 56 V lock-out and the converters run. -/
  powered : Bool := false
  /-- The last converter faulted or THERMTRIP fired: nothing acts until V72 falls below 56 V (R417, R433, R528). -/
  tripped : Bool := false
  sysrstLow : Bool := false
  pwrbrakeLow : Bool := false
  pwrfailLow : Bool := false
  thermtrip : Bool := false
  /-- V72 outside 60-80 V (R427). -/
  v72OutOfRange : Bool := false
  /-- Starting up after a failed die, stack or self-test: ALERT_N asserted by the boot ROM (R474). -/
  startFail : Bool := false
  /-- In reset: between the start of a reset and the release of the 5 ms row. -/
  inReset : Bool := true
  tap : Tap := {}
deriving DecidableEq, Repr, Inhabited

/-- SMBus target (R511, R512). -/
structure Smbus where
  regOffset : Word32 := 0
  /-- Latched alert causes, bits 0-4. -/
  alert : BitVec 5 := 0
deriving DecidableEq, Repr, Inhabited

end Sys2Proof.Machine
end

