-- ==== Sys2Proof/Syntax.lean ====
section
/-! DEFINITION. The commands of the block: one constructor for every row of spec/opcode_table.json. A row that is a host
command carries the packet header (`CmdHdr`) and its parameters (the parameter tables of R147, R212, R237, R268, R297,
R319, R344, R381, R410, R436, R467, R491); a row that is a register write carries its requester (R463, R507); a row that
is an event of the device or of its surroundings carries what the event brings. The table gives no row bits, so the
operands are the model's reading of each row's own rule (log entry 1). -/

namespace Sys2Proof

open Machine

/-- A reduction hop or an update handoff as received: the hop header of R198 and its payload, with whether its lateness
counts under R378. -/
structure HopMsg where
  step : Word32
  bucket : Word32
  hop : Word16
  mode : BitVec 8
  segment : Word16
  root : Word16
  firstBlock : Word32
  blockCount : Word32
  sender : Word16
  payload : List Byte
  late : Bool
deriving DecidableEq, Repr, Inhabited

/-- A multicast range as received (R232, R379). -/
structure RangeMsg where
  tensor : Word32
  version : Word32
  first : Nat
  values : List Word16
  src : BitVec 14
  late : Bool
deriving DecidableEq, Repr, Inhabited

/-- What an assay of one array, or of one column, found (R390, R406, R407, R410). -/
inductive AssayResult where
  | pass | column (c : BitVec 7) | notLocalised
deriving DecidableEq, Repr, Inhabited

/-- A wrong bit pattern in one value that leaves an array's plane: its pass in the unit, its place among the values of the pass, and
the bits that differ (R385, R389, R393). -/
structure Upset where
  pass : Nat
  term : Nat
  flip : Word32
deriving DecidableEq, Repr, Inhabited

/-- The JTAG lands through one cycle of TCK (R520, R529). -/
structure TapPins where
  trstN : Bool
  tms : Bool
  tdi : Bool
deriving DecidableEq, Repr, Inhabited

/-- What a debug halt stops (R530). -/
inductive DebugTarget where
  | core (c : Fin 4) | array (n : Fin 8)
deriving DecidableEq, Repr, Inhabited

/-- The kinds of a core access that faults (R444). -/
inductive CoreAccess where
  | fetch | load | store
deriving DecidableEq, Repr, Inhabited

/-- A word that an exerciser reads back, as its 36 symbols come (R318). -/
structure ExerRead where
  channel : Fin 32
  word : Nat
  codeword : List Byte
deriving DecidableEq, Repr, Inhabited

/-- Every row of spec/opcode_table.json. -/
inductive Instr where
  -- Power, time base, runner network, step retirement, layer scales
  | powerOnReset
  | powerLoss
  | pllLock
  | refExcursion (ppm : Int)
  | refRelock
  | tbCorrWrite (req : Requester) (value : Word32)
  | slewStep
  | tbStatusClear (req : Requester) (value : Word32)
  | syncOutPulse
  | syncInCapture
  | runnerFlitReceive (block : BitVec 6) (codeword : List Byte)
  | stepRetire (slot : Fin 16) (step : Word32)
  | sigmaChoose (slot : Fin 16)
  -- Stream instructions and the releases of what they wait for
  | tmm (slot : Fin 16) (step : Word32) (lane : Fin 17) (errs : List WordError)
  | tew (slot : Fin 16) (step : Word32) (lane : Fin 17) (errs : List WordError)
  | tnorm (slot : Fin 16) (step : Word32) (lane : Fin 17) (errs : List WordError)
  | tnormb (slot : Fin 16) (step : Word32) (lane : Fin 17) (errs : List WordError)
  | tsmax (slot : Fin 16) (step : Word32) (lane : Fin 17) (errs : List WordError)
  | tsmaxb (slot : Fin 16) (step : Word32) (lane : Fin 17) (errs : List WordError)
  | tred (slot : Fin 16) (step : Word32) (lane : Fin 17) (errs : List WordError)
  | tredGrad (slot : Fin 16) (step : Word32) (errs : List WordError) (lockstep : Bool)
  | ttie (slot : Fin 16) (step : Word32) (errs : List WordError) (lockstep : Bool)
  | tstash (slot : Fin 16) (step : Word32) (lane : Fin 17) (errs : List WordError)
  | tunstash (slot : Fin 16) (step : Word32) (lane : Fin 17) (errs : List WordError)
  | tattn (slot : Fin 16) (step : Word32) (lane : Fin 17) (errs : List WordError)
  | tmov (slot : Fin 16) (step : Word32) (lane : Fin 17) (errs : List WordError)
  | tsig (slot : Fin 16) (step : Word32) (lane : Fin 17)
  | twait (slot : Fin 16) (step : Word32) (lane : Fin 17)
  | twaitRelease (slot : Fin 16) (step : Word32) (lane : Fin 17)
  | tfenceStream (slot : Fin 16) (step : Word32) (lane : Fin 17)
  | tfenceVersion (slot : Fin 16) (step : Word32) (lane : Fin 17)
  | tfencePmode (slot : Fin 16) (step : Word32) (lane : Fin 17)
  | thint (slot : Fin 16) (step : Word32) (lane : Fin 17)
  | tend (slot : Fin 16) (step : Word32) (lane : Fin 17)
  | instructionRetire (slot : Fin 16) (step : Word32) (lane : Fin 17) (n : Nat)
  | slotRelease (slot : Fin 16) (step : Word32)
  | versionFenceRelease (slot : Fin 16) (step : Word32) (lane : Fin 17) (errs : List WordError)
  | crucibleInterlockRelease (slot : Fin 16) (step : Word32) (lane : Fin 17) (errs : List WordError)
  | pmodeChange (array : Fin 8)
  -- Program commands (R147)
  | progLoad (h : CmdHdr) (image : Word32) (offset : BitVec 48) (length firstStep : Word32) (seed : Word64)
  | progUnload (h : CmdHdr) (prog : BitVec 8)
  | stepLaunch (h : CmdHdr) (prog : BitVec 8) (step : Word32)
  | stepAbort (h : CmdHdr) (prog : BitVec 8) (step : Word32)
  | progRewind (h : CmdHdr) (prog : BitVec 8) (next : Word32)
  | descWrite (h : CmdHdr) (prog : BitVec 8) (handle : Word16) (object : Word32) (offset : BitVec 48)
  | progQuery (h : CmdHdr) (prog sem bank : BitVec 8)
  | semSignal (h : CmdHdr) (prog sem : BitVec 8) (inc : Word16) (step : Word32)
  -- Arrays (R111-R114, R405, R406)
  | arrQuiesceWrite (req : Requester) (array : Fin 8) (value : Bool)
  | arrayQuiesced (array : Fin 8)
  | arrCountClr (req : Requester) (array : Fin 8)
  | arrSpareWrite (req : Requester) (array : Fin 8) (value : Word32)
  | spareSwapDone (array : Fin 8)
  | rotationSwapDue (array : Fin 8)
  | columnTestComplete (array : Fin 8) (pass : Bool)
  | overflowAdd (stack : Fin 20) (errs : List WordError) (lockstep : Bool)
  | adderQueueRoom (stack : Fin 20)
  | regionFinalRelease (slot : Fin 16) (step : Word32) (errs : List WordError) (lockstep : Bool)
  | heldWriteApply (object : Word32)
  -- Gradient exchange (R183-R215)
  | bucketReduceStart (slot : Fin 16) (step : Word32) (bucket : Nat) (lockstep : Bool)
  | hopReceive (msg : HopMsg) (lockstep : Bool)
  | heldHopProcess (n : Nat) (lockstep : Bool)
  | scaleReportReceive (step : Word32) (src : BitVec 14) (entries : List Word16) (hists : List Hist)
  | scaleTableReceive (step : Word32) (src : BitVec 14) (entries : List Word16) (hists : List Hist) (late : Bool)
  | normPartialReceive (step : Word32) (src : BitVec 14) (partialSum : Word32) (saturations : Word32)
  | clipFactorReceive (step : Word32) (src : BitVec 14) (n2 clip saturations : Word32) (late : Bool)
  | jobJoin (h : CmdHdr) (job : Word64) (rank : Word16) (table : Word32) (offset : BitVec 48) (count : Word16)
  | jobLeave (h : CmdHdr) (job : Word64)
  | gxConfig (h : CmdHdr) (prog wire bucketMib normMode : BitVec 8) (clipNorm : Word16) (errmem overrideObject : Word32)
      (overrideCount : Word16)
  | gxQuery (h : CmdHdr) (prog : BitVec 8) (step : Word32)
  | gxScaleSave (h : CmdHdr) (prog : BitVec 8) (step object : Word32) (offset : BitVec 48)
  | gxScaleLoad (h : CmdHdr) (prog : BitVec 8) (step object : Word32) (offset : BitVec 48)
  | gxQuiesceWrite (req : Requester) (value : Bool)
  | gxQuiesced
  | gxRxbufWrite (req : Requester) (value : BitVec 8)
  | gxCountClr (req : Requester)
  -- Update engine and Almanac (R217-R241)
  | handoffReceive (msg : HopMsg)
  | pass1Run (slot : Fin 16) (step : Word32) (n : Nat) (errs : List WordError) (lockstep : Bool)
  | pass2Run (slot : Fin 16) (step : Word32) (n : Nat) (errs : List WordError) (lockstep : Bool)
  | singlePassRun (slot : Fin 16) (step : Word32) (n : Nat) (errs : List WordError) (lockstep : Bool)
  | mcastRangeReceive (msg : RangeMsg)
  | mcastRangeApply (n : Nat)
  | rootRefresh (slot : Fin 16) (step : Word32) (errs : List WordError) (lockstep : Bool)
  | ruleSet (h : CmdHdr) (prog defaultRule flags : BitVec 8) (beta1 beta2 eps weightDecay prePeriod : Word16)
      (stateObject gradObject overrideObject : Word32) (overrideCount : Word16) (ruleStart : Word32)
  | ruleQuery (h : CmdHdr) (prog : BitVec 8) (tensor : Word32)
  | almanacSet (h : CmdHdr) (prog warmupKind decayKind tMult : BitVec 8) (baseLr minLr warmupSteps decaySteps gamma
      schedStart : Word32)
  | almanacQuery (h : CmdHdr) (prog : BitVec 8) (step : Word32)
  | preRefresh (h : CmdHdr) (prog : BitVec 8)
  | updCountClr (req : Requester)
  -- Aster and KV spaces (R243-R271)
  | pageAllocResume (n : Nat)
  | pageReclaim (space : Fin 16)
  | reprefillResume (n : Nat)
  | gatherDeadline (n : Nat)
  | heldKvEditApply (space : Fin 16) (n : Nat)
  | kvCreate (h : CmdHdr) (space : BitVec 8) (rank layers : Word16) (pool pages tablePages maxSeqs : Word32)
      (salt : Word64)
  | kvDestroy (h : CmdHdr) (space : BitVec 8)
  | kvSeqOpen (h : CmdHdr) (space : BitVec 8) (lookup : Bool) (seq tokenObject : Word32) (tokenOffset : BitVec 48)
      (tokenCount : Word32)
  | kvSeqClose (h : CmdHdr) (space : BitVec 8) (nowait : Bool) (seq : Word32)
  | kvSeqFork (h : CmdHdr) (space : BitVec 8) (nowait : Bool) (src dst length : Word32)
  | kvTruncate (h : CmdHdr) (space : BitVec 8) (nowait : Bool) (seq length : Word32)
  | kvPin (h : CmdHdr) (space : BitVec 8) (unpin : Bool) (seq : Word32)
  | kvConfig (h : CmdHdr) (space recompProg : BitVec 8) (recompHandle : Word16) (gatherHold : Word32)
      (bounds : List Word32)
  | kvQuery (h : CmdHdr) (space : BitVec 8) (seq : Word32)
  | astQuiesceWrite (req : Requester) (value : Bool)
  | astQuiesced
  | astCountClr (req : Requester)
  -- Memory tiers (R273-R301, R499-R501)
  | objCreate (h : CmdHdr) (id : Word32) (size : BitVec 48) (home index : BitVec 8) (mask : BitVec 20)
      (hostAddr : Word64)
  | objDestroy (h : CmdHdr) (id : Word32)
  | objPlace (h : CmdHdr) (id : Word32) (nowait : Bool) (target index : BitVec 8) (offset length : BitVec 48)
      (mask : BitVec 20)
  | moveStart (object : Word32)
  | movePinRelease (object : Word32)
  | movePieceSwitch (object : Word32) (errs : List WordError)
  | objPin (h : CmdHdr) (id : Word32) (unpin : Bool)
  | objShare (h : CmdHdr) (id : Word32) (readers : Word64)
  | objWrite (h : CmdHdr) (id : Word32) (nowait : Bool) (convert : BitVec 8) (offset : BitVec 48) (length : Word32)
      (hostAddr : Word64)
  | objRead (h : CmdHdr) (id : Word32) (convert : BitVec 8) (offset : BitVec 48) (length : Word32) (hostAddr : Word64)
      (errs : List WordError)
  | objQuery (h : CmdHdr) (id : Word32) (tier : BitVec 8)
  | objMap (h : CmdHdr) (id : Word32) (unmap : Bool)
  | quotaSet (h : CmdHdr) (account tier array : BitVec 8) (limit : Word32)
  | quotaQuery (h : CmdHdr) (account tier array : BitVec 8)
  | memArbSet (h : CmdHdr) (read write remote : BitVec 8)
  | arbWindow (stack : Fin 20) (requests : List MemRequest)
  | streamDataArrive (array : Fin 8) (lateTicks stallCycles : Nat)
  | hrtPartWrite (req : Requester) (hearth : Fin 8) (value : Word32)
  | apertureRead (port : Fin 2) (offset : BitVec 40) (length : Nat) (errs : List WordError)
  | apertureWrite (port : Fin 2) (offset : BitVec 40) (bytes : List Byte)
  | bar4Resize (port : Fin 2) (sizeLog2 : BitVec 6)
  -- Stacks and the Ingot code (R302-R322)
  | stackInitComplete (stack : Fin 20) (trained : Bool) (lanesRepaired : BitVec 8)
  | stackTempRead (stack : Fin 20) (celsius : BitVec 8)
  | cattripIndication (stack : Fin 20)
  | scrubUnit (stack : Fin 20) (codewords : List (Nat × List Byte)) (onDie : Nat)
  | writeBack (stack : Fin 20) (errs : List WordError)
  | stkCountClr (req : Requester) (stack : Fin 20)
  | stkQuery (h : CmdHdr) (stack : BitVec 8)
  | stkScrubSet (h : CmdHdr) (stack hours : BitVec 8)
  | stkDiagEnter (h : CmdHdr) (stack : BitVec 8)
  | stkDiagExit (h : CmdHdr) (stack : BitVec 8)
  | diagZeroComplete (stack : Fin 20)
  | exerRun (h : CmdHdr) (stack pattern mode inject : BitVec 8) (channels seed words : Word32)
  | exerComplete (stack : Fin 20) (reads : List ExerRead)
  -- Intake, admission and session (R323-R352, R505)
  | packetConsume (port : Fin 2) (posted : List (Word16 × Byte))
  | replyCoalesceTimer (port : Fin 2)
  | intEnableWrite (req : Requester) (port : Fin 2) (value : Bool)
  | ringReset (req : Requester) (port : Fin 2)
  | ringResetDone (port : Fin 2)
  | intCountClr (req : Requester) (port : Fin 2)
  | intReplyBaseWrite (req : Requester) (port : Fin 2) (part : RegPart) (value : Word64)
  | intReplyCfgWrite (req : Requester) (port : Fin 2) (value : Word32)
  | intReplyHeadWrite (req : Requester) (port : Fin 2) (value : Word32)
  | intakeQuiesced (port : Fin 2)
  | admCountClr (req : Requester)
  | identify (h : CmdHdr)
  | getState (h : CmdHdr)
  | nop (h : CmdHdr)
  | adminHandover (h : CmdHdr)
  | adminAdopt (h : CmdHdr)
  | fwLoad (h : CmdHdr) (hostAddr : Word64) (offset length imageLength : Word32)
  | fwStart (h : CmdHdr) (imageLength : Word32)
  | reset (h : CmdHdr) (kind : BitVec 8)
  -- Octing fabric (R353-R384)
  | frameReceive (port : Fin 8) (frame : Frame) (fcsOk : Bool) (lockstep : Bool)
  | ackReceive (src : BitVec 14) (msgId : BitVec 48) (credit : Word32)
  | linkAckReceive (port : Fin 8) (acked : Word16)
  | linkNakReceive (port : Fin 8) (lsn : Word16) (resync : Bool)
  | linkAckTimer (port : Fin 8)
  | linkReplayTimer (port : Fin 8)
  | linkAbandonTimer (port : Fin 8)
  | e2eTimeout (dst : BitVec 14) (msgId : BitVec 48)
  | octPortDown (port : Fin 8)
  | octPortUp (port : Fin 8)
  | heartbeatTimer
  | heartbeatReceive (src : BitVec 14) (state : JobState) (oldest : Word32) (t1 t2 t3 : Word64)
  | heartbeatTimeout (rank : BitVec 14)
  | managerSilenceTimeout
  | lossNoticeReceive (src rank : BitVec 14)
  | resumeReadyReceive (rank : BitVec 14) (step : Word32)
  | resumeReleaseReceive (tick : Word64)
  | barrierEntryReceive (id : Word32) (scope : BitVec 2) (src : BitVec 14) (group : BitVec 14)
  | barrierReleaseReceive (id : Word32) (scope : BitVec 2) (group : BitVec 14) (tick : Word64)
  | mcastLagTimeout (n : Nat) (receiver : BitVec 14)
  | pruneReceive (src : BitVec 14) (tensor version : Word32) (first count : Nat)
  | pullReceive (src : BitVec 14) (tensor version : Word32) (first count : Nat)
  | fabPortSet (h : CmdHdr) (kind port mode pcps : BitVec 8) (mac : BitVec 48) (vlan ethertype : Word16)
      (routeObject : Word32) (routeOffset : BitVec 48) (routeCount : Word16)
  | fabQuery (h : CmdHdr) (port : BitVec 8)
  | fabTimeoutSet (h : CmdHdr) (e2eUs : Word32) (maxTries : BitVec 8) (transitUs : Word16)
  | fabBarrier (h : CmdHdr) (id : Word32) (scope : BitVec 8)
  | jobResume (h : CmdHdr) (job : Word64) (step : Word32)
  | mcastSet (h : CmdHdr) (prog kind : BitVec 8) (lagUs windowKib : Word32) (channel stream trigger destSem
      destProg : BitVec 8) (srcObject : Word32) (srcOffset : BitVec 48) (destRank : Word16) (destObject : Word32)
      (destOffset : BitVec 48) (bytes : Word32)
  | fabPeerQuery (h : CmdHdr) (rank : Word16)
  | octCountClr (req : Requester)
  -- Integrity (R385-R414)
  | twinUnitCompare (pair : Fin 4) (primary shadow : List Upset)
  | assayComplete (pair : Fin 4) (primary shadow : AssayResult)
  | replayCompare (n : Nat) (source replay : List Upset) (sourceAssay replayAssay : AssayResult) (beyond : Word32)
  | hallmarkReportReceive (group rank : BitVec 14) (version : Word32) (k : Word16) (value : BitVec 128)
  | hallmarkVerdictReceive (version : Word32) (verdict : BitVec 2)
  | waSegmentRun (array : Fin 8) (finished : Option AssayResult)
  | waSegmentAbandon
  | quarantineWrite (req : Requester) (mask : BitVec 8)
  | integCountClr (req : Requester)
  | rotPeriodWrite (req : Requester) (value : Word32)
  | twinSet (h : CmdHdr) (enable : BitVec 8)
  | replaySet (h : CmdHdr) (prog : BitVec 8) (interval : Word16)
  | hallmarkSet (h : CmdHdr) (prog : BitVec 8) (k : Word16)
  | assayLoad (h : CmdHdr) (hostAddr : Word64) (length : Word32)
  | assayRun (h : CmdHdr) (array mode : BitVec 8)
  | repairCommit (h : CmdHdr) (array column : BitVec 8)
  | integQuery (h : CmdHdr) (array prog : BitVec 8)
  -- Bellows (R415-R439)
  | bellowsInterval (estimate : Word16) (activity : List Nat)
  | trimUpdate (voltage current : Word16)
  | converterIsolate (converter : Fin 4)
  | brakeAssert
  | brakeRelease
  | brakeLevelWrite (req : Requester) (value : Word32)
  | pwrfailAssert
  | pwrfailRelease
  | v72RangeChange (voltage : Word16)
  | coolantRead (inlet outlet : BitVec 8)
  | junctionRead (readings : List (Fin 32 × BitVec 8))
  | thermtrip
  | belCountClr (req : Requester)
  | capSet (h : CmdHdr) (watts : Word16)
  | pwrQuery (h : CmdHdr)
  | rampSet (h : CmdHdr) (slope : BitVec 8)
  | ballastSet (h : CmdHdr) (enable : BitVec 8) (floor : Word16)
  | profileClear (h : CmdHdr) (prog : BitVec 8)
  -- Interrupts, cores, event recorder, registers (R440-R471)
  | sourceSenseChange (source : BitVec 9) (asserted : Bool)
  | interruptRoute
  | intcEoiWrite (core : Fin 4) (value : Word32)
  | faultInterruptDeliver
  | intcFaultClear (req : Requester) (value : Word32)
  | intcSwsetWrite (req : Requester) (value : Word32)
  | ccRunWrite (req : Requester) (value : Word32)
  | mtimerInterrupt (core : Fin 4)
  | msipWrite (core : Fin 4) (value : Bool)
  | coreAccessFault (core : Fin 4) (kind : CoreAccess) (addr : Word64)
  | evrAccept
  | evrPostSubmit (core : Fin 4) (value : Word64)
  | lastwordsCopy
  | parityFault (block : BitVec 6)
  | reservedAccess (port : Fin 2) (offset : BitVec 26) (write : Bool)
  | regWrite (req : Requester) (offset : BitVec 26) (part : RegPart) (value : Word64)
  | evtRead (h : CmdHdr) (hostAddr : Word64) (start : BitVec 48) (max : Word16) (minSeverity : BitVec 8)
  | evtSummary (h : CmdHdr)
  | evtFilterSet (h : CmdHdr) (minSeverity notify0 notify1 vector0 vector1 : BitVec 8) (repeatMs : Word16)
  | evtDropsClear (h : CmdHdr)
  -- Resets, start-up, security (R472-R494, R526)
  | sysrstAssert
  | sysrstRelease
  | containmentReset
  | bootReady (dieFail : BitVec 26)
  | attest (h : CmdHdr) (hostAddr : Word64) (nonce : List Byte)
  | svnIncrement (h : CmdHdr)
  | identityGenerate (h : CmdHdr)
  | debugDisable (h : CmdHdr) (confirm : Word32)
  | holdupSet (h : CmdHdr) (uf : Word32)
  | ceilingSet (h : CmdHdr) (watts : Word16)
  | seedbankRead (h : CmdHdr) (item : BitVec 8)
  | lastwordsRead (h : CmdHdr) (hostAddr : Word64) (start max : Word16)
  | seedbankCommit
  -- Host links (R495-R516, R528)
  | perstAssert (port : Fin 2)
  | pcieHotReset (port : Fin 2)
  | pcieLinkDown (port : Fin 2) (d3hot : Bool)
  | pcieLinkUp (port : Fin 2) (width : BitVec 5) (speed : BitVec 3) (msixEnable msixMask : Bool)
  | poisonedTlpReceive (port : Fin 2)
  | dmaCompletionError (id : Nat)
  | dmaCompletionTimeout (id : Nat)
  | msixUnmask (req : Requester) (port : Fin 2) (vector : BitVec 8)
  -- SMBus (R511, R512)
  | smbDeviceInfo
  | smbPower
  | smbThermal
  | smbSupply
  | smbEventSummary
  | smbAlertCause
  | smbRegOffset (value : Word32) (pec : Option Byte)
  | smbRegRead
  | smbAlertResponse
  -- JTAG (R529, R530)
  | jtagDebugHalt (target : DebugTarget) (scan : List TapPins)
  | jtagDebugResume (target : DebugTarget) (scan : List TapPins)
  -- Host memory reads, flow control, PERST release, register reads
  | dmaReadCompletion (id : Nat) (data : List Byte)
  | pfcFrameReceive (port : Fin 8) (ctrl : Bool) (pause : Bool)
  | perstRelease (port : Fin 2)
  | registerRead (req : Requester) (offset : BitVec 26) (part : RegPart)
deriving DecidableEq, Repr

end Sys2Proof
end

