-- ==== Sys2Proof/Decode.lean ====
section
/-! DEFINITION. The command a word of spec/opcode_table.json spells. The table gives no row of this block any bits (every
row's fields are empty), so no word spells a command. The packets of R324, which do have bits, are decoded in
Machine/Packet.lean. -/

namespace Sys2Proof

/-- No row of the table has bits: every word spells no command. -/
def decodeTableWord (_nbits _w : Nat) : Option Instr := none

end Sys2Proof
end

