-- ==== Sys2Proof/Machine/Dither.lean ====
section
/-! DEFINITION. Dither, the counter-based generator of every rounding draw (R67-R69). -/

namespace Sys2Proof.Machine

/-- The four counter words (R67). -/
structure DitherState where
  x0 : Word32
  x1 : Word32
  x2 : Word32
  x3 : Word32
deriving DecidableEq, Repr, Inhabited

/-- One round `i` of *Dither function* under the key halves `k0`, `k1` (R68). -/
def ditherRound (k0 k1 : Word32) (i : Nat) (s : DitherState) : DitherState :=
  let x0 := s.x0 + s.x1
  let x3 := (s.x3 ^^^ x0).rotateLeft 16
  let x2 := s.x2 + x3
  let x1 := (s.x1 ^^^ x2).rotateLeft 12
  let x0 := x0 + x1
  let x3 := (x3 ^^^ x0).rotateLeft 8
  let x2 := x2 + x3
  let x1 := (x1 ^^^ x2).rotateLeft 7
  { x0 := x0 ^^^ (k0 + BitVec.ofNat 32 i * 0x6C8E9CF5)
    x1 := x1
    x2 := x2 ^^^ (k1 + BitVec.ofNat 32 i)
    x3 := x3 }

/-- The ten rounds (R68). -/
def ditherRounds (k0 k1 : Word32) (s : DitherState) : DitherState :=
  (List.range 10).foldl (fun s i => ditherRound k0 k1 i s) s

/-- The counter of a write (R67): element index, use, tensor id and step. -/
def ditherCounter (element : Nat) (use : Word16) (tensor : Word32) (step : Word32) : DitherState :=
  { x0 := BitVec.ofNat 32 element
    x1 := use ++ BitVec.ofNat 16 (element / 2 ^ 32)
    x2 := tensor
    x3 := step }

/-- The 16-bit draw of a counter under a job seed: bits [15:0] of y0 (R68). -/
def ditherDraw (seed : Word64) (c : DitherState) : BitVec 16 :=
  let s := ditherRounds (seed.extractLsb' 0 32) (seed.extractLsb' 32 32) c
  (s.x0 + c.x0).extractLsb' 0 16

/-- The uses of R69 (*Dither counter assignment*). -/
inductive DitherUse where
  | output (ordinal : BitVec 8)
  | stash (mb : Nat)
  | weight
  | firstMoment
  | secondMoment
  | errorMemory
  | reducedGradient
  | kvLatent (layer : BitVec 12)
  | b8Hop (hop : Nat)
deriving DecidableEq, Repr, Inhabited

/-- The use code of a write (R69). -/
def DitherUse.code : DitherUse → Word16
  | .output o => BitVec.ofNat 16 o.toNat
  | .stash j => BitVec.ofNat 16 (0x0100 + j)
  | .weight => 0x0200
  | .firstMoment => 0x0201
  | .secondMoment => 0x0202
  | .errorMemory => 0x0203
  | .reducedGradient => 0x0204
  | .kvLatent l => BitVec.ofNat 16 (0x0300 + l.toNat)
  | .b8Hop h => BitVec.ofNat 16 (0x8000 + h)

/-- The draw of one write (R69, R70). -/
def draw (seed : Word64) (use : DitherUse) (tensor : Word32) (element : Nat) (step : Word32) : BitVec 16 :=
  ditherDraw seed (ditherCounter element use.code tensor step)

end Sys2Proof.Machine
end

