-- ==== Sys2Proof/Machine/Ingot.lean ====
section
/-! DEFINITION. The Ingot code (R312, R315): a Reed-Solomon code of 36 symbols over GF(2^8), its encoder and the two decoder
modes. -/

namespace Sys2Proof.Machine

/-- Doubling in GF(2^8) with x^8 + x^4 + x^3 + x^2 + 1. -/
def gfDouble (a : Byte) : Byte := (a <<< 1) ^^^ (if a.getLsbD 7 then 0x1D else 0)

/-- The product in GF(2^8), on the bits of `b` from the top. -/
def gfMulAux (a b : Byte) : Nat → Byte → Byte
  | 0, acc => acc
  | k + 1, acc => gfMulAux a b k (gfDouble acc ^^^ (if b.getLsbD k then a else 0))

def gfMul (a b : Byte) : Byte := gfMulAux a b 8 0

/-- α^k. -/
def gfExp : Nat → Byte
  | 0 => 1
  | k + 1 => gfDouble (gfExp k)

/-- One step of the division by g(x): the remainder c3..c0 with the next data symbol fed in. -/
def ingotFeed (c : Byte × Byte × Byte × Byte) (d : Byte) : Byte × Byte × Byte × Byte :=
  let (c3, c2, c1, c0) := c
  let f := d ^^^ c3
  (c2 ^^^ gfMul 0x0F f, c1 ^^^ gfMul 0x36 f, c0 ^^^ gfMul 0x78 f, gfMul 0x40 f)

/-- The check symbols c_0 to c_3 of 32 data bytes (R312). -/
def ingotCheck (data : List Byte) : List Byte :=
  let (c3, c2, c1, c0) := data.reverse.foldl ingotFeed (0, 0, 0, 0)
  [c0, c1, c2, c3]

/-- The codeword of 32 data bytes (R312). -/
def ingotEncode (data : List Byte) : List Byte := data ++ ingotCheck data

/-- The symbols of a codeword in order of their powers of x: c_0 to c_3, then d_0 to d_31. -/
def ingotPoly (cw : List Byte) : List Byte := cw.drop 32 ++ cw.take 32

/-- The polynomial's value at α^j, its coefficients given from x^0 up. -/
def gfEval (x : Byte) : List Byte → Byte
  | [] => 0
  | a :: r => a ^^^ gfMul x (gfEval x r)

/-- The four syndromes S_j = r(α^j). -/
def ingotSyndromes (cw : List Byte) : List Byte := (List.range 4).map fun j => gfEval (gfExp j) (ingotPoly cw)

/-- Every syndrome is zero. -/
def ingotClean (cw : List Byte) : Bool := (ingotSyndromes cw).all (· == 0)

/-- A codeword with `e` added at the power `p` of x. -/
def ingotFix (cw : List Byte) (p : Nat) (e : Byte) : List Byte :=
  let i := if p < 4 then p + 32 else p - 4
  cw.set i ((cw[i]?).getD 0 ^^^ e)

/-- What the decoder makes of a word: clean, corrected to a codeword, or uncorrectable (R315). -/
inductive IngotResult where
  | clean
  | corrected (cw : List Byte)
  | uncorrectable
deriving DecidableEq, Repr, Inhabited

/-- The single error that explains the syndromes: the position p with S_{j+1} = S_j α^p for each j, and the value S_0. -/
def ingotSingle (cw : List Byte) : Option (List Byte) :=
  let s := ingotSyndromes cw
  let s0 := (s[0]?).getD 0
  ((List.range 36).find? fun p => s0 != 0 && s == (List.range 4).map fun j => gfMul s0 (gfExp (j * p))).map
    fun p => ingotFix cw p s0

/-- The positions and values of two errors that explain the syndromes: values solve S_0 = e + f, S_1 = e α^p + f α^q. -/
def gfInv (a : Byte) : Byte :=
  -- a^254
  let a2 := gfMul a a
  let a4 := gfMul a2 a2
  let a8 := gfMul a4 a4
  let a16 := gfMul a8 a8
  let a32 := gfMul a16 a16
  let a64 := gfMul a32 a32
  let a128 := gfMul a64 a64
  gfMul a2 (gfMul a4 (gfMul a8 (gfMul a16 (gfMul a32 (gfMul a64 a128)))))

/-- Two errors at the powers p < q whose correction gives a codeword. -/
def ingotDouble (cw : List Byte) : Option (List Byte) :=
  let s := ingotSyndromes cw
  let s0 := (s[0]?).getD 0
  let s1 := (s[1]?).getD 0
  let try1 (p q : Nat) : Option (List Byte) :=
    let e := gfMul (s1 ^^^ gfMul s0 (gfExp q)) (gfInv (gfExp p ^^^ gfExp q))
    let fixed := ingotFix (ingotFix cw p e) q (s0 ^^^ e)
    if e != 0 && s0 ^^^ e != 0 && ingotClean fixed then some fixed else none
  (List.range 36).findSome? fun q => (List.range q).findSome? fun p => try1 p q

/-- The decoder in mode 0 (SECTED) or 1 (DEC) (R315). -/
def ingotDecode (dec : Bool) (cw : List Byte) : IngotResult :=
  if ingotClean cw then .clean
  else match ingotSingle cw with
    | some w => .corrected w
    | none =>
      if dec then (match ingotDouble cw with | some w => .corrected w | none => .uncorrectable)
      else .uncorrectable

end Sys2Proof.Machine
end

