-- ==== Sys2Proof/Machine/State.lean ====
section
/-! DEFINITION. The state of the block: every register, queue, buffer and pin the spec gives the device, the messages it
sends, and the queue of waiting commands. -/

namespace Sys2Proof.Machine

/-- What the block sends to its surroundings: kept of the last command that ran (log entry 4). -/
inductive Output where
  /-- An MSI-X message of a port (R331, R461, R503). -/
  | msix (port : Fin 2) (vector : BitVec 8)
  /-- An error reported through a port's AER: a Completer Abort on a write, a poisoned TLP (R464, R502). -/
  | aerCompleterAbort (port : Fin 2)
  | aerPoisoned (port : Fin 2)
  /-- How a register read ends at its requester (R463, R464). -/
  | readDone (req : Requester) (c : Completion)
  /-- How an aperture read ends: the bytes, or Completer Abort (R500). -/
  | apertureData (port : Fin 2) (bytes : List Byte)
  | apertureAbort (port : Fin 2)
  /-- A DMA read request to a host (R293, R297). -/
  | dmaRead (id : Nat) (port : Fin 2) (addr : Word64) (length : Nat)
  /-- A DMA write of a command's data to a host. -/
  | dmaWrite (port : Fin 2) (addr : Word64) (length : Nat)
  /-- A frame leaves an Octing port (R354-R356). -/
  | frame (port : Fin 8) (frame : Frame)
  /-- An SMBus read response (R511), or the address answered to an Alert Response (R512), with the PEC that follows when it is clocked; and
  the NACK of a command code. -/
  | smb (bytes : List Byte) (pec : Byte)
  | smbNack
  /-- The bits TDO drives in the Shift states (R520, R529). -/
  | tdo (bits : List Bool)
  /-- SYNC_OUT begins a pulse of 64 ticks (R40). -/
  | syncOut
  /-- Link training of a PCIe port begins (R528), or an Octing port retrains (R365). -/
  | pcieTraining (port : Fin 2)
  | octRetrain (port : Fin 8)
  /-- Surprise down on both PCIe ports at a device reset (R488). -/
  | surpriseDown
deriving DecidableEq, Repr, Inhabited

/-- Everything of the block but the queue of waiting commands. -/
structure Device where
  pins : Pins
  tb : TimeBase
  sec : Security
  seed : Seedbank
  intc : Intc
  cores : Vector Core 4
  evr : Evr
  /-- Read and write shadows of the eight requesters (R463). -/
  readShadow : Vector (Option Shadow) 8
  writeShadow : Vector (Option Shadow) 8
  ports : Vector HostPort 2
  admin : AdminRole
  /-- Consumed commands without a final reply (R330). -/
  opens : List OpenCmd
  /-- Outstanding reads of host memory and the number of the next. -/
  dmaReads : List DmaRead
  dmaNext : Nat
  /-- Commands that wait for a list in T3 (`DmaPurpose.list`). -/
  lists : List (OpenCmd × Instr)
  adm : Admission
  smb : Smbus
  mem : MemoryTiers
  progs : Vector (Option Program) 16
  arrays : Vector ArrayState 8
  tun : Tundish
  aster : Aster
  fab : Fabric
  bel : Bellows
  integ : Integrity
  /-- Uses of free values so far: the model's own field (log entry 2). -/
  free : Nat
  out : List Output
deriving DecidableEq, Repr

/-- The state of the model: the device and the commands that wait, first in, first out. -/
structure State where
  dev : Device
  pending : List Instr
deriving DecidableEq, Repr

/-- Faults of the model. -/
inductive Fault where
  /-- Raised by nothing: the spec gives every command of this block an effect, so no meaning stops (safe). -/
  | unreachable
deriving DecidableEq, Repr

/-- Refusals of the model. -/
inductive Refusal where
  /-- A command whose meaning the model does not give, by its mnemonic: answered by an arm of exec alone (safe). -/
  | notModelled (mnemonic : String)
deriving DecidableEq, Repr

/-! ### Reset values -/

/-- FILTER at reset of each interrupt source (R445). -/
def resetFilter (s : Nat) : BitVec 8 :=
  if s = 2 then 100 else if s = 1 ∨ s = 3 ∨ s = 4 ∨ s = 5 then 16 else 1

/-- Pins, whose MODE is 1 at reset (R445, R469). -/
def isPinSource (s : Nat) : Bool := decide (1 ≤ s ∧ s ≤ 5)

/-- The interrupt sources at reset (R469); INTC_SRC0 reads zero. -/
def resetSources : Vector IntSource 512 :=
  Vector.ofFn fun s => { filter := resetFilter s.val, level := isPinSource s.val }

def resetIntc : Intc := { src := resetSources }

/-- CC0 runs after every reset (R442). -/
def resetCores : Vector Core 4 := Vector.ofFn fun c => { running := decide (c.val = 0) }

/-- Accounts enabled at reset: every one on Port 0, none on Port 1 (R508). -/
def resetAcct (p : Fin 2) : Word64 := if p.val = 0 then 0xFFFFFFFFFFFFFFFF else 0

def resetPorts : Vector HostPort 2 := Vector.ofFn fun p => { acctEn := resetAcct p }

/-- HRT_PART.CACHE at reset (R287, R299). -/
def resetHearths : Vector Hearth 8 := Vector.ofFn fun h => { cache := if h.val = 0 then 0x01F else 0x1FF }

def resetMem : MemoryTiers := { hearths := resetHearths }

/-- The device after power-on reset, with the Seedbank and fuses `b` it keeps. -/
def Device.powerOn (b : Seedbank) : Device :=
  { pins := { powered := true, inReset := false }
    tb := {}
    sec := {}
    seed := b
    intc := resetIntc
    cores := resetCores
    evr := {}
    readShadow := Vector.replicate 8 none
    writeShadow := Vector.replicate 8 none
    ports := resetPorts
    admin := {}
    opens := []
    dmaReads := []
    dmaNext := 0
    lists := []
    adm := {}
    smb := {}
    mem := resetMem
    progs := Vector.replicate 16 none
    arrays := Vector.replicate 8 {}
    tun := {}
    aster := {}
    fab := {}
    bel := {}
    integ := {}
    free := 0
    out := [] }

/-- Start-up has logged RESET_KIND (R488): the event waits for the recorder, and its interrupt source, 15, is pending. -/
def Device.starting (d : Device) : Device :=
  { d with
    evr := { d.evr with queue := [{ code := 0x0B04, severity := .info, source := 0, tick := 0, key := 15 }] }
    intc := { d.intc with src := d.intc.src.set 15 { d.intc.src[15] with pend := true } } }

/-- The block right after power-on reset with a Seedbank that nothing has written (R472, R480, R488): every register at its reset
value, the event of the reset raised, and no command waiting. -/
def State.reset : State := { dev := (Device.powerOn {}).starting, pending := [] }

end Sys2Proof.Machine
end

