-- ==== Sys2Proof/Machine/BellowsOps.lean ====
section
/-! DEFINITION. What Bellows derives from its state: ceilings, halts, ALERT_N, grants and power-class checks (R416-R434). -/

namespace Sys2Proof.Machine

/-! ### Ceilings (R417, R419, R431) -/

/-- Converters working. -/
def Bellows.converters (b : Bellows) : Nat := ((List.range 4).filter fun i => b.convOk.getLsbD i).length

/-- The converter ceiling (R417). -/
def Bellows.converterW (b : Bellows) : Nat :=
  match b.converters with
  | 0 => 0
  | 1 => Config.oneConverterW.toNat
  | 2 => 3600
  | _ => 5400

/-- The supply ceiling for a voltage in units of 10 mV: min(5,400 W, 75 A x V_in) (R419). -/
def supplyW (voltage : Word16) : Nat := min 5400 (75 * voltage.toNat / 100)

/-- The coolant table of R431; below 20 °C the table gives no row and the ceiling stays 5,400 W (log entry 5). -/
def coolantW (inlet : BitVec 8) : Nat := 5400 - 160 * (inlet.toNat - 55)

/-- The ceilings that apply, with their BINDING codes (R419). -/
def Bellows.ceilings (b : Bellows) : List (Nat × Nat) :=
  [(2, b.board.toNat), (3, b.thermal.toNat), (4, b.supply.toNat), (5, b.converterW)]
    ++ (if b.brake then [(6, b.brakeLevel.toNat)] else [])

/-- C_hard: the smallest of the ceilings that apply, at most the rated 5,400 W (R419). -/
def Bellows.hardW (b : Bellows) : Nat := b.ceilings.foldl (fun m c => min m c.2) 5400

/-- The ceiling that sets C_hard: the first of those equal to it; 0 when the rating does. -/
def Bellows.hardCode (b : Bellows) : Nat :=
  if b.hardW = 5400 then 0 else
    match b.ceilings.find? fun c => c.2 == b.hardW with
    | some c => c.1
    | none => 0

/-- The cause of a broken promise of a ceiling (*Ceilings*, R419). -/
def ceilingCause (code : Nat) : DelayCause :=
  if code = 6 then .hardBrake else if code = 3 then .thermal else .supply

/-- C_soft. -/
def Bellows.softW (b : Bellows) : Nat := b.soft.toNat

/-- The arrays are halted (R417, R426, R427). -/
def Bellows.halted (b : Bellows) : Bool :=
  (b.brake && decide (b.brakeLevel.toNat < Config.floorCalW)) || b.powerFail || b.converters == 1

/-- Every array is frozen: a halt, or a Seedbank hold, for which they halt as for a brake below the floor (R426, R485). -/
def Device.arraysHalted (d : Device) : Bool := d.bel.halted || d.sec.hold

/-- The cause a halt counts toward: SUPPLY while PWRFAIL_N is asserted, HARD_BRAKE under a brake otherwise, SUPPLY for the
last converter (R417, R426, R427, R528). -/
def Bellows.haltCause (b : Bellows) : DelayCause :=
  if b.powerFail then .supply
  else if b.brake && decide (b.brakeLevel.toNat < Config.floorCalW) then .hardBrake else .supply

/-! ### Grants (R424) -/

/-- An occurrence count a profile needs before it applies (R425). -/
def profileReady : Nat := 4

/-- THINT tags 1-255 a lane's body issues; tag 0 names no profile (R425). -/
def LaneCode.tags (l : LaneCode) : List (BitVec 8) :=
  l.body.filterMap fun i => match i.instr with | .thint t _ _ => if t = 0 then none else some t | _ => none

/-- THINT tags a program issues on an array: F lane n and B lane 8 + n are array n's; in twin mode lanes i and 8 + i run on the pair
of arrays 2i and 2i + 1 (R388). -/
def Program.tags (p : Program) (twin : Bool) (n : Fin 8) : List (BitVec 8) :=
  let i := if twin then n.val / 2 else n.val
  ((p.lanes[i]'(by have := n.isLt; simp only [i]; split <;> omega)).tags
    ++ (p.lanes[8 + i]'(by have := n.isLt; simp only [i]; split <;> omega)).tags).eraseDups

/-- A_i in units of 2^-16 W: the largest profile over the program's tags once every one has four occurrences, 425 W until
then (R424, R425). -/
def Device.activity (d : Device) (slot : Nat) (n : Fin 8) : Nat :=
  let tags := match asFin 16 slot with
    | some k => (match d.progs[k] with | some p => p.tags d.integ.twin n | none => [])
    | none => []
  let prof (t : BitVec 8) := d.bel.profiles.find? fun q => q.slot == slot && q.tag == t && q.array == n
  if tags.isEmpty then 425 * 65536
  else if tags.all fun t => (prof t).any fun q => decide (profileReady ≤ q.count) then
    maxOver (fun t => ((prof t).map Profile.value).getD 0) tags
  else 425 * 65536

/-- P(pc, i) in units of 2^-20 W. -/
def Device.classPower (d : Device) (slot : Nat) (n : Fin 8) (pc : Nat) : Nat := 25 * 2 ^ 20 + d.activity slot n * (16 - pc)

/-- The floor value 25 + 425/16 W in units of 2^-20 W. -/
def floorShare : Nat := 25 * 2 ^ 20 + 425 * 2 ^ 16

/-- The power of array `n` under the unretired PROMISED commands that hold it, the largest of their classes' powers; the
floor value when none does. -/
def Device.arrayShare (d : Device) (ps : List Promise) (n : Fin 8) : Nat :=
  let held := ps.filter fun p => p.resources.getLsbD n.val
  if held.isEmpty then floorShare
  else maxOver (fun p => d.classPower ((p.step.map Prod.fst).getD 0) n p.hdr.powerClass.toNat) held

/-- The delivered power of a set of promises in units of 2^-20 W; package power is 45/41 of it (R424). -/
def Device.delivered (d : Device) (ps : List Promise) : Nat :=
  1320 * 2 ^ 20 + sumOf (d.arrayShare ps) (Bank.indices 8)

/-- G in watts, rounded up. -/
def Device.grantW (d : Device) (ps : List Promise) : Nat := ceilDiv (d.delivered ps * 45) (41 * 2 ^ 20)

/-- The governor settings satisfy R430. -/
def Bellows.governorOk (b : Bellows) : Bool :=
  b.ballastEn && decide (4400 ≤ b.ballastFloor.toNat) && decide (20 ≤ b.slope.toNat)

/-- bellows_grants for a step (R424): what admitting `p` would make G. -/
def Device.bellowsGrants (d : Device) (p : Promise) : Bool :=
  decide (d.delivered (d.adm.promises ++ [p]) * 45 ≤ min d.bel.softW d.bel.hardW * 41 * 2 ^ 20)
    && d.bel.governorOk && !d.bel.brake && !d.bel.powerFail

/-- bellows_grants for an OBJ_PLACE, which names no array (R424). -/
def Device.bellowsGrantsMove (d : Device) : Bool := !d.bel.brake && !d.bel.powerFail

/-- T of R419 in watts. -/
def Device.targetW (d : Device) : Nat := min d.bel.hardW (max d.bel.softW (d.grantW d.adm.promises))

/-- BINDING (BEL_STATUS): what sets T. -/
def Device.bindingCode (d : Device) : Nat :=
  let t := d.targetW
  if t = d.bel.hardW then d.bel.hardCode
  else if t = d.bel.softW then 1 else 7

/-! ### ALERT_N (R434, R474) -/

/-- The highest junction reading. -/
def Bellows.junctionMax (b : Bellows) : Nat := maxOver (fun i => b.junction[i].toNat) (Bank.indices 32)

/-- The highest stack reading. -/
def Device.stackMax (d : Device) : Nat := maxOver (fun i => d.mem.hbm[i].temp.toNat) (Bank.indices 20)

/-- A stack has HOT set (R307). -/
def Device.anyHot (d : Device) : Bool := (Bank.indices 20).any fun i => d.mem.hbm[i].hot

/-- ALERT_N is asserted. -/
def Device.alertN (d : Device) : Bool :=
  d.bel.supplyRange || d.bel.coolantRange || d.bel.flowAlert || decide (104 ≤ d.bel.junctionMax) || d.anyHot
    || d.bel.convOk != 0xF || d.bel.halted || d.pins.startFail

/-! ### Delay counters (R341) -/

/-- `n` ticks of a cause added to every unretired PROMISED command that `hits` picks. -/
def Device.addDelay (d : Device) (cause : DelayCause) (n : Nat) (hits : Promise → Bool) : Device :=
  let count (p : Promise) : Promise := { p with delays := Bank.upd p.delays cause.index (· + n) }
  { d with adm := { d.adm with promises := updWhere hits count d.adm.promises } }

/-- `n` ticks of a cause taken back from every unretired PROMISED command that `hits` picks. -/
def Device.refundDelay (d : Device) (cause : DelayCause) (n : Nat) (hits : Promise → Bool) : Device :=
  let count (p : Promise) : Promise := { p with delays := Bank.upd p.delays cause.index (· - n) }
  { d with adm := { d.adm with promises := updWhere hits count d.adm.promises } }

/-- The promise names array `n`. -/
def Promise.names (p : Promise) (r : Nat) : Bool := p.resources.getLsbD r

/-- The promise names an array. -/
def Promise.namesArray (p : Promise) : Bool := p.resources.toNat % 256 != 0

end Sys2Proof.Machine
end

