-- ==== Sys2Proof/Machine/Flight.lean ====
section
/-! DEFINITION. What is in flight on the blocks, and the IDLE bits of their status registers (R112, R214, R241, R270, R300). -/

namespace Sys2Proof.Machine

/-! ### Lanes in flight -/

/-- The index of a lane in its stream (R118). -/
def laneIndex (lane : Nat) : Nat := if lane < 8 then lane else if lane < 16 then lane - 8 else 0

/-- Programs in their slots. -/
def Device.programs (d : Device) : List (Fin 16 × Program) :=
  (Bank.indices 16).filterMap fun k => (d.progs[k]).map fun p => (k, p)

/-- The arrays a lane runs on: one, or the primary and the shadow of its pair in twin mode; none for the U lane. -/
def Device.laneArrays (d : Device) (lane : Nat) : List (Fin 8) :=
  if 16 ≤ lane then []
  else
    let i := laneIndex lane
    if d.integ.twin then [clampFin 7 (2 * i), clampFin 7 (2 * i + 1)] else [clampFin 7 i]

/-- The array of a lane whose accesses and events stand for the pair: the primary in twin mode (R388). -/
def Device.laneArray (d : Device) (lane : Nat) : Fin 8 := (d.laneArrays lane).headD (clampFin 7 (laneIndex lane))

/-- The index of the lanes that run on an array (R388). -/
def Device.arrayLane (d : Device) (n : Fin 8) : Nat := if d.integ.twin then n.val / 2 else n.val

/-- A lane of a step. -/
def StepState.lane (st : StepState) (n : Fin 17) : LaneState := st.lanes[n]

/-- Every lane of every step in flight. -/
def Device.allLanes (d : Device) : List (Fin 16 × Nat × Fin 17 × LaneState) :=
  d.programs.flatMap fun (k, p) => p.steps.flatMap fun st => (Bank.indices 17).map fun n => (k, st.step, n, st.lane n)

/-- A slot is released to a lane of an array (SEQ_STATUS.ACTIVE, R181). -/
def Device.slotHeld (d : Device) (n : Fin 8) : Bool :=
  d.allLanes.any fun (_, _, lane, l) => l.active && (d.laneArrays lane.val).contains n

/-- Instructions issued on an array are in flight. -/
def Device.arrayBusy (d : Device) (n : Fin 8) : Bool :=
  d.allLanes.any fun (_, _, lane, l) => (d.laneArrays lane.val).contains n && !l.inflight.isEmpty

/-! ### Arrays -/

/-- A segment of a whole-array assay is running on an array (R407). -/
def Integrity.assaying (i : Integrity) (n : Fin 8) : Bool :=
  (i.run.toList ++ i.atOnce).any fun r => r.array == n && r.active

/-- The array is empty: no instruction in flight, no drain-latch addition waiting, no assay segment. -/
def Device.arrayEmpty (d : Device) (n : Fin 8) : Bool :=
  !d.arrayBusy n && !d.integ.assaying n
    && (Bank.indices 20).all fun k => d.mem.hbm[k].adderWaiting.all fun w => w.1 != some n

/-! ### Tundish and Aster -/

/-- The steps in flight with their programs. -/
def Device.flightSteps (d : Device) : List (Program × StepState) := d.programs.flatMap fun x => x.2.steps.map fun st => (x.2, st)

/-- A bucket is FILLING, FULL or REDUCING. -/
def Bucket.open' (b : Bucket) : Bool := b.state == .filling || b.state == .full || b.state == .reducing

/-- GX_STATUS.IDLE. -/
def Device.gxIdle (d : Device) : Bool := !(d.flightSteps.any fun x => x.2.buckets.any Bucket.open')

/-- UPD_STATUS.IDLE. -/
def Device.updIdle (d : Device) : Bool :=
  !(d.flightSteps.any fun x => x.2.units.any fun u => u.state != .done && u.state != .discarded)

def Byquel.isTattn : Byquel → Bool
  | .tattn .. => true
  | _ => false

/-- A TATTN has issued and not retired, paused for a re-prefill it may be (R259). -/
def Device.attnFlies (d : Device) : Bool :=
  (d.allLanes.any fun x => x.2.2.2.inflight.any fun f => f.instr.isTattn) || d.aster.walks.any fun w => w.paused.isSome

/-- AST_STATUS.GATHER_WAIT: a gather queue holds rows. -/
def Aster.gathers (a : Aster) : Bool := a.queues.any fun q => !q.rows.isEmpty

/-- AST_STATUS.IDLE. -/
def Device.asterIdle (d : Device) : Bool := !d.attnFlies && !d.aster.gathers

/-! ### Hoist engines -/

/-- Set stacks of a mask. -/
def maskStacks (m : BitVec 20) : List (Fin 20) := (Bank.indices 20).filter fun k => m.getLsbD k.val

/-- What a range leaves after an interval is cut out of it: `(offset, length)` pieces. -/
def cutOut (seg : Nat × Nat) (lo hi : Nat) : List (Nat × Nat) :=
  let (a, n) := seg
  ((if a < min (a + n) lo then [(a, min (a + n) lo - a)] else []) ++
    (if max a hi < a + n then [(max a hi, a + n - max a hi)] else []))

/-- The place is the target's. -/
def Target.isAt (t : Target) (p : Place) : Bool :=
  match t, p with
  | .t0 n, .t0 k => n == k
  | .t1 h, .t1 k _ => h == k
  | .t2 m, .t2 k => m == k
  | _, _ => false

/-- The pieces of a range that lie in no extent of a list. -/
def outside (es : List Extent) (off len : Nat) : List (Nat × Nat) :=
  if len = 0 then [] else
    es.foldl (fun segs e => segs.flatMap fun s => cutOut s e.start (e.start + e.length)) [(off, len)]

/-- The pieces of a range that a target does not hold yet. -/
def Obj.missing (o : Obj) (t : Target) (off len : Nat) : List (Nat × Nat) :=
  outside (o.extents.filter fun e => t.isAt e.place) off len

/-- The set stacks of a mask that hold a byte of a range of a placement, 2 KiB unit by unit (R278). -/
def touched (m : BitVec 20) (lo hi : Nat) : List (Fin 20) :=
  let ss := maskStacks m
  let u0 := lo / 2048
  let n := ceilDiv hi 2048 - u0
  if ss.length ≤ n then ss
  else (List.range n).filterMap fun i => ss[(u0 + i) % ss.length]?

/-- Stacks that hold source bytes of a move, and stacks that receive its bytes. -/
def Obj.sourceStacks (o : Obj) (t : Target) (off len : Nat) : List (Fin 20) :=
  let fromExt := o.extents.flatMap fun e =>
    match e.place with
    | .t2 m =>
      let lo := max off e.start
      let hi := min (off + len) (e.start + e.length)
      if t.isAt e.place || decide (hi ≤ lo) then [] else touched m (lo - e.start) (hi - e.start)
    | _ => []
  let fromHome := match o.home, t with
    | _, .home => []
    | .t2 m, _ => (outside o.extents off len).flatMap fun s => touched m s.1 (s.1 + s.2)
    | _, _ => []
  fromExt ++ fromHome

def Obj.targetStacks (o : Obj) (t : Target) (off len : Nat) : List (Fin 20) :=
  match t, o.home with
  | .t2 m, _ => (o.missing t off len).flatMap fun s => touched m (s.1 - off) (s.1 + s.2 - off)
  | .home, .t2 m =>
    o.extents.flatMap fun e =>
      let lo := max off e.start
      let hi := min (off + len) (e.start + e.length)
      if hi ≤ lo then [] else touched m lo hi
  | _, _ => []

/-- The Hoist engine of a move: that of the lowest-numbered stack it touches, 0 with no T2 side. -/
def Obj.engine (o : Obj) (t : Target) (off len : Nat) : Fin 4 :=
  match o.sourceStacks t off len ++ o.targetStacks t off len with
  | [] => 0
  | s :: r => clampFin 3 ((r.foldl (fun m k => min m k.val) s.val) / 5)

/-- Operations of the objects' queues that are moves on a Hoist engine, with their states. -/
def Device.movesQueued (d : Device) (e : Fin 4) : List HeadState :=
  d.mem.objects.flatMap fun o => o.queue.filterMap fun q =>
    match q.op with
    | .place _ t off len => if o.engine t off len = e then some q.state else none
    | _ => none

/-- HST_STATUS.IDLE. -/
def Device.hoistIdle (d : Device) (e : Fin 4) : Bool := (d.movesQueued e).isEmpty

end Sys2Proof.Machine
end

