-- ==== Sys2Proof/Machine/Num.lean ====
section
/-! DEFINITION. Exact numbers and the formats of the device (R44-R59, R64-R66): every value is a dyadic number
`m * 2^e`, every operation is formed exactly and rounded once, as the spec states each. -/

namespace Sys2Proof.Machine

/-- The dyadic number `m * 2^e`. -/
structure Dyad where
  m : Int
  e : Int
deriving DecidableEq, Repr, Inhabited

/-- `2^k` as a natural number, 1 for a negative `k`. -/
def pow2 (k : Int) : Nat := 2 ^ k.toNat

/-- Zero. -/
def Dyad.zero : Dyad := ⟨0, 0⟩

/-- An integer. -/
def Dyad.ofInt (n : Int) : Dyad := ⟨n, 0⟩

/-- Both mantissas brought to the smaller of the two exponents. -/
def Dyad.align (a b : Dyad) : Int × Int × Int :=
  let e := min a.e b.e
  (a.m * pow2 (a.e - e), b.m * pow2 (b.e - e), e)

def Dyad.add (a b : Dyad) : Dyad :=
  let (x, y, e) := a.align b
  ⟨x + y, e⟩

def Dyad.neg (a : Dyad) : Dyad := ⟨-a.m, a.e⟩

def Dyad.sub (a b : Dyad) : Dyad := a.add b.neg

def Dyad.mul (a b : Dyad) : Dyad := ⟨a.m * b.m, a.e + b.e⟩

def Dyad.abs (a : Dyad) : Dyad := ⟨a.m.natAbs, a.e⟩

/-- The number times `2^k`. -/
def Dyad.scale (a : Dyad) (k : Int) : Dyad := ⟨a.m, a.e + k⟩

def Dyad.lt (a b : Dyad) : Bool :=
  let (x, y, _) := a.align b
  decide (x < y)

def Dyad.isZero (a : Dyad) : Bool := a.m == 0

/-- The larger of two numbers. -/
def Dyad.max (a b : Dyad) : Dyad := if a.lt b then b else a

/-- `⌊log2 |x|⌋` of a non-zero number. -/
def Dyad.binade (a : Dyad) : Int := (Nat.log2 a.m.natAbs : Int) + a.e

/-- A floating format: exponent and fraction bits, bias and the largest exponent code that is a binade (R47, R48, R51,
R52; H16 keeps its top code for the specials of R49). -/
structure Fmt where
  expBits : Nat
  fracBits : Nat
  bias : Nat
  maxCode : Nat
deriving DecidableEq, Repr, Inhabited

def Fmt.z16 : Fmt := ⟨8, 7, 127, 255⟩
def Fmt.w32 : Fmt := ⟨8, 23, 127, 255⟩
def Fmt.h16 : Fmt := ⟨5, 10, 15, 30⟩
def Fmt.z8a : Fmt := ⟨4, 3, 7, 15⟩
def Fmt.z8b : Fmt := ⟨5, 2, 15, 31⟩
def Fmt.z4 : Fmt := ⟨2, 1, 1, 3⟩

/-- The encoding of the largest finite magnitude. -/
def Fmt.maxMag (f : Fmt) : Nat := f.maxCode * 2 ^ f.fracBits + (2 ^ f.fracBits - 1)

/-- The place of the sign bit. -/
def Fmt.signBit (f : Fmt) : Nat := f.expBits + f.fracBits

/-- The value of an encoding (R47); a negative zero decodes as zero (R46). -/
def Fmt.decode (f : Fmt) (code : Nat) : Dyad :=
  let frac := code % 2 ^ f.fracBits
  let ex := code / 2 ^ f.fracBits % 2 ^ f.expBits
  let neg := code / 2 ^ f.signBit % 2 == 1
  let mag : Nat := if ex = 0 then frac else 2 ^ f.fracBits + frac
  let e : Int := (if ex = 0 then 1 else (ex : Int)) - f.bias - f.fracBits
  ⟨if neg then -(mag : Int) else mag, e⟩

/-- How a rounding is made: to nearest, ties to even; to nearest, ties away from zero (the sticky case of R61);
stochastic with a 16-bit draw (R66). -/
inductive Rounding where
  | rne | nearestAway | sr (r : BitVec 16)
deriving DecidableEq, Repr, Inhabited

/-- What a narrowing did, for the histogram of R77. -/
inductive Outcome where
  | zero | underflow | saturated | finite
deriving DecidableEq, Repr, Inhabited

/-- The integer an exact magnitude `m * 2^k` (a multiple of the grid step) rounds to. -/
def roundMag (r : Rounding) (m : Nat) (k : Int) : Nat :=
  if 0 ≤ k then m * pow2 k
  else
    let d := pow2 (-k)
    let a := m / d
    let rem := m % d
    match r with
    | .rne => if 2 * rem > d ∨ (2 * rem = d ∧ a % 2 = 1) then a + 1 else a
    | .nearestAway => if 2 * rem ≥ d then a + 1 else a
    | .sr draw => if rem * 65536 / d + draw.toNat ≥ 65536 then a + 1 else a

/-- A number rounded into a format: its encoding and what happened (R45, R46, R66). -/
def Fmt.round (f : Fmt) (r : Rounding) (x : Dyad) : Nat × Outcome :=
  if x.m = 0 then (0, .zero)
  else
    let b := x.binade
    let p : Int := f.fracBits
    let u := Max.max b (1 - (f.bias : Int)) - p
    let a := roundMag r x.m.natAbs (x.e - u)
    let code : Int := (u + p + f.bias) * (2 ^ f.fracBits : Nat) + a - (2 ^ f.fracBits : Nat)
    let sign := if x.m < 0 then 2 ^ f.signBit else 0
    if a = 0 then (0, .underflow)
    else if code > (f.maxMag : Int) then (f.maxMag + sign, .saturated)
    else (code.toNat + sign, .finite)

/-- The W32 encoding of an exact result, rounded to nearest-even and saturated (R45). -/
def toW32 (x : Dyad) : Word32 := BitVec.ofNat 32 (Fmt.w32.round .rne x).1

/-- The value of a W32 word. -/
def ofW32 (w : Word32) : Dyad := Fmt.w32.decode w.toNat

/-- The value of a Z16 word. -/
def ofZ16 (w : Word16) : Dyad := Fmt.z16.decode w.toNat

/-- One W32 addition, subtraction, multiplication, maximum, minimum (R126). -/
def w32Add (a b : Word32) : Word32 := toW32 ((ofW32 a).add (ofW32 b))
def w32Sub (a b : Word32) : Word32 := toW32 ((ofW32 a).sub (ofW32 b))
def w32Mul (a b : Word32) : Word32 := toW32 ((ofW32 a).mul (ofW32 b))
def w32Max (a b : Word32) : Word32 := toW32 ((ofW32 a).max (ofW32 b))
def w32Min (a b : Word32) : Word32 := toW32 (if (ofW32 a).lt (ofW32 b) then ofW32 a else ofW32 b)

/-- The largest finite W32 value. -/
def w32Largest : Word32 := 0x7FFFFFFF

/-- Z16 to W32, exact (R48). -/
def z16ToW32 (z : Word16) : Word32 := toW32 (ofZ16 z)

/-- A W32 value narrowed to Z16. -/
def w32ToZ16 (r : Rounding) (w : Word32) : Word16 × Outcome :=
  let (c, o) := Fmt.z16.round r (ofW32 w)
  (BitVec.ofNat 16 c, o)

/-! ### H16 import and export (R49, R50) -/

/-- What an import or export did besides rounding (R49, R50, R78, R297). -/
inductive H16Note where
  | plain | special | saturated | underflow
deriving DecidableEq, Repr, Inhabited

/-- H16 to Z16 (R49). -/
def h16ToZ16 (h : Word16) : Word16 × H16Note :=
  let ex := bitsOf h.toNat 14 10
  let fr := bitsOf h.toNat 9 0
  if ex = 31 then
    if fr ≠ 0 then (0, .special)
    else (if bitsOf h.toNat 15 15 = 1 then 0xFFFF else 0x7FFF, .special)
  else (BitVec.ofNat 16 (Fmt.z16.round .rne (Fmt.h16.decode h.toNat)).1, .plain)

/-- An exact value to H16 (R50). -/
def toH16 (x : Dyad) : Word16 × H16Note :=
  let (c, o) := Fmt.h16.round .rne x
  (BitVec.ofNat 16 c, match o with | .saturated => .saturated | .underflow => .underflow | _ => .plain)

/-! ### Canonical accumulation (R60, R61) -/

/-- Every element of a list with its position's chunk: the list cut into chunks of `k` (structural on `fuel`). -/
def chunksOf {α : Type} (k : Nat) : Nat → List α → List (List α)
  | 0, _ => []
  | _, [] => []
  | fuel + 1, l => l.take k :: chunksOf k fuel (l.drop k)

/-- The anchor of a chunk: the largest binade of its non-zero products (R61). -/
def anchorOf (ps : List Dyad) : Option Int :=
  ps.foldl (fun (a : Option Int) (p : Dyad) => if p.m = 0 then a else
    match a with
    | none => some p.binade
    | some x => some (Max.max x p.binade)) none

/-- One product added to the 96-bit window anchored at `a`: the window's integer and the sticky bit (R61). -/
def windowAdd (a : Int) (w : Int × Bool) (p : Dyad) : Int × Bool :=
  if p.m = 0 then w
  else if p.binade < a - 80 then (w.1, true)
  else
    let k := p.e - (a - 88)
    let mag := p.m.natAbs
    let t : Nat := if 0 ≤ k then mag * pow2 k else mag / pow2 (-k)
    let lost : Bool := if 0 ≤ k then false else mag % pow2 (-k) != 0
    (w.1 + (if p.m < 0 then -(t : Int) else t), w.2 || lost)

/-- An exact value formed in W32 from values whose histories it shares (R45). -/
def Traced.exact (x : Dyad) (froms : List Traced) : Traced :=
  let (c, o) := Fmt.w32.round .rne x
  { word := BitVec.ofNat 32 c
    sat := o == .saturated || froms.any Traced.sat
    under := o == .underflow || froms.any Traced.under }

/-- A word with no history. -/
def plain (w : Word32) : Traced := { word := w }

def Traced.value (t : Traced) : Dyad := ofW32 t.word

/-- W32 operations that keep what happened (R45, R126); a maximum or minimum keeps what happened to the operand it gives. -/
def tAdd (a b : Traced) : Traced := .exact (a.value.add b.value) [a, b]
def tSub (a b : Traced) : Traced := .exact (a.value.sub b.value) [a, b]
def tMul (a b : Traced) : Traced := .exact (a.value.mul b.value) [a, b]
def tMax (a b : Traced) : Traced := if a.value.lt b.value then .exact b.value [b] else .exact a.value [a]
def tMin (a b : Traced) : Traced := if a.value.lt b.value then .exact a.value [a] else .exact b.value [b]

/-- The rounded sum of one chunk of products, with what its rounding did (R60 steps 2 and 3, R61). -/
def chunkTotal (ps : List Dyad) : Traced :=
  match anchorOf ps with
  | none => plain 0
  | some a =>
    let (v, sticky) := ps.foldl (windowAdd a) (0, false)
    let (c, o) := Fmt.w32.round (if sticky then .nearestAway else .rne) ⟨v, a - 88⟩
    { word := BitVec.ofNat 32 c, sat := o == .saturated, under := o == .underflow }

/-- The rounded sum of one chunk of products. -/
def chunkSum (ps : List Dyad) : Word32 := (chunkTotal ps).word

/-- A canonical accumulation of exact products, started at an addend already converted to W32 (R60), with what happened in it. -/
def canonTotal (start : Traced) (ps : List Dyad) : Traced :=
  (chunksOf 64 (ps.length + 1) ps).foldl (fun acc c => tAdd acc (chunkTotal c)) start

/-- A canonical accumulation of exact products, started at an addend already converted to W32 (R60). -/
def canonSumFrom (start : Word32) (ps : List Dyad) : Word32 := (canonTotal (plain start) ps).word

/-- A canonical accumulation started at zero (R60). -/
def canonSum (ps : List Dyad) : Word32 := canonSumFrom 0 ps

/-- The canonical sum of exact products formed from traced values: a saturation among them is one of the sum (log entry 18). -/
def tSum (ps : List Dyad) (froms : List Traced) : Traced :=
  let t := canonTotal (plain 0) ps
  { t with sat := t.sat || froms.any Traced.sat }

/-! ### B8 and S1 (R56-R59) -/

/-- The value of a B8 byte under an agreed exponent code (R56); 0x80 decodes as -127. -/
def b8Decode (c : BitVec 8) (q : Byte) : Dyad :=
  let v : Int := if q = 0x80 then -127 else q.toInt
  ⟨v, (c.toNat : Int) - 127 - 6⟩

/-- A W32 value encoded in B8 (R57): the byte and whether it saturated. -/
def b8Encode (c : BitVec 8) (draw : BitVec 16) (w : Word32) : Byte × Bool :=
  let x := ofW32 w
  let k := x.e - ((c.toNat : Int) - 127 - 6)
  let a := roundMag (.sr draw) x.m.natAbs k
  let mag := Min.min a 127
  let v : Int := if x.m < 0 then -(mag : Int) else mag
  (BitVec.ofInt 8 v, decide (a > 127))

/-- One block of up to 256 W32 values encoded in S1: the sign bits and the magnitude (R59). -/
def s1Encode (xs : List Word32) : List Bool × Word16 :=
  let s := canonSum (xs.map fun w => (ofW32 w).abs)
  (xs.map fun w => decide ((ofW32 w).m < 0), BitVec.ofNat 16 (Fmt.z16.round .rne ((ofW32 s).scale (-8))).1)

/-- The value of an S1 element (R58). -/
def s1Decode (neg : Bool) (m : Word16) : Dyad := if neg then (ofZ16 m).neg else ofZ16 m

/-! ### Z4 blocks (R53, R55) -/

/-- The smallest `k` with `|x| ≤ 6 * 2^k`, for a non-zero magnitude: `⌈log2 (m / 6)⌉` (R55). -/
def z4Ceil (x : Dyad) : Int :=
  let k := x.binade - 2
  -- 6 * 2^k lies in the binade of x or the one above
  let fits (j : Int) : Bool := !((⟨6, j⟩ : Dyad).lt x.abs)
  if fits (k - 1) then k - 1 else if fits k then k else k + 1

/-- The scale code of a block (R55). -/
def z4Scale (xs : List Word32) : BitVec 8 :=
  let m := xs.foldl (fun a w => a.max (ofW32 w).abs) Dyad.zero
  if m.m = 0 then 0
  else BitVec.ofNat 8 (Min.min 255 (z4Ceil m + 127).toNat)

/-- The value of a Z4 element under its block scale (R52, R53). -/
def z4Decode (c : BitVec 8) (code : Nat) : Dyad := (Fmt.z4.decode code).scale ((c.toNat : Int) - 127)

/-- A W32 value rounded to the Z4 grid of its block (R55). -/
def z4Encode (c : BitVec 8) (r : Rounding) (w : Word32) : Nat × Outcome :=
  Fmt.z4.round r ((ofW32 w).scale (127 - (c.toNat : Int)))

end Sys2Proof.Machine
end

