-- ==== Sys2Proof/Machine/Ops.lean ====
section
/-! DEFINITION. The named operations every meaning is written over: how a command acts, byte stores, interrupts and event
occurrences, MSI-X messages, replies and the header checks of a host command. -/

namespace Sys2Proof.Machine

/-! ### Banks of the device -/

def Device.updPort (d : Device) (p : Fin 2) (f : HostPort → HostPort) : Device := { d with ports := Bank.upd d.ports p f }
def Device.updArray (d : Device) (n : Fin 8) (f : ArrayState → ArrayState) : Device :=
  { d with arrays := Bank.upd d.arrays n f }

/-- Every array of a lane. -/
def Device.onArrays (d : Device) (lane : Nat) (f : ArrayState → ArrayState) : Device :=
  (d.laneArrays lane).foldl (fun d n => d.updArray n f) d
def Device.updCore (d : Device) (c : Fin 4) (f : Core → Core) : Device := { d with cores := Bank.upd d.cores c f }
def Device.updStack (d : Device) (k : Fin 20) (f : Stack → Stack) : Device :=
  { d with mem := { d.mem with hbm := Bank.upd d.mem.hbm k f } }
def Device.updHearth (d : Device) (h : Fin 8) (f : Hearth → Hearth) : Device :=
  { d with mem := { d.mem with hearths := Bank.upd d.mem.hearths h f } }
def Device.updMem (d : Device) (f : MemoryTiers → MemoryTiers) : Device := { d with mem := f d.mem }
def Device.updOct (d : Device) (p : Fin 8) (f : OctPort → OctPort) : Device :=
  { d with fab := { d.fab with ports := Bank.upd d.fab.ports p f } }
def Device.updProg (d : Device) (k : Fin 16) (f : Program → Program) : Device :=
  { d with progs := Bank.upd d.progs k (Option.map f) }
def Device.setProg (d : Device) (k : Fin 16) (p : Option Program) : Device :=
  { d with progs := Bank.upd d.progs k (fun _ => p) }
def Device.updSpace (d : Device) (k : Fin 16) (f : Space → Space) : Device :=
  { d with aster := { d.aster with spaces := Bank.upd d.aster.spaces k (Option.map f) } }
def Device.setSpace (d : Device) (k : Fin 16) (p : Option Space) : Device :=
  { d with aster := { d.aster with spaces := Bank.upd d.aster.spaces k (fun _ => p) } }

/-- A message leaves the block. -/
def Device.emit (d : Device) (o : Output) : Device := { d with out := d.out ++ [o] }

/-- The next free value and the device that has used it (log entry 2). -/
def Device.takeFree (d : Device) : BitVec 64 × Device := (Config.freeValue d.free, { d with free := d.free + 1 })

/-! ### Byte stores in canonical form -/

/-- One byte stored; a zero byte is not listed, since an unlisted byte reads zero. -/
def Cells.put : List Host.Cell → Nat → Byte → List Host.Cell
  | [], a, b => if b = 0 then [] else [(a, b)]
  | (x, v) :: r, a, b =>
    if a < x then (if b = 0 then (x, v) :: r else (a, b) :: (x, v) :: r)
    else if a = x then (if b = 0 then r else (a, b) :: r)
    else (x, v) :: Cells.put r a b

/-- The byte at an address, zero when unlisted. -/
def Cells.get : List Host.Cell → Nat → Byte
  | [], _ => 0
  | (x, v) :: r, a => if a = x then v else Cells.get r a

/-- Consecutive bytes stored from an address up. -/
def Cells.store (m : List Host.Cell) (a : Nat) : List Byte → List Host.Cell
  | [] => m
  | b :: r => Cells.store (Cells.put m a b) (a + 1) r

/-- `n` consecutive bytes from an address up. -/
def Cells.load (m : List Host.Cell) (a : Nat) : Nat → List Byte
  | 0 => []
  | n + 1 => Cells.get m a :: Cells.load m (a + 1) n

/-- The bytes from `a` to before `a + n` forgotten. -/
def Cells.erase (m : List Host.Cell) (a n : Nat) : List Host.Cell := m.filter fun c => decide (c.1 < a ∨ a + n ≤ c.1)

/-- The canonical form: addresses strictly rising, no zero byte. -/
def Cells.wf : List Host.Cell → Bool
  | [] => true
  | [(_, v)] => v != 0
  | (x, v) :: (y, w) :: r => v != 0 && decide (x < y) && Cells.wf ((y, w) :: r)

/-- One byte noted in a log of written bytes, zero bytes listed too. -/
def Cells.note : List Host.Cell → Nat → Byte → List Host.Cell
  | [], a, b => [(a, b)]
  | (x, v) :: r, a, b =>
    if a < x then (a, b) :: (x, v) :: r else if a = x then (a, b) :: r else (x, v) :: Cells.note r a b

/-- Consecutive bytes noted. -/
def Cells.noteAll (m : List Host.Cell) (a : Nat) : List Byte → List Host.Cell
  | [] => m
  | b :: r => Cells.noteAll (Cells.note m a b) (a + 1) r

/-! ### Device memory (R274, R303) -/

/-- Ranges without the `n` bytes from an address up. -/
def cutRanges (rs : List (Nat × Nat × Nat)) (a n : Nat) : List (Nat × Nat × Nat) :=
  rs.flatMap fun (b, len, k) =>
    (if b < a then [(b, min len (a - b), k)] else [])
      ++ (if a + n < b + len then [(max b (a + n), b + len - max b (a + n), k)] else [])

/-- The byte at a device address: undefined while nothing has written it since its object was created (R303). -/
def MemoryTiers.byteAt (m : MemoryTiers) (a : Nat) : Byte :=
  match m.fresh.find? fun r => decide (r.1 ≤ a ∧ a < r.1 + r.2.1) with
  | some r => Config.freshByte r.2.2 a
  | none => Cells.get m.mem a

def MemoryTiers.load (m : MemoryTiers) (a n : Nat) : List Byte := (List.range n).map fun i => m.byteAt (a + i)

/-- The lines that a range touches leave a hearth (R286). -/
def Hearth.dropLines (h : Hearth) (a n : Nat) : Hearth :=
  { h with lines := h.lines.filter fun l => decide (l.2 < a / 256 ∨ (a + n - 1) / 256 < l.2) }

/-- A write of `n` bytes invalidates the lines it touches in every hearth but the writer's own (R286). -/
def MemoryTiers.invalidate (m : MemoryTiers) (own : Option (Fin 8)) (a n : Nat) : MemoryTiers :=
  if n = 0 ∨ (Bank.indices 8).all (fun h => m.hearths[h].lines.isEmpty) then m
  else { m with hearths := Vector.ofFn fun h => if own = some h then m.hearths[h] else m.hearths[h].dropLines a n }

/-- Bytes written from a device address up, by an array where `own` names it. -/
def MemoryTiers.store (m : MemoryTiers) (a : Nat) (bs : List Byte) (own : Option (Fin 8) := none) : MemoryTiers :=
  { m with mem := Cells.store m.mem a bs, fresh := cutRanges m.fresh a bs.length }.invalidate own a bs.length

/-- `n` zero bytes written. -/
def MemoryTiers.zero (m : MemoryTiers) (a n : Nat) : MemoryTiers :=
  { m with mem := Cells.erase m.mem a n, fresh := cutRanges m.fresh a n }.invalidate none a n

/-! ### Waiting at the adders of a stack (R311) -/

/-- Ticks of the present wait of drain latches not yet counted. -/
def Stack.stallTicks (s : Stack) (now : Tick) : Nat :=
  if s.adderWaiting.any fun w => w.1.isSome then (now - s.stallSince).toNat else 0

/-- STK_ADDER.STALL as it reads. -/
def Stack.stallRead (s : Stack) (now : Tick) : Word32 := satAdd s.adderStall (s.stallTicks now)

/-- The wait counted up to now. -/
def Stack.settle (s : Stack) (now : Tick) : Stack := { s with adderStall := s.stallRead now, stallSince := now }

/-- The requester number under which the adders of a stack appear among its requests (log entry 143). -/
def adderRequester : Nat := 65536

/-- Bytes of stack bandwidth that a group takes, 8 for each entry (R310). -/
def AdderGroup.traffic (g : AdderGroup) : Nat := 8 * (g.addends.length + g.zero / 4)

/-- The deadline of a request without one (R291). -/
def noDeadline : Nat := 2 ^ 64 - 1

/-- A group enters the queue; its reads and writes are asked for in the WRITE class (R310). -/
def Stack.takeGroup (s : Stack) (g : AdderGroup) : Stack :=
  { s with
    adderQueue := s.adderQueue ++ [g]
    requests := s.requests
      ++ [{ cls := some 1, read := false, requester := adderRequester, deadline := noDeadline, bytes := g.traffic }] }

/-- A group waits for room. -/
def Stack.waitGroup (s : Stack) (n : Option (Fin 8)) (g : AdderGroup) (now : Tick) : Stack :=
  { s.settle now with adderWaiting := s.adderWaiting ++ [(n, g)] }

/-! ### Links, roles -/

/-- The port's link is up (R505): not in DL_Down, PERSTn_N not asserted, not in D3hot. -/
def HostPort.linkUp (p : HostPort) : Bool := p.dlUp && !p.perst && !p.d3hot

def Device.linkUp (d : Device) (p : Fin 2) : Bool := d.ports[p].linkUp

/-- The port holds the admin role (R505). -/
def Device.isAdmin (d : Device) (p : Fin 2) : Bool := d.admin.port == p

/-- The other port. -/
def otherPort (p : Fin 2) : Fin 2 := if p.val = 0 then 1 else 0

/-! ### Interrupt sources (R445, R446) -/

/-- An internal source asserted for one control-clock cycle: sensed when its FILTER is at most 1 (R446). -/
def Device.pulse (d : Device) (s : Nat) : Device :=
  match asFin 512 s with
  | none => d
  | some i =>
    if d.intc.src[i].filter.toNat ≤ 1 then
      { d with intc := { d.intc with src := Bank.upd d.intc.src i fun x => { x with pend := true } } }
    else d

/-- Interrupt source numbers, which are also the order keys of R457. -/
def srcIntake (p : Fin 2) : Nat := 10 + p.val
def srcAdmission : Nat := 12
def srcTimebase : Nat := 13
def srcEvr : Nat := 14
def srcSecurity : Nat := 15
def srcArray (n : Nat) : Nat := 16 + n
def srcHearth (h : Nat) : Nat := 24 + h
def srcStack (s : Nat) : Nat := 32 + s
def srcHoist (b : Nat) : Nat := 52 + b
def srcGx : Nat := 56
def srcUpdate : Nat := 57
def srcAster : Nat := 58
def srcOct (p : Nat) : Nat := 59 + p
def srcJob : Nat := 67
def srcBellows : Nat := 68
def srcIntegrity : Nat := 69

/-- The interrupt source of a block by its index (*Block indices* of R465, *Interrupt sources* of R445); TOP, INTC and
PORTCFG have none and take the EVR's, as R457 gives the register checks. -/
def blockSource (b : Nat) : Nat :=
  if b = 1 then 10 else if b = 2 then 12
  else if 3 ≤ b ∧ b < 11 then 16 + (b - 3)
  else if b = 11 then 56 else if b = 12 then 58
  else if 13 ≤ b ∧ b < 21 then 24 + (b - 13)
  else if 21 ≤ b ∧ b < 41 then 32 + (b - 21)
  else if b = 41 then 67 else if b = 42 then 68
  else if b = 45 then 15 else if b = 46 then 69 else if b = 48 then 13 else 14

/-! ### Event occurrences (R457, R461) -/

/-- A severity dropped is counted under its own count (R454, R457). -/
def Evr.countDrop (e : Evr) : Severity → Evr
  | .info => { e with dropInfo := bump e.dropInfo }
  | .warn => { e with dropWarn := bump e.dropWarn }
  | .error => { e with dropError := bump e.dropError }
  | .fatal => e

/-- The control-clock cycle in which a block instance presents an occurrence: at most one a cycle, the others after it in the order
in which it raised them (R457). -/
def Evr.presented (e : Evr) (o : Occurrence) : Nat :=
  e.queue.foldl (fun t x => if x.key = o.key ∧ t ≤ x.arrives then x.arrives + 1 else t) o.arrives

/-- An occurrence put into its place of the input queue: by the cycle it arrives in, then by its order key (R457). -/
def insertOccurrence (o : Occurrence) : List Occurrence → List Occurrence
  | [] => [o]
  | x :: l =>
    if o.arrives < x.arrives ∨ (o.arrives = x.arrives ∧ o.key < x.key) then o :: x :: l else x :: insertOccurrence o l

/-- An occurrence reaches the recorder's input queue; one other than FATAL that meets 1,024 waiting is dropped and
counted (R457). -/
def Evr.enqueue (e : Evr) (o : Occurrence) : Evr :=
  if !e.accepting then e
  else if o.severity ≠ .fatal ∧ 1024 ≤ (e.queue.filter fun x => x.severity != .fatal).length then e.countDrop o.severity
  else { e with queue := insertOccurrence { o with arrives := e.presented o } e.queue }

/-- A block raises an event: the occurrence is stamped with the master's tick (log entry 131) and queued, and the block's interrupt source is asserted (R445,
R453, R457). -/
def Device.logEvent (d : Device) (code : Nat) (sev : Severity) (source : Nat) (data : Nat) (key : Nat) : Device :=
  let o : Occurrence :=
    { code := BitVec.ofNat 16 code, severity := sev, source := BitVec.ofNat 32 source, tick := d.tb.now,
      data := BitVec.ofNat 192 data, key := key, arrives := d.tb.now.toNat }
  { d with evr := d.evr.enqueue o }.pulse key

/-- A later occurrence of an event that its rule lets be raised once a step: the repeat count of its record folds it (R182, R216, R272,
R290, R322; log entry 122). -/
def Device.repeatEvent (d : Device) (code : Nat) (sev : Severity) (source : Nat) (key : Nat) : Device :=
  let o : Occurrence :=
    { code := BitVec.ofNat 16 code, severity := sev, source := BitVec.ofNat 32 source, tick := d.tb.now, data := 0, key := key,
      arrives := d.tb.now.toNat, again := true }
  { d with evr := d.evr.enqueue o }

/-! ### MSI-X (R503, R504) -/

/-- A port raises a vector: nothing while MSI-X Enable is 0 or the link is down; a masked vector is held pending. -/
def Device.msix (d : Device) (p : Fin 2) (v : BitVec 8) : Device :=
  let q := d.ports[p]
  if !q.msixEnable || !q.linkUp then d
  else if q.msixMask || (q.msix[v.toNat]'(v.isLt)).masked then
    d.updPort p fun q => { q with msix := Bank.upd q.msix ⟨v.toNat, v.isLt⟩ fun e => { e with pend := true } }
  else d.emit (.msix p v)

/-! ### Writes to host memory (R329, R509) -/

/-- A DMA write of a command's data to a host: discarded and counted while the link is down (R509). -/
def Device.hostWrite (d : Device) (p : Fin 2) (a : Word64) (bs : List Byte) : Device :=
  if d.linkUp p then
    (d.updPort p fun q => { q with hostMem := Cells.noteAll q.hostMem a.toNat bs }).emit (.dmaWrite p a bs.length)
  else d.updPort p fun q => { q with lostWrites := bump q.lostWrites }

/-! ### Replies (R329-R331) -/

/-- Entries of a reply ring, 2^SIZE_LOG2 with 8-16 legal and any other value acting as 10 (INT_REPLY_CFG). -/
def HostPort.ringSize (p : HostPort) : Nat :=
  2 ^ (if 8 ≤ p.sizeLog2.toNat ∧ p.sizeLog2.toNat ≤ 16 then p.sizeLog2.toNat else 10)

/-- Commands of a port without a final reply (INT_CREDIT.OUTSTANDING). -/
def Device.outstanding (d : Device) (p : Fin 2) : Nat := (d.opens.filter fun c => c.hdr.port == p).length

/-- Replies written and not yet freed by INT_REPLY_HEAD. -/
def HostPort.unread (q : HostPort) : Nat := (q.tail - q.head).toNat

/-- The ring has room for one more command: 2 entries beyond those owed; while it has none, REPLY_FULL reads 1 (R330). -/
def Device.replyRoom (d : Device) (p : Fin 2) : Bool :=
  decide (d.ports[p].unread + d.outstanding p + 2 ≤ d.ports[p].ringSize)

/-- COALESCE_N; 0 acts as 1. -/
def HostPort.coalesceCount (p : HostPort) : Nat := if p.coalesceN = 0 then 1 else p.coalesceN.toNat

/-- The PHASE of reply `n`: 1 on the ring's first lap, the opposite on each later lap (R329). -/
def HostPort.replyPhase (p : HostPort) (n : Nat) : Nat := if n / p.ringSize % 2 = 0 then 1 else 0

/-- The 32 bytes of a reply (R329). -/
def Reply.bytes (r : Reply) (credit : Word16) (phase : Nat) : List Byte :=
  bytesOf 8 r.tag.toNat ++ bytesOf 8 r.result.toNat
    ++ [r.status.code, r.aux, r.cause, if r.final then 1 else 0]
    ++ bytesOf 2 r.opcode.toNat ++ bytesOf 2 credit.toNat ++ bytesOf 4 r.detail.toNat
    ++ bytesOf 4 (phase * 2 ^ 31 + r.tag.toNat % 2 ^ 16)

/-- One reply counted toward the reply interrupt (R331). -/
def Device.coalesce (d : Device) (p : Fin 2) : Device :=
  let q := d.ports[p]
  if q.coalesced + 1 ≥ q.coalesceCount then
    (d.updPort p fun q => { q with coalesced := 0, coalesceSince := none }).msix p q.vector
  else d.updPort p fun q =>
    { q with coalesced := q.coalesced + 1, coalesceSince := some (q.coalesceSince.getD d.tb.now) }

/-- A reply written to a port's ring: 32 bytes at entry TAIL mod 2^SIZE_LOG2, discarded and counted while the link is
down; TAIL advances either way (R329, R509). -/
def Device.writeReply (d : Device) (p : Fin 2) (noIrq : Bool) (r : Reply) : Device :=
  let q := d.ports[p]
  let n := q.tail.toNat
  let bs := r.bytes q.consumed (q.replyPhase n)
  let d := d.updPort p fun q =>
    { q with
      tail := q.tail + 1
      hostMem := if q.linkUp then Cells.noteAll q.hostMem (q.replyBase.toNat + 32 * (n % q.ringSize)) bs else q.hostMem
      lostReplies := if q.linkUp then q.lostReplies else bump q.lostReplies }
  if noIrq then d else d.coalesce p

/-- A command's own reply: written and recorded in the replay window (R333); a final one closes the command. -/
def Device.reply (d : Device) (c : OpenCmd) (r : Reply) : Device :=
  let r := { r with tag := c.hdr.tag, opcode := c.opcode }
  let d := d.writeReply c.hdr.port c.hdr.noIrq r
  let d := d.updPort c.hdr.port fun q =>
    { q with replay := updWhere (fun x => x.tag == c.hdr.tag) (fun x => { x with reply := some r }) q.replay }
  if r.final then { d with opens := d.opens.erase c } else d

/-- A final reply with a status and a result. -/
def Device.finish (d : Device) (c : OpenCmd) (st : Status) (result : Nat := 0) : Device :=
  d.reply c { tag := 0, opcode := 0, status := st, result := BitVec.ofNat 64 result }

/-- ST_OK with a result. -/
def Device.ok (d : Device) (c : OpenCmd) (result : Nat := 0) : Device := d.finish c .ok result

/-- ST_REFUSED_TIME with its reason, counted in ADM_ADMITTED.REFUSED (R336, R351). -/
def Device.refuseTime (d : Device) (c : OpenCmd) (why : RefusalReason) : Device :=
  { d with adm := { d.adm with refused := bump d.adm.refused } }.reply c
    { tag := 0, opcode := 0, status := .refusedTime, cause := why.code }

/-! ### Header checks and the replay window (R332, R333) -/

/-- The packet enters the replay window of its port, which keeps the last 65,536. -/
def Device.remember (d : Device) (p : Fin 2) (r : ReplayRec) : Device :=
  d.updPort p fun q => { q with replay := (r :: q.replay).take 65536 }

/-- A packet whose TAG the window holds: its latest reply again, or ST_DUPLICATE while it has none (R333). -/
def Device.replayPacket (d : Device) (h : CmdHdr) (op : Word16) (orig : ReplayRec) : Device :=
  let d := d.updPort h.port fun q => { q with countDuplicates := bump q.countDuplicates }
  let d := if orig.opcode = op then d else d.logEvent 0x0002 .warn h.port.val 0 (srcIntake h.port)
  let d := d.remember h.port { tag := h.tag, opcode := orig.opcode, reply := orig.reply }
  d.writeReply h.port h.noIrq <|
    match orig.reply with
    | some r => { r with aux := Status.code .duplicate }
    | none => { tag := h.tag, opcode := op, status := .duplicate, aux := Status.code .duplicate, final := false }

/-- STEP_LAUNCH and OBJ_PLACE are promisable (R334). -/
def promisable (op : Word16) : Bool := op == 0x0203 || op == 0x0103

/-- The account's bit in PCFG_ACCT_ENp (R508). -/
def Device.accountEnabled (d : Device) (p : Fin 2) (a : BitVec 6) : Bool := d.ports[p].acctEn.getLsbD a.toNat

/-- A packet of block 0x00. -/
def sessionOpcode (op : Word16) : Bool := op.toNat / 256 == 0

/-- Checks 2 to 6 of *Header checks* (R332) with what the raw packet already failed of checks 2 to 4 in `raw`: the status of
the first that fails. -/
def Device.headerFault (d : Device) (h : CmdHdr) (op : Word16) (raw : Option Status) : Option Status :=
  if !sessionOpcode op && d.sec.state != .running then some .badOpcode
  else if raw.isSome then raw
  else if 2 ≤ h.cls.toNat then some .badParam
  else if h.cls = 0 ∧ h.powerClass ≠ 0 then some .badParam
  else if !sessionOpcode op && !d.accountEnabled h.port h.account then some .badParam
  else none

/-- A packet not sent before enters its port's replay window, and its command is open until its final reply (R330, R333). -/
def Device.openCommand (d : Device) (op : Word16) (h : CmdHdr) : Device :=
  let d := d.remember h.port { tag := h.tag, opcode := op }
  { d with opens := d.opens ++ [{ hdr := h, opcode := op }] }

/-- A command dispatched before reads a list, a firmware chunk or an assay pack from its host. -/
def DmaPurpose.ofDispatch : DmaPurpose → Bool
  | .fwChunk _ | .assay | .list _ => true
  | .objWrite _ | .objT3 _ | .stepT3 .. => false

/-- The control cores dispatch nothing more until what the command dispatched last reads from its host has come, so that commands take effect
in dispatch order. DESIGN CHOICE (R328; log entry 163). -/
def Device.dispatchWaits (d : Device) : Bool := d.dmaReads.any fun r => r.purpose.ofDispatch

/-- The block that a command needs by the block of its opcode (R465; log entry 170): the Tundish for 0x03 and 0x04, Aster for 0x05, Octing for
0x07, INTEGRITY for 0x08, Bellows for 0x09, SECURITY for 0x0B. Objects, stacks, programs and the recorder test their own. -/
def commandBlock (op : Word16) : Option Nat :=
  match op.toNat / 256 with
  | 3 | 4 => some 11
  | 5 => some 12
  | 7 => some 41
  | 8 => some 46
  | 9 => some 42
  | 11 => some 45
  | _ => none

/-- A block has a parity fault (INTC_PARITY). -/
def Device.parityOf (d : Device) (block : Nat) : Bool := d.intc.parity.getLsbD block

/-- The block that a command needs has faulted: the command ends with ST_FAULTED (R465). -/
def Device.opFaulted (d : Device) (op : Word16) : Bool := (commandBlock op).any d.parityOf

/-- A host command dispatched: the replay window, the header checks, the admin check, the fault of the block it needs,
then `body` (R332, R465, R506). -/
def Device.dispatch (d : Device) (op : Word16) (h : CmdHdr) (raw : Option Status) (adminOnly : Bool)
    (body : OpenCmd → Device → Device) : Device :=
  if d.dispatchWaits then d
  else match d.ports[h.port].replay.find? fun x => x.tag == h.tag with
  | some orig => d.replayPacket h op orig
  | none =>
    let c : OpenCmd := { hdr := h, opcode := op }
    let d := d.openCommand op h
    match d.headerFault h op raw with
    | some st => d.finish c st
    | none =>
      if h.promised && !promisable op then d.refuseTime c .notPromisable
      else if adminOnly && !d.isAdmin h.port then d.finish c .notAdmin
      else if d.opFaulted op then d.finish c .faulted
      else body c d

/-- A well-formed packet of a command any port may send. -/
def Device.command (d : Device) (op : Word16) (h : CmdHdr) (body : OpenCmd → Device → Device) : Device :=
  d.dispatch op h none false body

/-- A well-formed packet of an admin-only command. -/
def Device.adminCommand (d : Device) (op : Word16) (h : CmdHdr) (body : OpenCmd → Device → Device) : Device :=
  d.dispatch op h none true body

/-! ### Register writes (R507) -/

/-- A write to a BAR0 register by a requester: the admin port and the control cores write every field, a port its own pages
(`own`); any other port's write is discarded, reported through AER and logged; the SMBus port and JTAG write nothing. Nothing
arrives on a port whose link is down. -/
def Device.writeBy (d : Device) (req : Requester) (offset : Nat) (own : Option (Fin 2)) (f : Device → Device) : Device :=
  match req with
  | .port p =>
    if !d.linkUp p then d
    else if d.isAdmin p || own == some p then f d
    else (d.emit (.aerCompleterAbort p)).logEvent 0x0A05 .warn offset p.val (srcIntake p)
  | .core _ => f d
  | .smbus => d
  | .jtag => d

/-! ### How a command acts -/

/-- The device runs: V72 is up, the converters run and no reset is in progress. -/
def Device.live (d : Device) : Bool := d.pins.powered && !d.pins.tripped && !d.pins.inReset

/-- IDLE, QUIESCED and FAULTED of every block instance that has them, by its interrupt source (R445). -/
def Device.flags (d : Device) : List (Nat × Bool × Bool × Bool) :=
  (Bank.indices 8).map (fun n => (srcArray n.val, d.arrayEmpty n, d.arrays[n].quiesced, d.arrays[n].faulted))
    ++ (Bank.indices 2).map (fun p => (srcIntake p, false, d.ports[p].quiesced, d.ports[p].faulted))
    ++ (Bank.indices 4).map (fun e => (srcHoist e.val, d.hoistIdle e, false, false))
    ++ [(srcGx, d.gxIdle, d.tun.quiesced, d.tun.faulted), (srcUpdate, d.updIdle, false, false),
      (srcAster, d.asterIdle, d.aster.quiesced, false), (srcEvr, false, false, d.evr.faulted)]

/-- Sources whose IDLE, QUIESCED or FAULTED a command changed are asserted (R445). -/
def Device.pulseChanges (old d : Device) : Device :=
  (old.flags.zip d.flags).foldl (fun d (a, b) => if a = b then d else d.pulse b.1) d

/-- The causes of SMB_ALERT_N that are levels (R512): ALERT_N, and the two links down. -/
def Device.alertLevels (d : Device) : BitVec 5 :=
  (if d.alertN then 1 else 0) ||| (if d.linkUp 0 then 0 else 8) ||| (if d.linkUp 1 then 0 else 16)

/-- A running device latches the level causes present (R512). -/
def Device.latchAlerts (d : Device) : Device :=
  if d.live then { d with smb := { d.smb with alert := d.smb.alert ||| d.alertLevels } } else d

/-- What follows every command at once: interrupt sources of changed status bits, unless the command has reset the device,
and the alert latch (R445, R512). -/
def Device.settle (old d : Device) : Device :=
  (if d.evr.epoch = old.evr.epoch then old.pulseChanges d else d).latchAlerts

/-- The messages of the previous command forgotten. -/
def Device.fresh (d : Device) : Device := { d with out := [] }

/-- What a meaning answers. -/
abbrev Answer := Host.Outcome State Fault Refusal

/-- A command acts on a device that runs; while it does not, nothing happens but the last command's messages being forgotten (log
entry 3). -/
def State.act (f : Device → Device) (s : State) : Answer :=
  .next { s with dev := if s.dev.live then s.dev.settle (f s.dev.fresh) else s.dev.fresh }

/-- The device is supplied but held in reset by SYSRST_N (R526): only its time base runs (R38). -/
def Device.held (d : Device) : Bool := d.pins.powered && !d.pins.tripped && d.pins.inReset

/-- A row of the time base acts by `f` on a device that runs, and by `g` on one held in reset. -/
def State.actTime (f g : Device → Device) (s : State) : Answer :=
  .next { s with dev :=
    if s.dev.live then s.dev.settle (f s.dev.fresh) else if s.dev.held then g s.dev.fresh else s.dev.fresh }

/-- A row of an input pin acts by `f` on a device that runs; on one that does not, `g` notes the pin's level alone. -/
def State.actPin (f g : Device → Device) (s : State) : Answer :=
  .next { s with dev := if s.dev.live then s.dev.settle (f s.dev.fresh) else g s.dev.fresh }

/-- A command that acts on a device that need not run: power and reset pins. -/
def State.actAlways (f : Device → Device) (s : State) : Answer :=
  .next { s with dev := (f s.dev.fresh).latchAlerts }

end Sys2Proof.Machine
end

