-- ==== Sys2Proof/Machine/EvrOps.lean ====
section
/-! DEFINITION. The event recorder at work (R453-R461): folding, slot choice, notification, and record images. -/

namespace Sys2Proof.Machine

/-- Slots of the recorder. -/
def evrSlots : Nat := 16384

/-- REPEAT_WINDOW_MS; 0 acts as 1,000 (EVR_CTRL). -/
def Evr.windowTicks (e : Evr) : Nat := (if e.repeatWindowMs = 0 then 1000 else e.repeatWindowMs.toNat) * 1000000

/-- The place of the record with the highest SEQ. -/
def Evr.latest (e : Evr) : Option Nat :=
  (List.range e.records.length).foldl (fun best i =>
    match best, e.records[i]? with
    | none, some _ => some i
    | some b, some r => if ((e.records[b]?).map fun x => x.seq.toNat).getD 0 < r.seq.toNat then some i else some b
    | b, none => b) none

/-- An occurrence folds into a record (R456). -/
def EventRecord.folds (r : EventRecord) (o : Occurrence) (window : Nat) : Bool :=
  r.code == o.code && r.source == o.source && decide (o.tick.toNat ≤ r.lastTick.toNat + window)
    && decide (r.repeats.toNat < 65535)

/-- The slot a new record of a severity takes (R454): the lowest never written, else the lowest SEQ of equal or lower
severity. -/
def Evr.slotFor (e : Evr) (s : Severity) : Option Nat :=
  if e.records.length < evrSlots then some e.records.length
  else (List.range e.records.length).foldl (fun best i =>
    match e.records[i]? with
    | none => best
    | some r =>
      if s.code.toNat < r.severity.code.toNat then best
      else match best with
        | none => some i
        | some b => if r.seq.toNat < ((e.records[b]?).map fun x => x.seq.toNat).getD 0 then some i else some b) none

/-- A record written to a slot. -/
def Evr.place (e : Evr) (slot : Nat) (r : EventRecord) : Evr :=
  { e with records := if slot < e.records.length then e.records.set slot r else e.records ++ [r] }

/-- Port `p` is notified of a new record (R461): NOTIFYp 4-7 is off. -/
def Evr.notifies (e : Evr) (p : Fin 2) (s : Severity) : Bool := decide (e.notify[p].toNat ≤ s.code.toNat)

/-- A new record of an occurrence is written, or dropped when no slot qualifies (R454, R461). -/
def Device.recordNew (d : Device) (o : Occurrence) : Device :=
  match d.evr.slotFor o.severity with
  | none => { d with evr := d.evr.countDrop o.severity }
  | some slot =>
    let r : EventRecord :=
      { code := o.code, severity := o.severity, epoch := d.evr.epoch, source := o.source, firstTick := o.tick,
        lastTick := o.tick, data := o.data, seq := d.evr.nextSeq }
    let e := { d.evr.place slot r with nextSeq := d.evr.nextSeq + 1 }
    let e := if o.severity = .fatal then { e with lastFatalCode := o.code, lastFatalSeq := r.seq } else e
    let latch : BitVec 5 := if o.severity = .fatal then 2 else if o.severity = .error then 4 else 0
    let d := { d with evr := e, smb := { d.smb with alert := d.smb.alert ||| latch } }
    let d := if e.notifies 0 o.severity then d.msix 0 e.vec[0] else d
    if e.notifies 1 o.severity then d.msix 1 e.vec[1] else d

/-- The place of the latest record of a code and source. -/
def Evr.recordOf (e : Evr) (o : Occurrence) : Option Nat :=
  (List.range e.records.length).foldl (fun best i =>
    match e.records[i]? with
    | none => best
    | some r =>
      let newer := best.all fun b => (e.records[b]?).any fun x => decide (x.seq.toNat < r.seq.toNat)
      if r.code == o.code && r.source == o.source && newer then some i else best) none

/-- The recorder folds an occurrence into the record of a slot. -/
def Device.foldInto (d : Device) (i : Nat) (o : Occurrence) : Device :=
  match d.evr.records[i]? with
  | none => d
  | some r => { d with evr := d.evr.place i { r with repeats := bump r.repeats, lastTick := o.tick } }

/-- A later occurrence in a step: folded into the record of its event, if there is one (log entry 122). -/
def Device.evrAgain (d : Device) (o : Occurrence) : Device :=
  match d.evr.recordOf o with
  | none => d
  | some i => d.foldInto i o

/-- The recorder takes one occurrence: filters, folds or records it (R456, R461). -/
def Device.evrTake (d : Device) (o : Occurrence) : Device :=
  if o.again then d.evrAgain o
  else if d.evr.minSeverity && o.severity == .info then
    { d with evr := { d.evr with dropFiltered := bump d.evr.dropFiltered } }
  else match d.evr.latest with
    | none => d.recordNew o
    | some i =>
      match d.evr.records[i]? with
      | none => d.recordNew o
      | some r =>
        if r.folds o d.evr.windowTicks then
          { d with evr := d.evr.place i { r with repeats := r.repeats + 1, lastTick := o.tick } }
        else d.recordNew o

/-- The recorder takes the oldest occurrence of its queue. -/
def Device.evrStep (d : Device) : Device :=
  match d.evr.queue with
  | [] => d
  | o :: rest => { d with evr := { d.evr with queue := rest } }.evrTake o

/-- Every waiting occurrence taken: the recorder drains its queue before a reset takes hold (log entry 6). -/
def Device.evrDrain (d : Device) : Device := d.evr.queue.foldl (fun d _ => d.evrStep) d

/-- Records of a severity held (EVR_COUNTS). -/
def Evr.count (e : Evr) (s : Severity) : Nat := (e.records.filter fun r => r.severity == s).length

/-- EVR_STATUS.FULL. -/
def Evr.full (e : Evr) : Bool := decide (evrSlots ≤ e.records.length)

/-- The FATAL record with the lowest SEQ that no copy has been attempted of. -/
def Evr.untried (e : Evr) : Option EventRecord :=
  e.records.foldl (fun best r =>
    if r.severity != .fatal || r.lwTried then best
    else match best with
      | none => some r
      | some b => if r.seq.toNat < b.seq.toNat then some r else some b) none

/-- The 64 bytes of a record (R453). -/
def EventRecord.bytes (r : EventRecord) : List Byte :=
  bytesOf 2 r.code.toNat
    ++ [BitVec.ofNat 8 ((if r.lwTried then 8 else 0) + (if r.lwCopied then 4 else 0) + r.severity.code.toNat), r.epoch]
    ++ bytesOf 4 r.source.toNat ++ bytesOf 8 r.firstTick.toNat ++ bytesOf 8 r.lastTick.toNat
    ++ bytesOf 2 r.repeats.toNat ++ bytesOf 6 0 ++ bytesOf 24 r.data.toNat
    ++ bytesOf 8 (r.seq.toNat * 65536 + (if r.valid then 1 else 0))

/-- Event data of consecutive little-endian fields: widths in bytes and values. -/
def evData : List (Nat × Nat) → Nat
  | [] => 0
  | (w, v) :: r => v % 256 ^ w + 256 ^ w * evData r

end Sys2Proof.Machine
end

