-- ==== Sys2Proof/Machine/SeedOps.lean ====
section
/-! DEFINITION. The Seedbank and the hold-up check (R480-R487, R409). -/

namespace Sys2Proof.Machine

/-- E_req of a write in millijoules (R485, *Write requirements*). -/
def SeedWrite.reqMj : SeedWrite → Nat
  | .lastWords _ => 500
  | .identity => 20000
  | _ => 2000

/-- Write time in ticks (R485). -/
def SeedWrite.ticks : SeedWrite → Nat
  | .lastWords _ => 500000
  | .identity => 20000000
  | _ => 2000000

/-- A last-words copy. -/
def SeedWrite.isLastWords : SeedWrite → Bool
  | .lastWords _ => true
  | _ => false

/-- The limit of R480 that a write would exceed. -/
def Seedbank.atLimit (b : Seedbank) : SeedWrite → Bool
  | .svn => decide (64 ≤ b.svn)
  | .identity => b.identity
  | .debug => b.debugDisabled
  | .holdup _ => decide (8 ≤ b.capWrites)
  | .ceiling _ => decide (8 ≤ b.ceilingWrites)
  | .repair n _ => decide (32 ≤ b.repairs[n].length)
  | .lastWords _ => false

/-- The declared capacitance a write is checked with: a HOLDUP_SET with the value it writes (R485). -/
def Seedbank.capFor (b : Seedbank) : SeedWrite → Nat
  | .holdup uf => uf.toNat
  | _ => b.capUf.toNat

/-- ½ × C × (V² − 56²) for C in microfarads and V in units of 10 mV: in units of 1/20,000 microjoule (R485). -/
def holdupUnits (uf v : Nat) : Nat := uf * (v * v - 5600 * 5600)

/-- Units of `holdupUnits` in a millijoule. -/
def holdupPerMj : Nat := 20000000

/-- The check of R485: E > 2 × E_req. -/
def holdupPasses (uf v reqMj : Nat) : Bool := decide (2 * reqMj * holdupPerMj < holdupUnits uf v)

/-- What a committed write does to the Seedbank (R480-R484, R409, R481). -/
def Seedbank.apply (b : Seedbank) (w : SeedWrite) (pack : Word32) (now : Tick) (rec : Option EventRecord) : Seedbank :=
  match w with
  | .svn => { b with svn := b.svn + 1 }
  | .identity => { b with identity := true }
  | .debug => { b with debugDisabled := true }
  | .holdup uf => { b with capUf := uf, capWrites := b.capWrites + 1 }
  | .ceiling c => { b with ceiling := c, ceilingWrites := b.ceilingWrites + 1 }
  | .repair n col => { b with repairs := Bank.upd b.repairs n (· ++ [(col, pack, now)]) }
  | .lastWords _ =>
    match rec with
    | none => b
    | some r =>
      let l := b.lastWords ++ [{ record := r, committed := true }]
      { b with lastWords := l.drop (l.length - 256) }

/-- The record with a SEQ. -/
def Evr.bySeq (e : Evr) (seq : BitVec 48) : Option EventRecord := e.records.find? fun r => r.seq == seq

/-- The flags of a record set (R458). -/
def Evr.markLastWords (e : Evr) (seq : BitVec 48) (copied : Bool) : Evr :=
  let mark (r : EventRecord) : EventRecord := { r with lwTried := true, lwCopied := copied }
  { e with records := updFirst (fun r => r.seq == seq) mark e.records }

/-- What a write carries back in its final reply (R491). -/
def Seedbank.result (b : Seedbank) : SeedWrite → Nat
  | .svn => b.svn
  | .holdup _ => b.capWrites
  | .ceiling _ => b.ceilingWrites
  | .repair n _ => b.repairs[n].length
  | _ => 0

/-- A write ends without being made: its reply, or the last-words flag. -/
def Device.seedEnd (d : Device) (o : SeedOp) (st : Status) : Device :=
  match o.cmd, o.write with
  | some c, _ => d.finish c st
  | none, .lastWords seq => { d with evr := d.evr.markLastWords seq false }
  | none, _ => d

/-- The opcode of a write's command, the SOURCE of SEEDBANK_WRITTEN (R494). -/
def SeedOp.opcode (o : SeedOp) : Nat := (o.cmd.map fun c => c.opcode.toNat).getD 0

/-- The write at the head of the queue meets the limits again (R480, R482) and the hold-up check (R485-R487) and starts, or
ends with its status; then the next does, until one has started or none waits. -/
def Device.seedPump : Nat → Device → Device
  | 0, d => d
  | fuel + 1, d =>
    match d.sec.writes with
    | [] => { d with sec := { d.sec with hold := false } }
    | o :: rest =>
      if o.started then d
      else
        let uf := d.seed.capFor o.write
        let v := d.bel.voltage.toNat
        let mj := holdupUnits uf v / holdupPerMj
        let drop (d : Device) : Device := { d with sec := { d.sec with writes := rest } }
        if o.write == .svn && decide (d.sec.imageSvn.toNat < d.seed.svn + 1) then Device.seedPump fuel ((drop d).seedEnd o .badParam)
        else if d.seed.atLimit o.write then
          Device.seedPump fuel (((drop d).seedEnd o .limitReached).logEvent 0x0B07 .warn 0 0 srcSecurity)
        else if d.bel.powerFail && !o.write.isLastWords then
          Device.seedPump fuel
            (((drop d).seedEnd o .holdup).logEvent 0x0B06 .warn 0 (evData [(4, 0), (2, v)]) srcSecurity)
        else if holdupPasses uf v o.write.reqMj then
          let q : List SeedOp := { o with started := true } :: rest
          { d with sec := { d.sec with writes := q, hold := true, holdupOutcome := 1, lastEMj := satOf 20 mj } }
        else
          let d := { d with sec := { d.sec with holdupOutcome := 2, lastEMj := satOf 20 mj } }
          Device.seedPump fuel
            (((drop d).seedEnd o .holdup).logEvent 0x0B06 .warn 0 (evData [(4, mj), (2, v)]) srcSecurity)

/-- Writes are taken in the order in which they are asked for (R486). -/
def Device.seedRun (d : Device) : Device := Device.seedPump (d.sec.writes.length + 1) d

/-- A write asked for by a command, or a last-words copy. -/
def Device.seedAsk (d : Device) (w : SeedWrite) (c : Option OpenCmd) : Device :=
  { d with sec := { d.sec with writes := d.sec.writes ++ [SeedOp.mk w c false] } }.seedRun

/-- The held pack's id, 0 when none is held. -/
def Device.packId (d : Device) : Word32 := (d.integ.pack.map fun p => p.id).getD 0

/-- The started write commits: the Seedbank takes it, its effects follow and its command is answered (R483-R486). -/
def Device.seedCommitHead (d : Device) (o : SeedOp) (rest : List SeedOp) : Device :=
  let rec' := match o.write with | .lastWords s => d.evr.bySeq s | _ => none
  let b := d.seed.apply o.write d.packId d.tb.now rec'
  let d := { d with seed := b, sec := { d.sec with writes := rest, hold := false } }
  let d := { d with bel := { d.bel with rising := some .holdup } }
  let d : Device := match o.write with
    | .lastWords s => { d with evr := d.evr.markLastWords s true }
    | .ceiling w => { d with bel := { d.bel with board := w } }
    | .repair n _ => d.logEvent 0x0809 .info n.val 0 srcIntegrity
    | _ => d
  let d := if o.write.isLastWords then d else d.logEvent 0x0B05 .info o.opcode 0 srcSecurity
  match o.cmd with
  | some c => d.ok c (b.result o.write)
  | none => d

/-- The started write, if any, commits (R486). -/
def Device.seedCommit (d : Device) : Device :=
  match d.sec.writes with
  | o :: rest => if o.started then d.seedCommitHead o rest else d
  | [] => d

end Sys2Proof.Machine
end

