-- ==== Sys2Proof/Machine/Reset.lean ====
section
/-! DEFINITION. The resets (R488-R490, R526-R528, R533). -/

namespace Sys2Proof.Machine

/-- DIR after the spare has reached a column (R111). -/
def dirAt (old : Bool) (col : Nat) : Bool := if col = 0 then false else if col = 100 then true else old

/-- The spare columns at start-up: steered to an array's latest repair record and locked, else left to the rotation
(R409, R490). -/
def startArrays (b : Seedbank) : Vector ArrayState 8 :=
  Vector.ofFn fun n =>
    match (b.repairs[n]).getLast? with
    | some (col, _, _) => if col = 0x7F then {} else { spareCol := col, dirDown := dirAt true col.toNat, spareLocked := true }
    | none => {}

/-- What the Seedbank loads at start-up: the board ceiling (R472, R484) and the spare columns. -/
def Device.loadSeed (d : Device) : Device :=
  { d with bel := { d.bel with board := d.seed.ceiling }, arrays := startArrays d.seed }

/-- The time base across a reset of kind 1-3: everything but REF_LOST and SYNC_SEEN is kept (R38). -/
def TimeBase.afterReset (t : TimeBase) : TimeBase := { t with refLost := false, syncSeen := false }

/-- Bellows finds PWRFAIL_N or PWRBRAKE_N low as the device starts (R426, R427; log entry 124). -/
def Device.samplePins (d : Device) : Device :=
  let d := { d with bel := { d.bel with brake := d.pins.pwrbrakeLow, powerFail := d.pins.pwrfailLow } }
  if d.bel.brake then d.logEvent 0x0902 .warn 0 d.bel.brakeLevel.toNat srcBellows else d

/-- As the device starts, link training begins on each port whose PERSTn_N is released (R472, R528). -/
def Device.beginTraining (d : Device) : Device :=
  { d with out := d.out ++ ((Bank.indices 2).filter fun p => !d.ports[p].perst).map .pcieTraining }

/-- The device leaves its reset and start-up begins: RESET_KIND is logged (R488), REF_LOST is set and logged again at once while an
excursion lasts (R36), Bellows samples its pins, and the links train. A reset still held by SYSRST_N is left at its release (R526). -/
def Device.leaveReset (d : Device) : Device :=
  if d.pins.inReset then d
  else
    let d := d.logEvent 0x0B04 .info 0 0 srcSecurity
    let d : Device :=
      if d.tb.excursion then
        { d with tb := { d.tb with refLost := true } }.logEvent 0x000B .warn 0 d.tb.ppm.toNat srcTimebase
      else d
    d.samplePins.beginTraining

/-- The recorder across a reset of kind 1-3 (R459). -/
def Evr.afterReset (e : Evr) : Evr :=
  let e := { e with faulted := false, accepting := true, epoch := e.epoch + 1, queue := [] }
  e

/-- EVR_CTRL and EVR_VEC take their Reset values when a parity fault of the block is recorded (R459). -/
def Evr.clearSettings (e : Evr) : Evr :=
  { e with minSeverity := false, notify := Vector.replicate 2 4, repeatWindowMs := 1000, vec := Vector.replicate 2 0 }

/-- A port across a reset of kind 1-3: the host's memory and the PERSTn_N input are not the device's. -/
def HostPort.afterReset (old : HostPort) (p : Fin 2) : HostPort :=
  { acctEn := resetAcct p, hostMem := old.hostMem, perst := old.perst }

/-- A reset of kind 1-3 (R489 steps 2 to 7). -/
def Device.resetTo (kind : BitVec 2) (d : Device) : Device :=
  let d := d.seedCommit.evrDrain
  let evr := if d.evr.faulted then d.evr.afterReset.clearSettings else d.evr.afterReset
  let n := Device.powerOn d.seed
  let n := { n with
    pins := { d.pins with startFail := false, inReset := d.pins.sysrstLow }
    tb := d.tb.afterReset
    evr := evr
    sec := { n.sec with kind := kind }
    ports := Vector.ofFn fun p => { (d.ports[p]).afterReset p with downSince := d.tb.now }
    bel := { n.bel with convOk := d.bel.convOk }
    free := d.free
    dmaNext := d.dmaNext
    out := d.out ++ [Output.surpriseDown] }
  n.loadSeed.leaveReset

/-- The pins of a device that loses or gains power: the levels the board drives are kept. -/
def Pins.afterPower (p : Pins) (powered : Bool) : Pins :=
  { p with powered := powered, tap := { trstN := p.tap.trstN }, tripped := false, thermtrip := false, startFail := false, inReset := p.sysrstLow }

/-- V72 rises through 56 V (R472, R490): everything but fuses and Seedbank at its reset value. -/
def Device.startUp (d : Device) : Device :=
  ({ Device.powerOn d.seed with
      pins := d.pins.afterPower true
      ports := Vector.ofFn fun p => (d.ports[p]).afterReset p
      free := d.free
      out := d.out }).loadSeed.leaveReset

/-- Power is lost (R488): a started Seedbank write commits on the hold-up energy (R487), all else is lost. -/
def Device.losePower (d : Device) (pins : Pins) : Device :=
  let d := d.seedCommit
  { Device.powerOn d.seed with
    pins := pins
    ports := Vector.ofFn fun p => (d.ports[p]).afterReset p
    free := d.free
    out := d.out }

/-- An uncorrectable error begins a containment reset, which waits for the last-words attempt (R9, R316, R489). -/
def Device.contain (d : Device) : Device :=
  if d.sec.containmentPending then d
  else { d with sec := { d.sec with containmentPending := true, containmentSince := d.tb.now } }

end Sys2Proof.Machine
end

