-- ==== Sys2Proof/Machine/Timebase.lean ====
section
/-! DEFINITION. Power, the time base, the reference and the runner network: POWER_ON_RESET to RUNNER_FLIT_RECEIVE (R30,
R36-R40, R472, R488, R533). -/

namespace Sys2Proof.Machine

/-! ### The time base at work -/

/-- SYNC_OUT_PERIOD: 10-30 legal, other values act as 20 (TB_CTRL). -/
def TimeBase.period (t : TimeBase) : Nat :=
  if 10 ≤ t.syncOutPeriod.toNat ∧ t.syncOutPeriod.toNat ≤ 30 then t.syncOutPeriod.toNat else 20

/-- The 64-tick pulse of SYNC_OUT for a period boundary begins, once for each boundary (R40). -/
def Device.syncPulse (d : Device) : Device :=
  if d.tb.syncDue then { d with tb := { d.tb with syncOutLeft := 64, syncDue := false } }.emit .syncOut else d

/-- The time base moves on by `n` ticks; a period boundary reached or passed while SYNC_OUT_EN is 1 makes a pulse due (R40). -/
def Device.advance (d : Device) (n : Nat) : Device :=
  let p := 2 ^ d.tb.period
  let crossed := decide (d.tb.now.toNat / p < (d.tb.now.toNat + n) / p)
  { d with tb := { d.tb with
      now := d.tb.now + BitVec.ofNat 64 n
      syncOutLeft := d.tb.syncOutLeft - n
      syncDue := d.tb.syncDue || (crossed && d.tb.syncOutEn) } }

/-- The remainder one nearer to zero. -/
def towardZero (c : Word32) : Word32 := if c = 0 then 0 else if c.msb then c + 1 else c - 1

/-- One slew step: 2 ticks for a positive remainder, 0 for a negative one, and the next in 16 control-clock cycles (R39). -/
def Device.slew (d : Device) : Device :=
  if d.tb.corr = 0 then d
  else
    let n := if d.tb.corr.msb then 0 else 2
    let d := d.advance n
    { d with tb := { d.tb with corr := towardZero d.tb.corr, slewPhase := 15 } }

/-- One control-clock cycle with no command: the slew step that falls in it, or one tick (R37, R39; log entry 7). -/
def Device.tick (d : Device) : Device :=
  if d.tb.corr ≠ 0 ∧ d.tb.slewPhase = 0 then d.slew
  else
    let d := d.advance 1
    { d with tb := { d.tb with slewPhase := d.tb.slewPhase - 1 } }

/-- The row of a slew step: nothing before the cycle in which the step falls (R39). -/
def Device.slewStep (d : Device) : Device := if d.tb.slewPhase = 0 then d.slew else d

/-- TB_CORR takes a value and a new phase begins (R39). -/
def Device.setCorr (d : Device) (v : Word32) : Device := { d with tb := { d.tb with corr := v, slewPhase := 0 } }

/-! ### Commands -/

/-- V72 rises through the lock-out: a device without power starts up (R472). -/
def Device.powerOnReset (d : Device) : Device := if d.pins.powered then d else d.startUp

def execPowerOnReset (s : State) : Answer := s.actAlways Device.powerOnReset

/-- V72 falls below 56 V: all but fuses and Seedbank is lost, and THERMTRIP_N is released (R488, R522). -/
def Device.powerLoss (d : Device) : Device := if d.pins.powered then d.losePower (d.pins.afterPower false) else d

def execPowerLoss (s : State) : Answer := s.actAlways Device.powerLoss

/-- The PLLs lock while SYSREF is in tolerance (R533). -/
def Device.pllLock (d : Device) : Device := if d.tb.excursion then d else { d with tb := { d.tb with locked := true } }

def execPllLock (s : State) : Answer := s.actTime Device.pllLock Device.pllLock

/-- A measured frequency offset as the events carry it: two's complement, saturating at ±32,767 (R41). -/
def satPpm (x : Int) : Word16 := BitVec.ofInt 16 (Max.max (-32767) (Min.min 32767 x))

/-- SYSREF leaves tolerance (R36): LOCKED clears, REF_LOST sets and is logged with the offset measured (R41). -/
def Device.refExcursion (offset : Int) (d : Device) : Device :=
  let ppm := satPpm offset
  if d.tb.excursion then d
  else
    let tb := { d.tb with locked := false, refLost := true, excursion := true, excursionSince := d.tb.now, ppm := ppm }
    { d with tb := tb }.logEvent 0x000B .warn 0 ppm.toNat srcTimebase

/-- The same while the device is held in reset: REF_LOST is set and logged when it leaves the reset (R36). -/
def Device.heldExcursion (offset : Int) (d : Device) : Device :=
  if d.tb.excursion then d
  else { d with tb := { d.tb with locked := false, excursion := true, excursionSince := d.tb.now, ppm := satPpm offset } }

def execRefExcursion (ppm : Int) (s : State) : Answer := s.actTime (Device.refExcursion ppm) (Device.heldExcursion ppm)

/-- The PLLs relock after 10 ms in tolerance (R36); the record carries the ticks spent unlocked (R41). -/
def Device.refRelock (d : Device) : Device :=
  if d.tb.excursion then
    let ticks := (d.tb.now - d.tb.excursionSince).toNat
    { d with tb := { d.tb with locked := true, excursion := false } }.logEvent 0x000C .info 0 ticks srcTimebase
  else d

/-- The same while the device is held in reset, in which nothing is logged. -/
def Device.heldRelock (d : Device) : Device :=
  if d.tb.excursion then { d with tb := { d.tb with locked := true, excursion := false } } else d

def execRefRelock (s : State) : Answer := s.actTime Device.refRelock Device.heldRelock

/-- BAR0 offsets of the TIMEBASE block. -/
def offTimebase : Nat := 0x02F00000

def Device.tbCorrWrite (req : Requester) (v : Word32) (d : Device) : Device :=
  d.writeBy req (offTimebase + 0x10) none (·.setCorr v)

def execTbCorrWrite (req : Requester) (value : Word32) (s : State) : Answer := s.act (Device.tbCorrWrite req value)

def execSlewStep (s : State) : Answer := s.actTime Device.slewStep Device.slewStep

/-- A 1 written to REF_LOST or SYNC_SEEN clears it (R40). -/
def Device.clearTbStatus (v : Word32) (d : Device) : Device :=
  { d with tb := { d.tb with
      refLost := d.tb.refLost && !v.getLsbD 3
      syncSeen := d.tb.syncSeen && !v.getLsbD 2 } }

def Device.tbStatusClear (req : Requester) (v : Word32) (d : Device) : Device :=
  d.writeBy req (offTimebase + 0x18) none (Device.clearTbStatus v)

def execTbStatusClear (req : Requester) (value : Word32) (s : State) : Answer := s.act (Device.tbStatusClear req value)

def execSyncOutPulse (s : State) : Answer := s.actTime Device.syncPulse Device.syncPulse

/-- A filtered rising edge of SYNC_IN captures TB_NOW while SYNC_IN_EN is set (R40). -/
def Device.syncInCapture (d : Device) : Device :=
  if d.tb.syncInEn then { d with tb := { d.tb with lastSync := d.tb.now, syncSeen := true } } else d

def execSyncInCapture (s : State) : Answer := s.act Device.syncInCapture

/-! ### Runner network -/

/-- An uncorrectable word of a unit: the FATAL event with its location, and a containment reset (R316, R9). -/
def Device.uncorrectable (d : Device) (source data key : Nat) : Device := (d.logEvent 0x0607 .fatal source data key).contain

/-- A result of a datapath built as two copies in lockstep: where the copies differ nothing is delivered, TUNDISH_LOCKSTEP is logged and a
containment reset follows (R394). -/
def Device.inLockstep (d : Device) (differ : Bool) (f : Device → Device) : Device :=
  if differ then (d.logEvent 0x080A .fatal 0 0 srcIntegrity).contain else f d

/-- A corrected runner flit is counted in the block of the receiving die (R314); a die whose block has no such counter
counts nothing (log entry 8). -/
def Device.countFlit (d : Device) (block : Nat) : Device :=
  if h : 3 ≤ block ∧ block < 11 then
    d.updArray ⟨block - 3, by omega⟩ fun a => { a with sprueCorr := bump a.sprueCorr }
  else if h : 13 ≤ block ∧ block < 21 then
    d.updHearth ⟨block - 13, by omega⟩ fun x => { x with corr := bump x.corr }
  else if h : 21 ≤ block ∧ block < 41 then
    d.updStack ⟨block - 21, by omega⟩ fun x => { x with corr := bump x.corr }
  else if block = 41 then { d with fab := { d.fab with corr := bump d.fab.corr } }
  else d

/-- A flit of 256 data bits in the Ingot code arrives at the die of a block (R30). -/
def Device.runnerFlit (block : BitVec 6) (cw : List Byte) (d : Device) : Device :=
  match ingotDecode d.mem.dec cw with
  | .clean => d
  | .corrected _ => d.countFlit block.toNat
  | .uncorrectable => d.uncorrectable block.toNat 0 (blockSource block.toNat)

def execRunnerFlitReceive (block : BitVec 6) (codeword : List Byte) (s : State) : Answer :=
  s.act (Device.runnerFlit block codeword)

end Sys2Proof.Machine
end

