-- ==== Sys2Proof/Machine/Bellows.lean ====
section
/-! DEFINITION. Bellows at work: BELLOWS_INTERVAL to PROFILE_CLEAR (R415-R439). -/

namespace Sys2Proof.Machine

def Device.updBel (d : Device) (f : Bellows → Bellows) : Device := { d with bel := f d.bel }

/-! ### The 2 µs interval (R418-R422, R428, R429) -/

/-- Frames of 16 array-clock cycles in an interval. -/
def intervalFrames : Nat := 375

/-- The level the governor lets power hold next, in fifths of a watt: a goal approached by at most SLOPE per interval
(R428); a brake, a halt or a Seedbank hold (`free`, R485) is not slope-limited on the way down. -/
def Bellows.governNext (b : Bellows) (free : Bool) (t5 : Nat) : Nat :=
  let s := b.slope.toNat
  if t5 ≤ b.governed then (if b.brake || free then t5 else max t5 (b.governed - s))
  else min t5 (b.governed + s)

/-- Arrays an unretired PROMISED command holds, with the largest of the classes granted. -/
def Device.grantedClass (d : Device) (n : Fin 8) : Option Nat :=
  let held := d.adm.promises.filter fun p => p.names n.val
  if held.isEmpty then none else some (maxOver (fun p => p.hdr.powerClass.toNat) held)

/-- The most bubbles an array may be given at a step of R420's order: 2 BEST_EFFORT arrays up to 15, 3 PROMISED arrays up to
their class, 4 PROMISED arrays up to 15. -/
def Device.bubbleLimit (d : Device) (stage : Nat) (n : Fin 8) : Nat :=
  match d.grantedClass n with
  | none => 15
  | some pc => if stage = 2 then 0 else if stage = 3 then pc else 15

/-- The profile power of the phase an array is in, 425 W without one, in units of 2^-16 W (R420, R425). -/
def Device.phasePower (d : Device) (n : Fin 8) : Nat :=
  let now := d.tb.now.toNat
  let profile (p : Phase) : Nat :=
    ((d.bel.profiles.find? fun q => q.slot == p.slot && q.tag == p.tag && q.array == n).map Profile.value).getD (425 * 65536)
  let current := d.bel.phases.filter fun p => p.array == n && decide (p.start ≤ now)
  if current.isEmpty then 425 * 65536 else maxOver profile current

/-- The array that the next bubble of a stage goes to: of those below the stage's limit, the one with the fewest bubbles for its
profile power, the lower number on a tie (R420; log entry 123). -/
def Device.nextBubble (d : Device) (stage : Nat) (b : Vector (BitVec 4) 8) : Option (Fin 8) :=
  let fewer (x y : Fin 8) : Bool := decide ((b[x].toNat + 1) * d.phasePower y < (b[y].toNat + 1) * d.phasePower x)
  ((Bank.indices 8).filter fun n => decide (b[n].toNat < d.bubbleLimit stage n)).foldl
    (fun best n => match best with | none => some n | some m => if fewer n m then some n else some m) none

/-- Package watts that the arrays' issue leaves under a set of bubbles, in units of 1/(656 × 2^16) W: a sixteenth of the profile power
an issued cycle, 45/41 of it at the package (R415, R420). -/
def Device.bubbleLoad (d : Device) (b : Vector (BitVec 4) 8) : Nat :=
  sumOf (fun n => (16 - b[n].toNat) * d.phasePower n * 45) (Bank.indices 8)

/-- Bubbles given one by one until the load is down by `excess` watts, or nothing more can be shed at the stage. -/
def Device.shedStage (d : Device) (stage : Nat) (excess : Nat) (start : Nat) :
    Nat → Vector (BitVec 4) 8 → Vector (BitVec 4) 8
  | 0, b => b
  | k + 1, b =>
    if start < d.bubbleLoad b + excess * 656 * 65536 then
      match d.nextBubble stage b with
      | some n => Device.shedStage d stage excess start k (Bank.upd b n (· + 1))
      | none => b
    else b

/-- The bubbles after shedding `excess` watts in the order of R420; step 4 only when C_hard sets T, or where the governor's slope
requires it on a rise (R428). -/
def Device.shed (d : Device) (excess : Nat) (hard : Bool) (b : Vector (BitVec 4) 8) : Vector (BitVec 4) 8 :=
  let start := d.bubbleLoad b
  let b := d.shedStage 2 excess start 120 b
  let b := d.shedStage 3 excess start 120 b
  if hard then d.shedStage 4 excess start 120 b else b

/-- The array whose bubble is given back next, in the reverse order of R420: bubbles beyond the class first, then those within it,
then those of BEST_EFFORT arrays; of one step, that with the most bubbles for its profile power (log entry 123). -/
def Device.lastBubble (d : Device) (b : Vector (BitVec 4) 8) : Option (Fin 8) :=
  let beyond (n : Fin 8) : Bool := (d.grantedClass n).any fun pc => decide (pc < b[n].toNat)
  let within (n : Fin 8) : Bool := (d.grantedClass n).isSome && decide (0 < b[n].toNat)
  let pick (n : Fin 8) : Bool :=
    if (Bank.indices 8).any beyond then beyond n
    else if (Bank.indices 8).any within then within n
    else decide (0 < b[n].toNat)
  let more (x y : Fin 8) : Bool := decide (b[y].toNat * d.phasePower x < b[x].toNat * d.phasePower y)
  ((Bank.indices 8).filter pick).foldl (fun best n => match best with | none => some n | some m => if more n m then some n else some m) none

/-- Bubbles given back one by one while the load they add stays within a number of units of `Device.bubbleLoad` (R420). -/
def Device.giveBack (d : Device) (most : Nat) : Nat → Vector (BitVec 4) 8 → Vector (BitVec 4) 8
  | 0, b => b
  | k + 1, b =>
    match d.lastBubble b with
    | none => b
    | some n =>
      let b' := Bank.upd b n (· - 1)
      if d.bubbleLoad b' ≤ most then Device.giveBack d most k b' else b

/-- Bubbles an array is given beyond the class of the command that holds it. -/
def Device.beyondClass (d : Device) (n : Fin 8) : Bool :=
  (d.grantedClass n).any fun pc => decide (pc < d.bel.bubbles[n].toNat)

/-- Package watts of a ballast density: a row a frame in each array draws a sixteenth of its rated activity (R415, R429). -/
def ballastW (density : Nat) : Nat := density * 8 * 425 * 45 / 656

/-- Package watts the work asks for: the estimate without its ballast rows, with every cycle withheld by bubbles issued (R420,
R428). -/
def Device.demandW (d : Device) (est : Nat) (activity : List Nat) : Nat :=
  let withheld (n : Fin 8) : Nat := (activity[n.val]?).getD 0 * d.bel.bubbles[n].toNat * 45 / ((16 - d.bel.bubbles[n].toNat) * 41)
  est - ballastW d.bel.density + sumOf withheld (Bank.indices 8)

/-- The demand with every phase that a THINT has announced and that has not begun at its learned profile: the governor begins
that rise LEAD ticks early by raising ballast (R428). -/
def Device.announcedW (d : Device) (demand : Nat) (activity : List Nat) : Nat :=
  let more (n : Fin 8) : Nat :=
    let ahead := d.bel.phases.filter fun p => p.array == n && decide (d.tb.now.toNat < p.start)
    let profile (p : Phase) : Nat :=
      ((d.bel.profiles.find? fun q => q.slot == p.slot && q.tag == p.tag && q.array == n).map Profile.value).getD 0
    (maxOver profile ahead / 65536 - (activity[n.val]?).getD 0) * 45 / 41
  demand + sumOf more (Bank.indices 8)

/-- The level the governor moves power toward: what the work asks for; while ballast runs with BALLAST_EN set, at least
min(BALLAST_FLOOR, T) and what a THINT announces; never above T (R428, R429). -/
def Device.goalW (d : Device) (est : Nat) (activity : List Nat) : Nat :=
  let demand := d.demandW est activity
  let run := d.bel.ballastOn && d.bel.ballastEn
  min d.targetW (max (if run then d.announcedW demand activity else demand) (if run then d.bel.ballastFloor.toNat else 0))

/-- The ballast density for a shortfall in watts: one row a frame for each sixteenth of the arrays' rated activity. -/
def ballastDensity (short : Nat) : Nat := min 16 (ceilDiv (short * 656) (8 * 425 * 45))

/-- Milliseconds counted of ticks, and the ticks left. -/
def countMs (ms : Word16) (ticks : Nat) : Word16 × Nat := (satAdd ms (ticks / 1000000), ticks % 1000000)

/-- `n` ticks with bubbles beyond a granted class, or a halt, for a cause: BEL_BEYOND and the delay counters (R341, R421). -/
def Device.countBeyond (d : Device) (cause : DelayCause) (n : Nat) (hits : Promise → Bool) : Device :=
  let d := d.addDelay cause n hits
  if d.adm.promises.any hits then
    let k : Fin 3 := if cause = .hardBrake then 0 else if cause = .thermal then 1 else 2
    let ticks := d.bel.beyondTicks[k] + n
    let b := d.bel
    let (bm, t) := countMs (if k = 0 then b.beyondBrake else if k = 1 then b.beyondThermal else b.beyondSupply) ticks
    d.updBel fun b =>
      { b with
        beyondTicks := Bank.upd b.beyondTicks k fun _ => t
        beyondBrake := if k = 0 then bm else b.beyondBrake
        beyondThermal := if k = 1 then bm else b.beyondThermal
        beyondSupply := if k = 2 then bm else b.beyondSupply }
  else d

/-- The delays of `ticks` ticks as Bellows and the Seedbank hold stand: the hold (R486), a halt, bubbles beyond a class under C_hard, or the rise after one (R421, R426-R428, R486); the
bubbles of any other governed rise count toward no cause (R428). -/
def Device.powerDelays (ticks : Nat) (d : Device) : Device :=
  let d := if d.sec.hold then d.addDelay .holdup ticks fun p => p.resources != 0 else d
  if d.bel.halted then d.countBeyond d.bel.haltCause ticks Promise.namesArray
  else
    let beyond (p : Promise) : Bool := (Bank.indices 8).any fun n => p.names n.val && d.beyondClass n
    match d.bel.rising with
    | some c => if c = .holdup then d.addDelay c ticks beyond else d.countBeyond c ticks beyond
    | none =>
      if d.targetW = d.bel.hardW ∧ d.bel.hardCode ≠ 0 ∧ (!d.bel.rampLimiting ∨ 5 * d.targetW ≤ d.bel.governed) then
        d.countBeyond (ceilingCause d.bel.hardCode) ticks beyond
      else d

/-- The later phase of the lane of a phase takes effect by a tick: the phase has ended (R425). -/
def Bellows.phaseOver (b : Bellows) (now : Nat) (p : Phase) : Bool :=
  b.phases.any fun q => q.slot == p.slot && q.lane == p.lane && decide (p.start < q.start ∧ q.start ≤ now)

/-- P_obs of a phase in units of 2^-16 W: its mean activity over its mean issued fraction; none of a phase in which nothing was
observed or nothing issued. -/
def Phase.observed (p : Phase) : Option Nat :=
  if p.issued = 0 ∨ p.tag = 0 then none else some (p.activity * 16 * 65536 / p.issued)

/-- One occurrence of a phase learned (R425). -/
def Bellows.learn (b : Bellows) (p : Phase) : Bellows :=
  match p.observed with
  | none => b
  | some obs =>
    let same (q : Profile) : Bool := q.slot == p.slot && q.tag == p.tag && q.array == p.array
    if b.profiles.any same then
      { b with profiles := updWhere same (fun q => { q with value := (7 * q.value + obs) / 8, count := q.count + 1 }) b.profiles }
    else { b with profiles := b.profiles ++ [{ slot := p.slot, tag := p.tag, array := p.array, value := obs, count := 1 }] }

/-- Phases that have ended by a tick are learned and leave. -/
def Bellows.endPhases (b : Bellows) (now : Nat) : Bellows :=
  let ended := b.phases.filter (b.phaseOver now)
  ended.foldl Bellows.learn { b with phases := b.phases.filter fun p => !b.phaseOver now p }

/-- A THINT: the phase of a lane's array begins LEAD ticks from now; a later THINT with the same start takes the place of the
earlier (R137, R425). -/
def Bellows.hint (b : Bellows) (now slot lane : Nat) (array : Fin 8) (tag : BitVec 8) (lead : Nat) : Bellows :=
  let b := b.endPhases now
  let p : Phase := { slot := slot, lane := lane, array := array, tag := tag, start := now + lead }
  { b with phases := (b.phases.filter fun q => !(q.slot == slot && q.lane == lane && q.array == array && q.start == p.start)) ++ [p] }

/-- The phases of R425 gather the interval's activity and issue. -/
def Bellows.samplePhases (b : Bellows) (now : Nat) (activity : List Nat) : Bellows :=
  let sample (p : Phase) : Phase :=
    if now < p.start then p
    else
      { p with
        activity := p.activity + (activity[p.array.val]?).getD 0
        issued := p.issued + (16 - b.bubbles[p.array].toNat)
        samples := p.samples + 1 }
  { b with phases := b.phases.map sample }

/-- The estimate after trimming (R418), narrowed to the register. -/
def Bellows.trimmed (b : Bellows) (raw : Nat) : Word16 := satOf 16 (raw * b.trim.toNat / 16384)

/-- BELLOWS_INTERVAL (R102, R418-R421, R428, R429): `raw` is the untrimmed estimate in watts, `activity` the estimated activity of
each array in watts. The governed level moves toward the goal by at most SLOPE: a rise is held by bubbles, a fall by ballast rows,
also after the last PROG_UNLOAD and with BALLAST_EN 0. -/
def Device.bellowsInterval (raw : Word16) (activity : List Nat) (d : Device) : Device :=
  let t := d.targetW
  let est := d.bel.trimmed raw.toNat
  let goal := d.goalW est.toNat activity
  let gov := d.bel.governNext d.arraysHalted (5 * goal)
  let level := min t (gov / 5)
  let limiting := decide (gov ≠ 5 * goal)
  let hard := decide (t = d.bel.hardW) || decide (gov < 5 * goal)
  let busy := !d.arraysHalted
  let work := est.toNat - ballastW d.bel.density
  let b' :=
    if level < work then d.shed (work - level) hard d.bel.bubbles
    else d.giveBack (d.bubbleLoad d.bel.bubbles + (level - work) * 656 * 65536) 120 d.bel.bubbles
  let fills := (d.bel.ballastOn && d.bel.ballastEn) || decide (5 * goal < gov)
  let density := if fills && busy && decide (work < level) then ballastDensity (level - work) else 0
  let d := d.updBel fun b =>
    { b with
      estimate := est, target := satOf 16 t, binding := BitVec.ofNat 3 d.bindingCode
      governed := gov, rampLimiting := limiting
      estSum := b.estSum + raw.toNat, estCount := b.estCount + 1
      bubbles := b', density := density, ballastActive := decide (density ≠ 0)
      bubbleCycles := satAdd b.bubbleCycles
        (if busy then intervalFrames * sumOf (fun n => b'[n].toNat) (Bank.indices 8) else intervalFrames * 16 * 8) }
  let frozen (n : Fin 8) : Nat := intervalFrames * (if busy && !d.arrays[n].debugFrozen then b'[n].toNat else 16)
  let d := { d with arrays := Vector.ofFn fun n => { d.arrays[n] with bubbles := satAdd d.arrays[n].bubbles (frozen n) } }
  let d := d.updBel fun b => (b.endPhases d.tb.now.toNat).samplePhases d.tb.now.toNat activity
  -- the rise after a halt, a brake or a hold ends when the grant is reached again, or when the governor no longer limits it
  let reached := !limiting || decide (5 * min t (d.grantW d.adm.promises) ≤ gov)
  d.updBel fun b => if busy && reached then { b with rising := none } else b

def execBellowsInterval (estimate : Word16) (activity : List Nat) (s : State) : Answer :=
  s.act (Device.bellowsInterval estimate activity)

/-! ### Trim and supply (R417-R419, R427) -/

/-- The trim gain measured / estimate in units of 2^-14, clamped to 0.95-1.05, with whether it was clamped (R418). -/
def trimGain (measured mean : Nat) : Word16 × Bool :=
  let k := measured * 16384 / mean
  if k < 15565 then (15565, true) else if 17203 < k then (17203, true) else (BitVec.ofNat 16 k, false)

/-- TRIM_UPDATE (R418): the millisecond's mean of V72_SENSE and input current against the mean estimate. -/
def Device.trimUpdate (voltage current : Word16) (d : Device) : Device :=
  let w := voltage.toNat * current.toNat / 10000
  let mean := if d.bel.estCount = 0 then 0 else d.bel.estSum / d.bel.estCount
  let d := d.updBel fun b =>
    { b with voltage := voltage, current := current, measured := satOf 16 w, estSum := 0, estCount := 0
             supply := BitVec.ofNat 16 (supplyW voltage) }
  if mean = 0 then d
  else
    let (k, clamped) := trimGain w mean
    let d := d.updBel fun b => { b with trim := k }
    if clamped then d.logEvent 0x0908 .warn 0 0 srcBellows else d

def execTrimUpdate (voltage current : Word16) (s : State) : Answer := s.act (Device.trimUpdate voltage current)

/-- CONVERTER_ISOLATE (R417): the converter's bit clears; with none left power is lost until V72 is removed. -/
def Device.converterIsolate (k : Fin 4) (d : Device) : Device :=
  if d.bel.convOk.getLsbD k.val then
    let d := d.updBel fun b => { b with convOk := b.convOk &&& ~~~(1#4 <<< k.val) }
    let d := d.logEvent 0x0907 .error k.val 0 srcBellows
    if d.bel.converters = 0 then d.losePower { d.pins with tripped := true } else d
  else d

def execConverterIsolate (converter : Fin 4) (s : State) : Answer := s.act (Device.converterIsolate converter)

/-- V72_RANGE_CHANGE (R427): the supply ceiling of the new voltage; SUPPLY_RANGE and ALERT_N outside 60-80 V. -/
def Device.v72RangeChange (voltage : Word16) (d : Device) : Device :=
  let out := decide (voltage.toNat < 6000 ∨ 8000 < voltage.toNat)
  let was := d.bel.supplyRange
  let d := d.updBel fun b =>
    { b with voltage := voltage, supply := BitVec.ofNat 16 (supplyW voltage), supplyRange := out }
  let d := { d with pins := { d.pins with v72OutOfRange := out } }
  if out && !was then d.logEvent 0x0906 .warn 0 0 srcBellows else d

def execV72RangeChange (voltage : Word16) (s : State) : Answer := s.act (Device.v72RangeChange voltage)

/-! ### Brake and power fail (R426, R427) -/

/-- The target follows a lowered ceiling at once (R426, R428). -/
def Device.dropTarget (d : Device) : Device :=
  let t := d.targetW
  let code := d.bindingCode
  d.updBel fun b =>
    { b with target := satOf 16 t, governed := min b.governed (5 * t), binding := BitVec.ofNat 3 code }

/-- The levels of PWRBRAKE_N and PWRFAIL_N. -/
def Device.setBrakePin (low : Bool) (d : Device) : Device := { d with pins := { d.pins with pwrbrakeLow := low } }
def Device.setFailPin (low : Bool) (d : Device) : Device := { d with pins := { d.pins with pwrfailLow := low } }

def Device.brakeAssert (d : Device) : Device :=
  if d.bel.brake then d
  else
    let d := d.setBrakePin true
    let d := d.updBel fun b => { b with brake := true }
    (d.dropTarget).logEvent 0x0902 .warn 0 d.bel.brakeLevel.toNat srcBellows

def execBrakeAssert (s : State) : Answer := s.actPin Device.brakeAssert (Device.setBrakePin true)

def Device.brakeRelease (d : Device) : Device :=
  let d := d.setBrakePin false
  if d.bel.brake then d.updBel fun b => { b with brake := false, rising := some .hardBrake } else d

def execBrakeRelease (s : State) : Answer := s.actPin Device.brakeRelease (Device.setBrakePin false)

def offBellows : Nat := 0x02900000

/-- A write to LEVEL_W takes effect at once, also while the brake is asserted (R426). -/
def Device.setBrakeLevel (v : Word32) (d : Device) : Device :=
  let d := d.updBel fun b => { b with brakeLevel := v.extractLsb' 0 16 }
  if d.bel.brake then d.dropTarget else d

def Device.brakeLevelWrite (req : Requester) (v : Word32) (d : Device) : Device :=
  d.writeBy req (offBellows + 0x28) none (Device.setBrakeLevel v)

def execBrakeLevelWrite (req : Requester) (value : Word32) (s : State) : Answer := s.act (Device.brakeLevelWrite req value)

/-- PWRFAIL_N halts the arrays and stops ballast (R427). -/
def Device.pwrfailAssert (d : Device) : Device :=
  let d := d.setFailPin true
  d.updBel fun b => { b with powerFail := true, density := 0, ballastActive := false }

def execPwrfailAssert (s : State) : Answer := s.actPin Device.pwrfailAssert (Device.setFailPin true)

def Device.pwrfailRelease (d : Device) : Device :=
  let d := d.setFailPin false
  if d.bel.powerFail then d.updBel fun b => { b with powerFail := false, rising := some .supply } else d

def execPwrfailRelease (s : State) : Answer := s.actPin Device.pwrfailRelease (Device.setFailPin false)

/-! ### Temperatures (R307, R431-R433) -/

/-- The thermal ceiling one step nearer a goal, by at most `by'` watts. -/
def approach (now goal by' : Nat) : Nat := if goal ≤ now then max goal (now - by') else min goal (now + by')

/-- COOLANT_READ (R431): COOLANT_FLOW is logged by the reading 100 ms after the first of an unbroken run above 12 °C, and leaves the
ceiling as it is. While a junction or stack excursion lasts a reading does not raise the ceiling (R432). -/
def Device.coolantRead (inlet outlet : BitVec 8) (d : Device) : Device :=
  let b := d.bel
  let goal := coolantW inlet
  let next := if b.firstCoolant then goal else approach b.thermal.toNat goal 160
  let next := if b.thermalExcursion then min next b.thermal.toNat else next
  let range := decide (60 < inlet.toNat ∨ inlet.toNat < 20)
  let bad := if inlet.toNat + 12 < outlet.toNat then b.flowBad + 1 else 0
  let flow := decide (100 < bad)
  let d := d.updBel fun b =>
    { b with
      inlet := inlet, outlet := outlet, firstCoolant := false, coolantRange := range, flowBad := bad, flowAlert := flow
      thermal := BitVec.ofNat 16 next }
  let d := if range && !b.coolantRange then d.logEvent 0x0904 .warn 0 0 srcBellows else d
  if flow && !b.flowAlert then d.logEvent 0x0905 .warn 0 0 srcBellows else d

def execCoolantRead (inlet outlet : BitVec 8) (s : State) : Answer := s.act (Device.coolantRead inlet outlet)

/-- The first die or stack over its limit, the source of THERMAL_LIMIT: dies by their number, stack s as 32 + s. -/
def Device.hotPlace (d : Device) : Nat :=
  match (Bank.indices 32).find? fun i => decide (104 ≤ d.bel.junction[i].toNat) with
  | some i => i.val
  | none => 32 + (((Bank.indices 20).find? fun k => d.mem.hbm[k].hot).map Fin.val).getD 0

/-- The thermal ceiling after one reading of the junctions: down 100 W while any reads 104 °C or a stack is HOT, back up
100 W toward the coolant value once every junction reads 101 °C or less and every stack 93 °C or less (R432). -/
def Device.thermalLoop (d : Device) : Device :=
  let b := d.bel
  let hot := decide (104 ≤ b.junctionMax) || d.anyHot
  let cool := decide (b.junctionMax ≤ 101) && decide (d.stackMax ≤ 93)
  if hot then
    let d := d.updBel fun b => { b with thermal := BitVec.ofNat 16 (b.thermal.toNat - 100), thermalExcursion := true }
    if b.thermalExcursion then d else d.logEvent 0x0903 .warn d.hotPlace 0 srcBellows
  else if cool && b.thermalExcursion then
    let next := min (coolantW b.inlet) (b.thermal.toNat + 100)
    d.updBel fun b =>
      { b with thermal := BitVec.ofNat 16 next, thermalExcursion := decide (next < coolantW b.inlet) }
  else d

/-- Each reading kept by its die. -/
def Bellows.noteJunctions (b : Bellows) (rs : List (Fin 32 × BitVec 8)) : Bellows :=
  { b with junction := rs.foldl (fun v r => Bank.upd v r.1 fun _ => r.2) b.junction }

def Device.junctionRead (rs : List (Fin 32 × BitVec 8)) (d : Device) : Device :=
  (d.updBel (·.noteJunctions rs)).thermalLoop

def execJunctionRead (readings : List (Fin 32 × BitVec 8)) (s : State) : Answer := s.act (Device.junctionRead readings)

/-- THERMTRIP_N latches low, the converters stop and all device state is lost (R433, R522). -/
def Device.thermtrip (d : Device) : Device := d.losePower { d.pins with tripped := true, thermtrip := true }

def execThermtrip (s : State) : Answer := s.act Device.thermtrip

/-- COUNT_CLR of BEL_CTRL. -/
def Bellows.clearCounts (b : Bellows) : Bellows :=
  { b with bubbleCycles := 0, beyondBrake := 0, beyondThermal := 0, beyondSupply := 0, beyondTicks := Vector.replicate 3 0 }

def execBelCountClr (req : Requester) (s : State) : Answer :=
  s.act fun d => d.writeBy req (offBellows + 0x08) none fun d => d.updBel Bellows.clearCounts

/-! ### Commands of block 0x09 (R423, R430, R436, R437) -/

/-- CAP_SET (R423): 0 removes the cap; a value below the floor is clamped to it. -/
def Device.capSet (h : CmdHdr) (w : Word16) (d : Device) : Device :=
  d.adminCommand 0x0901 h fun c d =>
    if 5400 < w.toNat then d.finish c .badParam
    else if w = 0 then (d.updBel fun b => { b with soft := 5400 }).ok c 5400
    else if w.toNat < Config.floorCalW then
      let f := Config.floorCalW
      let d := d.updBel fun b => { b with soft := BitVec.ofNat 16 f }
      (d.finish c .capBelowFloor f).logEvent 0x0901 .info 0 0 srcBellows
    else (d.updBel fun b => { b with soft := w }).ok c w.toNat

def execCapSet (h : CmdHdr) (watts : Word16) (s : State) : Answer := s.act (Device.capSet h watts)

def Device.pwrQuery (h : CmdHdr) (d : Device) : Device :=
  d.command 0x0902 h fun c d =>
    d.ok c (d.bel.estimate.toNat + 2 ^ 16 * d.bel.target.toNat + 2 ^ 32 * d.bel.hardW + 2 ^ 48 * d.bel.inlet.toNat
      + 2 ^ 56 * d.bel.junctionMax)

def execPwrQuery (h : CmdHdr) (s : State) : Answer := s.act (Device.pwrQuery h)

def Device.rampSet (h : CmdHdr) (slope : BitVec 8) (d : Device) : Device :=
  d.adminCommand 0x0903 h fun c d =>
    if slope = 0 ∨ 200 < slope.toNat then d.finish c .badParam
    else if !d.adm.promises.isEmpty then d.finish c .busy
    else (d.updBel fun b => { b with slope := slope }).ok c

def execRampSet (h : CmdHdr) (slope : BitVec 8) (s : State) : Answer := s.act (Device.rampSet h slope)

def Device.ballastSet (h : CmdHdr) (en : BitVec 8) (floor : Word16) (d : Device) : Device :=
  d.adminCommand 0x0904 h fun c d =>
    if 1 < en.toNat ∨ 5400 < floor.toNat then d.finish c .badParam
    else if !d.adm.promises.isEmpty then d.finish c .busy
    else (d.updBel fun b => { b with ballastEn := en = 1, ballastFloor := floor }).ok c

def execBallastSet (h : CmdHdr) (enable : BitVec 8) (floor : Word16) (s : State) : Answer :=
  s.act (Device.ballastSet h enable floor)

/-- The program in a slot, when it is loaded by this account (R148: an EMPTY slot or another account's is answered
ST_BAD_PARAM or ST_NOT_OWNER). -/
def Device.slotFault (d : Device) (prog : BitVec 8) (account : BitVec 6) : Option Status :=
  match asFin 16 prog.toNat with
  | none => some .badParam
  | some k =>
    match d.progs[k] with
    | none => some .badParam
    | some p => if p.account = account then none else some .notOwner

/-- A program runs while a step is in flight (R145). -/
def Device.slotRunning (d : Device) (prog : BitVec 8) : Bool :=
  match asFin 16 prog.toNat with
  | none => false
  | some k => (d.progs[k]).any fun p => p.state == .running

/-- The profiles of a program, or of all, forgotten; a phase under way restarts its sums. -/
def Bellows.clearProfiles (b : Bellows) (pick : Nat → Bool) : Bellows :=
  { b with profiles := b.profiles.filter fun p => !pick p.slot, phases := b.phases.filter fun p => !pick p.slot }

def Device.profileClear (h : CmdHdr) (prog : BitVec 8) (d : Device) : Device :=
  d.command 0x0905 h fun c d =>
    if prog = 0xFF then
      if (Bank.indices 16).any fun k => (d.progs[k]).any fun p => p.state == .running then d.finish c .busy
      else ((d.updBel (·.clearProfiles fun _ => true)).logEvent 0x0909 .info 0 0 srcBellows).ok c
    else match d.slotFault prog h.account with
      | some st => d.finish c st
      | none =>
        if d.slotRunning prog then d.finish c .busy
        else
          ((d.updBel (·.clearProfiles (· == prog.toNat))).logEvent 0x0909 .info 0 0 srcBellows).ok c

def execProfileClear (h : CmdHdr) (prog : BitVec 8) (s : State) : Answer := s.act (Device.profileClear h prog)

end Sys2Proof.Machine
end

