-- ==== Sys2Proof/Machine/Tensor.lean ====
section
/-! DEFINITION. Tensor descriptors as memory (R54, R138, R139, R295): where each element lies, reading and writing a
matrix, and the histogram entries of what was written (R76-R78). -/

namespace Sys2Proof.Machine

/-! ### Shape and extent -/

/-- Rows and columns of the matrix view (R123). -/
def Desc.rows (d : Desc) : Nat := d.dim1 * d.dim2 * d.dim3
def Desc.cols (d : Desc) : Nat := d.dim0

/-- Elements of the tensor. -/
def Desc.elems (d : Desc) : Nat := d.rows * d.cols

/-- Element position of the first element of row `r` (R138). -/
def Desc.rowStart (d : Desc) (r : Nat) : Nat :=
  d.stride1 * (r % d.dim1) + d.stride2 * (r / d.dim1 % d.dim2) + d.stride3 * (r / (d.dim1 * d.dim2))

/-- Bytes of one element; Z4 has two elements a byte and is placed by its planes. -/
def Format.bytes : Format → Nat
  | .z16 => 2 | .h16 => 2 | .z8a => 1 | .z8b => 1 | .z4 => 1

/-- Contraction rows of a 128-byte block: 8 of 16-bit images, 16 of 8-bit pairs (R87, R295). -/
def Format.foldRows : Format → Nat
  | .z8a => 16 | .z8b => 16 | _ => 8

/-- The offset of the Z4 scale plane (R54). -/
def Desc.scalePlane (d : Desc) : Nat :=
  roundUp (d.offset + ceilDiv (d.rowStart (d.rows - 1) + d.stride1) 2) 32

/-- The object bytes of a descriptor, from the first to past the last (R139). -/
def Desc.lo (d : Desc) : Nat := d.offset

def Desc.hi (d : Desc) : Nat :=
  if d.folded then d.offset + 128 * (ceilDiv d.rows d.format.foldRows * ceilDiv d.cols 8)
  else match d.format with
    | .z4 => d.scalePlane + d.rows * (d.stride1 / 32)
    | f => d.offset + (d.rowStart (d.rows - 1) + d.cols) * f.bytes

/-- The range of a descriptor's bytes. DESIGN CHOICE: the bytes in the stride gaps of a STRIDED tensor count among them (R176, R180; log
entry 156). -/
def Desc.range (d : Desc) : Range := { object := d.object, lo := d.lo, hi := d.hi }

/-- The object byte of element (r, c) of a format other than Z4; the blocks of a FOLDED tensor lie in row-major block order
(log entry 11). -/
def Desc.loc (d : Desc) (r c : Nat) : Nat :=
  if d.folded then
    let fr := d.format.foldRows
    let blk := r / fr * ceilDiv d.cols 8 + c / 8
    let i := r % fr
    d.offset + 128 * blk + (if fr = 16 then 2 * (8 * (i / 2) + c % 8) + i % 2 else 2 * (8 * i + c % 8))
  else d.offset + (d.rowStart r + c) * d.format.bytes

/-! ### Values -/

/-- The float format of a descriptor's codes; H16 is imported as Z16 (R49). -/
def Format.fmt : Format → Fmt
  | .z16 => .z16 | .h16 => .z16 | .z8a => .z8a | .z8b => .z8b | .z4 => .z4

/-- The value of a code read through a descriptor, with whether it was an H16 special (R49). -/
def Format.value (f : Format) (code : Nat) : Dyad × Bool :=
  match f with
  | .h16 =>
    let (z, n) := h16ToZ16 (BitVec.ofNat 16 code)
    (ofZ16 z, n == .special)
  | f => (f.fmt.decode code, false)

/-- Element (r, c) read through `rd`, a reader of object bytes. -/
def Desc.elem (d : Desc) (rd : Nat → Byte) (r c : Nat) : Dyad × Bool :=
  match d.format with
  | .z4 =>
    let pos := d.rowStart r + c
    let b := (rd (d.offset + pos / 2)).toNat
    let code := if pos % 2 = 0 then b % 16 else b / 16
    (z4Decode (rd (d.scalePlane + r * (d.stride1 / 32) + c / 32)) code, false)
  | f =>
    let a := d.loc r c
    f.value (if f.bytes = 2 then (rd a).toNat + 256 * (rd (a + 1)).toNat else (rd a).toNat)

/-- A matrix of exact values, rows of columns. -/
abbrev Matrix := List (List Dyad)

/-- The matrix a descriptor views. -/
def Desc.load (d : Desc) (rd : Nat → Byte) : Matrix :=
  (List.range d.rows).map fun r => (List.range d.cols).map fun c => (d.elem rd r c).1

/-- The matrix with what an H16 import did: an infinity saturates (R49). -/
def Desc.loadTraced (d : Desc) (rd : Nat → Byte) : List (List Traced) :=
  (List.range d.rows).map fun r => (List.range d.cols).map fun c =>
    let (v, special) := d.elem rd r c
    { word := toW32 v, sat := special && v.m != 0, special := special }

/-- The H16 specials a read of the whole tensor imports, as entries of the destination tensor's histogram: a NaN in the
zero bin, an infinity in the saturation bin (R49). -/
def Desc.specials (d : Desc) (rd : Nat → Byte) (dest : Word32) (stream : Fin 3) : List HistAdd :=
  if d.format = .h16 then
    (List.range d.rows).flatMap fun r => (List.range d.cols).filterMap fun c =>
      match d.elem rd r c with
      | (v, true) =>
        some { tensor := dest, stream := stream, outcome := if v.m = 0 then 0 else 2,
               binade := if v.m = 0 then 0 else v.binade, nonzero := v.m != 0, special := true }
      | _ => none
  else []

/-- A value of the matrix, zero outside it. -/
def Matrix.at (m : Matrix) (r c : Nat) : Dyad := ((m[r]?).bind fun x => x[c]?).getD Dyad.zero

/-- The transpose of a matrix with `n` columns. -/
def Matrix.columns (m : Matrix) (n : Nat) : Matrix := (List.range n).map fun c => m.map fun r => (r[c]?).getD Dyad.zero

/-! ### Writing -/

/-- How the values of a write round: to nearest-even, or stochastically with the draw of each element (R64, R66). -/
inductive DrawRule where
  | rne
  | dither (seed : Word64) (use : DitherUse) (tensor : Word32) (step : Word32)
deriving DecidableEq, Repr, Inhabited

/-- The rounding of the element with a logical index. -/
def DrawRule.at (r : DrawRule) (element : Nat) : Rounding :=
  match r with
  | .rne => .rne
  | .dither seed use tensor step => .sr (draw seed use tensor element step)

/-- What a narrowing write counts of one value (R77): outcome and the binade of the value written. -/
def histOf (tensor : Word32) (stream : Fin 3) (o : Outcome) (v : Dyad) (special : Bool := false) : HistAdd :=
  { tensor := tensor, stream := stream
    outcome := match o with | .zero => 0 | .underflow => 1 | .saturated => 2 | .finite => 3
    binade := if v.m = 0 then 0 else v.binade, nonzero := v.m != 0, special := special }

/-- A code to store and its outcome. -/
structure Narrowed where
  code : Nat
  outcome : Outcome
  value : Dyad
deriving DecidableEq, Repr, Inhabited

/-- A W32 value narrowed to a format other than Z4; H16 is exported (R50). -/
def Format.narrow (f : Format) (r : Rounding) (w : Word32) : Narrowed :=
  match f with
  | .h16 =>
    let (c, o) := Fmt.h16.round .rne (ofW32 w)
    ⟨c, o, Fmt.h16.decode c⟩
  | f =>
    let (c, o) := f.fmt.round r (ofW32 w)
    ⟨c, o, f.fmt.decode c⟩

/-- One byte of an object to store. -/
abbrev ByteAt := Nat × Byte

/-- The bytes of one row of 32-element Z4 blocks: scale bytes, codes by position, and what was narrowed (R53-R55). -/
def z4Row (scaleAt pos : Nat) (rule : DrawRule) (index : Nat) : Nat → List Word32 →
    List ByteAt × List (Nat × Nat) × List Narrowed
  | 0, _ => ([], [], [])
  | _, [] => ([], [], [])
  | k + 1, ws =>
    let blk := ws.take 32
    let c := z4Scale blk
    let ns := blk.mapIdx fun i w =>
      let (code, o) := z4Encode c (rule.at (index + i)) w
      (⟨code, o, z4Decode c code⟩ : Narrowed)
    let codes := (List.range 32).map fun i => (pos + i, ((ns[i]?).map Narrowed.code).getD 0)
    let (ss, cs, rest) := z4Row (scaleAt + 1) (pos + 32) rule (index + 32) k (ws.drop 32)
    ((scaleAt, c) :: ss, codes ++ cs, ns ++ rest)

/-- A byte with one code put in: the even position in the low half (R54). -/
def putCode (b : Byte) (pos code : Nat) : Byte :=
  BitVec.ofNat 8 (if pos % 2 = 0 then b.toNat / 16 * 16 + code else b.toNat % 16 + 16 * code)

/-- Codes at consecutive positions, two a byte; a byte of which they cover one half keeps the other as `rd` has it. -/
def pairCodes (rd : Nat → Byte) (base : Nat) : List (Nat × Nat) → List ByteAt
  | (p, a) :: (q, b) :: r =>
    if p % 2 = 0 then (base + p / 2, BitVec.ofNat 8 (a + 16 * b)) :: pairCodes rd base r
    else (base + p / 2, putCode (rd (base + p / 2)) p a) :: pairCodes rd base ((q, b) :: r)
  | [(p, a)] => [(base + p / 2, putCode (rd (base + p / 2)) p a)]
  | [] => []

/-- One row narrowed: object bytes and what was narrowed; `rd` reads the bytes that stand. -/
def Desc.storeRow (d : Desc) (rd : Nat → Byte) (rule : DrawRule) (r : Nat) (ws : List Word32) : List ByteAt × List Narrowed :=
  match d.format with
  | .z4 =>
    let (ss, cs, ns) := z4Row (d.scalePlane + r * (d.stride1 / 32)) (d.rowStart r) rule (r * d.cols) (ws.length + 1) ws
    (ss ++ pairCodes rd d.offset cs, ns)
  | f =>
    let ns := ws.mapIdx fun c w => f.narrow (rule.at (r * d.cols + c)) w
    ((ns.mapIdx fun c n =>
        if f.bytes = 2 then
          [(d.loc r c, BitVec.ofNat 8 n.code), (d.loc r c + 1, BitVec.ofNat 8 (n.code / 256))]
        else [(d.loc r c, BitVec.ofNat 8 n.code)]).flatten, ns)

/-- Bytes read through stores made before: the newest store of a byte, else what `rd` has. -/
def readOver (rd : Nat → Byte) (bs : List ByteAt) (a : Nat) : Byte :=
  ((bs.reverse.find? fun b => b.1 == a).map Prod.snd).getD (rd a)

/-- Rows narrowed one after the other: two rows of a Z4 tensor can share a byte (R54). -/
def Desc.storeRows (d : Desc) (rd : Nat → Byte) (rule : DrawRule) (rows : List (Nat × List Word32)) :
    List ByteAt × List Narrowed :=
  rows.foldl (fun (out : List ByteAt × List Narrowed) r =>
    let (bs, ns) := d.storeRow (if d.format = .z4 then readOver rd out.1 else rd) rule r.1 r.2
    (out.1 ++ bs, out.2 ++ ns)) ([], [])

/-- A narrowing write of a matrix of W32 values: the object bytes and what was narrowed, in logical row-major order. -/
def Desc.store (d : Desc) (rd : Nat → Byte) (rule : DrawRule) (m : List (List Word32)) : List ByteAt × List Narrowed :=
  d.storeRows rd rule (m.mapIdx fun r ws => (r, ws))

/-! ### Histograms (R77, R78) -/

/-- The largest exponent of two, none first. -/
def maxE (a : Option Int) (b : Int) : Option Int := some (match a with | none => b | some x => max x b)
def minE (a : Option Int) (b : Int) : Option Int := some (match a with | none => b | some x => min x b)

/-- The bin of a value (R77). -/
def histBin (window : Int) (a : HistAdd) : Fin 64 :=
  if a.outcome = 0 then 0
  else if a.outcome = 1 then 1
  else if a.outcome = 2 then 2
  else if a.binade < window then 3
  else if window + 58 < a.binade then 4
  else clampFin 63 (5 + (a.binade - window).toNat)

/-- One value counted. -/
def Hist.count (window : Int) (h : Hist) (a : HistAdd) : Hist :=
  let h := { h with bins := Bank.upd h.bins (histBin window a) bump }
  let h := if a.special then { h with specials := bump h.specials } else h
  if 2 ≤ a.outcome.toNat ∧ a.nonzero then { h with eMax := maxE h.eMax a.binade, eMin := minE h.eMin a.binade } else h

/-- The histogram of a tensor and stream in a list, a fresh one when there is none. -/
def histFor (hs : List Hist) (tensor : Word32) (stream : Fin 3) (step : Word32) : Hist :=
  (hs.find? fun h => h.tensor == tensor && h.stream == stream).getD { tensor := tensor, stream := stream, step := step }

/-- A histogram put in the place of the one of its tensor and stream. -/
def putHist (hs : List Hist) (h : Hist) : List Hist :=
  if hs.any fun x => x.tensor == h.tensor && x.stream == h.stream then
    hs.map fun x => if x.tensor == h.tensor && x.stream == h.stream then h else x
  else hs ++ [h]

/-- Values counted into a list of histograms. -/
def countAll (window : Int) (step : Word32) (hs : List Hist) (as : List HistAdd) : List Hist :=
  as.foldl (fun hs a => putHist hs ((histFor hs a.tensor a.stream step).count window a)) hs

/-- Two exponents merged. -/
def mergeE (f : Int → Int → Int) : Option Int → Option Int → Option Int
  | none, b => b
  | a, none => a
  | some a, some b => some (f a b)

/-- One histogram added into another (R79): bins and specials added, saturating. -/
def Hist.merge (a b : Hist) : Hist :=
  { a with
    bins := Vector.ofFn fun i => satAdd a.bins[i] b.bins[i].toNat
    eMax := mergeE max a.eMax b.eMax
    eMin := mergeE min a.eMin b.eMin
    specials := satAdd a.specials b.specials.toNat
    step := b.step }

/-- A list of histograms added into another. -/
def mergeAll (hs new : List Hist) : List Hist :=
  new.foldl (fun hs h => putHist hs ((hs.find? fun x => x.tensor == h.tensor && x.stream == h.stream).elim h (·.merge h))) hs

end Sys2Proof.Machine
end

