-- ==== Sys2Proof/Machine/ProgOps.lean ====
section
/-! DEFINITION. What a loaded program names: its descriptors, released tensors, regions and objects (R127, R155, R171,
R179, R183). -/

namespace Sys2Proof.Machine

/-- A descriptor by handle. -/
def descAt (ds : List Desc) (h : Handle) : Option Desc := ds[h.toNat]?

/-- Instructions of a lane. -/
def Program.body (p : Program) (lane : Fin 17) : List PlacedInstr := p.lanes[lane].body

/-- Handles a U lane's TRED GRADs name, in program order: the released tensors in release order (R127, R183). -/
def Program.releasedHandles (p : Program) : List Handle :=
  (p.body 16).filterMap fun i => match i.instr with | .tred 7 _ _ _ ha _ => some ha | _ => none

/-- Descriptors of the released tensors, in release order. -/
def Program.releasedDescs (p : Program) : List Desc := p.releasedHandles.filterMap (descAt p.descs)

/-- The release ordinal of a tensor (R183). -/
def Program.ordinalOf (p : Program) (tensor : Word32) : Option Nat := p.releasedDescs.findIdx? fun d => d.tensor == tensor

/-- A tensor is released by a TRED GRAD. -/
def Program.isReleased (p : Program) (tensor : Word32) : Bool := (p.ordinalOf tensor).isSome

/-- The program that exchanges gradients: the lowest slot whose program releases tensors. -/
def Device.jobProgram (d : Device) : Option (Fin 16 × Program) := d.programs.find? fun x => !x.2.releasedHandles.isEmpty

/-- The version a WEIGHT tensor carries (R177). -/
def Program.version (p : Program) (tensor : Word32) : Nat :=
  ((p.versions.find? fun v => v.1 == tensor).map Prod.snd).getD p.baseVersion

/-- The version of a tensor set. -/
def Program.setVersion (p : Program) (tensor : Word32) (v : Nat) : Program :=
  { p with versions := (tensor, v) :: p.versions.filter fun x => x.1 != tensor }

/-- The layer scale in force of a tensor: the value chosen, or the descriptor's (R73, R81). -/
def Program.sigmaOf (p : Program) (tensor : Word32) : Int :=
  match p.sigma.find? fun x => x.1 == tensor with
  | some x => x.2
  | none => ((p.descs.find? fun d => d.tensor == tensor).map Desc.sigma).getD 0

/-- The step of a number in flight. -/
def Program.stepAt (p : Program) (s : Nat) : Option StepState := p.steps.find? fun x => x.step == s

/-- A step of a program changed. -/
def Program.updStep (p : Program) (s : Nat) (f : StepState → StepState) : Program :=
  { p with steps := updFirst (fun x => x.step == s) f p.steps }

/-- The update-rule objects. -/
def Program.ruleObjects (p : Program) : List Word32 := (p.rules.map fun r => [r.stateObject, r.gradObject]).getD []

/-- Objects the stash declaration names. -/
def StashDecl.objects (s : StashDecl) : List Word32 := [s.primary, s.spill, s.overflow].filter (· != 0)

/-- Every object a loaded program names (R288, R298). -/
def Program.objects (p : Program) : List Word32 :=
  (p.descs.map Desc.object ++ p.stash.objects ++ [p.gx.errmem, p.pyroObject] ++ p.ruleObjects).filter (· != 0)

/-- Live KV spaces. -/
def Device.liveSpaces (d : Device) : List (Fin 16 × Space) :=
  (Bank.indices 16).filterMap fun k => (d.aster.spaces[k]).map fun p => (k, p)

/-- The object is named by a loaded program or a live KV space (R297, R298). -/
def Device.objectNamed (d : Device) (id : Word32) : Bool :=
  (d.programs.any fun p => p.2.objects.contains id) || d.liveSpaces.any fun s => s.2.pool == id

/-- A step in flight. -/
def Device.stepOf (d : Device) (k : Fin 16) (s : Nat) : Option StepState := (d.progs[k]).bind fun p => p.stepAt s

/-- A step of a slot changed. -/
def Device.updStep (d : Device) (k : Fin 16) (s : Nat) (f : StepState → StepState) : Device :=
  d.updProg k fun p => p.updStep s f

/-- An event a step raises at most once for a lane (R182, R216, R272): raised the first time, and folded after that. -/
def Device.raiseOnce (d : Device) (k : Fin 16) (s code lane : Nat) (sev : Severity) (source data key : Nat) : Device :=
  match d.stepOf k s with
  | none => d
  | some st =>
    if st.raised.contains (code, lane) then d.repeatEvent code sev source key
    else (d.updStep k s fun st => { st with raised := (code, lane) :: st.raised }).logEvent code sev source data key

/-- The place of events that belong to a step and to none of its lanes. -/
def noLane : Nat := 17

/-- Ranges overlap. -/
def overlaps (a b : Range) : Bool := a.object == b.object && decide (a.lo < b.hi) && decide (b.lo < a.hi)

/-- WEIGHT tensors of a program that a range covers, with their descriptors. -/
def Program.weightsIn (p : Program) (r : Range) : List Desc :=
  p.descs.filter fun d => d.cls == .weight && overlaps d.range r

/-- The reads of a tensor still to retire in a step (R179). -/
def StepState.readsLeft (s : StepState) (tensor : Word32) : Nat :=
  ((s.pendingReads.find? fun x => x.1 == tensor).map Prod.snd).getD 0

/-- The step still has a read or the update of the tensor to come (R180). -/
def Program.pendingUse (p : Program) (s : StepState) (tensor : Word32) : Bool :=
  decide (0 < s.readsLeft tensor) || (p.isReleased tensor && decide (p.version tensor ≤ s.step))

/-- Steps of running programs that a host write of a range waits for (R180). -/
def Device.writeWaits (d : Device) (r : Range) : List (Nat × Nat) :=
  d.programs.flatMap fun (k, p) =>
    if p.state = .running then
      (p.steps.filter fun s => (p.weightsIn r).any fun w => p.pendingUse s w.tensor).map fun s => (k.val, s.step)
    else []

/-- Slots whose rule objects a host write covers while a step is in flight (R240). -/
def Device.writeIdle (d : Device) (id : Word32) : List Nat :=
  (d.programs.filter fun (_, p) => p.ruleObjects.contains id && !p.steps.isEmpty).map fun (k, _) => k.val

/-- The earliest step in flight among the steps a write waits for (R182). -/
def earliestWait : List (Nat × Nat) → Option (Nat × Nat)
  | [] => none
  | w :: r =>
    match earliestWait r with
    | none => some w
    | some x => if x.2 < w.2 then some x else some w

/-- A step still holds a write of a range: it is in flight with a read or update of a covered tensor to come. -/
def Device.stepHolds (d : Device) (r : Range) (w : Nat × Nat) : Bool :=
  match asFin 16 w.1 with
  | none => false
  | some k =>
    match d.progs[k] with
    | none => false
    | some p =>
      match p.stepAt w.2 with
      | none => false
      | some s => (p.weightsIn r).any fun x => p.pendingUse s x.tensor

/-- The waits of a held write are over: no step named holds it, and the slots named have no step in flight. -/
def Device.writeFree (d : Device) (r : Range) (waits : List (Nat × Nat)) (idle : List Nat) : Bool :=
  let slotIdle (n : Nat) : Bool := (asFin 16 n).all fun k => (d.progs[k]).all fun p => p.steps.isEmpty
  !(waits.any (d.stepHolds r)) && idle.all slotIdle

/-- A FROZEN tensor of a RUNNING program is covered (R176). -/
def Device.coversFrozen (d : Device) (r : Range) : Bool :=
  d.programs.any fun (_, p) => p.state == .running && p.descs.any fun x => x.frozen && overlaps x.range r

/-- The pool of a live KV space is covered (R268). -/
def Device.coversPool (d : Device) (id : Word32) : Bool := d.liveSpaces.any fun s => s.2.pool == id

end Sys2Proof.Machine
end

