-- ==== Sys2Proof/Machine/Consume.lean ====
section
/-! DEFINITION. Stored words as units consume them: decoded, corrected and counted, or uncorrectable (R9, R89, R309, R314-R316). -/

namespace Sys2Proof.Machine

/-- STK_CORRECTED is logged at most once per step per stack (R322). -/
def Device.logCorrected (d : Device) (k : Fin 20) : Device :=
  if d.mem.hbm[k].correctedLogged then d.repeatEvent 0x0601 .info k.val (srcStack k.val)
  else (d.updStack k fun s => { s with correctedLogged := true }).logEvent 0x0601 .info k.val 0 (srcStack k.val)

/-- What the decoder makes of an error pattern: none when it is uncorrectable; else what is left of the error in the 32 data bytes,
and whether a correction counts. The code is linear, so the pattern alone decides. -/
def errorFate (dec : Bool) (pattern : List Byte) : Option (List Byte × Bool) :=
  let p := (List.range 36).map fun i => pattern.getD i 0
  match ingotDecode dec p with
  | .clean => some (p.take 32, false)
  | .corrected w => some (w.take 32, true)
  | .uncorrectable => none

def xorBytes (bs es : List Byte) : List Byte := bs.mapIdx fun i b => b ^^^ es.getD i 0

/-- The words of a region from an entry up with an error delivered in them. -/
def Region.disturb (r : Region) (first : Nat) (es : List Byte) : Region :=
  let off (e : Nat) : Word32 := if first ≤ e then BitVec.ofNat 32 (ofBytes ((es.drop (4 * (e - first))).take 4)) else 0
  { r with cells := r.cells.mapIdx fun e w => w ^^^ off e }

/-- An error that the decoder does not see, or leaves in a word it miscorrects, is delivered as data; the word then holds what was
delivered (R315; log entry 133). -/
def Device.deliverError (d : Device) (pl : WordPlace) (es : List Byte) : Device :=
  let at' (a : Nat) : Device :=
    let a := a / 32 * 32
    d.updMem fun m => m.store a (xorBytes (m.load a 32) es)
  if es.all (· == 0) then d
  else match pl with
    | .tileStore _ a => at' a
    | .hearth _ a => at' a
    | .stack _ _ _ (some a) => at' a
    | .crucible _ k h first =>
      d.updProg k fun p => { p with regions := updFirst (fun r => r.handle == h) (fun r => r.disturb first es) p.regions }
    | .sprue _ | .stack _ _ _ none => d

/-- A correction counted where *Ingot coverage* says, and a stack word's write-back scheduled (R89, R309, R314, R322). -/
def Device.countCorrected (d : Device) (pl : WordPlace) : Device :=
  match pl with
  | .tileStore n _ => d.updArray n fun a => { a with tstoreCorr := bump a.tstoreCorr }
  | .crucible n _ _ _ => d.updArray n fun a => { a with crucibleCorr := bump a.crucibleCorr }
  | .sprue n => d.updArray n fun a => { a with sprueCorr := bump a.sprueCorr }
  | .hearth n _ => d.updHearth n fun x => { x with corr := bump x.corr }
  | .stack k u w a =>
    let cw := match a with
      | some a => ingotEncode (d.mem.load (a / 32 * 32) 32)
      | none => []
    (d.updStack k fun s =>
      { s with corr := bump s.corr, writeBacks := s.writeBacks ++ [{ unit := u, word := w, addr := a, codeword := cw }] }).logCorrected k

/-- The location INGOT_UNCORRECTABLE gives: block, data and source (R316). -/
def WordPlace.location : WordPlace → Nat × Nat × Nat
  | .tileStore n _ | .crucible n _ _ _ | .sprue n => (3 + n.val, 0, srcArray n.val)
  | .hearth n _ => (13 + n.val, 0, srcHearth n.val)
  | .stack k u w _ => (21 + k.val, evData [(1, u % 32), (1, w % 2), (4, u)], srcStack k.val)

/-- A word that a row consumes is found in error; an uncorrectable one stops the row with a containment reset. -/
def Device.wordError (d : Device) (e : WordError) : Except Device Device :=
  match errorFate d.mem.dec e.pattern with
  | none => let l := e.place.location; .error (d.uncorrectable l.1 l.2.1 l.2.2)
  | some (left, counted) => let d := d.deliverError e.place left; .ok (if counted then d.countCorrected e.place else d)

/-- A row that consumes stored words, the ones in error named: each is corrected or delivered, and then the row acts; an uncorrectable
word is never delivered (R316). -/
def Device.consume (d : Device) (es : List WordError) (f : Device → Device) : Device :=
  match es.foldlM Device.wordError d with
  | .error d => d
  | .ok d => f d

end Sys2Proof.Machine
end

