-- ==== Sys2Proof/Machine/ObjOps.lean ====
section
/-! DEFINITION. Objects at work (R273-R284, R297): space and charges, reading and writing bytes, pins, and the queue of
each object. -/

namespace Sys2Proof.Machine

/-! ### Finding and access (R273-R275) -/

def Device.obj? (d : Device) (id : Word32) : Option Obj := d.mem.objects.find? fun o => o.id == id

def Device.updObj (d : Device) (id : Word32) (f : Obj → Obj) : Device :=
  d.updMem fun m => { m with objects := updFirst (fun o => o.id == id) f m.objects }

/-- The owner, or an account of the READERS mask, may read (R275). -/
def Obj.readableBy (o : Obj) (a : BitVec 6) : Bool := o.owner == a || o.readers.getLsbD a.toNat

/-- An account may read an object that exists. -/
def Device.mayRead (d : Device) (id : Word32) (a : BitVec 6) : Bool := (d.obj? id).any fun o => o.readableBy a

/-! ### Placement (R276-R279) -/

/-- Granules of the tiers (R277). -/
def granT0 : Nat := 8192
def granT1 : Nat := 65536
def granT2 : Nat := 2097152

def Place.granule : Place → Nat
  | .t0 _ => granT0
  | .t1 _ _ => granT1
  | .t2 _ => granT2

/-- The place of a home; T3 takes none of the device's space. -/
def Home.place : Home → Option Place
  | .t1 h p => some (.t1 h p)
  | .t2 m => some (.t2 m)
  | .t3 _ _ => none

def Home.tier : Home → Nat
  | .t1 _ _ => 1
  | .t2 _ => 2
  | .t3 _ _ => 3

/-- The tier of a target; none for HOME. -/
def Target.tier : Target → Option Nat
  | .t0 _ => some 0
  | .t1 _ => some 1
  | .t2 _ => some 2
  | .home => none

/-- The place of a target, with the T1 granules taken. -/
def Target.place (t : Target) (parts : List (Fin 10 × Nat)) : Option Place :=
  match t with
  | .t0 n => some (.t0 n)
  | .t1 h => some (.t1 h parts)
  | .t2 m => some (.t2 m)
  | .home => none

/-- The move that runs on the object: target, range, pieces switched and T1 granules taken. -/
def Obj.moving (o : Obj) : Option (Target × Nat × Nat × Nat × List (Fin 10 × Nat)) :=
  match o.queue with
  | { op := .place _ t off len, state := .move .moving k parts, .. } :: _ => some (t, off, len, k, parts)
  | _ => none

/-! #### Extents (R277) -/

/-- The first `n` granules of a run list, and those after them. -/
def dropParts : Nat → List (Fin 10 × Nat) → List (Fin 10 × Nat)
  | 0, l => l
  | _, [] => []
  | n, (p, k) :: r => if n < k then (p, k - n) :: r else dropParts (n - k) r

def keepParts : Nat → List (Fin 10 × Nat) → List (Fin 10 × Nat)
  | 0, _ => []
  | _, [] => []
  | n, (p, k) :: r => if n ≤ k then [(p, n)] else (p, k) :: keepParts (n - k) r

/-- The place of the first `n` granules of a placement, and of those after them. -/
def Place.keep (n : Nat) : Place → Place
  | .t1 h parts => .t1 h (keepParts n parts)
  | p => p

def Place.skip (n : Nat) : Place → Place
  | .t1 h parts => .t1 h (dropParts n parts)
  | p => p

/-- An extent without an interval. -/
def Extent.cut (e : Extent) (lo hi : Nat) : List Extent :=
  let stop := e.start + e.length
  let left := min stop lo
  let right := max e.start hi
  (if e.start < left then
      [{ e with length := left - e.start, place := e.place.keep (ceilDiv (left - e.start) e.place.granule) }] else [])
    ++ (if right < stop then
      [{ start := right, length := stop - right, place := e.place.skip ((right - e.start) / e.place.granule) }] else [])

/-- An extent put in its place by its start. -/
def insertExtent (x : Extent) : List Extent → List Extent
  | [] => [x]
  | e :: r => if x.start < e.start then x :: e :: r else e :: insertExtent x r

/-- Two placements at one target, one after the other. -/
def Place.join : Place → Place → Option Place
  | .t0 a, .t0 b => if a = b then some (.t0 a) else none
  | .t1 a p, .t1 b q => if a = b then some (.t1 a (p ++ q)) else none
  | .t2 a, .t2 b => if a = b then some (.t2 a) else none
  | _, _ => none

/-- Adjacent extents with the same target merged. -/
def mergeExtents : List Extent → List Extent
  | [] => []
  | e :: r =>
    match mergeExtents r with
    | [] => [e]
    | x :: xs =>
      if e.start + e.length = x.start then
        match e.place.join x.place with
        | some p => { start := e.start, length := e.length + x.length, place := p } :: xs
        | none => e :: x :: xs
      else e :: x :: xs

/-- New extents at a target for the pieces it lacks, the T1 granules handed out in order. -/
def addPieces (t : Target) : List (Nat × Nat) → List (Fin 10 × Nat) → List Extent → List Extent
  | [], _, es => es
  | (a, n) :: r, parts, es =>
    let k := ceilDiv n granT1
    match t.place (keepParts k parts) with
    | none => es
    | some p => addPieces t r (dropParts k parts) (insertExtent { start := a, length := n, place := p } es)

/-- The extents after a move of a range to a target (R277). -/
def Obj.extentsAfter (o : Obj) (t : Target) (off len : Nat) (parts : List (Fin 10 × Nat)) : List Extent :=
  let es := o.extents.flatMap fun e => if t.isAt e.place then [e] else e.cut off (off + len)
  mergeExtents (addPieces t (o.missing t off len) parts es)

/-- Every place the object takes space in, with the bytes it holds there: its home, its extents and the pieces a move under
way brings to its target. -/
def Obj.places (o : Obj) : List (Place × Nat) :=
  ((o.home.place).map fun p => (p, o.size)).toList
    ++ (o.extents.map fun e => (e.place, e.length))
    ++ (match o.moving with
        | some (t, off, len, _, parts) =>
          match t with
          | .t1 h => [(.t1 h parts, sumOf Prod.snd (o.missing t off len))]
          | _ => (o.missing t off len).filterMap fun s => (t.place parts).map fun p => (p, s.2)
        | none => [])

/-- Granules a place takes. -/
def placeGranules (p : Place × Nat) : Nat := ceilDiv p.2 p.1.granule

def Place.isT0 (n : Fin 8) : Place → Bool
  | .t0 k => k == n
  | _ => false

def Place.isT1 : Place → Bool
  | .t1 _ _ => true
  | _ => false

def Place.isT2 : Place → Bool
  | .t2 _ => true
  | _ => false

/-- Granules an account uses of T0 of an array, of T1 and of T2 (R281); a program's tables are charged to T1 (R148). -/
def Device.usedT0 (d : Device) (a : BitVec 6) (n : Fin 8) : Nat :=
  sumOf (fun o => if o.owner = a then sumOf placeGranules (o.places.filter fun p => p.1.isT0 n) else 0) d.mem.objects

def Device.usedT1 (d : Device) (a : BitVec 6) : Nat :=
  sumOf (fun o => if o.owner = a then sumOf placeGranules (o.places.filter fun p => p.1.isT1) else 0) d.mem.objects
    + sumOf (fun p => if p.2.account = a then p.2.t1Charge else 0) d.programs

def Device.usedT2 (d : Device) (a : BitVec 6) : Nat :=
  sumOf (fun o => if o.owner = a then sumOf placeGranules (o.places.filter fun p => p.1.isT2) else 0) d.mem.objects

/-- A charge of `need` granules at a place fits the account's limit (R281). -/
def Device.chargeFits (d : Device) (a : BitVec 6) (p : Place) (need : Nat) : Bool :=
  let q := d.mem.quotas[a.toNat]'(a.isLt)
  need == 0 || match p with
  | .t0 n => decide (d.usedT0 a n + need ≤ q.t0[n].toNat)
  | .t1 _ _ => decide (d.usedT1 a + need ≤ q.t1.toNat)
  | .t2 _ => decide (d.usedT2 a + need ≤ q.t2.toNat)

/-- A refused charge is logged (R301). -/
def Device.logQuota (d : Device) (a : BitVec 6) : Device := d.logEvent 0x0104 .info a.toNat 0 srcAdmission

/-! #### T0 and T1 -/

/-- Granule slots of a tile store, and logical tiles of an array (R279). -/
def tileSlots : Nat := 24
def logicalTiles : Nat := 10000

/-- Granule slots that extents in T0 of an array take of logical tile `t`: granule g of an extent lies in tile g mod 10,000 (R279). -/
def tileSlotsOf (ps : List (Place × Nat)) (n : Fin 8) (t : Nat) : Nat :=
  sumOf (fun p => if p.1.isT0 n then (placeGranules p + logicalTiles - 1 - t) / logicalTiles else 0) ps

/-- Slots of logical tile `t` of an array that are taken once an object's places are `ps`. -/
def Device.tileLoad (d : Device) (n : Fin 8) (t : Nat) (o : Obj) (ps : List (Place × Nat)) : Nat :=
  tileSlotsOf ps n t + sumOf (fun x => if x.id = o.id then 0 else tileSlotsOf x.places n t) d.mem.objects

/-- The object's extents after a move, as places. -/
def Obj.placesAfter (o : Obj) (t : Target) (off len : Nat) : List (Place × Nat) :=
  (o.extentsAfter t off len []).map fun e => (e.place, e.length)

/-- A system partition (R285). -/
def systemPart (h : Fin 8) (p : Fin 10) : Bool := p.val == 9 || (h.val == 0 && decide (5 ≤ p.val))

/-- A SCRATCH partition of a hearth (R285). -/
def Device.scratch (d : Device) (h : Fin 8) (p : Fin 10) : Bool :=
  !systemPart h p && !d.mem.hearths[h].cache.getLsbD p.val

/-- Granules of a partition: 64 MiB of 64 KiB. -/
def partGranules : Nat := 1024

/-- Granules allocated in a partition. -/
def Device.partUsed (d : Device) (h : Fin 8) (p : Fin 10) : Nat :=
  sumOf (fun o => sumOf (fun pl =>
    match pl.1 with
    | .t1 k parts => if k = h then sumOf (fun r => if r.1 = p then r.2 else 0) parts else 0
    | _ => 0) o.places) d.mem.objects

/-- Granules free in a partition. -/
def Device.partFree (d : Device) (h : Fin 8) (p : Fin 10) : Nat :=
  if d.scratch h p then partGranules - d.partUsed h p else 0

/-- `n` granules taken, each of the lowest-numbered SCRATCH partition with one free (R279). -/
def takeParts (free : Fin 10 → Nat) : List (Fin 10) → Nat → Option (List (Fin 10 × Nat))
  | _, 0 => some []
  | [], _ => none
  | p :: r, n =>
    let k := min (free p) n
    (takeParts free r (n - k)).map fun l => if k = 0 then l else (p, k) :: l

def Device.allocT1 (d : Device) (h : Fin 8) (n : Nat) : Option (List (Fin 10 × Nat)) :=
  takeParts (d.partFree h) (Bank.indices 10) n

/-! #### T2 -/

/-- Bytes of a T2 placement that lie on a stack: 2 KiB unit u on the (u mod k)-th set stack, of the size rounded up to 2 MiB
(R278). -/
def stackShare (m : BitVec 20) (len : Nat) (k : Fin 20) : Nat :=
  let ss := maskStacks m
  match ss.findIdx? (· == k) with
  | none => 0
  | some i => ceilDiv (roundUp len granT2 / 2048 - i) ss.length * 2048

/-- Bytes of a stack that are allocated. -/
def Device.stackUsed (d : Device) (k : Fin 20) : Nat :=
  sumOf (fun o => sumOf (fun p => match p.1 with | .t2 m => stackShare m p.2 k | _ => 0) o.places) d.mem.objects

/-- A stack's capacity, 64 GiB. -/
def stackBytes : Nat := 68719476736

/-- The stacks of a mask have room for a placement and are in service (R279, R317). -/
def Device.stacksFit (d : Device) (m : BitVec 20) (len : Nat) : Bool :=
  (maskStacks m).all fun k => !d.mem.hbm[k].diag && decide (d.stackUsed k + stackShare m len k ≤ stackBytes)

/-- Space for a move of an object's range to a target: the T1 granules to take, none when a slot, granule or stack share it needs is
not free (R279). -/
def Device.space (d : Device) (o : Obj) (t : Target) (off len : Nat) : Option (List (Fin 10 × Nat)) :=
  let n := sumOf Prod.snd (o.missing t off len)
  match t with
  | .t0 k =>
    if (List.range logicalTiles).all fun i => decide (d.tileLoad k i o (o.placesAfter t off len) ≤ tileSlots) then some [] else none
  | .t1 h => d.allocT1 h (ceilDiv n granT1)
  | .t2 m => if d.stacksFit m n then some [] else none
  | .home => some []

/-! ### Base addresses (R274) -/

/-- The device address range is 52 bits wide. -/
def deviceBytes : Nat := 2 ^ 52

/-- A range from `b`, rounded up to 2 MiB, overlaps no object. -/
def Device.baseFree (d : Device) (b size : Nat) : Bool :=
  d.mem.objects.all fun o => decide (b + roundUp size granT2 ≤ o.base ∨ o.base + roundUp o.size granT2 ≤ b)

/-- The lowest multiple of 2 MiB that fits: 0 or the end of some object. -/
def Device.baseFor (d : Device) (size : Nat) : Option Nat :=
  let ends := 0 :: d.mem.objects.map fun o => o.base + roundUp o.size granT2
  let ok := ends.filter fun b => d.baseFree b size && decide (b + roundUp size granT2 ≤ deviceBytes)
  ok.foldl (fun m b => some (match m with | none => b | some x => min x b)) none

/-! ### Reading and writing bytes -/

/-- A reader of an object's bytes. -/
def Device.rd (d : Device) (o : Obj) : Nat → Byte := fun off => d.mem.byteAt (o.base + off)

/-- `n` bytes of an object. -/
def Device.objBytes (d : Device) (o : Obj) (off n : Nat) : List Byte := d.mem.load (o.base + off) n

/-- Piece size of a move: 8 KiB when either side is T0, 64 KiB otherwise (R283). -/
def Obj.pieceSize (o : Obj) (t : Target) (off len : Nat) : Nat :=
  let src0 := o.extents.any fun e => (match e.place with | .t0 _ => true | _ => false)
    && decide (e.start < off + len ∧ off < e.start + e.length)
  if t.tier = some 0 ∨ src0 then 8192 else 65536

/-- The extents as accesses see them: the pieces a move has switched lie at its target (R283). -/
def Obj.view (o : Obj) : List Extent :=
  match o.moving with
  | some (t, off, len, k, parts) => o.extentsAfter t off (min len (k * o.pieceSize t off len)) parts
  | none => o.extents

/-- The pieces of a range that lie at home: not in any extent. -/
def Obj.homeSegments (o : Obj) (off len : Nat) : List (Nat × Nat) := outside o.view off len

/-- The pieces of a range that lie in T3. -/
def Obj.t3Segments (o : Obj) (off len : Nat) : List (Nat × Nat) :=
  match o.home with
  | .t3 _ _ => o.homeSegments off len
  | _ => []

/-- A byte of the object lies in T3. -/
def Obj.anyT3 (o : Obj) : Bool := !(o.t3Segments 0 o.size).isEmpty

def Place.tier : Place → Nat
  | .t0 _ => 0
  | .t1 _ _ => 1
  | .t2 _ => 2

/-- Bytes that lie in a tier (OBJ_QUERY). -/
def Obj.bytesIn (o : Obj) (tier : Nat) : Nat :=
  sumOf (fun e => if e.place.tier = tier then e.length else 0) o.view
    + (if o.home.tier = tier then sumOf Prod.snd (o.homeSegments 0 o.size) else 0)

/-- Every byte of the object lies in T2. -/
def Obj.allT2 (o : Obj) : Bool := o.bytesIn 2 == o.size

/-- The piece of a move that is being copied: its offset and length. -/
def Obj.piece (o : Obj) : Option (Nat × Nat) :=
  match o.moving with
  | some (t, off, len, k, _) =>
    let p := o.pieceSize t off len
    if k * p < len then some (off + k * p, min p (len - k * p)) else none
  | none => none

/-- T3 bytes of a range written through to the host (R276, R509). -/
def Device.writeT3 (d : Device) (o : Obj) (off : Nat) (bs : List Byte) : Device :=
  match o.home with
  | .t3 port addr =>
    (o.t3Segments off bs.length).foldl (fun d s =>
      d.hostWrite port (addr + BitVec.ofNat 64 s.1) ((bs.drop (s.1 - off)).take s.2)) d
  | _ => d

/-- Bytes of an object written where they lie, by an array where `own` names it; what a read of T3 bytes under way brings for them is
out of date. -/
def Device.store (d : Device) (o : Obj) (off : Nat) (bs : List Byte) (own : Option (Fin 8) := none) : Device :=
  let d := (d.updMem fun m => m.store (o.base + off) bs own).writeT3 o off bs
  { d with dmaReads := d.dmaReads.map fun r => { r with newer := r.newer ++ [(o.base + off, bs.length)] } }

/-- Bytes that lie in the piece of a move that is being copied are held (R283). -/
def Obj.hold (o : Obj) (off : Nat) (bs : List Byte) : Obj :=
  { o with queue := match o.queue with | q :: r => { q with heldWrites := q.heldWrites ++ [(off, bs)] } :: r | [] => [] }

/-- Bytes of an object written by any unit: those in the piece of a move that is being copied are held until it switches, the others
are written where they lie (R283). -/
def Device.objStore (d : Device) (id : Word32) (off : Nat) (bs : List Byte) (own : Option (Fin 8) := none) : Device :=
  match d.obj? id with
  | none => d
  | some o =>
    match o.piece with
    | some (a, n) =>
      let lo := max off a
      let hi := min (off + bs.length) (a + n)
      if lo < hi then
        let d := d.updObj id fun o => o.hold lo ((bs.drop (lo - off)).take (hi - lo))
        let d := if off < lo then d.store o off (bs.take (lo - off)) own else d
        if hi < off + bs.length then d.store o hi (bs.drop (hi - off)) own else d
      else d.store o off bs own
    | none => d.store o off bs own

/-- Scattered bytes of an object written, one by one. -/
def Device.objStoreAll (d : Device) (id : Word32) (bs : List ByteAt) : Device :=
  bs.foldl (fun d b => d.objStore id b.1 [b.2]) d

/-! ### Reads of host memory (R297, R502, R509) -/

/-- Non-posted requests that a read takes, of at most 4,096 bytes each, and those a port has outstanding at most (R293; log
entry 150). -/
def DmaRead.requests (r : DmaRead) : Nat := max 1 (ceilDiv r.length 4096)
def portRequests : Nat := 768

/-- The reads of a port that leave it now, `n` requests being ahead of the first of the list: one at the limit waits (R293). -/
def nowOut (p : Fin 2) : Nat → List DmaRead → List DmaRead
  | _, [] => []
  | n, r :: rs =>
    if r.port = p then (if !r.out && decide (n < portRequests) then [r] else []) ++ nowOut p (n + r.requests) rs
    else nowOut p n rs

/-- The requests of a read leave its port. -/
def Device.sendRead (d : Device) (r : DmaRead) : Device :=
  { d with dmaReads := updFirst (fun x => x.id == r.id) (fun x => { x with out := true }) d.dmaReads }.emit
    (.dmaRead r.id r.port r.addr r.length)

/-- Reads that have room now leave. -/
def Device.pumpReads (d : Device) : Device :=
  (nowOut 0 0 d.dmaReads ++ nowOut 1 0 d.dmaReads).foldl Device.sendRead d

/-- Reads that the device waits for no longer. -/
def Device.endReads (d : Device) (gone : DmaRead → Bool) : Device :=
  { d with dmaReads := d.dmaReads.filter fun r => !gone r }.pumpReads

/-- A read of host memory is asked for. -/
def Device.dmaIssue (d : Device) (port : Fin 2) (addr : Word64) (len : Nat) (purpose : DmaPurpose) (c : OpenCmd) : Device :=
  let r : DmaRead := { id := d.dmaNext, port := port, addr := addr, length := len, purpose := purpose, cmd := c }
  { d with dmaReads := d.dmaReads ++ [r], dmaNext := d.dmaNext + 1 }.pumpReads

/-- A read that failed or could not be issued: counted and logged with the opcode and tag (R502, R509, R516). -/
def Device.dmaFailed (d : Device) (port : Fin 2) (c : OpenCmd) : Device :=
  (d.updPort port fun q => { q with lostReads := bump q.lostReads }).logEvent 0x000A .warn port.val
    (evData [(2, c.opcode.toNat), (8, c.hdr.tag.toNat)]) (srcIntake port)

/-- The reads outstanding for an object's queue. -/
def DmaPurpose.forObject (id : Word32) : DmaPurpose → Bool
  | .objWrite o => o == id
  | .objT3 o => o == id
  | _ => false

def Device.objReads (d : Device) (id : Word32) : Bool := d.dmaReads.any fun r => r.purpose.forObject id

/-- The T3 bytes of a range asked of the host; false when the port's link is down (R509). -/
def Device.askT3 (d : Device) (o : Obj) (off len : Nat) (purpose : DmaPurpose) (c : OpenCmd) : Device × Bool :=
  match o.home with
  | .t3 port addr =>
    let segs := o.t3Segments off len
    if segs.isEmpty then (d, true)
    else if d.linkUp port then
      (segs.foldl (fun d s => d.dmaIssue port (addr + BitVec.ofNat 64 s.1) s.2 purpose c) d, true)
    else (d.dmaFailed port c, false)
  | _ => (d, true)

/-- The port of an object's T3 home has its link up, or the range has no T3 byte. -/
def Device.t3Reachable (d : Device) (o : Obj) (off len : Nat) : Bool :=
  match o.home with
  | .t3 port _ => (o.t3Segments off len).isEmpty || d.linkUp port
  | _ => true

/-! ### Queues (R282) -/

/-- The object's queue without its head. -/
def Obj.popQueue (o : Obj) : Obj := { o with queue := o.queue.drop 1 }

/-- The head's state changed. -/
def Obj.setHead (o : Obj) (st : HeadState) : Obj :=
  { o with queue := match o.queue with | q :: r => { q with state := st } :: r | [] => [] }

/-- Pins that make a move or OBJ_DESTROY busy (R284). -/
def Obj.hardPinned (o : Obj) : Bool := decide (0 < o.progPins) || !o.mapPins.isEmpty || o.hostPins != 0

/-- H16 bytes converted to Z16, with the specials among them (R49, R297). -/
def convertIn : List Byte → List Byte × Nat
  | a :: b :: r =>
    let (z, n) := h16ToZ16 (b ++ a)
    let (bs, k) := convertIn r
    (bytesOf 2 z.toNat ++ bs, k + (if n = .special then 1 else 0))
  | _ => ([], 0)

/-- Z16 bytes converted to H16, with the saturations and underflows among them (R50, R297). -/
def convertOut : List Byte → List Byte × Nat
  | a :: b :: r =>
    let (h, n) := toH16 (ofZ16 (b ++ a))
    let (bs, k) := convertOut r
    (bytesOf 2 h.toNat ++ bs, k + (if n = .plain then 0 else 1))
  | _ => ([], 0)

/-- The head of a queue ends with a status. -/
def Device.endHead (d : Device) (id : Word32) (c : OpenCmd) (st : Status) (result : Nat := 0) : Device :=
  (d.updObj id Obj.popQueue).finish c st result

/-- An object is gone: its bytes, its queue (answered ST_BAD_PARAM: it names no object any more). What another object finds in the space
freed is undefined (R303). -/
def Device.removeObj (d : Device) (o : Obj) : Device :=
  let d := d.updMem fun m => { m with objects := m.objects.filter fun x => x.id != o.id }.zero o.base o.size
  o.queue.foldl (fun d q => d.finish q.cmd .badParam) d

/-- The lowest multiple of 2 MiB of a port's aperture that takes a span (R499). -/
def HostPort.apertureFor (p : HostPort) (span : Nat) : Option Nat :=
  let size := 2 ^ p.bar4Log2.toNat
  let ends := 0 :: p.mappings.map fun m => m.offset + m.span
  let ok := ends.filter fun b => decide (b + span ≤ size)
    && p.mappings.all fun m => decide (b + span ≤ m.offset ∨ m.offset + m.span ≤ b)
  if 1024 ≤ p.mappings.length then none
  else ok.foldl (fun m b => some (match m with | none => b | some x => min x b)) none

/-- An OBJ_MAP at the head of its queue (R297, R499). -/
def Device.mapHead (d : Device) (o : Obj) (c : OpenCmd) (unmap : Bool) : Device :=
  let p := c.hdr.port
  let q := d.ports[p]
  if unmap then
    match q.mappings.find? fun m => m.object == o.id with
    | none => d.endHead o.id c .badParam
    | some m =>
      let d := d.updPort p fun q => { q with mappings := q.mappings.filter fun x => x.object != o.id }
      (d.updObj o.id fun o => { o with mapPins := o.mapPins.filter (· != p) }).endHead o.id c .ok m.offset
  else if !o.allT2 || !o.extents.isEmpty then d.endHead o.id c .badParam
  else match q.mappings.find? fun m => m.object == o.id with
    | some m => d.endHead o.id c .ok m.offset
    | none =>
      match q.apertureFor (roundUp o.size granT2) with
      | none => d.endHead o.id c .noSpace
      | some b =>
        let m : Mapping := { object := o.id, offset := b, span := roundUp o.size granT2 }
        let d := d.updPort p fun q => { q with mappings := q.mappings ++ [m] }
        (d.updObj o.id fun o => { o with mapPins := o.mapPins ++ [p] }).endHead o.id c .ok b

/-- An OBJ_READ whose bytes are in hand: written to the host, then answered (R297). -/
def Device.readHead (d : Device) (o : Obj) (c : OpenCmd) (convert : Bool) (off len : Nat) (host : Word64) (errs : List WordError) :
    Device :=
  d.consume errs fun d =>
    let bs := d.objBytes o off len
    let (bs, n) := if convert then convertOut bs else (bs, 0)
    (d.hostWrite c.hdr.port host bs).endHead o.id c .ok n

/-- A write held under R180 is logged once for the earliest step that holds it (R182). -/
def Device.logHeld (d : Device) (holders : List (Nat × Nat)) : Device :=
  match earliestWait holders with
  | none => d
  | some (slot, s) =>
    match asFin 16 slot with
    | none => d
    | some k => d.raiseOnce k s 0x0209 noLane .info slot 0 srcAdmission

/-- An OBJ_WRITE whose data has arrived: stored, or held until the steps and slots it waits for leave (R180, R240). -/
def Device.writeHead (d : Device) (o : Obj) (c : OpenCmd) (convert : Bool) (off len : Nat) (waits : List (Nat × Nat))
    (idle : List Nat) (data : List Byte) : Device :=
  let r : Range := { object := o.id, lo := off, hi := off + len }
  if !d.writeFree r waits (idle ++ d.writeIdle o.id) then (d.updObj o.id (·.setHead (.held data))).logHeld (waits.filter (d.stepHolds r))
  else if !d.t3Reachable o off len then
    (match o.home with | .t3 port _ => d.dmaFailed port c | _ => d).endHead o.id c .aborted
  else
    let (bs, n) := if convert then convertIn data else (data, 0)
    (d.objStore o.id off bs).endHead o.id c .ok n

/-- The blocks, by index, of a place: its array for T0, its hearth for T1, its stacks for T2 (R465). -/
def Place.blocks : Place → List Nat
  | .t0 n => [3 + n.val]
  | .t1 h _ => [13 + h.val]
  | .t2 m => (maskStacks m).map fun k => 21 + k.val

/-- The blocks of a move's target. -/
def Target.blocks : Target → List Nat
  | .t0 n => [3 + n.val]
  | .t1 h => [13 + h.val]
  | .t2 m => (maskStacks m).map fun k => 21 + k.val
  | .home => []

/-- An operation that has not begun needs a block with a parity fault: that of a place the object lies in, or of a move's target (R465). -/
def Device.queuedFaulted (d : Device) (o : Obj) (q : ObjOp) : Bool :=
  let here := o.places.flatMap fun x => x.1.blocks
  let needs : List Nat := match q.op, q.state with
    | .write .., .fresh | .read .., .fresh => here
    | .place _ t _ _, .fresh => here ++ t.blocks
    | _, _ => []
  needs.any d.parityOf

/-- The head of an object's queue goes as far as it can by itself; moves wait for MOVE_START, held writes for
HELD_WRITE_APPLY, reads of host memory for their completion. Answers whether the head has left the queue. -/
def Device.headStep (d : Device) (id : Word32) : Device × Bool :=
  match d.obj? id with
  | none => (d, false)
  | some o =>
    match o.queue with
    | [] => (d, false)
    | q :: _ =>
      if d.queuedFaulted o q then (d.endHead id q.cmd .faulted, true)
      else match q.op, q.state with
      | .write _ _ _ len host _ _, .fresh =>
        if d.linkUp q.cmd.hdr.port then
          ((d.dmaIssue q.cmd.hdr.port host len (.objWrite id) q.cmd).updObj id (·.setHead .dma), false)
        else ((d.dmaFailed q.cmd.hdr.port q.cmd).endHead id q.cmd .aborted, true)
      | .read conv off len host errs, .fresh =>
        if (o.t3Segments off len).isEmpty then (d.readHead o q.cmd conv off len host errs, true)
        else
          let (d, ok) := d.askT3 o off len (.objT3 id) q.cmd
          if ok then (d.updObj id (·.setHead .dma), false) else (d.endHead id q.cmd .aborted, true)
      | .read conv off len host errs, .ready => (d.readHead o q.cmd conv off len host errs, true)
      | .map unmap, _ => (d.mapHead o q.cmd unmap, true)
      | .destroy, _ =>
        if o.hardPinned || d.objectNamed id then (d.endHead id q.cmd .busy, true)
        else if 0 < o.stepPins then (d, false)
        else (((d.updObj id Obj.popQueue).finish q.cmd .ok).removeObj { o with queue := o.queue.drop 1 }, true)
      | _, _ => (d, false)

/-- Heads leave the queue while they can. -/
def Device.pumpObj (id : Word32) : Nat → Device → Device
  | 0, d => d
  | k + 1, d => match d.headStep id with | (d, true) => Device.pumpObj id k d | (d, false) => d

/-- The object's queue runs. -/
def Device.runQueue (d : Device) (id : Word32) : Device :=
  Device.pumpObj id (((d.obj? id).map fun o => o.queue.length + 1).getD 0) d

/-- A command joins the queue of its object (R282). -/
def Device.enqueue (d : Device) (id : Word32) (c : OpenCmd) (op : QueuedOp) : Device :=
  (d.updObj id fun o => { o with queue := o.queue ++ [{ cmd := c, op := op }] }).runQueue id

/-! ### Pins (R284) -/

/-- Step pins placed and released. -/
def Device.stepPin (d : Device) (ids : List Word32) : Device :=
  ids.foldl (fun d id => d.updObj id fun o => { o with stepPins := o.stepPins + 1 }) d

def Device.stepUnpin (d : Device) (ids : List Word32) : Device :=
  ids.foldl (fun d id => (d.updObj id fun o => { o with stepPins := o.stepPins - 1 }).runQueue id) d

/-- Program pins placed and released (R155, R197, R229, R250). -/
def Device.progPin (d : Device) (ids : List Word32) : Device :=
  ids.foldl (fun d id => d.updObj id fun o => { o with progPins := o.progPins + 1 }) d

def Device.progUnpin (d : Device) (ids : List Word32) : Device :=
  ids.foldl (fun d id => (d.updObj id fun o => { o with progPins := o.progPins - 1 }).runQueue id) d

end Sys2Proof.Machine
end

