-- ==== Sys2Proof/Machine/AdmOps.lean ====
section
/-! DEFINITION. Admission at work (R334-R343, R351): margins, commitments, the first and the final reply of a PROMISED
command. -/

namespace Sys2Proof.Machine

/-- margin(T) of R336. -/
def margin (t : Nat) : Nat := ceilDiv (101 * t) 1000000 * 10000

/-- The promise of a command. -/
def Device.promiseOf (d : Device) (c : OpenCmd) : Option Promise :=
  d.adm.promises.find? fun p => p.hdr.tag == c.hdr.tag && p.hdr.port == c.hdr.port

/-- The promise is the command's. -/
def Promise.isFor (p : Promise) (c : OpenCmd) : Bool := p.hdr.tag == c.hdr.tag && p.hdr.port == c.hdr.port

/-- Two promises name a resource in common: one of resources 0 to 10, or a Hoist engine (R339). -/
def Promise.shares (p q : Promise) : Bool := (p.resources &&& q.resources &&& 0x7FF) != 0 || (p.engine.isSome && p.engine == q.engine)

/-- committed_end of R336: the latest promised tick of the unretired promises that share a resource, but for `except`. -/
def Device.committedEnd (d : Device) (q : Promise) (except : Promise → Bool) : Nat :=
  maxOver Promise.tick (d.adm.promises.filter fun p => p.shares q && !except p)

/-- What Admission procedure knows of a command besides its header. -/
structure AdmitAsk where
  promise : Promise
  /-- BASE[pc] + extra, or T of R339. -/
  time : Nat
  /-- Ticks until the instructions or moves of other commands already issued leave the resources; none where the spec does not time
  them. -/
  drain : Option Nat
  /-- The tick of the program's own PROMISED predecessor in flight, with SUCCESSOR[pc] + extra. -/
  successor : Option (Nat × Nat) := none

/-- A predecessor of the same program: its own promise. -/
def AdmitAsk.isPredecessor (a : AdmitAsk) (q : Promise) : Bool :=
  match a.promise.step, q.step with
  | some (k, s), some (k', s') => k == k' && s == s' + 1
  | _, _ => false

/-- drain of R336: when instructions already issued will have left is not stated, a free value (log entry 2). -/
def Device.drain (d : Device) (n : Option Nat) : Nat × Device :=
  match n with
  | some n => (n, d)
  | none => (d.takeFree.1.toNat, d.takeFree.2)

/-- The promised tick and DETAIL of a command: the own path, and the successor path when it is later (R336). -/
def Device.promiseTick (d : Device) (a : AdmitAsk) (drain : Nat) : Nat × Nat :=
  let ts := max d.tb.now.toNat (d.committedEnd a.promise a.isPredecessor) + drain
  let own := ts + margin a.time
  match a.successor with
  | none => (own, own - (ts + a.time))
  | some (pred, st) =>
    let next := pred + margin st
    if own < next then (next, next - (pred + st)) else (own, own - (ts + a.time))

/-- DEADLINE of a command. -/
def pastDeadline (h : CmdHdr) (tick : Nat) : Bool := decide (h.deadline ≠ 0 ∧ h.deadline.toNat < tick)

/-- The last part of Admission procedure: the tick, the deadline, the pins and ST_ACCEPTED; the device and whether the
command was admitted. -/
def Device.accept (d : Device) (c : OpenCmd) (a : AdmitAsk) : Device × Bool :=
  let (n, d') := d.drain a.drain
  let (tick, detail) := d'.promiseTick a n
  if pastDeadline c.hdr tick then (d'.refuseTime c .deadline, false)
  else
    let p := { a.promise with tick := tick }
    let d := { d' with adm := { d'.adm with promises := d'.adm.promises ++ [p], accepted := bump d'.adm.accepted } }
    let d := d.stepPin p.pins
    (d.reply c { tag := 0, opcode := 0, status := .accepted, final := false, result := BitVec.ofNat 64 tick,
                 detail := satOf 32 detail }, true)

/-- The commitments of R334 are full. -/
def Device.commitmentsFull (d : Device) : Bool := decide (64 ≤ d.adm.promises.length)

/-! ### Retirement (R340-R343) -/

/-- Causes in code order with their counts. -/
def Promise.counts (p : Promise) : List (Nat × Nat) := (List.range 9).map fun i => (i + 1, (p.delays.toList[i]?).getD 0)

/-- The primary cause: the largest count, the lower code on a tie; none when every counter is zero. -/
def Promise.primary (p : Promise) : Option (Nat × Nat) :=
  p.counts.foldl (fun (best : Option (Nat × Nat)) c =>
    if c.2 = 0 then best
    else match best with
      | none => some c
      | some b => if b.2 < c.2 then some c else best) none

/-- RESULT[63:48] of a broken promise. -/
def Promise.causeMask (p : Promise) : Nat :=
  match p.primary with
  | none => 512
  | some _ => sumOf (fun c => if c.2 = 0 then 0 else 2 ^ (c.1 - 1)) p.counts

/-- The reply of a promise that retires late by `late` ticks (R342). -/
def Promise.brokenReply (p : Promise) (result late : Nat) : Reply :=
  let (code, ticks) := p.primary.getD (10, late)
  let us := min (ceilDiv ticks 1000) 262143
  { tag := 0, opcode := 0, status := .promiseBroken, cause := BitVec.ofNat 8 code
    result := BitVec.ofNat 64 (p.causeMask * 2 ^ 48 + result % 2 ^ 48)
    detail := BitVec.ofNat 32 (us * 2 ^ 14 + (if code = 5 then (p.lateRank.map BitVec.toNat).getD 0 else 0)) }

/-- A successor takes over the counters of its predecessor's lateness: ticks both counted are the same ticks, so the larger
count stands. -/
def Promise.inherit (q p : Promise) : Promise :=
  { q with delays := Vector.ofFn fun i => max q.delays[i] p.delays[i]
           lateRank := q.lateRank.or p.lateRank }

/-- The promise `q` is of the step after `p`'s. -/
def Promise.succeeds (q p : Promise) : Bool :=
  match q.step, p.step with
  | some (k, s), some (k', s') => k == k' && s == s' + 1
  | _, _ => false

/-- A broken promise recorded: ADM_OUTCOME, ADM_CAUSE, ADM_LATE_MAX, the events, and the successor's counters (R341, R342). -/
def Device.noteBroken (d : Device) (p : Promise) (late : Nat) : Device :=
  let code := (p.primary.getD (10, late)).1
  let a := d.adm
  let causes := match asFin 10 (code - 1) with | some i => Bank.upd a.causes i bump | none => a.causes
  let a := { a with
    broken := bump a.broken
    causes := causes
    lateMax := if a.lateMax.toNat < late then satOf 64 late else a.lateMax
    promises := a.promises.map fun q => if q.succeeds p then q.inherit p else q }
  let d := { d with adm := a }
  let d := if p.primary.isNone then d.logEvent 0x0004 .error p.hdr.port.val 0 srcAdmission else d
  d.logEvent 0x0003 .warn p.hdr.port.val (evData [(8, p.hdr.tag.toNat), (1, code)]) srcAdmission

/-- A command ends: ST_OK of a PROMISED one becomes ST_PROMISE_BROKEN after its tick; its commitment and its step pins end
(R284, R336, R340). -/
def Device.conclude (d : Device) (c : OpenCmd) (st : Status) (result : Nat := 0) : Device :=
  match d.promiseOf c with
  | none => d.finish c st result
  | some p =>
    let d := { d with adm := { d.adm with promises := d.adm.promises.filter fun q => !q.isFor c } }
    let late := d.tb.now.toNat - p.tick
    let d :=
      if st = .ok then
        if late = 0 then { d with adm := { d.adm with kept := bump d.adm.kept } }.finish c .ok result
        else (d.noteBroken p late).reply c (p.brokenReply result late)
      else d.finish c st result
    d.stepUnpin p.pins

end Sys2Proof.Machine
end

