-- ==== Sys2Proof/Machine/InstrOps.lean ====
section
/-! DEFINITION. What a Byquel instruction names: the descriptors it reads and writes, the crucible region it adds to, and
whether it takes a chained operand (R122-R129, R163, R169, R243, R248). -/

namespace Sys2Proof.Machine

/-- The TEW functions that read b: ADD to SEL_POS (R126). -/
def tewReadsB (fn : BitVec 6) : Bool := decide (1 ≤ fn.toNat ∧ fn.toNat ≤ 6)

/-- A TMM that chains (R125). -/
def Byquel.isChainTmm : Byquel → Bool
  | .tmm _ _ _ _ _ _ _ _ _ rop _ _ _ => rop == 3
  | _ => false

/-- An output-stationary product. -/
def Byquel.isOsTmm : Byquel → Bool
  | .tmm md .. => md == 2
  | _ => false

/-- The KIND of TRAIN_B. -/
def kindTrainB : BitVec 2 := 3
def kindTrainF : BitVec 2 := 2

/-- The descriptors an instruction reads; `chained` when its HA is the result of the CHAIN TMM before it. -/
def Byquel.reads (chained : Bool) : Byquel → List Handle
  | .tmm _ _ _ _ _ _ ha hb _ _ _ accEn hadd => [ha, hb] ++ (if accEn then [hadd] else [])
  | .tew _ _ fn _ _ _ ha hb _ => (if chained then [] else [ha]) ++ (if tewReadsB fn then [hb] else [])
  | .tnorm _ _ _ _ _ _ ha hg _ => (if chained then [] else [ha]) ++ [hg]
  | .tnormb _ _ _ ha hb hg _ => [ha, hb, hg]
  | .tsmax _ _ _ _ _ _ ha _ => if chained then [] else [ha]
  | .tsmaxb _ _ _ _ ha hb _ => [ha, hb]
  | .tred md _ _ _ ha _ => if chained || md == 7 then [] else [ha]
  | .tstash _ _ _ ha _ => [ha]
  | .tunstash _ _ _ ha _ => [ha]
  | .tattn _ kind _ _ _ _ hq _ hs hup _ _ _ _ hdo _ => [hq, hs, hup] ++ (if kind = kindTrainB then [hdo] else [])
  | .tmov _ _ _ ha _ => [ha]
  | .ttie _ _ | .tsig _ _ | .twait _ _ _ | .tfenceStream | .tfenceVersion _ | .tfencePmode _ | .thint _ _ _ | .tend => []

/-- The descriptor an instruction writes. -/
def Byquel.writes : Byquel → Option Handle
  | .tmm md _ _ _ _ _ _ _ hd rop _ _ _ => if md = 2 ∨ rop = 3 then none else some hd
  | .tew _ _ _ _ _ _ _ _ hd => some hd
  | .tnorm _ _ _ _ _ _ _ _ hd => some hd
  | .tnormb _ _ _ _ _ _ hd => some hd
  | .tsmax _ _ _ _ _ _ _ hd => some hd
  | .tsmaxb _ _ _ _ _ _ hd => some hd
  | .tred md _ _ _ _ hd => if md.toNat ≤ 3 then some hd else none
  | .tstash _ _ _ _ hd => some hd
  | .tunstash _ _ _ _ hd => some hd
  | .tattn _ kind _ _ _ _ _ ho _ _ _ _ _ _ _ hdq => some (if kind = kindTrainB then hdq else ho)
  | .tmov _ _ _ _ hd => some hd
  | .ttie _ _ | .tsig _ _ | .twait _ _ _ | .tfenceStream | .tfenceVersion _ | .tfencePmode _ | .thint _ _ _ | .tend => none

/-- A region as an instruction names it: the handle, rows and columns, and for a product the partition mask (R169). -/
structure RegionUse where
  handle : Handle
  rows : Nat
  cols : Nat
  pmask : Option (BitVec 16)
deriving DecidableEq, Repr, Inhabited

/-- The crucible region an instruction adds to (R169, R249). -/
def Byquel.region : Byquel → Option RegionUse
  | .tmm md _ pmask _ n k _ _ hd _ _ _ _ => if md = 2 then some ⟨hd, k, n, some pmask⟩ else none
  | .tnormb _ n _ _ _ hg _ => some ⟨hg, 1, n, none⟩
  | .tred md _ _ n _ hd => if md = 4 then some ⟨hd, 1, n, none⟩ else none
  | .tattn _ kind _ pmask _ _ _ _ _ hup heads hdim rank _ _ _ =>
    if kind = kindTrainB then some ⟨hup, rank, 2 * (heads * hdim), some pmask⟩ else none
  | _ => none

/-- The ordinal of a narrowing write; instructions without the field draw under ordinal 0 (R69). -/
def Byquel.ord : Byquel → BitVec 8
  | .tmm _ o .. => o
  | .tew _ o .. => o
  | .tnorm _ o .. => o
  | .tsmax _ o .. => o
  | .tred _ o .. => o
  | .tattn _ _ o .. => o
  | .tmov o .. => o
  | _ => 0

/-- The partition mask of an instruction that has one. -/
def Byquel.pmask : Byquel → Option (BitVec 16)
  | .tmm _ _ p .. => some p
  | .tattn _ _ _ p .. => some p
  | _ => none

/-- The stat range of a forward instruction, and of a backward one: base and records (R163). -/
def Byquel.statWrite : Byquel → Option (Nat × Nat)
  | .tnorm _ _ _ m _ stat .. => some (stat, m)
  | .tsmax _ _ _ m _ stat .. => some (stat, m)
  | _ => none

def Byquel.statRead : Byquel → Option (Nat × Nat)
  | .tnormb m _ stat .. => some (stat, m)
  | .tsmaxb _ m _ stat .. => some (stat, m)
  | _ => none

/-- The instruction before word `w` of a body. -/
def prevInstr (body : List PlacedInstr) (n : Nat) : Option Byquel :=
  if n = 0 then none else (body[n - 1]?).map PlacedInstr.instr

/-- Instruction `n` of a body takes the chained results of the TMM before it (R125). -/
def chainedAt (body : List PlacedInstr) (n : Nat) : Bool := (prevInstr body n).any Byquel.isChainTmm

/-- The instructions of a body with whether each is chained. -/
def withChain : Bool → List PlacedInstr → List (PlacedInstr × Bool)
  | _, [] => []
  | c, i :: r => (i, c) :: withChain i.instr.isChainTmm r

/-- Lane numbers: F lanes 0-7, B lanes 8-15, U 16. -/
def laneIsF (lane : Nat) : Bool := decide (lane < 8)
def laneIsB (lane : Nat) : Bool := decide (8 ≤ lane ∧ lane < 16)
def laneIsU (lane : Nat) : Bool := lane == 16

/-- The Pyrometer's number of the lane's stream: 0 F, 1 B, 2 U (R78). -/
def laneStream (lane : Nat) : Fin 3 := if lane < 8 then 0 else if lane < 16 then 1 else 2

/-- Partitions of a mode, cells and tiles of a partition's side (R103, *Partition modes*). -/
def modeParts (m : BitVec 2) : Nat := if m = 0 then 1 else if m = 1 then 4 else 16
def modeSide (m : BitVec 2) : Nat := if m = 0 then 800 else if m = 1 then 400 else 200
def modeTiles (m : BitVec 2) : Nat := if m = 0 then 100 else if m = 1 then 50 else 25

/-- The partition mode in force at each instruction of a body that starts in mode `m` (R131). -/
def withMode : BitVec 2 → List PlacedInstr → List (PlacedInstr × BitVec 2)
  | _, [] => []
  | m, i :: r => (i, m) :: withMode (match i.instr with | .tfencePmode c => c | _ => m) r

/-- WEIGHT tensors among the descriptors a body's instruction reads. -/
def weightReads (ds : List Desc) (i : PlacedInstr × Bool) : List Word32 :=
  ((i.1.instr.reads i.2).filterMap fun h => (descAt ds h).bind fun d =>
    if d.cls = .weight then some d.tensor else none).eraseDups

/-- The lane of an index. -/
def Program.lane (p : Program) (n : Nat) : LaneCode := p.lanes.toList.getD n {}

/-- Recompute block of a segment in a lane index (R159, R160). -/
def Program.block (p : Program) (seg idx : Nat) : Option RecompBlock :=
  p.recomp.find? fun b => b.seg == seg && b.lane == idx

/-- Reads of each WEIGHT tensor that one step makes (R179): every F- and B-body instruction, and every TUNSTASH that can
trigger a recompute block that reads it, times MB_COUNT. -/
def Program.readsPerStep (p : Program) (tensor : Word32) : Nat :=
  let direct := sumOf (fun n => ((withChain false (p.lane n).body).filter fun i =>
    (weightReads p.descs i).contains tensor).length) (List.range 16)
  let triggered := sumOf (fun n => ((p.lane n).body.filter fun i =>
    match i.instr with
    | .tunstash seg _ _ _ _ =>
      seg != 0 && p.policy == .recompute &&
        (p.block seg.toNat (laneIndex n)).any fun b =>
          (withChain false b.body).any fun j => (weightReads p.descs j).contains tensor
    | _ => false).length) (List.range 16)
  (direct + triggered) * p.mbCount

/-- Bytes of a stash entry, in granules of 2 KiB (R157). -/
def stashGranule : Nat := 2048

def Desc.stashGranules (d : Desc) : Nat := ceilDiv (d.hi - d.offset) stashGranule

/-- The slots of a step (R151). -/
def slotOrder (stages index mbs : Nat) (hasB : Bool) : List Slot :=
  if hasB then
    let w := min (stages - index - 1) mbs
    ((List.range w).map fun j => (⟨false, j⟩ : Slot))
      ++ (List.range mbs).flatMap fun j => (if j + w < mbs then [(⟨false, j + w⟩ : Slot)] else []) ++ [⟨true, j⟩]
  else (List.range mbs).map fun j => ⟨false, j⟩

def Program.slots (p : Program) : List Slot := slotOrder p.stageCount p.stageIndex p.mbCount (decide (0 < p.bLanes))

/-- The lanes that run in a slot: those of its stream that are present. -/
def Program.slotLanes (p : Program) (s : Slot) : List Nat :=
  (List.range 8).filterMap fun i =>
    let n := if s.backward then 8 + i else i
    if (p.lane n).present then some n else none

end Sys2Proof.Machine
end

