-- ==== Sys2Proof/Machine/Pyrometer.lean ====
section
/-! DEFINITION. The Pyrometer's histograms in memory (R76-R80): counting into the live ones of a step, and the records that a host
reads. -/

namespace Sys2Proof.Machine

/-- A histogram as the bytes of its record (R78). -/
def Hist.bytes (h : Hist) (window : Int) : List Byte :=
  let e (x : Option Int) : List Byte := bytesOf 2 (match x with | some v => (BitVec.ofInt 16 v).toNat | none => 0x8000)
  bytesOf 4 h.tensor.toNat ++ bytesOf 1 h.stream.val ++ bytesOf 1 (window + 133).toNat ++ e h.eMax ++ e h.eMin
    ++ bytesOf 2 h.specials.toNat ++ bytesOf 4 h.step.toNat ++ h.bins.toList.flatMap fun b => bytesOf 4 b.toNat

/-- The histograms of a program: those accumulated, then those of its steps in flight, which a host reads as partial counts
(R79, R80). -/
def Program.histograms (p : Program) : List Hist := p.accumulated ++ p.steps.flatMap StepState.live

/-- The records of the Pyrometer area, one after the other, and zeros up to its last whole record (R78; log entry 28). -/
def Program.pyroBytes (p : Program) (size : Nat) : List Byte :=
  let fit := size / 272
  let hs := p.histograms.take fit
  hs.flatMap (fun h => h.bytes p.windowBase) ++ List.replicate (272 * (fit - hs.length)) 0

/-- The Pyrometer area brought up to date. -/
def Device.storePyro (d : Device) (k : Fin 16) : Device :=
  match d.progs[k] with
  | none => d
  | some p =>
    match d.obj? p.pyroObject with
    | none => d
    | some o => d.objStore o.id 0 (p.pyroBytes o.size)

/-- Values counted into the live histograms of a step (R79), where a host reads them at once (R80). -/
def Device.countLive (d : Device) (k : Fin 16) (s : Nat) (as : List HistAdd) : Device :=
  match d.progs[k] with
  | none => d
  | some p =>
    (d.updStep k s fun st => { st with live := countAll p.windowBase (BitVec.ofNat 32 s) st.live as }).storePyro k

end Sys2Proof.Machine
end

