-- ==== Sys2Proof/Machine/StepOps.lean ====
section
/-! DEFINITION. Steps that end without retiring (R145, R146, R210): what the device lets go of, and the replies. -/

namespace Sys2Proof.Machine

/-- The steps of a program in flight, the earliest first. -/
def Program.inFlight (p : Program) : List StepState :=
  match p.steps with
  | [a, b] => if b.step < a.step then [b, a] else [a, b]
  | l => l

/-- Additions of a program's regions that wait at the stack adders are dropped, and arrays that waited go on (R146). -/
def Device.dropGroups (d : Device) (k : Nat) : Device :=
  let clean (s : Stack) : Stack :=
    { s.settle d.tb.now with
      adderQueue := s.adderQueue.filter (·.slot != k), adderWaiting := s.adderWaiting.filter (·.2.slot != k) }
  let d := { d with mem := { d.mem with hbm := d.mem.hbm.map clean } }
  let waits (n : Fin 8) : Bool := (Bank.indices 20).any fun s => d.mem.hbm[s].adderWaiting.any fun w => w.1 == some n
  { d with arrays := Vector.ofFn fun n => { d.arrays[n] with frozenAdder := d.arrays[n].frozenAdder && waits n } }

/-- The message belongs to work of a program slot. -/
def MsgKind.ofProgram (k : Nat) : MsgKind → Bool
  | .hop p _ _ => p == k
  | .handoff p _ _ => p == k
  | .mcast p _ _ _ => p == k
  | .channel p _ _ _ => p == k
  | .pull => false
  | .control _ => false

/-- Tundish and fabric work of a program is discarded (R207, R210, R371; log entry 169). -/
def Device.dropTundish (d : Device) (k : Nat) : Device :=
  { d with
    tun := { d.tun with held := d.tun.held.filter (·.program != k), heldRanges := d.tun.heldRanges.filter (·.1 != k) }
    fab := { d.fab with
      out := d.fab.out.filter fun m => !m.kind.ofProgram k
      mcasts := d.fab.mcasts.filter (·.program != k)
      heldTransfers := d.fab.heldTransfers.filter (·.destProg != k) } }

/-- Scale reports and norm partials that this device holds as a manager are discarded with the job's steps (R206, R207). -/
def Device.dropMerges (d : Device) (k : Fin 16) : Device :=
  if (d.jobProgram.map Prod.fst) == some k then { d with tun := { d.tun with reports := [], partials := [] } } else d

/-- A sequence no longer pinned by steps of a program, and a space without its reservations (R257). -/
def Sequence.dropPins (k : Nat) (q : Sequence) : Sequence := { q with stepPins := q.stepPins.filter (·.1 != k) }

def Space.dropProgram (k : Nat) (s : Space) : Space :=
  { s with seqs := s.seqs.map (Sequence.dropPins k), reserved := s.reserved.filter (·.slot != k) }

/-- A page's directory entry changed. -/
def Space.setDir (s : Space) (page : Nat) (f : PageDir → PageDir) : Space :=
  { s with dir := if s.dir.any fun x => x.page == page then updFirst (fun x => x.page == page) f s.dir else s.dir ++ [f { page := page }] }

/-- Pages freed: each generation goes up, and the pages await reclamation under an epoch (R252, R262). -/
def Space.free (s : Space) (epoch : Word64) (pages : List Nat) : Space :=
  pages.foldl (fun s p =>
    let s := s.setDir p fun x => { x with gen := bump x.gen }
    { s with reclaim := s.reclaim ++ [{ page := p, epoch := epoch }] }) s

/-- Pages and table pages that an abandoned walk had allocated and not published go back. -/
def Space.giveBack (sp : Nat) (ws : List Walk) (s : Space) : Space :=
  let plans := (ws.filter fun w => w.space.val == sp).flatMap Walk.appends
  { s with freeTables := s.freeTables ++ plans.flatMap AppendPlan.tables }.free s.epoch
    (plans.flatMap fun (a : AppendPlan) => a.pages.map Prod.snd)

/-- Attention work of a program is discarded (R146). -/
def Device.dropAster (d : Device) (k : Nat) : Device :=
  let rows (q : GatherQueue) : GatherQueue := { q with rows := q.rows.filter (·.program != k) }
  { d with aster := { d.aster with
      walks := d.aster.walks.filter (·.program != k)
      queues := (d.aster.queues.map rows).filter fun q => !q.rows.isEmpty
      spaces := Vector.ofFn fun i => (d.aster.spaces[i]).map fun s =>
        (s.giveBack i.val (d.aster.walks.filter (·.program == k))).dropProgram k } }

/-- Lanes of a program whose steps have ended stop: an array none of whose lanes holds a slot is not active, and its phases end. -/
def Device.dropLanes (d : Device) (k : Nat) : Device :=
  { d with
    arrays := Vector.ofFn fun n => { d.arrays[n] with seqActive := d.arrays[n].seqActive && d.slotHeld n }
    bel := { d.bel with phases := d.bel.phases.filter (·.slot != k) }
    integ := { d.integ with replays := d.integ.replays.filter (·.slot != k) } }

/-- What each stack has logged of the step is forgotten (R322). -/
def Device.clearCorrected (d : Device) : Device :=
  d.updMem fun m => { m with hbm := m.hbm.map fun s => { s with correctedLogged := false } }

/-- A step's command, when it has one, ends with a status. -/
def Device.endStep (d : Device) (s : StepState) (st : Status) (result : Nat := 0) : Device :=
  let d := d.clearCorrected
  match s.cmd with
  | some c => d.conclude c st result
  | none => d

/-- Every step of a program ends: the step `failing`, and the earliest in flight, with `st`, a second one with ST_ABORTED; with
no step named every one with `st`. The program is HALTED, and STEP_HALTED is logged (R145, *Program states*). -/
def Device.haltOne (d : Device) (k : Fin 16) (failing : Option Nat) (st : Status) (result : Nat := 0) : Device :=
  match d.progs[k] with
  | none => d
  | some p =>
    let flight := p.inFlight
    if flight.isEmpty then d
    else
      let d := d.updProg k fun p => { p with state := .halted, steps := [], sems := [], semSaturated := [], tables := [] }
      let d := ((((d.storePyro k).dropGroups k.val).dropTundish k.val).dropAster k.val).dropLanes k.val
      let d := d.dropMerges k
      let first := (flight.head?.map StepState.step).getD 0
      let ends (d : Device) (s : StepState) : Device :=
        if s.step = first ∨ failing = none ∨ failing = some s.step then d.endStep s st result else d.endStep s .aborted
      (flight.foldl ends d).logEvent 0x0202 .error k.val (evData [(1, st.code.toNat)]) srcAdmission

/-- Walks paused for a re-prefill step of a program. -/
def Device.pausedOn (d : Device) (k : Nat) : List Walk :=
  d.aster.walks.filter fun w => match w.paused with | some (s, some _) => s == k | _ => false

/-- A program is halted; a step paused for one of its re-prefill steps ends with the same status (R259). -/
def Device.haltProgram (d : Device) (k : Fin 16) (failing : Option Nat) (st : Status) (result : Nat := 0) : Device :=
  let ws := d.pausedOn k.val
  let d := d.haltOne k failing st result
  ws.foldl (fun d w => match asFin 16 w.program with | some j => d.haltOne j (some w.step) st result | none => d) d

/-- Every step in flight on the device ends with a status. -/
def Device.haltAll (d : Device) (st : Status) (result : Nat := 0) : Device :=
  (Bank.indices 16).foldl (fun d k => d.haltOne k none st result) d

end Sys2Proof.Machine
end

