-- ==== Sys2Proof/Machine/FabOps.lean ====
section
/-! DEFINITION. Octing at work: the membership table (R188, R189), managers (R366), job time (R367), frames, routes and messages
(R354-R363), loss and HOLD (R370, R371, R395). -/

namespace Sys2Proof.Machine

/-- Ticks since a tick. -/
def Device.ticksSince (d : Device) (t : Tick) : Nat := (d.tb.now - t).toNat

def Device.updFab (d : Device) (f : Fabric → Fabric) : Device := { d with fab := f d.fab }

/-! ### Membership (R188, R189, R366) -/

/-- The device is a member of a job. -/
def Device.joined (d : Device) : Bool := d.fab.job != .none

def Fabric.member (f : Fabric) (r : Nat) : Option Member := f.table[r]?

/-- Ranks of the table that satisfy a test. -/
def Fabric.ranks (f : Fabric) (p : Member → Bool) : List Nat :=
  (List.range f.table.length).filter fun r => (f.member r).any p

/-- Domains in use, in increasing order. -/
def Fabric.domains (f : Fabric) : List Nat :=
  (List.range 64).filter fun x => f.table.any fun m => m.domain.toNat == x

/-- ROLE makes a rank a domain manager, a top manager. -/
def Member.managesDomain (m : Member) : Bool := m.role == 1 || m.role == 3
def Member.managesJob (m : Member) : Bool := m.role == 2 || m.role == 3

/-- The domain manager of a domain. -/
def Fabric.domainManager (f : Fabric) (dom : Nat) : Option Nat :=
  (f.ranks fun m => m.domain.toNat == dom && m.managesDomain).head?

/-- The top manager; in a single-domain job the domain manager performs its duties (R366). -/
def Fabric.topManager (f : Fabric) : Option Nat :=
  match f.domains with
  | [x] => f.domainManager x
  | _ => (f.ranks Member.managesJob).head?

def Fabric.myDomain (f : Fabric) : Nat := ((f.member f.rank.toNat).map fun m => m.domain.toNat).getD 0
def Fabric.myGroup (f : Fabric) : Nat := ((f.member f.rank.toNat).map fun m => m.group.toNat).getD 0

def Fabric.isTop (f : Fabric) : Bool := f.job != .none && f.topManager == some f.rank.toNat
def Fabric.isDomainManager (f : Fabric) : Bool := f.job != .none && f.domainManager f.myDomain == some f.rank.toNat

/-- The manager above this member: none for the top manager. -/
def Fabric.manager (f : Fabric) : Option Nat :=
  if f.isTop then none else if f.isDomainManager then f.topManager else f.domainManager f.myDomain

/-- The other ranks of this member's domain, and the domain managers other than this member. -/
def Fabric.workers (f : Fabric) : List Nat := (f.ranks fun m => m.domain.toNat == f.myDomain).filter (· != f.rank.toNat)
def Fabric.managers (f : Fabric) : List Nat := (f.domains.filterMap f.domainManager).filter (· != f.rank.toNat)

/-- The ranks a manager supervises (R369, R370). -/
def Fabric.supervised (f : Fabric) : List Nat :=
  ((if f.isDomainManager then f.workers else []) ++ (if f.isTop then f.managers else [])).eraseDups

/-- Members of a group in flat order: by domain, then by rank (R189). -/
def Fabric.groupRanks (f : Fabric) (g : Nat) : List Nat :=
  f.domains.flatMap fun x => f.ranks fun m => m.domain.toNat == x && m.group.toNat == g

/-- The group of this device: itself alone while it is a member of no job. -/
def Fabric.group (f : Fabric) : List Nat := if f.job = .none then [f.rank.toNat] else f.groupRanks f.myGroup

def Fabric.groupSize (f : Fabric) : Nat := f.group.length
def Fabric.flatIndex (f : Fabric) : Nat := (f.group.findIdx? (· == f.rank.toNat)).getD 0

/-- Domains the group is spread over, and its members in each (R189). -/
def Fabric.groupDomains (f : Fabric) : Nat :=
  if f.job = .none then 1 else (f.domains.filter fun x => f.table.any fun m => m.domain.toNat == x && m.group.toNat == f.myGroup).length
def Fabric.ringSize (f : Fabric) : Nat := f.groupSize / max 1 f.groupDomains

def Fabric.position (f : Fabric) : Nat := f.flatIndex % max 1 f.ringSize
def Fabric.domainOrdinal (f : Fabric) : Nat := f.flatIndex / max 1 f.ringSize

/-- The rank at a flat index of the group. -/
def Fabric.atFlat (f : Fabric) (i : Nat) : Nat := f.group.getD i f.rank.toNat

/-! ### Job time (R367) -/

/-- Job time: TB_NOW + JOB_OFFSET. -/
def Device.jobTime (d : Device) : Word64 := d.tb.now + d.fab.jobOffset

/-! ### Frames and routes (R354-R358, R362) -/

/-- The port carries frames: set to a mode and aligned (R358, OCT_PORTp.UP). -/
def OctPort.up (p : OctPort) : Bool := p.mode != .off && p.aligned

/-- The route of a rank: the port a frame leaves on now, or none while both are down. -/
def Fabric.portFor (f : Fabric) (dst : Nat) : Option (Fin 8 × Route) :=
  match f.routes[dst]? with
  | none => none
  | some r =>
    if f.ports[r.primary].up then some (r.primary, r)
    else match r.alt with
      | some a => if f.ports[a].up then some (a, r) else none
      | none => none

/-- A port takes a frame out: addresses, tag and, on a DIRECT port, the link sequence number (R355, R362). -/
def OctPort.dress (p : OctPort) (ctrl : Bool) (mac : BitVec 48) (f : Frame) : Frame :=
  let f := { f with srcMac := p.mac, vlan := p.vlan, ethertype := p.ethertype, pcp := if ctrl then p.ctrlPcp else p.dataPcp }
  if p.mode = .direct then { f with destMac := 0xFFFFFFFFFFFF, lsn := p.txLsn, linkAcked := p.rxLsn - 1 }
  else { f with destMac := mac, lsn := 0, linkAcked := 0 }

/-- A frame leaves on a port; a DIRECT port keeps it for replay. -/
def Device.emitFrame (d : Device) (p : Fin 8) (ctrl : Bool) (mac : BitVec 48) (f : Frame) : Device :=
  let q := d.fab.ports[p]
  let f := q.dress ctrl mac f
  let d := d.updOct p fun q =>
    let q := { q with sent := bump q.sent }
    if q.mode = .direct then
      { q with
        txLsn := q.txLsn + 1, replay := q.replay ++ [{ frame := f, firstSent := d.tb.now }]
        progress := if q.replay.isEmpty then d.tb.now else q.progress }
    else q
  d.emit (.frame p f)

/-- PFC holds a class of frames on a port (R354). -/
def OctPort.holds (p : OctPort) (ctrl : Bool) : Bool :=
  p.mode == .switched && (if ctrl then p.pausedCtrl else p.pausedData)

/-- A frame takes its route: it leaves, or waits for a port or for the end of a pause. A rank without a route keeps it waiting
on Port 0. -/
def Device.sendFrame (d : Device) (ctrl : Bool) (f : Frame) : Device :=
  match d.fab.portFor f.dst.toNat with
  | some (p, r) =>
    if d.fab.ports[p].holds ctrl then d.updOct p fun q => { q with waiting := q.waiting ++ [(ctrl, f)] }
    else d.emitFrame p ctrl r.mac f
  | none =>
    let p := ((d.fab.routes[f.dst.toNat]?).map Route.primary).getD 0
    d.updOct p fun q => { q with waiting := q.waiting ++ [(ctrl, f)] }

/-- The waiting frames of ports tried again, every CTRL frame before any DATA frame (R354). -/
def Device.flushPorts (d : Device) (ps : List (Fin 8)) : Device :=
  let w := ps.flatMap fun p => d.fab.ports[p].waiting
  let d := ps.foldl (fun d p => d.updOct p fun q => { q with waiting := [] }) d
  ((w.filter (·.1)) ++ w.filter (!·.1)).foldl (fun d x => d.sendFrame x.1 x.2) d

def Device.flushPort (d : Device) (p : Fin 8) : Device := d.flushPorts [p]
def Device.flushAll (d : Device) : Device := d.flushPorts (Bank.indices 8)

/-! ### Messages (R359-R363) -/

/-- Bytes padded with zeros to whole 32-byte codewords, at least one (R356). -/
def padCodewords (bs : List Byte) : List (List Byte) :=
  (chunksOf 32 (bs.length + 1) (if bs.isEmpty then [0] else bs)).map fun c => c ++ List.replicate (32 - c.length) 0

/-- The data of each frame of a message: its offset and its codewords (R356). -/
def frameData (bs : List Byte) : List (Nat × List Byte) :=
  (chunksOf 128 (bs.length + 1) (padCodewords bs)).mapIdx fun i cs => (4096 * i, cs.flatMap ingotEncode)

/-- The frames of a message. -/
def OutMsg.frames (m : OutMsg) (src : BitVec 14) (tag : Word16) : List Frame :=
  let ds := frameData m.bytes
  ds.mapIdx fun i x =>
    { type := m.type, retransmit := decide (1 < m.tries), late := m.late, last := decide (i + 1 = ds.length), src := src
      dst := m.dst, msgId := m.msgId, offset := BitVec.ofNat 32 x.1, msgLength := BitVec.ofNat 32 m.bytes.length
      firstSent := m.firstSent, jobTag := tag, payload := x.2 }

def Fabric.jobTag (f : Fabric) : Word16 := f.jobId.extractLsb' 0 16

/-- A message's frames sent. -/
def Device.sendFrames (d : Device) (m : OutMsg) : Device :=
  (m.frames d.fab.rank d.fab.jobTag).foldl (fun d f => d.sendFrame m.ctrl f) d

/-- What the device knows of a rank. -/
def Fabric.peer (f : Fabric) (r : BitVec 14) : Peer := (f.peers.find? fun p => p.rank == r).getD { rank := r }

def Fabric.updPeer (f : Fabric) (r : BitVec 14) (g : Peer → Peer) : Fabric :=
  { f with peers := if f.peers.any fun p => p.rank == r then updFirst (fun p => p.rank == r) g f.peers
                    else f.peers ++ [g { rank := r }] }

/-- Messages sent and not acknowledged, to ranks that satisfy a test. -/
def Fabric.unackedTo (f : Fabric) (to' : BitVec 14 → Bool) : List OutMsg := f.out.filter fun m => to' m.dst && m.tries != 0

/-- Messages to a rank sent and not acknowledged. -/
def Fabric.unacked (f : Fabric) (dst : BitVec 14) : Nat := (f.unackedTo (· == dst)).length

/-- The port the route of a rank names first. -/
def Fabric.primaryOf (f : Fabric) (r : BitVec 14) : Option (Fin 8) := (f.routes[r.toNat]?).map Route.primary

/-- Bytes of receive buffer that a rank has granted this device: the last grant, or the first credit (R361; log entry 102). -/
def Fabric.creditOf (f : Fabric) (r : BitVec 14) : Nat := (f.peer r).credit.getD f.firstCredit

/-- The windows of a message have room: 4,096 messages to its destination, 4,096 transfers on its port, and, for what goes into a receive
buffer, the bytes granted (R293, R360, R361). -/
def Fabric.windowOpen (f : Fabric) (m : OutMsg) : Bool :=
  decide (f.unacked m.dst < 4096)
    && decide ((f.unackedTo fun r => f.primaryOf r == f.primaryOf m.dst).length < 4096)
    && (m.type != .data
      || decide (sumOf (fun x => x.bytes.length) ((f.unackedTo (· == m.dst)).filter fun x => x.type == .data) + m.bytes.length
          ≤ f.creditOf m.dst))

/-- The step whose work a message is. -/
def MsgKind.step? : MsgKind → Option (Nat × Nat)
  | .hop p s _ => some (p, s)
  | .handoff p s _ => some (p, s)
  | .mcast p s _ _ => some (p, s)
  | .channel p s _ _ => some (p, s)
  | .pull => none
  | .control _ => none

/-- A promise of another command holds Octing, resource 10, against a message of a BEST_EFFORT step (R337; log entry 165). -/
def Device.octingHeld (d : Device) (m : OutMsg) : Bool :=
  m.kind.step?.any fun (k, s) =>
    (d.programs.any fun x => x.1.val == k && x.2.steps.any fun st => st.step == s && !st.promised)
      && d.adm.promises.any fun p => p.names 10 && !(p.step.any fun y => y.1 == k && decide (s < y.2))

/-- A waiting message may be sent. -/
def Device.maySend (d : Device) (m : OutMsg) : Bool := d.fab.windowOpen m && !d.octingHeld m

/-- A delay counter of the step of a message is not zero (R378). -/
def Device.delayedMsg (d : Device) (m : OutMsg) : Bool :=
  m.kind.step?.any fun x => d.adm.promises.any fun q => q.step == some x && q.delays.toList.any (· != 0)

/-- A waiting message is sent for the first time, LATE also when its step has been delayed while it waited (R378). -/
def Device.transmit (d : Device) (m : OutMsg) : Device :=
  let m' := { m with
    tries := 1, lastSent := d.tb.now, firstSent := d.jobTime.extractLsb' 0 48, late := m.late || d.delayedMsg m }
  (d.updFab fun f => { f with out := updFirst (fun x => x.dst == m.dst && x.msgId == m.msgId) (fun _ => m') f.out }).sendFrames m'

/-- A message is numbered, and sent when it may be. -/
def Device.sendMsg (d : Device) (dst : Nat) (kind : MsgKind) (bs : List Byte) (late ctrl : Bool) (type : FrameType := .data) :
    Device :=
  let r := BitVec.ofNat 14 dst
  let m : OutMsg :=
    { dst := r, msgId := (d.fab.peer r).nextMsg, kind := kind, ctrl := ctrl, type := type, bytes := bs, tries := 0
      lastSent := d.tb.now, firstSent := 0, late := late }
  let d := d.updFab fun f => { f with out := f.out ++ [m] }.updPeer r fun p => { p with nextMsg := p.nextMsg + 1 }
  if d.maySend m then d.transmit m else d

/-- The messages that wait, the oldest first, sent as far as they may be. -/
def Device.sendWaiting (d : Device) : Device :=
  (d.fab.out.filter fun m => m.tries == 0).foldl (fun d m => if d.maySend m then d.transmit m else d) d

/-- Kinds of control record; the spec gives them no code (log entry 17). -/
inductive CtrlRecord where
  | loss | leave | barrierEntry | barrierRelease | ready | release | scaleReport | scaleTable | normPartial | clipFactor
  | hallmarkReport | verdict
deriving DecidableEq, Repr, Inhabited

def CtrlRecord.code : CtrlRecord → Nat
  | .loss => 1 | .leave => 2 | .barrierEntry => 3 | .barrierRelease => 4 | .ready => 5 | .release => 6
  | .scaleReport => 7 | .scaleTable => 8 | .normPartial => 9 | .clipFactor => 10 | .hallmarkReport => 11 | .verdict => 12

/-- A control record sent to a rank: its code, then its fields (the layout is the model's, log entry 17). Every record serves one of the
manager duties of R366, which take the class CTRL (log entry 166). -/
def Device.sendRecord (d : Device) (dst : Nat) (r : CtrlRecord) (fields : List Byte) (late : Bool := false) : Device :=
  d.sendMsg dst (.control r.code) (BitVec.ofNat 8 r.code :: fields) late true .control

def Device.sendRecords (d : Device) (dsts : List Nat) (r : CtrlRecord) (fields : List Byte) (late : Bool := false) : Device :=
  dsts.foldl (fun d x => d.sendRecord x r fields late) d

/-! ### Loss and HOLD (R370, R371, R373, R395) -/

/-- A pending barrier ends with a status. -/
def Device.endBarriers (d : Device) (st : Status) : Device :=
  let bs := d.fab.barriers
  let d := d.updFab fun f => { f with barriers := [], counts := [] }
  bs.foldl (fun d b => d.finish b.cmd st) d

/-- Channel and multicast messages. -/
def MsgKind.isTransfer : MsgKind → Bool
  | .channel _ _ _ _ => true
  | .mcast _ _ _ _ => true
  | _ => false

/-- READY notices forgotten (R374). -/
def Fabric.clearReady (f : Fabric) : Fabric :=
  let clear (p : Peer) : Peer := { p with ready := none }
  { f with peers := f.peers.map clear }

/-- Frames of this device's messages that are no longer to be sent leave the ports they wait on. -/
def Fabric.dropFrames (f : Fabric) : Fabric :=
  let stands (x : Bool × Frame) : Bool :=
    x.2.src != f.rank || x.2.type != .data || f.out.any fun m => m.dst == x.2.dst && m.msgId == x.2.msgId
  let clean (q : OctPort) : OctPort := { q with waiting := q.waiting.filter stands }
  { f with ports := f.ports.map clean }

/-- A member enters HOLD (R371); a JOB_RESUME that waited is answered ST_PEER_LOST (R373). -/
def Device.enterHold (d : Device) (lost : Nat) : Device :=
  if !d.joined then d
  else
    let d := (d.haltAll .peerLost lost).endBarriers .peerLost
    let d := match d.fab.resume with
      | some (c, _) => (d.updFab fun f => { f with resume := none }).finish c .peerLost
      | none => d
    { d with
      tun := { d.tun with heldRanges := [], reports := [], partials := [] }
      fab := { d.fab.clearReady with
        job := .hold, mcasts := [], heldTransfers := [], out := d.fab.out.filter fun m => !m.kind.isTransfer }.dropFrames }

/-- Whom a member tells of a loss: a worker its domain manager, a domain manager its workers and the top manager, the top
manager every domain manager (R370). -/
def Fabric.lossTargets (f : Fabric) (except : Nat) : List Nat :=
  ((if f.isDomainManager then f.workers else []) ++ (if f.isTop then f.managers else []) ++ f.manager.toList).eraseDups.filter
    (· != except)

/-- A rank becomes lost here: noted, logged, passed on, and HOLD entered; `from'` is the rank that told of it. In HOLD a rank already lost
is no news; outside it every notice is of a further loss (R373). -/
def Device.loseRank (d : Device) (rank : Nat) (from' : Nat) : Device :=
  let r := BitVec.ofNat 14 rank
  if !d.joined || ((d.fab.peer r).lost && d.fab.job == .hold) then d
  else
    let d := d.updFab fun f => { f with lastLost := r }.updPeer r fun p => { p with lost := true, joining := false }
    let d := d.logEvent 0x0704 .error 0 (evData [(2, rank)]) srcJob
    (d.sendRecords (d.fab.lossTargets from') .loss (bytesOf 2 rank)).enterHold rank

/-- A member whose step ended with ST_FAULTED names itself lost and enters HOLD (R395). -/
def Device.memberFault (d : Device) : Device :=
  if d.fab.job = .none ∨ d.fab.job = .hold then d else d.loseRank d.fab.rank.toNat d.fab.rank.toNat

/-- A step ends with a status other than a retirement, with all that follows. -/
def Device.failStep (d : Device) (k : Fin 16) (step : Nat) (st : Status) (result : Nat := 0) : Device :=
  let d := d.haltProgram k (some step) st result
  if st = .faulted then d.memberFault else d

/-- Every step in flight of every program of a kind ends with ST_FAULTED (R215, R409, R465). -/
def Device.faultAll (d : Device) (hit : Program → Bool) : Device :=
  (Bank.indices 16).foldl (fun d k =>
    match d.progs[k] with
    | none => d
    | some p => if hit p && !p.steps.isEmpty then (d.haltProgram k none .faulted).memberFault else d) d

end Sys2Proof.Machine
end

