-- ==== Sys2Proof/Machine/Hallmark.lean ====
section
/-! DEFINITION. The hallmark of a program's weights (R396, R397). -/

namespace Sys2Proof.Machine

/-- mix128(t, u, w) of R396: the four output words of the Dither function under the key (t, 0x4841_4C4D). -/
def mix128 (t : Word32) (u : Nat) (w : Nat) : BitVec 128 :=
  let c : DitherState :=
    { x0 := BitVec.ofNat 32 u, x1 := BitVec.ofNat 32 (w % 65536 * 65536 + u / 2 ^ 32 % 65536), x2 := 0, x3 := 0 }
  let y := ditherRounds t 0x48414C4D c
  (y.x3 + c.x3) ++ (y.x2 + c.x2) ++ (y.x1 + c.x1) ++ (y.x0 + c.x0)

/-- The code of the element with a logical index. -/
def Desc.codeAt (d : Desc) (rd : Nat → Byte) (i : Nat) : Nat :=
  let r := i / d.cols
  let c := i % d.cols
  match d.format with
  | .z4 =>
    let pos := d.rowStart r + c
    let b := (rd (d.offset + pos / 2)).toNat
    if pos % 2 = 0 then b % 16 else b / 16
  | f =>
    let a := d.loc r c
    if f.bytes = 2 then (rd a).toNat + 256 * (rd (a + 1)).toNat else (rd a).toNat

/-- Elements of a format packed in a 16-bit unit, and the bits of each (R396). -/
def Format.perUnit : Format → Nat
  | .z16 => 1 | .h16 => 1 | .z8a => 2 | .z8b => 2 | .z4 => 4

/-- Codes packed, the first in the lowest bits. -/
def packCodes (bits : Nat) : List Nat → Nat
  | [] => 0
  | c :: r => c + 2 ^ bits * packCodes bits r

/-- The 16-bit units of a tensor's elements in logical row-major order, then of a Z4 tensor's scale bytes. -/
def Desc.units (d : Desc) (rd : Nat → Byte) : List Nat :=
  let k := d.format.perUnit
  let elems := (List.range (ceilDiv d.elems k)).map fun u =>
    packCodes (16 / k) ((List.range (min k (d.elems - k * u))).map fun i => d.codeAt rd (k * u + i))
  let scales := if d.format = .z4 then
      let n := d.rows * (d.stride1 / 32)
      (List.range (ceilDiv n 2)).map fun u =>
        packCodes 8 ((List.range (min 2 (n - 2 * u))).map fun i => (rd (d.scalePlane + 2 * u + i)).toNat)
    else []
  elems ++ scales

/-- The hallmark of one tensor. -/
def Desc.hallmark (d : Desc) (rd : Nat → Byte) : BitVec 128 :=
  ((d.units rd).mapIdx fun u w => mix128 d.tensor u w).foldl (· + ·) 0

/-- The first descriptor of each WEIGHT tensor. -/
def weightDescs (ds : List Desc) : List Desc :=
  ds.foldl (fun l d => if d.cls = .weight && !(l.any fun x => x.tensor == d.tensor) then l ++ [d] else l) []

/-- The hallmark of a program on this device, as memory stands (R396, R397). -/
def Device.hallmark (d : Device) (p : Program) : BitVec 128 :=
  (weightDescs p.descs).foldl (fun h x =>
    match d.obj? x.object with
    | some o => h + x.hallmark (d.rd o)
    | none => h) 0

end Sys2Proof.Machine
end

