-- ==== Sys2Proof/Machine/ImageDecode.lean ====
section
/-! DEFINITION. The program image as bytes: instruction words (R120-R122), tensor descriptors (R138), the header and its
sections (R141, R155, R160, R335). -/

namespace Sys2Proof.Machine

/-! ### Instruction words -/

/-- A field of a 128-bit word is zero. -/
def zeroAt (w hi lo : Nat) : Bool := bitsOf w hi lo == 0

/-- A handle field whose lowest bit is `lo`. -/
def handleAt (w lo : Nat) : Handle := BitVec.ofNat 12 (bitsOf w (lo + 11) lo)

def ordAt (w : Nat) : BitVec 8 := BitVec.ofNat 8 (bitsOf w 119 112)

/-- A logical extent in range: 1 to 1,048,575 (R122). -/
def extentOk (n : Nat) : Bool := n != 0

/-- The opcode of a first word, and its modifier (R120). -/
def opcOf (w : Nat) : Nat := bitsOf w 127 123
def modOf (w : Nat) : Nat := bitsOf w 122 120

/-- Words an opcode takes; none for 0x00 and the reserved opcodes. -/
def opWords (opc : Nat) : Option Nat :=
  if opc = 1 ∨ opc = 11 then some 2 else if 1 ≤ opc ∧ opc ≤ 0x11 then some 1 else none

/-- One instruction from its words; none where R121 rejects an opcode, a MOD value, a reserved bit or a field outside its
range. Whether the stream may hold it is asked separately. -/
def decodeInstr (w v : Nat) : Option Byquel :=
  let md := modOf w
  let m := bitsOf w 95 76
  let n := bitsOf w 75 56
  let mn := extentOk m && extentOk n
  let chain := md % 2 == 1
  let ha := handleAt w 24
  let hb := handleAt w 12
  let hd := handleAt w 0
  let stat := bitsOf w 55 37
  let imm (hi lo : Nat) : Word16 := BitVec.ofNat 16 (bitsOf w hi lo)
  match opcOf w with
  | 0x01 =>
    let k := bitsOf w 55 36
    let rop := bitsOf v 127 124
    let rimm := bitsOf v 123 108
    let acc := bitsOf v 107 107 == 1
    let hadd := bitsOf v 106 95
    if decide (md ≤ 2) && mn && extentOk k && !zeroAt w 111 96 && decide (rop ≤ 3) && (rop == 2 || rimm == 0)
        && zeroAt v 94 0 then
      some (.tmm (BitVec.ofNat 3 md) (ordAt w) (imm 111 96) m n k ha hb hd (BitVec.ofNat 4 rop) (BitVec.ofNat 16 rimm)
        acc (BitVec.ofNat 12 hadd))
    else none
  | 0x02 =>
    if decide (md ≤ 1) && mn && zeroAt w 105 96 && zeroAt w 39 36 then
      some (.tew chain (ordAt w) (BitVec.ofNat 6 (bitsOf w 111 106)) m n (imm 55 40) ha hb hd)
    else none
  | 0x03 =>
    if decide (md ≤ 1) && mn && zeroAt w 103 96 && zeroAt w 36 36 then
      some (.tnorm chain (ordAt w) (BitVec.ofNat 8 (bitsOf w 111 104)) m n stat ha hb hd)
    else none
  | 0x04 =>
    if md == 0 && mn && zeroAt w 119 112 && zeroAt w 99 96 && zeroAt w 36 36 then
      some (.tnormb m n stat ha (handleAt w 100) hb hd)
    else none
  | 0x05 =>
    if decide (md ≤ 1) && mn && zeroAt w 36 36 && zeroAt w 23 12 then
      some (.tsmax chain (ordAt w) (imm 111 96) m n stat ha hd)
    else none
  | 0x06 =>
    if md == 0 && mn && zeroAt w 119 112 && zeroAt w 36 36 then some (.tsmaxb (imm 111 96) m n stat ha hb hd) else none
  | 0x07 =>
    if md == 7 then
      if zeroAt w 119 36 && zeroAt w 23 0 then some (.tred 7 0 0 0 ha 0) else none
    else if decide (md ≤ 4) && mn && zeroAt w 111 96 && zeroAt w 55 36 && zeroAt w 23 12 then
      some (.tred (BitVec.ofNat 3 md) (ordAt w) m n ha hd)
    else none
  | 0x08 =>
    if md == 0 && zeroAt w 119 112 && zeroAt w 95 12 && !zeroAt w 111 96 then some (.ttie (imm 111 96) hd) else none
  | 0x09 =>
    if md == 0 && mn && zeroAt w 119 112 && zeroAt w 55 36 && zeroAt w 23 12 then some (.tstash (imm 111 96) m n ha hd)
    else none
  | 0x0A =>
    if md == 0 && mn && zeroAt w 119 112 && zeroAt w 55 36 && zeroAt w 23 12 then some (.tunstash (imm 111 96) m n ha hd)
    else none
  | 0x0B =>
    let kind := md % 4
    let heads := bitsOf v 127 118
    let hdim := bitsOf v 117 108
    let rank := bitsOf v 107 97
    let hdo := bitsOf v 80 69
    let hdq := bitsOf v 68 57
    if extentOk m && !zeroAt w 111 96 && zeroAt w 15 0 && zeroAt v 56 0 && heads != 0 && hdim != 0
        && decide (64 ≤ rank ∧ rank ≤ 1024) && (kind == 3 || (hdo == 0 && hdq == 0)) then
      some (.tattn (decide (4 ≤ md)) (BitVec.ofNat 2 kind) (ordAt w) (imm 111 96) m (bitsOf w 75 64) (handleAt w 52)
        (handleAt w 40) (handleAt w 28) (handleAt w 16) heads hdim rank (BitVec.ofNat 16 (bitsOf v 96 81))
        (BitVec.ofNat 12 hdo) (BitVec.ofNat 12 hdq))
    else none
  | 0x0C =>
    if md == 0 && mn && zeroAt w 111 96 && zeroAt w 55 36 && zeroAt w 23 12 then some (.tmov (ordAt w) m n ha hd)
    else none
  | 0x0D =>
    if md == 0 && !zeroAt w 111 96 && zeroAt w 95 0 then some (.tsig (ordAt w) (bitsOf w 111 96)) else none
  | 0x0E =>
    if md == 0 && zeroAt w 79 0 then some (.twait (ordAt w) (bitsOf w 111 92) (bitsOf w 91 80)) else none
  | 0x0F =>
    if md == 0 then (if zeroAt w 119 0 then some .tfenceStream else none)
    else if md == 1 then (if zeroAt w 119 36 && zeroAt w 23 0 then some (.tfenceVersion ha) else none)
    else if md == 2 then
      let c := bitsOf w 111 110
      if zeroAt w 119 112 && zeroAt w 109 0 && decide (c ≤ 2) then some (.tfencePmode (BitVec.ofNat 2 c)) else none
    else none
  | 0x10 =>
    if md == 0 && zeroAt w 67 0 then some (.thint (ordAt w) (bitsOf w 111 92) (bitsOf w 91 68)) else none
  | 0x11 => if md == 0 && zeroAt w 119 0 then some .tend else none
  | _ => none

/-- A stream may hold an instruction (*Instruction opcodes*, R127): F lanes, B lanes, the U lane. -/
def allowedIn (lane : Nat) (i : Byquel) : Bool :=
  match i with
  | .tnormb .. => laneIsB lane
  | .tsmaxb .. => laneIsB lane
  | .tred md .. => if md = 7 then laneIsU lane else !laneIsU lane
  | .ttie .. => laneIsU lane
  | .tstash .. => laneIsF lane
  | .tunstash .. => laneIsB lane
  | .tmm .. => !laneIsU lane
  | .tew .. => !laneIsU lane
  | .tnorm .. => !laneIsU lane
  | .tsmax .. => !laneIsU lane
  | .tattn .. => !laneIsU lane
  | .tmov .. => true
  | .tsig .. => true
  | .twait .. => true
  | .tfenceStream => true
  | .tfenceVersion _ => true
  | .tfencePmode _ => true
  | .thint .. => true
  | .tend => true

/-- A recompute block may hold an instruction (R160). -/
def allowedInBlock (i : Byquel) : Bool :=
  match i with
  | .tmm .. => true
  | .tew .. => true
  | .tnorm .. => true
  | .tsmax .. => true
  | .tred md .. => decide (md.toNat ≤ 3)
  | .tmov .. => true
  | .tstash .. => true
  | .tunstash seg .. => seg == 0
  | .tfencePmode _ => true
  | .thint .. => true
  | .tend => true
  | _ => false

/-- A body decoded from its words, the first word's index given: the word of the first offending instruction on failure
(R121). -/
def decodeBody (ok : Byquel → Bool) : Nat → List Nat → Except Nat (List PlacedInstr)
  | n, [] => .error (n - 1)
  | n, w :: r =>
    let add (i : Byquel) (rest : Except Nat (List PlacedInstr)) : Except Nat (List PlacedInstr) :=
      rest.map fun l => { word := n, instr := i } :: l
    match opWords (opcOf w), r with
    | none, _ => .error n
    | some 1, r =>
      match decodeInstr w 0 with
      | none => .error n
      | some i =>
        if !ok i then .error n
        else if i = .tend then (if r.isEmpty then .ok [{ word := n, instr := .tend }] else .error n)
        else if r.isEmpty then .error n
        else add i (decodeBody ok (n + 1) r)
    | some _, [] => .error n
    | some _, v :: r =>
      match decodeInstr w v with
      | none => .error n
      | some i =>
        if !ok i then .error n
        else if r.isEmpty then .error n
        else add i (decodeBody ok (n + 2) r)

/-! ### Descriptors (R138) -/

/-- SIGMA as a signed number. -/
def sigmaOfByte (b : Nat) : Int := (BitVec.ofNat 8 b).toInt

def formatOfCode (c : Nat) : Format :=
  if c = 1 then .h16 else if c = 2 then .z8a else if c = 3 then .z8b else if c = 4 then .z4 else .z16

def classOfCode (c : Nat) : TClass :=
  if c = 1 then .weight else if c = 2 then .stash else if c = 3 then .kv else if c = 4 then .state else .transient

/-- A descriptor from its 64 bytes, with whether every reserved bit is zero, every code assigned and every extent in range. -/
def parseDesc (bs : List Byte) : Desc × Bool :=
  let f (off n : Nat) := fieldAt bs off n
  let b48 := f 48 1
  let b49 := f 49 1
  let dim (off : Nat) := f off 4
  let desc : Desc :=
    { object := BitVec.ofNat 32 (f 0 4), offset := f 4 6, tensor := BitVec.ofNat 32 (f 12 4),
      dim0 := dim 16 % 2 ^ 20, dim1 := dim 20 % 2 ^ 20, dim2 := dim 24 % 2 ^ 20, dim3 := dim 28 % 2 ^ 20,
      stride1 := f 32 5, stride2 := f 37 5, stride3 := f 42 5,
      folded := b48 / 16 == 1, format := formatOfCode (b48 % 16),
      sigmaEn := b49 / 64 % 2 == 1, normInclude := b49 / 32 % 2 == 1, frozen := b49 / 16 % 2 == 1, rne := b49 / 8 % 2 == 1,
      cls := classOfCode (b49 % 8), sigma := sigmaOfByte (f 50 1), tierHint := BitVec.ofNat 2 (f 51 1),
      tieGroup := BitVec.ofNat 16 (f 52 2) }
  let inRange (off : Nat) := decide (1 ≤ dim off ∧ dim off < 2 ^ 20)
  let ok := f 10 2 == 0 && inRange 16 && inRange 20 && inRange 24 && inRange 28 && f 47 1 == 0
    && decide (b48 / 16 ≤ 1) && decide (b48 % 16 ≤ 4) && decide (b49 < 128) && decide (b49 % 8 ≤ 4)
    && f 51 1 / 4 == 0 && f 54 10 == 0
    && (b48 / 16 == 0 || (f 32 5 == 0 && f 37 5 == 0 && f 42 5 == 0))
  (desc, ok)

/-! ### The image -/

/-- Header fields of an image (R141). -/
structure ImageHeader where
  rev : Nat
  descCount : Nat
  fLanes : Nat
  bLanes : Nat
  uLanes : Nat
  policy : Nat
  mbCount : Nat
  stageCount : Nat
  stageIndex : Nat
  sigmaPeriod : Nat
  windowBase : Int
  fill : Vector Nat 3
  descOff : Nat
  laneOff : Nat
  cycleOff : Nat
  cycleLen : Nat
  recompOff : Nat
  stashOff : Nat
  pyro : Word32
  hostSemOff : Nat
  reservedZero : Bool
deriving DecidableEq, Repr

/-- A reader of the image's bytes: a field of `n` bytes at an offset. -/
abbrev ImageReader := Nat → Nat → Nat

def parseHeader (f : ImageReader) : ImageHeader :=
  { rev := f 0 2, descCount := f 4 2, fLanes := f 6 1, bLanes := f 7 1, uLanes := f 8 1, policy := f 9 1,
    mbCount := f 10 2, stageCount := f 12 2, stageIndex := f 14 2, sigmaPeriod := f 16 2,
    windowBase := (BitVec.ofNat 16 (f 18 2)).toInt,
    fill := Vector.ofFn fun i => f (20 + 2 * i.val) 2,
    descOff := f 32 4, laneOff := f 36 4, cycleOff := f 40 4, cycleLen := f 44 4, recompOff := f 48 4, stashOff := f 52 4,
    pyro := BitVec.ofNat 32 (f 56 4), hostSemOff := f 60 4,
    reservedZero := f 2 2 == 0 && f 26 6 == 0 && f 64 64 == 0 }

/-- The ranges of the header's fields (R81, R141). -/
def ImageHeader.ok (h : ImageHeader) : Bool :=
  h.rev == 1 && decide (1 ≤ h.descCount ∧ h.descCount ≤ 4096) && decide (1 ≤ h.fLanes ∧ h.fLanes ≤ 8)
    && decide (h.bLanes ≤ 8) && decide (h.uLanes ≤ 1) && decide (h.policy ≤ 2)
    && decide (1 ≤ h.mbCount ∧ h.mbCount ≤ 256) && decide (1 ≤ h.stageCount ∧ h.stageCount ≤ 16384)
    && decide (h.stageIndex < h.stageCount) && decide (-133 ≤ h.windowBase ∧ h.windowBase ≤ 70)
    && h.fill.toList.all (fun x => x == 0 || decide (8 ≤ x ∧ x ≤ 2048)) && h.reservedZero

/-- A lane table entry (R141). -/
structure LaneEntry where
  codeOff : Nat
  words : Nat
  pmode : Nat
  reservedZero : Bool
deriving DecidableEq, Repr, Inhabited

def parseLane (f : ImageReader) (off : Nat) : LaneEntry :=
  { codeOff := f off 4, words := f (off + 4) 4, pmode := f (off + 8) 1, reservedZero := f (off + 9) 7 == 0 }

/-- A recompute entry (R160). -/
structure RecompEntry where
  at' : Nat
  seg : Nat
  codeOff : Nat
  words : Nat
  lane : Nat
  reservedZero : Bool
deriving DecidableEq, Repr, Inhabited

def parseRecomp (f : ImageReader) (off : Nat) : RecompEntry :=
  { at' := off, seg := f off 2, codeOff := f (off + 4) 4, words := f (off + 8) 4, lane := f (off + 12) 1,
    reservedZero := f (off + 2) 2 == 0 && f (off + 13) 3 == 0 }

def parseStash (f : ImageReader) (off : Nat) : StashDecl × Bool :=
  ({ primary := BitVec.ofNat 32 (f off 4), spill := BitVec.ofNat 32 (f (off + 4) 4), spillBytes := f (off + 8) 6,
     overflow := BitVec.ofNat 32 (f (off + 16) 4), overflowBytes := f (off + 20) 6, scratchBytes := f (off + 28) 4 },
   f (off + 14) 2 == 0 && f (off + 26) 2 == 0 && f (off + 32) 32 == 0)

/-- A placement record of the cycle table. -/
def parsePlacement (f : ImageReader) (off : Nat) : CyclePlacement × Bool :=
  ({ object := BitVec.ofNat 32 (f off 4), tier := BitVec.ofNat 8 (f (off + 4) 1), bytesT0 := f (off + 8) 6,
     bytesT1 := f (off + 14) 6, bytesT2 := f (off + 20) 6, mask := BitVec.ofNat 24 (f (off + 26) 3) },
   f (off + 5) 3 == 0 && f (off + 29) 3 == 0)

/-- The cycle table at an offset, with whether R335 accepts it for a length. -/
def parseCycle (f : ImageReader) (off len : Nat) : CycleTable × Bool :=
  let n := f (off + 32) 4
  let sizeOk := len == 320 + 32 * n
  let recs := if sizeOk then (List.range n).map fun i => parsePlacement f (off + 320 + 32 * i) else []
  let res := f (off + 8) 2
  let integ := f (off + 13) 1
  ({ family := BitVec.ofNat 32 (f off 4), steppings := BitVec.ofNat 32 (f (off + 4) 4), resources := BitVec.ofNat 11 res,
     readFloor := f (off + 10) 1, writeFloor := f (off + 11) 1, remoteFloor := f (off + 12) 1, twin := integ % 2 == 1,
     replayInterval := f (off + 14) 2, coldBucket := f (off + 16) 4, swap := f (off + 20) 4,
     preRefresh := f (off + 24) 8, base := (List.range 16).map fun i => f (off + 64 + 8 * i) 8,
     successor := (List.range 16).map fun i => f (off + 192 + 8 * i) 8, placements := recs.map Prod.fst },
   sizeOk && res / 2 ^ 11 == 0 && integ / 2 == 0 && f (off + 36) 28 == 0 && recs.all Prod.snd)

/-- The words of a body. -/
def bodyWords (f : ImageReader) (off words : Nat) : List Nat := (List.range words).map fun i => f (off + 16 * i) 16

end Sys2Proof.Machine
end

