-- ==== Sys2Proof/Machine/LoadCheck.lean ====
section
/-! DEFINITION. The checks of a program load (R142, R148): image layout, instruction words, operands, stash and stat records,
ties, the deadlock simulation, descriptors and crucible regions. Log entry 15 names the order among the rules that R148 does
not place. -/

namespace Sys2Proof.Machine

/-- How a load fails: the status, and PLACE and INDEX of *Load failure result* (R147). -/
structure LoadFail where
  status : Status := .badParam
  place : Nat := 0
  index : Nat := 0
deriving DecidableEq, Repr, Inhabited

/-- RESULT of a failed PROG_LOAD. -/
def LoadFail.result (f : LoadFail) : Nat := f.place * 2 ^ 56 + f.index * 2 ^ 16

abbrev Load := Except LoadFail

/-- A check that names its failure. -/
def require (ok : Bool) (f : LoadFail) : Load Unit := if ok then .ok () else .error f

/-- The first element that fails a check names the failure. -/
def requireAll {α : Type} (l : List α) (ok : α → Bool) (f : α → LoadFail) : Load Unit :=
  match l.find? fun a => !ok a with
  | none => .ok ()
  | some a => .error (f a)

/-- An image whose layout and words have been read. -/
structure Image where
  header : ImageHeader
  descs : List (Desc × Bool)
  lanes : Vector LaneCode 17
  recomp : List (RecompEntry × RecompBlock)
  stash : StashDecl
  cycle : Option CycleTable
  hostSem : List (Nat × Nat)

def Image.ds (i : Image) : List Desc := i.descs.map Prod.fst
def Image.lane (i : Image) (n : Nat) : LaneCode := i.lanes.toList.getD n {}

/-- PLACE of a lane's instruction (R147). -/
def atWord (lane : Nat) (i : PlacedInstr) : LoadFail := { place := lane + 1, index := i.word }

/-! ### Header and sections (R81, R117, R141, R155, R335) -/

/-- Two sections share no byte. -/
def disjoint (a b : Nat × Nat) : Bool := decide (a.1 + a.2 ≤ b.1 ∨ b.1 + b.2 ≤ a.1)

def pairwiseDisjoint : List (Nat × Nat) → Bool
  | [] => true
  | a :: r => r.all (disjoint a) && pairwiseDisjoint r

/-- A lane table agrees with the lane counts (R117). -/
def lanesPresent (h : ImageHeader) (ls : List LaneEntry) : Bool :=
  (List.range 17).all fun n =>
    let e := ls.getD n default
    let want := if n < 8 then decide (n < h.fLanes) else if n < 16 then decide (n - 8 < h.bLanes) else h.uLanes == 1
    (e.codeOff != 0) == want && e.reservedZero && decide (e.pmode ≤ (if n = 16 then 0 else 2))

/-- The sections of an image (R141). -/
def sections (h : ImageHeader) (ls : List LaneEntry) (rs : List RecompEntry) : List (Nat × Nat) :=
  [(0, 128), (h.descOff, 64 * h.descCount), (h.laneOff, 272)]
    ++ (if h.cycleOff = 0 then [] else [(h.cycleOff, h.cycleLen)])
    ++ (if h.recompOff = 0 then [] else [(h.recompOff, 8 + 16 * rs.length)])
    ++ (if h.stashOff = 0 then [] else [(h.stashOff, 64)])
    ++ (if h.hostSemOff = 0 then [] else [(h.hostSemOff, 1024)])
    ++ (ls.filter fun l => l.codeOff != 0).map (fun l => (l.codeOff, 16 * l.words))
    ++ rs.map fun r => (r.codeOff, 16 * r.words)

/-- An object an image names by id is readable by the account, or is not named. -/
def Device.namedReadable (d : Device) (a : BitVec 6) (id : Word32) : Bool := id == 0 || d.mayRead id a

/-- An object of the stash declaration that must lie in T2, with the bytes used of it (R155). -/
def Device.stashObjectOk (d : Device) (id : Word32) (bytes : Nat) : Bool :=
  id == 0 || (d.obj? id).any fun o => o.allT2 && decide (bytes ≤ o.size)

def Device.stashOk (d : Device) (a : BitVec 6) (s : StashDecl) : Bool :=
  d.namedReadable a s.primary && d.namedReadable a s.spill && d.namedReadable a s.overflow
    && d.stashObjectOk s.spill s.spillBytes && d.stashObjectOk s.overflow s.overflowBytes

/-- The bodies of the lanes (R121): lanes in their order, each failing at its first offending word. -/
def decodeLanes (f : ImageReader) : List (Nat × LaneEntry) → Load (List LaneCode)
  | [] => .ok []
  | (n, e) :: r => do
    let code : LaneCode ←
      if e.codeOff = 0 then pure {}
      else match decodeBody (allowedIn n) 0 (bodyWords f e.codeOff e.words) with
        | .error w => .error { place := n + 1, index := w }
        | .ok b => pure { present := true, words := e.words, pmode := BitVec.ofNat 2 e.pmode, body := b }
    return code :: (← decodeLanes f r)

/-- The recompute blocks (R160), named under PLACE 18. -/
def decodeBlocks (f : ImageReader) : List RecompEntry → Load (List (RecompEntry × RecompBlock))
  | [] => .ok []
  | e :: r => do
    require (e.reservedZero && decide (e.lane < 8)) { place := 18, index := e.at' / 16 }
    match decodeBody allowedInBlock 0 (bodyWords f e.codeOff e.words) with
    | .error w => .error { place := 18, index := e.codeOff / 16 + w }
    | .ok b => return (e, { seg := e.seg, lane := e.lane, body := b }) :: (← decodeBlocks f r)

/-- The image read and checked under R141 and R121. -/
def Device.readImage (d : Device) (a : BitVec 6) (f : ImageReader) (length : Nat) : Load Image := do
  require (decide (128 ≤ length)) {}
  let h := parseHeader f
  require h.ok {}
  let ls := (List.range 17).map fun n => parseLane f (h.laneOff + 16 * n)
  let segs := if h.recompOff = 0 then 0 else f h.recompOff 2
  let rs := (List.range segs).map fun n => parseRecomp f (h.recompOff + 8 + 16 * n)
  let secs := sections h ls rs
  require (secs.all fun s => s.1 % 64 == 0 && decide (s.1 + s.2 ≤ length)) {}
  require (pairwiseDisjoint secs && lanesPresent h ls) {}
  let (stash, stashZero) := if h.stashOff = 0 then ({}, true) else parseStash f h.stashOff
  require (stashZero && d.stashOk a stash) {}
  let (cycle, cycleOk) := if h.cycleOff = 0 then (none, true)
    else ((fun c => (some c.1, c.2)) (parseCycle f h.cycleOff h.cycleLen))
  require cycleOk {}
  require (h.recompOff == 0 || f (h.recompOff + 2) 6 == 0) { place := 18, index := h.recompOff / 16 }
  let sems := if h.hostSemOff = 0 then [] else
    (List.range 256).filterMap fun n =>
      let t := f (h.hostSemOff + 4 * n) 4
      if t = 0 then none else some (n, t)
  let bodies ← decodeLanes f ((List.range 17).map fun n => (n, ls.getD n default))
  let blocks ← decodeBlocks f rs
  return { header := h
           descs := (List.range h.descCount).map fun k =>
             parseDesc ((List.range 64).map fun i => BitVec.ofNat 8 (f (h.descOff + 64 * k + i) 1))
           lanes := Vector.ofFn fun n => bodies.getD n.val {}
           recomp := blocks, stash := stash, cycle := cycle, hostSem := sems }

/-! ### Operands (R88, R123-R128, R135, R163, R243) -/

/-- A descriptor has a matrix view (R123). -/
def hasView (ds : List Desc) (h : Handle) (r c : Nat) : Bool := (descAt ds h).any fun d => d.rows == r && d.cols == c

def isClass (ds : List Desc) (h : Handle) (c : TClass) : Bool := (descAt ds h).any fun d => d.cls == c

/-- The operand views of an instruction (R123, R243). -/
def viewsOk (ds : List Desc) : Byquel → Bool
  | .tmm md _ _ m n k ha hb hd _ _ acc hadd =>
    if md = 2 then hasView ds ha m k && hasView ds hb m n && hasView ds hd k n
    else hasView ds ha m k && (if md = 0 then hasView ds hb k n else hasView ds hb n k) && hasView ds hd m n
      && (!acc || hasView ds hadd m n)
  | .tew _ _ fn m n _ ha hb hd =>
    hasView ds ha m n && (!tewReadsB fn || hasView ds hb m n || hasView ds hb 1 n) && hasView ds hd m n
  | .tnorm _ _ _ m n _ ha hg hd => hasView ds ha m n && hasView ds hg 1 n && hasView ds hd m n
  | .tnormb m n _ ha hb hg hd => hasView ds ha m n && hasView ds hb m n && hasView ds hg 1 n && hasView ds hd m n
  | .tsmax _ _ _ m n _ ha hd => hasView ds ha m n && hasView ds hd m n
  | .tsmaxb _ m n _ ha hb hd => hasView ds ha m n && hasView ds hb m n && hasView ds hd m n
  | .tred md _ m n ha hd =>
    if md = 7 then isClass ds ha .weight
    else hasView ds ha m n && (if md = 1 ∨ md = 4 then hasView ds hd 1 n else hasView ds hd m 1)
  | .tstash _ m n ha hd => hasView ds ha m n && hasView ds hd m n
  | .tunstash _ m n ha hd => hasView ds ha m n && hasView ds hd m n
  | .tmov _ m n ha hd => hasView ds ha m n && hasView ds hd m n
  | .tattn _ kind _ _ m _ hq ho hs hup heads hdim rank _ hdo hdq =>
    let w := heads * hdim
    hasView ds hq m (w + rank) && hasView ds ho m w && hasView ds hup rank (2 * w)
      && (descAt ds hs).any (fun d => d.cols == 24 && d.format == .z16)
      && rank % 16 == 0 && decide (w + rank ≤ 1048575) && isClass ds hup .weight && isClass ds hs .kv
      && (kind != kindTrainB || (hasView ds hdo m w && hasView ds hdq m (w + rank)))
  | .tfenceVersion ha => isClass ds ha .weight
  | .ttie _ _ | .tsig _ _ | .twait _ _ _ | .tfenceStream | .tfencePmode _ | .thint _ _ _ | .tend => true

/-- Element width of a product operand; H16 is none (R88). -/
def Format.productWidth : Format → Option Nat
  | .z16 => some 16 | .z8a => some 8 | .z8b => some 8 | .z4 => some 4 | .h16 => none

/-- R88 and R124 of a TMM. DESIGN CHOICE: R124 wants operand B FOLDED and R139 wants a Z4 descriptor STRIDED, so no Z4 product passes,
although R53, R61 and R88 speak of one; the model keeps to the two load checks (log entry 132). -/
def tmmOk (ds : List Desc) : Byquel → Bool
  | .tmm md ord _ _ _ _ ha hb _ rop _ acc _ =>
    let wa := (descAt ds ha).bind fun d => d.format.productWidth
    let wb := (descAt ds hb).bind fun d => d.format.productWidth
    wa.isSome && wa == wb && (md == 0 || wa != some 4)
      && (if md = 2 then rop == 0 && !acc && ord == 0 else (descAt ds hb).any Desc.folded)
  | _ => true

/-- The lane may hold the kind of a TATTN, and a TFENCE VERSION (R135, R243). -/
def laneOk (lane : Nat) : Byquel → Bool
  | .tattn _ kind .. => if kind = kindTrainB then laneIsB lane else laneIsF lane
  | .tfenceVersion _ => !laneIsU lane
  | _ => true

/-- The function code of a TEW is assigned (R126). -/
def fnOk : Byquel → Bool
  | .tew _ _ fn .. => decide (fn.toNat ≤ 0x11)
  | _ => true

/-- The CHAIN bit, where an instruction has one. -/
def chainBit : Byquel → Option Bool
  | .tew c .. => some c
  | .tnorm c .. => some c
  | .tsmax c .. => some c
  | _ => none

/-- M and N of an instruction that may take chained results, and its HA. -/
def chainShape : Byquel → Option (Nat × Nat × Handle)
  | .tew _ _ _ m n _ ha _ _ => some (m, n, ha)
  | .tnorm _ _ _ m n _ ha _ _ => some (m, n, ha)
  | .tsmax _ _ _ m n _ ha _ => some (m, n, ha)
  | .tred md _ m n ha _ => if md.toNat ≤ 3 then some (m, n, ha) else none
  | _ => none

/-- R125 between an instruction and the one before it. -/
def chainOk (prev : Option Byquel) (i : Byquel) : Bool :=
  match prev with
  | some (.tmm _ _ _ m n _ _ _ hd rop _ _ _) =>
    if rop = 3 then chainShape i == some (m, n, hd) && chainBit i != some false else chainBit i != some true
  | _ => chainBit i != some true

/-- The classes of what an instruction reads and writes (R128, R156). -/
def classesOk (ds : List Desc) (lane mbCount : Nat) (chained : Bool) (i : Byquel) : Bool :=
  let stashRead := match i with | .tunstash .. => true | _ => false
  let stashWrite := match i with | .tstash .. => true | _ => false
  let attn := match i with | .tattn .. => true | _ => false
  (i.reads chained).all (fun h => isClass ds h .stash == stashRead)
    && match i.writes with
      | none => true
      | some h =>
        (isClass ds h .stash == stashWrite) && (attn || !isClass ds h .kv)
          && (laneIsU lane || mbCount == 1 || !(isClass ds h .weight || isClass ds h .state))

/-- The stat range lies in the store (R122). -/
def statInStore (i : Byquel) : Bool :=
  ((i.statWrite.toList ++ i.statRead.toList).all fun r => decide (r.1 + r.2 ≤ 524288))

/-- A backward instruction's stat records are written by the F lane of its index (R163). -/
def statMatched (img : Image) (lane : Nat) (i : Byquel) : Bool :=
  match i.statRead with
  | none => true
  | some r => (img.lane (laneIndex lane)).body.any fun x => x.instr.statWrite == some r

/-- The first record of each TRAIN_F of a body: M × HEADS records each, downward from record 524,287 (R248). -/
def trainRanges : Nat → List PlacedInstr → List (PlacedInstr × Int × Nat)
  | _, [] => []
  | used, i :: r =>
    match i.instr with
    | .tattn _ kind _ _ m _ _ _ _ _ heads _ _ _ _ _ =>
      if kind = kindTrainF then
        (i, 524288 - ((used + m * heads : Nat) : Int), m * heads) :: trainRanges (used + m * heads) r
      else trainRanges used r
    | _ => trainRanges used r

/-- The stat ranges a lane index names. -/
def Image.statRanges (img : Image) (idx : Nat) : List (Nat × Nat) :=
  ((img.lane idx).body ++ (img.lane (8 + idx)).body).flatMap fun i => i.instr.statWrite.toList ++ i.instr.statRead.toList

/-- R248 of a training attention: its records overlap no STAT range, and a TRAIN_B has its TRAIN_F. -/
def trainOk (img : Image) (lane : Nat) (i : PlacedInstr) : Bool :=
  match i.instr with
  | .tattn _ kind _ _ _ _ _ ho .. =>
    if kind = kindTrainF then
      match (trainRanges 0 (img.lane lane).body).find? fun x => x.1.word == i.word with
      | none => true
      | some (_, lo, _) =>
        decide (0 ≤ lo) && (img.statRanges (laneIndex lane)).all fun r => decide ((r.1 + r.2 : Nat) ≤ lo)
    else if kind = kindTrainB then
      (img.lane (laneIndex lane)).body.any fun x =>
        match x.instr with
        | .tattn _ k _ _ _ _ _ h .. => k == kindTrainF && h == ho
        | _ => false
    else true
  | _ => true

/-- Every check of one instruction of a lane (R123 to R128, R135, R163, R243, R248). -/
def instrOk (img : Image) (lane : Nat) (prev : Option Byquel) (i : PlacedInstr) : Bool :=
  viewsOk img.ds i.instr && tmmOk img.ds i.instr && chainOk prev i.instr && fnOk i.instr && laneOk lane i.instr
    && classesOk img.ds lane img.header.mbCount (prev.any Byquel.isChainTmm) i.instr && statInStore i.instr
    && statMatched img lane i.instr && trainOk img lane i

/-- A body's first instruction that fails. -/
def firstBad (ok : Option Byquel → PlacedInstr → Bool) : Option Byquel → List PlacedInstr → Option PlacedInstr
  | _, [] => none
  | prev, i :: r => if ok prev i then firstBad ok (some i.instr) r else some i

/-- Every check of one instruction of a recompute block; its writes are those of the F body it repeats. -/
def blockInstrOk (img : Image) (lane : Nat) (prev : Option Byquel) (i : PlacedInstr) : Bool :=
  viewsOk img.ds i.instr && tmmOk img.ds i.instr && chainOk prev i.instr && fnOk i.instr
    && classesOk img.ds lane img.header.mbCount (prev.any Byquel.isChainTmm) i.instr

def Image.laneList (img : Image) : List (Nat × LaneCode) := (List.range 17).map fun n => (n, img.lane n)

def checkOperands (img : Image) : Load Unit := do
  match img.laneList.findSome? fun (n, l) => (firstBad (instrOk img n) none l.body).map (atWord n) with
  | some f => .error f
  | none =>
    match img.recomp.findSome? fun (e, b) => (firstBad (blockInstrOk img b.lane) none b.body).map fun i =>
        ({ place := 18, index := e.codeOff / 16 + i.word } : LoadFail) with
    | some f => .error f
    | none => .ok ()

/-- The persistent tensor and ordinal an instruction writes (R128). -/
def persistentWrite (ds : List Desc) (i : Byquel) : Option (Word32 × BitVec 8) :=
  (i.writes.bind (descAt ds)).bind fun d => if d.cls = .weight ∨ d.cls = .state then some (d.tensor, i.ord) else none

/-- The first instruction that repeats an ordinal of a persistent tensor. -/
def firstOrdClash (ds : List Desc) : List (Word32 × BitVec 8) → List (Nat × PlacedInstr) → Option (Nat × PlacedInstr)
  | _, [] => none
  | seen, (n, i) :: r =>
    match persistentWrite ds i.instr with
    | none => firstOrdClash ds seen r
    | some k => if seen.contains k then some (n, i) else firstOrdClash ds (k :: seen) r

def Image.allInstrs (img : Image) : List (Nat × PlacedInstr) :=
  img.laneList.flatMap fun (n, l) => l.body.map fun i => (n, i)

def checkOrds (img : Image) : Load Unit :=
  match firstOrdClash img.ds [] img.allInstrs with
  | some (n, i) => .error (atWord n i)
  | none => .ok ()

/-! ### Stash (R156, R160) -/

/-- TSTASHes of a handle: the lanes they stand in. -/
def Image.stashers (img : Image) (h : Nat) : List Nat :=
  img.allInstrs.filterMap fun (n, i) => match i.instr with | .tstash _ _ _ _ hd => if hd.toNat = h then some n else none | _ => none

/-- A STASH descriptor names PRIMARY_OBJECT at 0 and is written by one TSTASH (R156). -/
def Image.stashDescOk (img : Image) (h : Nat) (d : Desc) : Bool :=
  d.cls != .stash || (d.object == img.stash.primary && img.stash.primary != 0 && d.offset == 0
    && (img.stashers h).length == 1)

/-- A TUNSTASH reads an entry of its own lane index (R156). -/
def Image.unstashOk (img : Image) (idx : Nat) (i : Byquel) : Bool :=
  match i with
  | .tunstash _ _ _ ha _ => (img.stashers ha.toNat).all (· == idx)
  | _ => true

def checkStash (img : Image) : Load Unit := do
  requireAll (img.ds.mapIdx fun h d => (h, d)) (fun x => img.stashDescOk x.1 x.2) fun x => { place := 19, index := x.1 }
  requireAll img.allInstrs (fun x => img.unstashOk (laneIndex x.1) x.2.instr) fun x => atWord x.1 x.2
  requireAll (img.recomp.flatMap fun (e, b) => b.body.map fun i => (e, b, i)) (fun x => img.unstashOk x.2.1.lane x.2.2.instr)
    fun x => { place := 18, index := x.1.codeOff / 16 + x.2.2.word }
  if img.header.policy = 1 then
    let used := img.allInstrs.filterMap fun (n, i) =>
      match i.instr with | .tstash seg _ _ _ hd => if seg = 0 then none else some (n, seg.toNat, hd) | _ => none
    requireAll used (fun x => img.recomp.any fun r => r.2.seg == x.2.1 && r.2.lane == laneIndex x.1) fun _ => { place := 18 }
    let need := sumOf (fun x => (((descAt img.ds x.2.2).map Desc.stashGranules).getD 0) * stashGranule) used
    require (decide (need ≤ img.stash.scratchBytes)) {}
  else .ok ()

/-! ### Ties (R173) -/

/-- Uses of a tie group, in handle order. -/
def Image.uses (img : Image) (g : Word16) : List (Nat × Desc) :=
  (img.ds.mapIdx fun h d => (h, d)).filter fun x => x.2.tieGroup == g

def sameUse (a b : Desc) : Bool :=
  a.tensor == b.tensor && a.dim0 == b.dim0 && a.dim1 == b.dim1 && a.dim2 == b.dim2 && a.dim3 == b.dim3
    && a.format == b.format && a.frozen == b.frozen && a.normInclude == b.normInclude

/-- The U lane before instruction `n` holds a TTIE of the group. -/
def tieBefore (u : List PlacedInstr) (n : Nat) (g : Word16) : Bool :=
  (u.take n).any fun i => match i.instr with | .ttie x _ => x == g | _ => false

/-- A region of the handle is named in some lane. -/
def Image.hasRegion (img : Image) (h : Nat) : Bool :=
  img.laneList.any fun (_, l) => l.body.any fun i => i.instr.region.any fun u => u.handle.toNat == h

/-- The U lane releases the tensor of a use. -/
def releasesUse (u : List PlacedInstr) (h : Nat) : Bool :=
  u.any fun i => match i.instr with | .tred md _ _ _ ha _ => md == 7 && ha.toNat == h | _ => false

/-- One instruction of the U lane keeps R173: a TTIE names a group that has uses, once. -/
def Image.tieInstrOk (img : Image) (u : List PlacedInstr) (n : Nat) (i : PlacedInstr) : Bool :=
  match i.instr with
  | .ttie g _ => !tieBefore u n g && !(img.uses g).isEmpty
  | .tred md _ _ _ ha _ =>
    md != 7 ||
      match descAt img.ds ha with
      | none => true
      | some d =>
        d.tieGroup == 0 || (tieBefore u n d.tieGroup && ((img.uses d.tieGroup).head?).any (fun x => x.1 == ha.toNat)
          && !(u.take n).any fun x => x.instr == i.instr)
  | _ => true

def checkTies (img : Image) : Load Unit := do
  let tied := (img.ds.mapIdx fun h d => (h, d)).filter fun x => x.2.tieGroup != 0
  let u := (img.lane 16).body
  requireAll tied (fun x => ((img.uses x.2.tieGroup).head?).all fun y => sameUse y.2 x.2) fun x => { place := 19, index := x.1 }
  requireAll tied (fun x => img.hasRegion x.1) fun x => { place := 19, index := x.1 }
  requireAll tied (fun x => tieBefore u u.length x.2.tieGroup && ((img.uses x.2.tieGroup).head?).any fun y => releasesUse u y.1)
    fun _ => { place := 17 }
  requireAll (u.mapIdx fun n i => (n, i)) (fun x => img.tieInstrOk u x.1 x.2) fun x => atWord 16 x.2

/-! ### Partition modes (R131) -/

def maskOk (mode : BitVec 2) (i : Byquel) : Bool := i.pmask.all fun p => decide (p.toNat < 2 ^ modeParts mode)

def checkModes (img : Image) : Load Unit := do
  requireAll (img.laneList.flatMap fun (n, l) => (withMode l.pmode l.body).map fun x => (n, x))
    (fun x => maskOk x.2.2 x.2.1.instr) fun x => atWord x.1 x.2.1
  requireAll (img.recomp.flatMap fun (e, b) =>
      (withMode (img.lane (8 + b.lane)).pmode b.body).map fun x => (e, x))
    (fun x => maskOk x.2.2 x.2.1.instr) fun x => { place := 18, index := x.1.codeOff / 16 + x.2.1.word }

/-! ### Deadlock simulation (R134, R136) -/

/-- A lane of the simulation: number, micro-batch and the instructions left. -/
structure SimLane where
  lane : Nat
  mb : Nat
  left : List PlacedInstr
deriving Repr

/-- Semaphore values of the simulation. -/
abbrev SimSems := List (Nat × Nat)

def SimSems.get (s : SimSems) (n : Nat) : Nat := ((s.find? fun x => x.1 == n).map Prod.snd).getD 0
def SimSems.add (s : SimSems) (n v : Nat) : SimSems := (n, min (s.get n + v) 0xFFFFFFFF) :: s.filter fun x => x.1 != n

/-- A lane runs until a TWAIT that is not met, or its TEND. -/
def simRun (mb : Nat) : List PlacedInstr → SimSems → List PlacedInstr × SimSems
  | [], s => ([], s)
  | i :: r, s =>
    match i.instr with
    | .tsig sem inc => simRun mb r (s.add sem.toNat inc)
    | .twait sem t st => if t + st * mb ≤ s.get sem.toNat then simRun mb r s else (i :: r, s)
    | .tend => ([], s)
    | _ => simRun mb r s

/-- One round over the lanes. -/
def simRound : List SimLane → SimSems → List SimLane × SimSems
  | [], s => ([], s)
  | l :: r, s =>
    let (left, s) := simRun l.mb l.left s
    let (r, s) := simRound r s
    ({ l with left := left } :: r, s)

/-- Rounds until nothing moves. -/
def simPump : Nat → List SimLane → SimSems → List SimLane × SimSems
  | 0, ls, s => (ls, s)
  | k + 1, ls, s =>
    let (ls', s') := simRound ls s
    if (ls'.map fun l => l.left.length) = ls.map fun l => l.left.length then (ls', s') else simPump k ls' s'

/-- The lane that blocks first, with the TWAIT it waits on. -/
def simBlocked (ls : List SimLane) : LoadFail :=
  match ls.find? fun l => !l.left.isEmpty with
  | some l => { place := l.lane + 1, index := (l.left.head?.map PlacedInstr.word).getD 0 }
  | none => {}

/-- Every slot, then the U lane. `u` is what the U lane has left. -/
def simSlots (img : Image) : List Slot → List PlacedInstr → SimSems → Load Unit
  | [], u, s =>
    let n := u.length + 1
    let (ls, _) := simPump n [{ lane := 16, mb := 0, left := u }] s
    require (ls.all fun l => l.left.isEmpty) (simBlocked ls)
  | sl :: r, u, s =>
    let lanes := (List.range 8).filterMap fun i =>
      let n := if sl.backward then 8 + i else i
      if (img.lane n).present then some ({ lane := n, mb := sl.mb, left := (img.lane n).body } : SimLane) else none
    let ls := lanes ++ [{ lane := 16, mb := 0, left := u }]
    let (ls', s') := simPump (sumOf (fun l => l.left.length) ls + 1) ls s
    let done := (ls'.filter fun l => l.lane != 16).all fun l => l.left.isEmpty
    if done then simSlots img r (((ls'.find? fun l => l.lane == 16).map SimLane.left).getD []) s'
    else .error (simBlocked ls')

def checkDeadlock (img : Image) : Load Unit :=
  simSlots img (slotOrder img.header.stageCount img.header.stageIndex img.header.mbCount (decide (0 < img.header.bLanes)))
    (img.lane 16).body img.hostSem

/-! ### Descriptors (R139) -/

/-- The strides of a STRIDED descriptor reach no position twice. -/
def Desc.stridesOk (d : Desc) : Bool :=
  let s1 := d.dim0
  let s2 := s1 + (d.dim1 - 1) * d.stride1
  let s3 := s2 + (d.dim2 - 1) * d.stride2
  d.folded || ((d.dim1 == 1 || decide (s1 ≤ d.stride1)) && (d.dim2 == 1 || decide (s2 ≤ d.stride2))
    && (d.dim3 == 1 || decide (s3 ≤ d.stride3)))

/-- Descriptors that must agree: the same tensor outside one tie group. -/
def sameTensor (a b : Desc) : Bool :=
  a.object == b.object && a.offset == b.offset && a.dim0 == b.dim0 && a.dim1 == b.dim1 && a.dim2 == b.dim2
    && a.dim3 == b.dim3 && a.stride1 == b.stride1 && a.stride2 == b.stride2 && a.stride3 == b.stride3
    && a.format == b.format && a.folded == b.folded

/-- One descriptor by itself. -/
def Device.descOk (d : Device) (x : Desc) : Bool :=
  decide (x.elems ≤ 2 ^ 48) && (d.obj? x.object).any (fun o => decide (x.hi ≤ o.size)) && x.stridesOk
    && (x.format != .z4 || (!x.folded && x.stride1 == roundUp x.dim0 32))
    && decide (-32 ≤ x.sigma ∧ x.sigma ≤ 31) && (!x.sigmaEn || x.cls == .weight)

def Device.checkDescs (d : Device) (a : BitVec 6) (img : Image) : Load Unit := do
  let ds := img.descs.mapIdx fun h x => (h, x)
  let clash (h : Nat) (x : Desc) : Bool :=
    (img.ds.take h).any fun y =>
      y.tensor == x.tensor && !sameTensor x y && !(x.tieGroup != 0 && x.tieGroup == y.tieGroup)
  requireAll ds (fun x => x.2.2 && d.descOk x.2.1 && !clash x.1 x.2.1) fun x => { place := 19, index := x.1 }
  requireAll ds (fun x => d.mayRead x.2.1.object a) fun x => { status := .notOwner, place := 19, index := x.1 }

/-! ### Crucible regions (R169, R170) -/

/-- A slot taken in the tiles of a square of an array's plane. -/
structure SlotUse where
  slot : Nat
  row : Nat
  col : Nat
  side : Nat
deriving DecidableEq, Repr, Inhabited

def SlotUse.meets (a b : SlotUse) : Bool :=
  a.slot == b.slot && decide (a.row < b.row + b.side ∧ b.row < a.row + a.side)
    && decide (a.col < b.col + b.side ∧ b.col < a.col + a.side)

/-- Slots loaded regions hold on an array. -/
def Region.slotUses (r : Region) : List SlotUse :=
  r.places.filterMap fun p => match p with | .slot i row col side => some ⟨i, row, col, side⟩ | .overflow _ => none

def Device.slotsHeld (d : Device) (array : Nat) : List SlotUse :=
  d.programs.flatMap fun (_, p) => (p.regions.filter fun r => r.array == array).flatMap Region.slotUses

/-- The lowest slot free in every tile of a square. -/
def lowestSlot (held : List SlotUse) (row col side : Nat) : Option SlotUse :=
  ((List.range 256).map fun s => (⟨s, row, col, side⟩ : SlotUse)).find? fun u => !held.any u.meets

/-- The tile square of partition `p` of a mode (R103). -/
def partSquare (mode : BitVec 2) (p : Nat) : Nat × Nat × Nat :=
  let t := modeTiles mode
  (p / (100 / t) * t, p % (100 / t) * t, t)

/-- The squares of a region's folds in order, with the bytes each takes in overflow: an OS region's output folds over the named
partitions, or 64-entry groups on tiles. -/
def foldSquares (u : RegionUse) (mode : BitVec 2) : List (Nat × Nat × Nat) × Nat :=
  match u.pmask with
  | some mask =>
    let side := modeSide mode
    let parts := (List.range 16).filter fun p => mask.getLsbD p
    ((List.range (ceilDiv u.rows side * ceilDiv u.cols side)).map fun q => partSquare mode (parts.getD (q % parts.length) 0),
      4 * side * side)
  | none => ((List.range (ceilDiv u.cols 64)).map fun g => (g % 10000 / 100, g % 100, 1), 256)

/-- Folds placed in order: slots while one is free, overflow bytes after (R169, R170). -/
def placeFolds (bytes : Nat) : List (Nat × Nat × Nat) → List SlotUse → Nat → List FoldPlace × List SlotUse × Nat
  | [], held, overflowing => ([], held, overflowing)
  | (row, col, side) :: r, held, overflowing =>
    match lowestSlot held row col side with
    | some u =>
      let (ps, held, overflowing) := placeFolds bytes r (u :: held) overflowing
      (.slot u.slot row col side :: ps, held, overflowing)
    | none =>
      let (ps, held, over') := placeFolds bytes r held (overflowing + bytes)
      (.overflow overflowing :: ps, held, over')

/-- A use of a region: lane, instruction, mode in force and the region named. -/
structure NamedRegion where
  lane : Nat
  instr : PlacedInstr
  mode : BitVec 2
  use : RegionUse
deriving Repr

/-- The uses in the order of R169: B lanes, then F lanes. -/
def Image.namedRegions (img : Image) : List NamedRegion :=
  ((List.range 8).map (· + 8) ++ List.range 8).flatMap fun n =>
    (withMode (img.lane n).pmode (img.lane n).body).filterMap fun (x : PlacedInstr × BitVec 2) =>
      x.1.instr.region.map fun u => { lane := n, instr := x.1, mode := x.2, use := u }

/-- The mode and mask a region is named with; the row engine has neither (log entry 16). -/
def NamedRegion.key (n : NamedRegion) : Nat × Option (BitVec 2) × Option (BitVec 16) :=
  (laneIndex n.lane, n.use.pmask.map fun _ => n.mode, n.use.pmask)

/-- The regions of a program as they are planned, with the key of each, the slots held per array and the overflow bytes. -/
structure RegionPlan where
  regions : List (Region × (Nat × Option (BitVec 2) × Option (BitVec 16))) := []
  held : Nat → List SlotUse
  overflowing : Nat := 0

def planOne (p : RegionPlan) (n : NamedRegion) : Load RegionPlan :=
  match p.regions.find? fun r => r.1.handle == n.use.handle with
  | some r =>
    if r.2 = n.key then
      let again (r : Region × (Nat × Option (BitVec 2) × Option (BitVec 16))) :=
        ({ r.1 with namers := r.1.namers + 1 }, r.2)
      .ok { p with regions := updFirst (fun r => r.1.handle == n.use.handle) again p.regions }
    else .error (atWord n.lane n.instr)
  | none =>
    let idx := laneIndex n.lane
    let (squares, bytes) := foldSquares n.use n.mode
    let (places, held, overflowing) := placeFolds bytes squares (p.held idx) p.overflowing
    let side := if n.use.pmask.isSome then modeSide n.mode else 0
    let r : Region :=
      { handle := n.use.handle, array := idx, rows := n.use.rows, cols := n.use.cols,
        foldRows := if side = 0 then 1 else side, foldCols := if side = 0 then 64 else side,
        places := places, namers := 1, cells := [] }
    .ok { regions := p.regions ++ [(r, n.key)], held := fun k => if k = idx then held else p.held k, overflowing := overflowing }

def planAll : List NamedRegion → RegionPlan → Load RegionPlan
  | [], p => .ok p
  | n :: r, p => do planAll r (← planOne p n)

/-- The regions of an image (R169, R170). -/
def Device.planRegions (d : Device) (img : Image) : Load (List Region) := do
  let p ← planAll img.namedRegions { held := d.slotsHeld }
  require (p.overflowing == 0 || (img.stash.overflow != 0 && decide (p.overflowing ≤ img.stash.overflowBytes))) {}
  return p.regions.map Prod.fst

/-! ### All checks in order (R148) -/

def Device.checkImage (d : Device) (a : BitVec 6) (f : ImageReader) (length : Nat) : Load (Image × List Region) := do
  let img ← d.readImage a f length
  checkOperands img
  checkOrds img
  checkStash img
  checkTies img
  checkModes img
  checkDeadlock img
  d.checkDescs a img
  let regions ← d.planRegions img
  return (img, regions)

end Sys2Proof.Machine
end

