-- ==== Sys2Proof/Machine/Program.lean ====
section
/-! DEFINITION. Program commands: PROG_LOAD, PROG_UNLOAD, STEP_ABORT, PROG_REWIND, DESC_WRITE, PROG_QUERY and SEM_SIGNAL (R141,
R145-R148). -/

namespace Sys2Proof.Machine

/-! ### Loading -/

/-- The lowest program slot that is EMPTY. -/
def Device.freeSlot (d : Device) : Option (Fin 16) := (Bank.indices 16).find? fun k => (d.progs[k]).isNone

def policyOf (n : Nat) : StashPolicy := if n = 0 then .spill else if n = 1 then .recompute else .fail

/-- A program as its image, its regions and the packet make it. -/
def Image.program (img : Image) (account : BitVec 6) (image : Word32) (length : Nat) (first : Word32) (seed : Word64)
    (regions : List Region) : Program :=
  let h := img.header
  { account := account, seed := seed, firstStep := first.toNat, nextStep := first.toNat, fLanes := h.fLanes,
    bLanes := h.bLanes, uLanes := h.uLanes, policy := policyOf h.policy, mbCount := h.mbCount, stageCount := h.stageCount,
    stageIndex := h.stageIndex, sigmaPeriod := h.sigmaPeriod, windowBase := h.windowBase, fill := h.fill,
    pyroObject := h.pyro, descs := img.ds, lanes := img.lanes, recomp := img.recomp.map Prod.snd, stash := img.stash,
    cycle := img.cycle, hostSem := img.hostSem, image := image, t1Charge := Config.tableGranules length,
    regions := regions, baseVersion := first.toNat }

/-- Objects a program pins from load to unload (R155). -/
def Program.loadPins (p : Program) : List Word32 := [p.stash.spill, p.stash.overflow].filter (· != 0)

/-- A program enters its slot (R145, R155, R429). -/
def Device.enterProgram (d : Device) (c : OpenCmd) (k : Fin 16) (p : Program) : Device :=
  let d := ((d.setProg k (some p)).progPin p.loadPins).updBel fun b => { b with ballastOn := true }
  (d.logEvent 0x0201 .info k.val 0 srcAdmission).ok c k.val

/-- The content checks and the quota, then the load (R148 steps 5 and 6). -/
def Device.loadContent (d : Device) (c : OpenCmd) (o : Obj) (k : Fin 16) (off : BitVec 48) (len first : Word32) (seed : Word64) :
    Device :=
  let a := c.hdr.account
  let f : ImageReader := fun at' n => ofBytes (d.objBytes o (off.toNat + at') n)
  let checked : Load (Image × List Region) :=
    if o.size < off.toNat + len.toNat then .error {} else d.checkImage a f len.toNat
  match checked with
  | .error e => d.finish c e.status e.result
  | .ok (img, regions) =>
    let p := img.program a o.id len.toNat first seed regions
    if d.chargeFits a (.t1 0 []) p.t1Charge then d.enterProgram c k p else (d.logQuota a).finish c .quota

def Device.progLoad (h : CmdHdr) (image : Word32) (off : BitVec 48) (len first : Word32) (seed : Word64) (d : Device) : Device :=
  d.command 0x0201 h fun c d =>
    match d.obj? image with
    | none => d.finish c .badParam
    | some o =>
      if !o.readableBy h.account then d.finish c .notOwner
      else if o.anyT3 then d.finish c .staging
      else match d.freeSlot with
        | none => d.finish c .noSpace
        | some k => d.loadContent c o k off len first seed

def execProgLoad (h : CmdHdr) (image : Word32) (offset : BitVec 48) (length firstStep : Word32) (seed : Word64) (s : State) :
    Answer := s.act (Device.progLoad h image offset length firstStep seed)

/-! ### Naming a program (R148) -/

/-- A command that names a program slot: EMPTY, or another account's, is answered as R148 says. -/
def Device.withProgram (d : Device) (c : OpenCmd) (prog : BitVec 8) (f : Fin 16 → Program → Device → Device) : Device :=
  match asFin 16 prog.toNat with
  | none => d.finish c .badParam
  | some k =>
    match d.progs[k] with
    | none => d.finish c .badParam
    | some p => if p.account = c.hdr.account then f k p d else d.finish c .notOwner

/-- The same where a cause of ST_BAD_PARAM goes before ownership (R534): `good` says that there is none. -/
def Device.withProgramIf (d : Device) (c : OpenCmd) (prog : BitVec 8) (good : Program → Bool)
    (f : Fin 16 → Program → Device → Device) : Device :=
  match asFin 16 prog.toNat with
  | none => d.finish c .badParam
  | some k =>
    match d.progs[k] with
    | none => d.finish c .badParam
    | some p => if good p then d.withProgram c prog f else d.finish c .badParam

/-- Every object a program pins: those of its load, its error memory and its rule objects (R155, R197, R229). -/
def Program.pinned (p : Program) : List Word32 :=
  p.loadPins ++ (if p.gx.errmem = 0 then [] else [p.gx.errmem]) ++ p.ruleObjects.filter (· != 0)

/-- A slot becomes EMPTY: pins, profiles, channels and held transfers of the program go. -/
def Device.leaveProgram (d : Device) (k : Fin 16) (p : Program) : Device :=
  let d := ((d.setProg k none).progUnpin p.pinned).updBel (·.clearProfiles (· == k.val))
  let d := (d.dropTundish k.val).updFab fun f => { f with programs := f.programs.filter (·.slot != k.val) }
  d.updBel fun b => { b with ballastOn := b.ballastOn && !d.programs.isEmpty }

def Device.progUnload (h : CmdHdr) (prog : BitVec 8) (d : Device) : Device :=
  d.command 0x0202 h fun c d =>
    d.withProgram c prog fun k p d => if p.state = .running then d.finish c .busy else (d.leaveProgram k p).ok c

def execProgUnload (h : CmdHdr) (prog : BitVec 8) (s : State) : Answer := s.act (Device.progUnload h prog)

/-! ### Steps ended and rewound -/

def Device.stepAbort (h : CmdHdr) (prog : BitVec 8) (step : Word32) (d : Device) : Device :=
  d.command 0x0204 h fun c d =>
    match asFin 16 prog.toNat with
    | none => d.finish c .badParam
    | some k =>
      match d.progs[k] with
      | none => d.finish c .badParam
      | some p =>
        if (p.stepAt step.toNat).isNone then d.finish c .badParam
        else if p.account ≠ h.account then d.finish c .notOwner
        else (d.haltProgram k (some step.toNat) .aborted).ok c

def execStepAbort (h : CmdHdr) (prog : BitVec 8) (step : Word32) (s : State) : Answer := s.act (Device.stepAbort h prog step)

/-- Bytes of a region's folds that lie in overflow: offset in OVERFLOW_OBJECT and length (R170). -/
def Region.overflowRanges (r : Region) : List (Nat × Nat) :=
  r.places.filterMap fun p => match p with
    | .overflow off => some (off, 4 * r.foldRows * r.foldCols)
    | .slot _ _ _ _ => none

/-- Overflow entries of regions written as zero. -/
def Device.zeroOverflow (d : Device) (p : Program) (rs : List Region) : Device :=
  match d.obj? p.stash.overflow with
  | none => d
  | some o =>
    (rs.flatMap Region.overflowRanges).foldl (fun d x =>
      d.updMem fun m => m.zero (o.base + x.1) x.2) d

/-- A region at zero. -/
def Region.clear (r : Region) : Region := { r with cells := [], step := none, additions := 0, held := [] }

/-- PROG_REWIND of a program that is not running (R145, R177). A change of layer scale that the next step brings has its rescale
to make again, on the state the host restored.
DESIGN CHOICE: both semaphore banks are cleared (R132, R145; log entry 157). -/
def Program.rewind (p : Program) (next : Nat) : Program :=
  { p with
    rescales := (p.rescales.filter fun r => r.2.1 == next).map fun r => (r.1, r.2.1, r.2.2.1, false)
    sigmaDue := p.sigmaDue.filter fun s => s + 1 == next
    state := .loaded, nextStep := next, baseVersion := next, versions := [], regions := p.regions.map Region.clear
    sems := [], semSaturated := [], tables := [], installedTable := none, verdicts := [], mismatched := [], lastRetired := none }

def Device.progRewind (h : CmdHdr) (prog : BitVec 8) (next : Word32) (d : Device) : Device :=
  d.command 0x0205 h fun c d =>
    d.withProgram c prog fun k p d =>
      if p.state = .running then d.finish c .busy
      else (((d.zeroOverflow p p.regions).dropMerges k).updProg k fun p => p.rewind next.toNat).ok c

def execProgRewind (h : CmdHdr) (prog : BitVec 8) (next : Word32) (s : State) : Answer := s.act (Device.progRewind h prog next)

/-! ### Descriptors, queries and signals -/

/-- The descriptor of a handle bound to another object. -/
def Desc.bind (x : Desc) (object : Word32) (off : Nat) : Desc := { x with object := object, offset := off }

/-- The new binding of a TRANSIENT descriptor lies in its object (R140). -/
def Device.bindOk (d : Device) (p : Program) (handle : Word16) (object : Word32) (off : Nat) : Bool :=
  (p.descs[handle.toNat]?).any fun x => x.cls == .transient
    && (d.obj? object).any fun o => decide ((x.bind object off).hi ≤ o.size)

def Device.descWrite (h : CmdHdr) (prog : BitVec 8) (handle : Word16) (object : Word32) (off : BitVec 48) (d : Device) : Device :=
  d.command 0x0206 h fun c d =>
    d.withProgramIf c prog (fun p => d.bindOk p handle object off.toNat) fun k _ d =>
      if !d.mayRead object h.account then d.finish c .notOwner
      else
        let x : Handle := handle.extractLsb' 0 12
        let d := d.updProg k fun p =>
          { p with stagedDescs := (x, object, off.toNat) :: p.stagedDescs.filter fun y => y.1 != x }
        (d.logEvent 0x0204 .info k.val 0 srcAdmission).ok c

def execDescWrite (h : CmdHdr) (prog : BitVec 8) (handle : Word16) (object : Word32) (offset : BitVec 48) (s : State) :
    Answer := s.act (Device.descWrite h prog handle object offset)

def ProgState.code : ProgState → Nat
  | .loaded => 1
  | .running => 2
  | .halted => 3

/-- A semaphore's value (R132). -/
def Program.semAt (p : Program) (bank sem : Nat) : Nat :=
  ((p.sems.find? fun x => x.1 == bank && x.2.1 == sem).map fun x => x.2.2).getD 0

def Device.progQuery (h : CmdHdr) (prog sem bank : BitVec 8) (d : Device) : Device :=
  d.command 0x0207 h fun c d =>
    if 1 < bank.toNat then d.finish c .badParam
    else d.withProgram c prog fun _ p d =>
      d.ok c (p.state.code + p.steps.length * 2 ^ 8 + p.semAt bank.toNat sem.toNat * 2 ^ 32)

def execProgQuery (h : CmdHdr) (prog sem bank : BitVec 8) (s : State) : Answer := s.act (Device.progQuery h prog sem bank)

/-- The largest value of a semaphore, at which it stays (R133). -/
def semMax : Nat := 0xFFFFFFFF

/-- An addition to a semaphore of a step's bank; SEM_SATURATED once per step for it (R133). -/
def Device.addSem (d : Device) (k : Fin 16) (step sem inc : Nat) : Device :=
  match d.progs[k] with
  | none => d
  | some p =>
    let bank := step % 2
    let v := min (p.semAt bank sem + inc) semMax
    let d := d.updProg k fun p =>
      { p with sems := (bank, sem, v) :: p.sems.filter fun x => !(x.1 == bank && x.2.1 == sem) }
    if v = semMax ∧ !p.semSaturated.contains (bank, sem) then
      (d.updProg k fun p => { p with semSaturated := (bank, sem) :: p.semSaturated }).logEvent 0x0203 .warn k.val 0 srcAdmission
    else d

def Device.semSignal (h : CmdHdr) (prog sem : BitVec 8) (inc : Word16) (step : Word32) (d : Device) : Device :=
  d.command 0x0208 h fun c d =>
    match asFin 16 prog.toNat with
    | none => d.finish c .badParam
    | some k =>
      match d.progs[k] with
      | none => d.finish c .badParam
      | some p =>
        if inc = 0 || (p.stepAt step.toNat).isNone || !p.hostSem.any (fun x => x.1 == sem.toNat) then d.finish c .badParam
        else if p.account ≠ h.account then d.finish c .notOwner
        else (d.addSem k step.toNat sem.toNat inc.toNat).ok c

def execSemSignal (h : CmdHdr) (prog sem : BitVec 8) (inc : Word16) (step : Word32) (s : State) : Answer :=
  s.act (Device.semSignal h prog sem inc step)

end Sys2Proof.Machine
end

