-- ==== Sys2Proof/Machine/RowFn.lean ====
section
/-! DEFINITION. The row-engine functions, correctly rounded to W32 (R83, R84), and cospi (R235). A function whose exact
value is irrational is computed in fixed point with 320 fraction bits and rounded once with a sticky bit below; the log
says why that precision decides every rounding (DEDUCED). -/

namespace Sys2Proof.Machine

/-- Fraction bits of the fixed-point values of this file. -/
def fxBits : Nat := 320

/-- ln 2, pi and 2 / sqrt pi, floored to 320 fraction bits. -/
def fxLn2 : Nat := 0xb17217f7d1cf79abc9e3b39803f2f6af40f343267298b62d8a0d175b8baafa2be7b876206debac98
def fxPi : Nat := 0x3243f6a8885a308d313198a2e03707344a4093822299f31d0082efa98ec4e6c89452821e638d01377
def fxTwoOverSqrtPi : Nat := 0x120dd750429b6d11ae3a914fed7fd8688281341d7587cea2e7342b06199cc416180eb39f0b24e1e22

/-- Product of two fixed-point numbers, floored. -/
def fxMul (a b : Int) : Int := (a * b).fdiv (pow2 fxBits)

/-- A number in fixed point, floored. -/
def fxOf (x : Dyad) : Int :=
  let k := x.e + fxBits
  if 0 ≤ k then x.m * pow2 k else x.m.fdiv (pow2 (-k))

/-- A positive fixed-point value of an irrational number as a dyadic number with a sticky bit below it. -/
def fxSticky (v : Int) : Dyad := ⟨2 * v + 1, -(fxBits : Int) - 1⟩

/-- `Σ t_n` of the exponential series, `t_(n+1) = t_n * x / (n + 1)`. -/
def fxExpAux (x : Int) : Nat → Nat → Int → Int → Int
  | 0, _, _, acc => acc
  | fuel + 1, n, t, acc => fxExpAux x fuel (n + 1) ((fxMul t x).fdiv (n + 1 : Nat)) (acc + t)

/-- `e^x` of a fixed-point `x` in [0, 1). -/
def fxExp (x : Int) : Int := fxExpAux x 80 0 (pow2 fxBits) 0

/-- `Σ z^(2n+1) / (2n+1)`. -/
def fxAtanhAux (z2 : Int) : Nat → Nat → Int → Int → Int
  | 0, _, _, acc => acc
  | fuel + 1, n, t, acc => fxAtanhAux z2 fuel (n + 2) (fxMul t z2) (acc + t.fdiv (n : Nat))

/-- `ln y` of a fixed-point `y` in [3/4, 3/2). -/
def fxLn (y : Int) : Int :=
  let one : Int := pow2 fxBits
  let z := ((y - one) * one).fdiv (y + one)
  2 * fxAtanhAux (fxMul z z) 80 1 z 0

/-- `Σ (-1)^n x^(2n) / (n! (2n + 1))`: the series of erf after its factor `2 x / sqrt pi`. -/
def fxErfAux (x2 : Int) : Nat → Nat → Int → Int → Int
  | 0, _, _, acc => acc
  | fuel + 1, n, t, acc =>
    fxErfAux x2 fuel (n + 1) (-((fxMul t x2).fdiv (n + 1 : Nat))) (acc + t.fdiv (2 * n + 1 : Nat))

/-- `Σ (-1)^n x^(2n) / (2n)!`: the cosine series. -/
def fxCosAux (x2 : Int) : Nat → Nat → Int → Int → Int
  | 0, _, _, acc => acc
  | fuel + 1, n, t, acc =>
    fxCosAux x2 fuel (n + 1) (-((fxMul t x2).fdiv ((2 * n + 1) * (2 * n + 2) : Nat))) (acc + t)

/-- A function result: the W32 word, and whether the table counts it as a saturation or an underflow (R83). -/
structure FnResult where
  word : Word32
  outcome : Outcome
deriving DecidableEq, Repr, Inhabited

def FnResult.ofExact (x : Dyad) : FnResult :=
  let (c, o) := Fmt.w32.round .rne x
  ⟨BitVec.ofNat 32 c, o⟩

def FnResult.sat (w : Word32) : FnResult := ⟨w, .saturated⟩

/-- `2^x` with a sticky bit, for a number that is no integer: `2^n * e^((x - n) ln 2)`. -/
def exp2Sticky (x : Dyad) : Dyad :=
  let v := fxOf x
  let n := v.fdiv (pow2 fxBits)
  let f := v - n * pow2 fxBits
  (fxSticky (fxExp (fxMul f fxLn2))).scale n

/-- exp2 (R83): 129 and above saturate; -151 and below round to zero. -/
def fnExp2 (w : Word32) : FnResult :=
  let x := ofW32 w
  if !(x.lt (Dyad.ofInt 129)) then .sat w32Largest
  else if x.lt (Dyad.ofInt (-151)) then ⟨0, .underflow⟩
  else
    let n := x.m.fdiv (pow2 (-x.e)) * pow2 x.e
    if ((Dyad.ofInt n).sub x).isZero then .ofExact ⟨1, n⟩
    else .ofExact (exp2Sticky x)

/-- log2 of a positive number (R83). -/
def log2Pos (x : Dyad) : Dyad :=
  let k := x.binade
  let one : Int := pow2 fxBits
  if x.m.natAbs = 2 ^ Nat.log2 x.m.natAbs then Dyad.ofInt k
  else
    let y := fxOf (x.scale (-k))
    let (y, k) := if 2 * y ≥ 3 * one then (y / 2, k + 1) else (y, k)
    let v := k * one + (fxLn y * one).fdiv fxLn2
    if v < 0 then (fxSticky (-v - 1)).neg else fxSticky v

/-- log2 (R83). -/
def fnLog2 (w : Word32) : FnResult :=
  let x := ofW32 w
  if x.m = 0 then .sat 0xFFFFFFFF
  else if x.m < 0 then .sat (toW32 (log2Pos x.abs))
  else .ofExact (log2Pos x)

/-- A quotient of two positive naturals times `2^e`, with at least 64 bits and a sticky bit. -/
def quotSticky (n d : Nat) (e : Int) : Dyad :=
  let s := 64 + Nat.log2 d + 1
  let q := n * 2 ^ s / d
  let r := n * 2 ^ s % d
  ⟨2 * q + (if r = 0 then 0 else 1), e - s - 1⟩

/-- reciprocal (R83). -/
def fnRecip (w : Word32) : FnResult :=
  let x := ofW32 w
  if x.m = 0 then .sat w32Largest
  else
    let q := quotSticky 1 x.m.natAbs (-x.e)
    .ofExact (if x.m < 0 then q.neg else q)

/-- The integer square root, bit by bit from bit `k` down. -/
def isqrtAux (n : Nat) : Nat → Nat → Nat
  | 0, r => if (r + 1) * (r + 1) ≤ n then r + 1 else r
  | k + 1, r => isqrtAux n k (if (r + 2 ^ (k + 1)) * (r + 2 ^ (k + 1)) ≤ n then r + 2 ^ (k + 1) else r)

def isqrt (n : Nat) : Nat := isqrtAux n (Nat.log2 n / 2 + 1) 0

/-- `1 / sqrt x` of a positive number with a sticky bit. -/
def rsqrtPos (x : Dyad) : Dyad :=
  -- x = m * 2^e with e even; 1 / sqrt x = sqrt (2^(2s) / m) * 2^(-e/2 - s)
  let (m, e) : Nat × Int := if x.e % 2 = 0 then (x.m.natAbs, x.e) else (2 * x.m.natAbs, x.e - 1)
  let s := 64 + Nat.log2 m
  let q := 2 ^ (2 * s) / m
  let r := isqrt q
  let exact : Bool := decide (r * r * m = 2 ^ (2 * s))
  ⟨2 * r + (if exact then 0 else 1), -e / 2 - s - 1⟩

/-- rsqrt (R83). -/
def fnRsqrt (w : Word32) : FnResult :=
  let x := ofW32 w
  if x.m = 0 then .sat w32Largest
  else if x.m < 0 then .sat (toW32 (rsqrtPos x.abs))
  else .ofExact (rsqrtPos x)

/-- tanh of a positive number below 9.1 and not below 2^-13: `(E - 1) / (E + 1)` with `E = e^(2x)`. -/
def tanhPos (x : Dyad) : Dyad :=
  let one : Int := pow2 fxBits
  let v := (2 * fxOf x * one).fdiv fxLn2
  let n := v.fdiv one
  let f := v - n * one
  let e := fxExp (fxMul f fxLn2) * pow2 n
  fxSticky (((e - one) * one).fdiv (e + one))

/-- tanh (R83): odd; plus or minus one from 9.1; below 2^-13 the nearest W32 value is x itself. -/
def fnTanh (w : Word32) : FnResult :=
  let x := ofW32 w
  let neg := decide (x.m < 0)
  let a := x.abs
  if x.m = 0 then ⟨0, .zero⟩
  else
    let y : Dyad :=
      if !((Dyad.mul (Dyad.ofInt 10) a).lt (Dyad.ofInt 91)) then Dyad.ofInt 1
      else if a.lt ⟨1, -13⟩ then a
      else tanhPos a
    .ofExact (if neg then y.neg else y)

/-- erf of a positive number below 3.92: `x * (2 / sqrt pi) * series`. -/
def erfPos (x : Dyad) : Dyad :=
  let x2 := fxOf (x.mul x)
  let s := fxErfAux x2 160 0 (pow2 fxBits) 0
  let c := fxMul s fxTwoOverSqrtPi
  let p := x.m * c
  ⟨2 * p + 1, x.e - fxBits - 1⟩

/-- erf (R83): odd; plus or minus one from 3.92. -/
def fnErf (w : Word32) : FnResult :=
  let x := ofW32 w
  let neg := decide (x.m < 0)
  let a := x.abs
  if x.m = 0 then ⟨0, .zero⟩
  else
    let y : Dyad :=
      if !((Dyad.mul (Dyad.ofInt 100) a).lt (Dyad.ofInt 392)) then Dyad.ofInt 1 else erfPos a
    .ofExact (if neg then y.neg else y)

/-- cos (pi x) (R235), correctly rounded: x is reduced modulo 2, then to a first-quadrant angle. -/
def fnCospi (w : Word32) : FnResult :=
  let x := (ofW32 w).abs
  -- x modulo 2 in fixed point is exact for the fraction bits that matter: a W32 value has at most 149
  let one : Int := pow2 fxBits
  let v := (fxOf x).emod (2 * one)
  let v := if v > one then 2 * one - v else v
  -- cos (pi v) for v in [0, 1]: negative above one half
  let neg := decide (2 * v > one)
  let u := if neg then one - v else v
  if 2 * u = one then ⟨0, .zero⟩
  else if u = 0 then .ofExact (Dyad.ofInt (if neg then -1 else 1))
  else if 3 * u = one then .ofExact ⟨if neg then -1 else 1, -1⟩
  else
    let t := fxMul u fxPi
    let c := fxCosAux (fxMul t t) 80 0 one 0
    let y := fxSticky c
    .ofExact (if neg then y.neg else y)

end Sys2Proof.Machine
end

