-- ==== Sys2Proof/Machine/RowCalc.lean ====
section
/-! DEFINITION. What the stream instructions compute: products (R60, R63, R96, R98), riser operations (R93), elementwise
functions (R126), reductions (R127), row statistics and their backward (R165-R168). -/

namespace Sys2Proof.Machine

/-- A matrix of W32 words, rows of columns. -/
abbrev WMatrix := List (List Word32)

/-- The exact values of W32 words. -/
def WMatrix.values (m : WMatrix) : Matrix := m.map fun r => r.map ofW32

/-- Exact values of a matrix as W32 words. -/
def Matrix.words (m : Matrix) : WMatrix := m.map fun r => r.map toW32

/-- Exact products of two rows of values. -/
def products (a b : List Dyad) : List Dyad := (a.zip b).map fun (x, y) => x.mul y

/-- A matrix of traced W32 values, rows of columns. -/
abbrev TMatrix := List (List Traced)

/-- A matrix of words with no history, and the words of a traced one. -/
def WMatrix.traced (m : WMatrix) : TMatrix := m.map fun r => r.map plain
def TMatrix.words (m : TMatrix) : WMatrix := m.map fun r => r.map Traced.word

/-- The product of rows and columns, each sum canonical and started at an addend (R60). -/
def matProduct (rows cols : Matrix) (start : Nat → Nat → Traced) : TMatrix :=
  rows.mapIdx fun m r => cols.mapIdx fun n c => canonTotal (start m n) (products r c)

/-- A function of one value with its history; what the function counts of its value is part of it (R83). -/
def tFn (f : Word32 → FnResult) (a : Traced) : Traced :=
  let r := f a.word
  { word := r.word, sat := a.sat || r.outcome == .saturated, under := a.under || r.outcome == .underflow }

/-- A riser operation (R93): 0 none, 1 RELU, 2 SCALE by RIMM, 3 CHAIN. -/
def riserOp (rop : BitVec 4) (rimm : Word16) (w : Traced) : Traced :=
  if rop = 1 then tMax w (plain 0) else if rop = 2 then tMul w (plain (z16ToW32 rimm)) else w

/-- GELU (R126): each step rounded in W32; the constant is the nearest W32 value to one over the square root of two. -/
def geluOf (a : Traced) : Traced :=
  let e := tFn fnErf (tMul a (plain 0x3F3504F3))
  tMul (tMul a (tAdd (plain 0x3F800000) e)) (plain 0x3F000000)

/-- One element of a TEW (R126). -/
def tewElem (fn : BitVec 6) (imm : Word16) (a b : Traced) : Traced :=
  match fn.toNat with
  | 0x01 => tAdd a b
  | 0x02 => tSub a b
  | 0x03 => tMul a b
  | 0x04 => tMax a b
  | 0x05 => tMin a b
  | 0x06 => if 0 < a.value.m then b else plain 0
  | 0x07 => tAdd a (plain (z16ToW32 imm))
  | 0x08 => tMul a (plain (z16ToW32 imm))
  | 0x09 => tMax a (plain 0)
  | 0x0A => tFn fnExp2 a
  | 0x0B => tFn fnLog2 a
  | 0x0C => tFn fnRecip a
  | 0x0D => tFn fnRsqrt a
  | 0x0E => tFn fnTanh a
  | 0x0F => tFn fnErf a
  | 0x10 => geluOf a
  | 0x11 => tMul a a
  | _ => a

/-- A TEW over a matrix; `b` has as many rows, or one row broadcast to all. -/
def tewAll (fn : BitVec 6) (imm : Word16) (a b : TMatrix) : TMatrix :=
  a.mapIdx fun r xs =>
    let ys := if b.length = 1 then b.headD [] else b.getD r []
    xs.mapIdx fun c x => tewElem fn imm x (ys.getD c (plain 0))

/-- The canonical sum of W32 values in order. -/
def rowSum (xs : List Traced) : Traced := tSum (xs.map Traced.value) xs

/-- The canonical sum of exact products of W32 values. -/
def dotSum (xs ys : List Traced) : Traced := tSum (products (xs.map Traced.value) (ys.map Traced.value)) (xs ++ ys)

/-- The largest of a row (exact and order-free, R84). -/
def rowMax : List Traced → Traced
  | [] => plain 0
  | x :: r => r.foldl tMax x

/-- A natural number as a W32 word. -/
def w32OfNat (n : Nat) : Word32 := toW32 (Dyad.ofInt n)

/-- `2^(e - 127)` as a W32 word: the epsilon of an EPSE field (R122). -/
def epsWord (e : BitVec 8) : Word32 := toW32 ⟨1, (e.toNat : Int) - 127⟩

/-! ### Normalisation (R165, R166) -/

/-- The reciprocal of a row's length. -/
def recipLength (x : List Traced) : Traced := tFn fnRecip (plain (w32OfNat x.length))

/-- A row normalised: the outputs, mu and r. -/
def tnormRow (eps : Word32) (x g : List Traced) : List Traced × Word32 × Word32 :=
  let rn := recipLength x
  let mu := tMul (rowSum x) rn
  let d := x.map fun v => tSub v mu
  let var := tMul (dotSum d d) rn
  let r := tFn fnRsqrt (tAdd var (plain eps))
  (d.zipWith (fun v k => tMul (tMul v r) k) g, mu.word, r.word)

/-- The input gradient of a row, and the normalised row. -/
def tnormbRow (x dy g : List Traced) (mu r : Word32) : List Traced × List Traced :=
  let rn := recipLength x
  let xh := x.map fun v => tMul (tSub v (plain mu)) (plain r)
  let gy := dy.zipWith tMul g
  let a := tMul (rowSum gy) rn
  let b := tMul (dotSum gy xh) rn
  (gy.zipWith (fun u v => tMul (tSub (tSub u a) (tMul v b)) (plain r)) xh, xh)

/-- Column sums of the exact products of two matrices, in increasing row order. -/
def columnDots (a b : WMatrix) (n : Nat) : List Word32 :=
  (List.range n).map fun c => canonSum ((a.zip b).map fun (x, y) => (ofW32 (x.getD c 0)).mul (ofW32 (y.getD c 0)))

/-! ### Soft-maximum (R167, R168) -/

/-- log2 e in W32 (R84). -/
def log2e : Word32 := 0x3FB8AA3B

/-- `exp2((x - m) × log2 e)` (R84). -/
def smaxTerm (m x : Traced) : Traced := tFn fnExp2 (tMul (tSub x m) (plain log2e))

/-- The exponentials of a row under a scale and its maximum. -/
def smaxTerms (scale : Word16) (x : List Traced) (m : Traced) : List Traced :=
  x.map fun v => smaxTerm m (tMul v (plain (z16ToW32 scale)))

/-- A soft-maximum row: the outputs, m and s. -/
def tsmaxRow (scale : Word16) (x : List Traced) : List Traced × Word32 × Word32 :=
  let m := rowMax (x.map fun v => tMul v (plain (z16ToW32 scale)))
  let e := smaxTerms scale x m
  let s := rowSum e
  let q := tFn fnRecip s
  (e.map fun v => tMul v q, m.word, s.word)

/-- The input gradient of a soft-maximum row from its record. -/
def tsmaxbRow (scale : Word16) (x dy : List Traced) (m s : Word32) : List Traced :=
  let q := tFn fnRecip (plain s)
  let y := (smaxTerms scale x (plain m)).map fun v => tMul v q
  let c := dotSum dy y
  dy.zipWith (fun u v => tMul (tMul (tSub u c) v) (plain (z16ToW32 scale))) y

/-! ### Reductions (R127) -/

/-- Column `c` of a matrix. -/
def TMatrix.column (a : TMatrix) (c : Nat) : List Traced := a.map fun r => r.getD c (plain 0)

/-- A TRED of kinds 0 to 3: the matrix it writes. -/
def tredRows (md : BitVec 3) (a : TMatrix) (n : Nat) : TMatrix :=
  if md = 1 then [(List.range n).map fun c => rowSum (a.column c)]
  else if md = 2 then a.map fun r => [rowMax r]
  else if md = 3 then a.map fun r => [dotSum r r]
  else a.map fun r => [rowSum r]

/-- A TRED of kind 4: one sum for each column. -/
def tredColumns (a : WMatrix) (n : Nat) : List Word32 :=
  (List.range n).map fun c => canonSum (a.map fun r => ofW32 (r.getD c 0))

end Sys2Proof.Machine
end

