-- ==== Sys2Proof/Machine/RuleCalc.lean ====
section
/-! DEFINITION. The Almanac's schedule (R234, R235), the step constants (R225), the update rules (R226, R227) and the refresh of
PRE roots (R231), on W32 words. -/

namespace Sys2Proof.Machine

/-! ### Constants -/

def w32One : Word32 := 0x3F800000
def w32Half : Word32 := 0x3F000000
def w32Quarter : Word32 := 0x3E800000
def w32Five : Word32 := 0x40A00000
/-- 1/128. -/
def w32Mean : Word32 := 0x3C000000

/-- float(): an integer rounded to the nearest W32 value. -/
def w32Float (n : Int) : Word32 := toW32 (Dyad.ofInt n)

def wRecip (w : Word32) : Word32 := (fnRecip w).word
def wRsqrt (w : Word32) : Word32 := (fnRsqrt w).word
def wExp2 (w : Word32) : Word32 := (fnExp2 w).word
def wLog2 (w : Word32) : Word32 := (fnLog2 w).word
def wCospi (w : Word32) : Word32 := (fnCospi w).word

/-- An exact multiplication by `2^k`, saturated (R71). -/
def w32Scale (w : Word32) (k : Int) : Word32 := toW32 ((ofW32 w).scale k)

/-! ### The Almanac -/

/-- `while tau >= p: tau = tau - p; p = p * T_MULT`. -/
def restarts (mult : Nat) : Nat → Nat → Nat → Nat × Nat
  | 0, tau, p => (tau, p)
  | fuel + 1, tau, p => if p ≤ tau then restarts mult fuel (tau - p) (p * mult) else (tau, p)

/-- The decay part of *Schedule* at `tau` steps after the warm-up. -/
def Schedule.decay (a : Schedule) (tau : Nat) : Word32 :=
  let span := w32Sub a.baseLr a.minLr
  let part (n m : Nat) : Word32 := w32Mul (w32Float n) (wRecip (w32Float m))
  let cosine (x : Word32) : Word32 := w32Add a.minLr (w32Mul span (w32Mul w32Half (w32Add w32One (wCospi x))))
  let n := a.decaySteps
  match a.decayKind.toNat with
  | 0 => a.baseLr
  | 1 => w32Add a.minLr (w32Mul span (w32Max 0 (w32Sub w32One (part (min tau n) n))))
  | 2 => cosine (part (min tau n) n)
  | 3 => w32Mul a.baseLr (wRsqrt (w32Add w32One (part tau n)))
  | 4 => w32Mul a.baseLr (wExp2 (w32Mul (w32Float (tau / n)) (wLog2 a.gamma)))
  | _ =>
    let (t, p) := if a.tMult ≤ 1 then (tau % n, n) else restarts a.tMult 64 tau n
    cosine (part t p)

/-- The learning rate of a step (R234). -/
def Schedule.lr (a : Schedule) (s : Nat) : Word32 :=
  if s < a.schedStart then 0
  else
    let t := s - a.schedStart
    let wu := if a.warmupKind = 0 then 0 else a.warmupSteps
    if t < wu then
      let x := w32Mul (w32Float (t + 1)) (wRecip (w32Float wu))
      if a.warmupKind = 1 then w32Mul a.baseLr x
      else w32Mul a.baseLr (w32Mul w32Half (w32Sub w32One (wCospi x)))
    else a.decay (t - wu)

/-! ### Step constants (R225) -/

/-- The constants of a tensor in a step. -/
structure StepConsts where
  eta : Word32
  etak : Word32
  etawd : Word32
  eps : Word32
  beta1 : Word32
  beta2 : Word32
  b1c : Word32
  b2c : Word32
  c1 : Word32
  c2 : Word32
deriving DecidableEq, Repr, Inhabited

/-- `reciprocal(1 - exp2(float(n) * log2(beta)))`. -/
def biasCorrection (n : Int) (beta : Word32) : Word32 :=
  wRecip (w32Sub w32One (wExp2 (w32Mul (w32Float n) (wLog2 beta))))

/-- The constants from the rate, the tensor's override and its layer scale. -/
def RuleSet.consts (r : RuleSet) (lr : Word32) (wdEn : Bool) (lrMult : Word16) (sigma : Int) (s : Nat) : StepConsts :=
  let eta := w32Mul lr (z16ToW32 lrMult)
  let b1 := z16ToW32 r.beta1
  let b2 := z16ToW32 r.beta2
  let n : Int := (s : Int) + 1 - (r.ruleStart.toNat : Int)
  { eta := eta
    etak := w32Mul eta (toW32 ⟨1, -sigma⟩)
    etawd := w32Mul eta (if wdEn then z16ToW32 r.weightDecay else 0)
    eps := w32Scale (z16ToW32 r.eps) (2 * sigma)
    beta1 := b1, beta2 := b2, b1c := w32Sub w32One b1, b2c := w32Sub w32One b2
    c1 := biasCorrection n b1, c2 := biasCorrection n b2 }

/-! ### Rules (R226) -/

/-- A W32 value times a step constant. -/
def tScale (c : Word32) (x : Traced) : Traced := tMul (plain c) x

/-- `beta * old + c * new`. -/
def decayed (beta c : Word32) (old new : Traced) : Traced := tAdd (tScale beta old) (tScale c new)

/-- `(w - rate * u) - etawd * w`. -/
def StepConsts.step (k : StepConsts) (rate : Word32) (u w : Traced) : Traced :=
  tSub (tSub w (tScale rate u)) (tScale k.etawd w)

/-- Momentum of MOM and PRE: `beta1 * m + gs`. -/
def StepConsts.momentum (k : StepConsts) (m gs : Traced) : Traced := tAdd (tScale k.beta1 m) gs

/-- First moment of ADM and FAC: `beta1 * m + b1c * gs`. -/
def StepConsts.moment (k : StepConsts) (m gs : Traced) : Traced := decayed k.beta1 k.b1c m gs

/-- The second moment of ADM from the unclipped gradient. -/
def StepConsts.second (k : StepConsts) (v g : Traced) : Traced := decayed k.beta2 k.b2c v (tMul g g)

/-- The weight of ADM. -/
def StepConsts.admWeight (k : StepConsts) (m1 v1 w : Traced) : Traced :=
  k.step k.eta (tMul (tScale k.c1 m1) (tFn fnRsqrt (tAdd (tScale k.c2 v1) (plain k.eps)))) w

/-- Exact squares of a list of values. -/
def squares (g : List Dyad) : List Dyad := g.map fun x => x.mul x

/-- A statistic of FAC: the old one decayed and the mean of 128 exact squares added. -/
def StepConsts.facStat (k : StepConsts) (old : Traced) (g : List Dyad) : Traced :=
  decayed k.beta2 k.b2c old (tScale w32Mean (tSum (squares g) []))

/-- `reciprocal(max(mean r1, eps_s))` of FAC. -/
def StepConsts.facInv (k : StepConsts) (r1 : List Dyad) : Traced :=
  tFn fnRecip (tMax (tScale w32Mean (tSum r1 [])) (plain k.eps))

/-- The weight of FAC at row statistic `r` and column statistic `c`. -/
def StepConsts.facWeight (k : StepConsts) (ir m1 r c w : Traced) : Traced :=
  k.step k.eta (tMul m1 (tFn fnRsqrt (tAdd (tMul (tMul r c) ir) (plain k.eps)))) w

/-! ### Matrices of a PRE block -/

/-- Side of a rule block. -/
def blockSide : Nat := 128
def blockElems : Nat := 16384

/-- A list of block values as rows of 128. -/
def squareOf (vs : List Word32) : WMatrix := chunksOf blockSide (vs.length + 1) vs

/-- A product of two 128 × 128 operands (R226). -/
def squareMul (a b : WMatrix) : TMatrix := matProduct a.values (b.values.columns blockSide) fun _ _ => plain 0

def squareTranspose (a : WMatrix) : WMatrix := (List.range blockSide).map fun c => a.map fun r => r.getD c 0

/-- An entry of a matrix. -/
def WMatrix.entry (a : WMatrix) (i j : Nat) : Word32 := (a.getD i []).getD j 0

/-- Statistics of PRE: the old matrix decayed and a Gram product added. -/
def StepConsts.preStat (k : StepConsts) (old : WMatrix) (gram : TMatrix) : TMatrix :=
  (old.zip gram).map fun (x, y) => (x.zip y).map fun (a, b) => decayed k.beta2 k.b2c (plain a) b

/-! ### Root refresh (R231) -/

/-- Each entry formed by one function of its place. -/
def squareFrom (f : Nat → Nat → Word32) : WMatrix :=
  (List.range blockSide).map fun i => (List.range blockSide).map fun j => f i j

def squareMap (f : Word32 → Word32) (a : WMatrix) : WMatrix := a.map fun r => r.map f

/-- A damped by `x` on its diagonal. -/
def damped (a : WMatrix) (x : Word32) : WMatrix :=
  a.mapIdx fun i r => r.mapIdx fun j w => if i = j then w32Add w x else w

/-- The computed entries of a row up to column `n` of a factor held as columns. -/
def factorRow (cols : List (List Word32)) (i n : Nat) : List Word32 := (cols.take n).map fun c => c.getD i 0

/-- Column `j` of the Cholesky factor after the columns before it, none at a pivot of zero or below. Entry (i, j) is
`(A[i][j] - canon_sum of the products of rows i and j) * rsqrt d` (log entry 27). -/
def choleskyColumn (a : WMatrix) (cols : List (List Word32)) (j : Nat) : Option (List Word32) :=
  let row (i : Nat) : List Dyad := (factorRow cols i j).map ofW32
  let rest (i : Nat) : Word32 := w32Sub (a.entry i j) (canonSum (products (row i) (row j)))
  let d := rest j
  if (ofW32 d).m ≤ 0 then none
  else
    let r := wRsqrt d
    some ((List.range blockSide).map fun i => if i < j then 0 else w32Mul (rest i) r)

/-- Every pivot is positive, the factorisation running column by column. -/
def choleskyFrom (a : WMatrix) : Nat → List (List Word32) → Bool
  | 0, _ => true
  | n + 1, cols =>
    match choleskyColumn a cols (blockSide - (n + 1)) with
    | none => false
    | some c => choleskyFrom a n (cols ++ [c])

def choleskyPasses (a : WMatrix) : Bool := choleskyFrom a blockSide []

/-- One of the 12 iterations. -/
def rootIteration (xm : WMatrix × WMatrix) : WMatrix × WMatrix :=
  let (x, m) := xm
  let t := m.mapIdx fun i r => r.mapIdx fun j w => w32Mul (w32Sub (if i = j then w32Five else 0) w) w32Quarter
  let t2 := (squareMul t t).words
  ((squareMul x t).words, (squareMul (squareMul t2 t2).words m).words)

/-- `n` iterations. -/
def rootIterate : Nat → WMatrix × WMatrix → WMatrix × WMatrix
  | 0, xm => xm
  | n + 1, xm => rootIterate n (rootIteration xm)

/-- The inverse fourth root of a damped matrix. -/
def fourthRoot (a : WMatrix) : WMatrix :=
  let tr := canonSum ((List.range blockSide).map fun i => ofW32 (a.entry i i))
  let x0 := wRsqrt (wRsqrt tr)
  let start : WMatrix := squareFrom fun i j => if i = j then x0 else 0
  let scaled := squareMap (fun w => w32Mul w (wRecip tr)) a
  (rootIterate 12 (start, scaled)).1

/-- At most three attempts, with damping `eps_s`, `10 eps_s` and `100 eps_s`; none when every one fails. -/
def refreshRoot (a0 : WMatrix) (eps : Word32) : Option WMatrix :=
  let tries : List Word32 := [eps, w32Mul (w32Float 10) eps, w32Mul (w32Float 100) eps]
  ((tries.map fun x => damped a0 x).find? choleskyPasses).map fourthRoot

end Sys2Proof.Machine
end

