-- ==== Sys2Proof/Machine/GradPlan.lean ====
section
/-! DEFINITION. The bucket plan, shards and wire blocks of gradient exchange (R184-R198), rule ownership and the layout of the
state object (R217, R228, R229), and the scale table's image (R200). -/

namespace Sys2Proof.Machine

/-! ### Buckets and shards (R184, R185, R190) -/

/-- A bucket of the plan: its id, the release ordinal of its tensor, and its elements. -/
structure PlanBucket where
  id : Nat
  ord : Nat
  first : Nat
  length : Nat
deriving DecidableEq, Repr, Inhabited

/-- Elements of a bucket. -/
def Program.bucketElems (p : Program) : Nat := p.gx.bucketMib * 262144

/-- A FROZEN tensor without NORM_INCLUDE has no bucket (R175, R183). -/
def Desc.bucketed (x : Desc) : Bool := !x.frozen || x.normInclude

/-- The buckets of a tensor's elements: first element and length. -/
def cutBuckets (n k : Nat) : List (Nat × Nat) :=
  (List.range (ceilDiv n (max 1 k))).map fun j => (j * k, min k (n - j * k))

/-- The bucket plan of a program. -/
def Program.bucketPlan (p : Program) : List PlanBucket :=
  let raw := (p.releasedDescs.mapIdx fun o x =>
    if x.bucketed then (cutBuckets x.elems p.bucketElems).map fun b => (o, b) else []).flatten
  raw.mapIdx fun id b => { id := id, ord := b.1, first := b.2.1, length := b.2.2 }

/-- Blocks of 256 elements of a bucket of a length. -/
def blocksOf (len : Nat) : Nat := ceilDiv len 256

/-- First block and number of blocks of shard `i` of `g`, of a bucket of `p` blocks. -/
def shardStart (p g i : Nat) : Nat := i * (p / g) + min i (p % g)
def shardCount (p g i : Nat) : Nat := p / g + (if i < p % g then 1 else 0)

/-- The shard that holds a block. -/
def shardAt (p g blk : Nat) : Nat := ((List.range g).find? fun i => decide (blk < shardStart p g i + shardCount p g i)).getD 0

/-- The flat index of the owner of shard `i` of bucket `id`. -/
def shardOwner (g i id : Nat) : Nat := (i + id) % g

/-- The shard of bucket `id` that the member of flat index `f` owns. -/
def ownedShard (g f id : Nat) : Nat := (f + g - id % g) % g

/-- Elements of a shard of a bucket: first element of the tensor and length, the padding left out. -/
def PlanBucket.shardElems (b : PlanBucket) (g i : Nat) : Nat × Nat :=
  let lo := 256 * shardStart (blocksOf b.length) g i
  (b.first + lo, min (256 * shardCount (blocksOf b.length) g i) (b.length - lo))

/-- The owner of an element of a tensor. -/
def Program.elementOwner (p : Program) (g ord e : Nat) : Nat :=
  match p.bucketPlan.find? fun b => b.ord == ord && decide (b.first ≤ e ∧ e < b.first + b.length) with
  | none => 0
  | some b => shardOwner g (shardAt (blocksOf b.length) g ((e - b.first) / 256)) b.id

/-! ### Wire blocks (R194-R198) -/

/-- The wire mode of a tensor. -/
def GxConfig.wireOf (c : GxConfig) (tensor : Word32) : Wire :=
  ((c.overrides.find? fun o => o.1 == tensor).map Prod.snd).getD c.defaultWire

/-- The MODE field of a hop header. -/
def Wire.code : Wire → Nat
  | .w32 => 0
  | .b8 => 1
  | .s1 => 2

/-- Bytes of a block under a MODE. -/
def blockBytes (mode : Nat) : Nat := if mode = 0 then 1024 else if mode = 1 then 256 else if mode = 2 then 34 else 512

/-- Values padded with zeros to `n`. -/
def padTo (n : Nat) (ws : List Word32) : List Word32 := ws ++ List.replicate (n - ws.length) 0

def w32Bytes (ws : List Word32) : List Byte := ws.flatMap fun w => bytesOf 4 w.toNat

/-- `k`-byte little-endian numbers of a list of bytes. -/
def numbersOf (k : Nat) (bs : List Byte) : List Nat := (chunksOf k (bs.length + 1) bs).map ofBytes

/-- The sign byte of a chunk of up to eight signs, bit i the sign of element i. -/
def signsToByte (ss : List Bool) : Byte := BitVec.ofNat 8 (sumOf (fun x => if x.1 then 2 ^ x.2 else 0) (ss.mapIdx fun i b => (b, i)))

/-- An S1 block of 256 values: its 34 bytes (R58, R59). -/
def s1Block (ws : List Word32) : List Byte :=
  let (ss, m) := s1Encode ws
  (chunksOf 8 (ss.length + 1) ss).map signsToByte ++ bytesOf 2 m.toNat

/-- The values of an S1 block. -/
def s1Values (bs : List Byte) : List Word32 :=
  let m := BitVec.ofNat 16 (ofBytes (bs.drop 32))
  (List.range 256).map fun n => toW32 (s1Decode ((bs.getD (n / 8) 0).getLsbD (n % 8)) m)

/-- The values carried under a MODE; B8 at an exponent code (R56, R58). -/
def decodeHop (mode : Nat) (c : BitVec 8) (bs : List Byte) : List Word32 :=
  if mode = 0 then (numbersOf 4 bs).map (BitVec.ofNat 32)
  else if mode = 1 then bs.map fun q => toW32 (b8Decode c q)
  else (chunksOf 34 (bs.length + 1) bs).flatMap s1Values

/-- Values encoded in B8 for a hop: bytes, and how many saturated (R57, R195). `first` is the element index within the bucket. -/
def encodeB8 (seed : Word64) (c : BitVec 8) (step id hop first : Nat) (ws : List Word32) : List Byte × Nat :=
  let qs := ws.mapIdx fun i w =>
    b8Encode c (draw seed (.b8Hop hop) (BitVec.ofNat 32 id) (first + i) (BitVec.ofNat 32 step)) w
  (qs.map Prod.fst, (qs.filter Prod.snd).length)

/-- A hop header (R198). -/
def hopHeader (step id hop mode seg root first count sender : Nat) : List Byte :=
  bytesOf 4 step ++ bytesOf 4 id ++ bytesOf 2 hop ++ bytesOf 1 mode ++ bytesOf 1 0 ++ bytesOf 2 seg ++ bytesOf 2 root
    ++ bytesOf 4 first ++ bytesOf 4 count ++ bytesOf 2 sender ++ bytesOf 6 0

/-- The 32 bytes before the values of a multicast range: VERSION, TENSOR_ID and first element; byte 11, reserved in a hop header, is 1
(R232; the layout is the model's, log entry 17). -/
def rangeHeader (tensor version first : Nat) : List Byte :=
  bytesOf 4 version ++ bytesOf 4 tensor ++ bytesOf 3 0 ++ bytesOf 1 1 ++ bytesOf 8 first ++ bytesOf 12 0

/-! ### Scale agreement (R199, R200) -/

def entryFlag (e : Word16) : Bool := e.getLsbD 15
def entryNone (e : Word16) : Bool := e.getLsbD 14

/-- E_MAX of a report entry. -/
def entryMax (e : Word16) : Int := (e.extractLsb' 0 9).toInt

/-- A report entry. -/
def reportEntry (flag : Bool) (m : Option Int) : Word16 :=
  let f : Word16 := if flag then 0x8000 else 0
  f ||| (match m with | none => 0x4000 | some x => (BitVec.ofInt 9 x).setWidth 16)

/-- Two report entries merged. -/
def mergeEntry (a b : Word16) : Word16 :=
  let m := if entryNone a then (if entryNone b then none else some (entryMax b))
           else if entryNone b then some (entryMax a) else some (max (entryMax a) (entryMax b))
  reportEntry (entryFlag a || entryFlag b) m

/-- `⌈log2 n⌉`. -/
def clog2 (n : Nat) : Nat := if n ≤ 1 then 0 else Nat.log2 (n - 1) + 1

/-- A scale-table entry from the merged report of a group of `g`. -/
def tableEntry (g : Nat) (e : Word16) : Word16 :=
  if entryFlag e || entryNone e then 0x8000
  else BitVec.ofNat 16 (min 255 (entryMax e + clog2 g + 129).toNat)

/-- An entry of NONE. -/
def ScaleTable.isNone (t : ScaleTable) (ord : Nat) : Bool := (t.entries.getD ord 0x8000).getLsbD 15

/-- The exponent code of an entry. -/
def ScaleTable.code (t : ScaleTable) (ord : Nat) : BitVec 8 := (t.entries.getD ord 0).extractLsb' 0 8

/-- The image of a table (R200). -/
def ScaleTable.image (t : ScaleTable) : List Byte :=
  bytesOf 4 t.step ++ bytesOf 2 t.entries.length ++ List.replicate 10 0 ++ t.entries.flatMap fun e => bytesOf 2 e.toNat

/-- The table of NONE for every released tensor. -/
def Program.coldTable (p : Program) (s : Nat) : ScaleTable := { step := s, entries := List.replicate p.releasedDescs.length 0x8000 }

/-! ### Rules and ownership (R217, R225, R237) -/

/-- The rule of a tensor, with WD_EN and LR_MULT. -/
def RuleSet.ruleOf (r : RuleSet) (tensor : Word32) : RuleOverride :=
  (r.overrides.find? fun o => o.tensor == tensor).getD { tensor := tensor, rule := r.default, wdEn := true, lrMult := 0x3F80 }

/-- The rule of a tensor of a program; a FROZEN tensor is never updated (R233). -/
def Program.ruleOf (p : Program) (x : Desc) : Rule :=
  if x.frozen then .none else ((p.rules.map fun r => (r.ruleOf x.tensor).rule).getD .none)

/-- FAC and PRE act on rule blocks. -/
def Rule.blocked : Rule → Bool
  | .fac => true
  | .pre => true
  | _ => false

/-- Runs of elements a member rule-owns of a tensor under a rule, increasing: index, first element and length. Under FAC and PRE a run
is a rule block with its number as index; otherwise it is the owned shard of a bucket. -/
def Program.runsUnder (p : Program) (rule : Rule) (g f ord : Nat) (x : Desc) : List (Nat × Nat × Nat) :=
  if rule.blocked then
    ((cutBuckets x.elems blockElems).mapIdx fun k b => (k, b)).filter fun r => p.elementOwner g ord r.2.1 == f
  else
    (((p.bucketPlan.filter fun b => b.ord == ord).map fun b => b.shardElems g (ownedShard g f b.id)).filter fun e =>
      decide (0 < e.2)).map fun e => (e.1, e)

/-- Runs of a tensor under its own rule. DESIGN CHOICE: R217 names no owner of the elements of a NONE tensor; the shard's owner is taken
(log entry 152). -/
def Program.ruleRuns (p : Program) (g f ord : Nat) (x : Desc) : List (Nat × Nat × Nat) := p.runsUnder (p.ruleOf x) g f ord x

/-- Elements of runs. -/
def runElems (rs : List (Nat × Nat × Nat)) : Nat := sumOf (fun r => r.2.2) rs

/-- The place among runs of the run with an index: its ordinal and the elements before it. -/
def runPlace (rs : List (Nat × Nat × Nat)) (index : Nat) : Nat × Nat :=
  let before := rs.takeWhile fun r => decide (r.1 < index)
  (before.length, runElems before)

/-! ### State arrays (R228, R229) -/

/-- State arrays of a tensor in their order. -/
inductive StateArr where
  | m | v | r | c | lstat | rstat | lroot | rroot | record
deriving DecidableEq, Repr, Inhabited

def Rule.arrays : Rule → List StateArr
  | .mom => [.m]
  | .adm => [.m, .v]
  | .fac => [.m, .r, .c]
  | .pre => [.m, .lstat, .rstat, .lroot, .rroot, .record]
  | .none => []

/-- Bytes of an array over a member's runs. -/
def StateArr.bytes (a : StateArr) (rs : List (Nat × Nat × Nat)) : Nat :=
  match a with
  | .m => 2 * runElems rs
  | .v => 2 * runElems rs
  | .r => 256 * rs.length
  | .c => 256 * rs.length
  | .record => 4 * rs.length
  | _ => 32768 * rs.length

/-- Where the part of one run begins in its array. -/
def StateArr.within (a : StateArr) (place : Nat × Nat) : Nat :=
  match a with
  | .m => 2 * place.2
  | .v => 2 * place.2
  | .r => 256 * place.1
  | .c => 256 * place.1
  | .record => 4 * place.1
  | _ => 32768 * place.1

/-- The power n of *rescale* (R74), doubled: state times 2^(nΔ); none for the block record. -/
def StateArr.power : StateArr → Option Int
  | .m => some 2
  | .lroot => some (-1)
  | .rroot => some (-1)
  | .record => none
  | _ => some 4

/-- Start of the draw index of a block's part of an array (*State arrays and counters*). -/
def StateArr.drawBase (a : StateArr) (k : Nat) : Nat :=
  match a with
  | .r => 256 * k
  | .c => 256 * k + 128
  | .lstat => 65536 * k
  | .rstat => 65536 * k + 16384
  | .lroot => 65536 * k + 32768
  | .rroot => 65536 * k + 49152
  | _ => 0

/-- The dither use of an array. -/
def StateArr.use : StateArr → DitherUse
  | .m => .firstMoment
  | _ => .secondMoment

/-- Bytes to the next 2 KiB boundary. -/
def align2K (n : Nat) : Nat := roundUp n 2048

/-- State arrays of every released tensor with their offsets in STATE_OBJECT, and the bytes needed. -/
def Program.stateLayout (p : Program) (g f : Nat) : List (Nat × StateArr × Nat) × Nat :=
  (p.releasedDescs.mapIdx fun o x => (o, x)).foldl (fun acc (o, x) =>
    let rs := p.ruleRuns g f o x
    (p.ruleOf x).arrays.foldl (fun acc a =>
      let off := align2K acc.2
      (acc.1 ++ [(o, a, off)], off + a.bytes rs)) acc) ([], 0)

/-- Offsets of every tensor in GRAD_OBJECT, and the bytes needed; a FROZEN tensor has no part. -/
def Program.gradLayout (p : Program) (g f : Nat) : List (Nat × Nat) × Nat :=
  (p.releasedDescs.mapIdx fun o x => (o, x)).foldl (fun acc (o, x) =>
    if x.frozen then acc
    else
      let off := align2K acc.2
      (acc.1 ++ [(o, off)], off + 2 * runElems (p.ruleRuns g f o x))) ([], 0)

def lookupFst (l : List (Nat × Nat)) (k : Nat) : Nat := ((l.find? fun x => x.1 == k).map Prod.snd).getD 0

/-- The offset in STATE_OBJECT of the part of a run in an array. -/
def Program.stateAt (p : Program) (g f ord : Nat) (x : Desc) (a : StateArr) (index : Nat) : Nat :=
  let base := (((p.stateLayout g f).1.find? fun e => e.1 == ord && e.2.1 == a).map fun e => e.2.2).getD 0
  base + a.within (runPlace (p.ruleRuns g f ord x) index)

/-- The offset in GRAD_OBJECT of a run. -/
def Program.gradAt (p : Program) (g f ord : Nat) (x : Desc) (index : Nat) : Nat :=
  lookupFst (p.gradLayout g f).1 ord + 2 * (runPlace (p.ruleRuns g f ord x) index).2

/-! ### Error memory (R197) -/

/-- Descriptors of the S1 tensors with the entry at which each begins in ERRMEM_OBJECT. -/
def Program.errmemAt (p : Program) (ord : Nat) : Nat :=
  sumOf (fun x => if p.gx.wireOf x.tensor = .s1 then x.elems else 0) (p.releasedDescs.take ord)

/-- Entries of ERRMEM_OBJECT. -/
def Program.errmemEntries (p : Program) : Nat := p.errmemAt p.releasedDescs.length

/-! ### Whose work a message belongs to (log entry 21) -/

/-- A message of a step carries LATE: the step is not PROMISED, or a delay counter of its promise is non-zero (R378). -/
def Device.stepLate (d : Device) (k : Fin 16) (s : Nat) : Bool :=
  match d.stepOf k s with
  | none => true
  | some st => !st.promised || d.adm.promises.any fun q => q.step == some (k.val, s) && q.delays.toList.any (· != 0)

/-- A wait of a step on a message that carries LATE is counted toward PEER_LATE, each tick once (R211, R378). -/
def Device.notePeerLate (d : Device) (k : Fin 16) (s : Nat) (since : Tick) (src : Nat) (late : Bool) : Device :=
  match d.stepOf k s with
  | none => d
  | some st =>
    let from' := if since.toNat < st.lateTick.toNat then st.lateTick.toNat else since.toNat
    let n := d.tb.now.toNat - from'
    if !late || n = 0 then d
    else
      let count (q : Promise) : Promise :=
        if q.step == some (k.val, s) then
          { q with delays := Bank.upd q.delays 4 (· + n), lateRank := some (BitVec.ofNat 14 src) } else q
      let d := d.updStep k s fun st => { st with lateTick := d.tb.now }
      { d with adm := { d.adm with promises := d.adm.promises.map count } }

end Sys2Proof.Machine
end

