-- ==== Sys2Proof/Machine/FoldCalc.lean ====
section
/-! DEFINITION. How an array folds a product: passes and idle cycles (R97, R100, R104, R106, R108). -/

namespace Sys2Proof.Machine

/-- Carry spacing of a partition mode (*Partition modes*). -/
def carrySpacing (m : BitVec 2) : Nat := if m = 0 then 1696 else if m = 1 then 896 else 496

/-- Elements per cell per cycle of a format (R106). -/
def Format.perCell : Format → Nat
  | .z4 => 4
  | .z8a => 2
  | .z8b => 2
  | _ => 1

/-- One pass of a partition: rows streamed, idle cycles before it under R108, and the contraction fold and the column chunk of the
partition whose blocks it loads. -/
structure Pass where
  rows : Nat
  idle : Nat
  fold : Nat := 0
  chunk : Nat := 0
deriving DecidableEq, Repr, Inhabited

/-- The band of *Fold order*: the smallest number of chunks that hides the carry spacing. -/
def bandFor (n m c : Nat) : Nat → Nat → Nat
  | 0, b => b
  | fuel + 1, b => if b < n ∧ min m (2048 / b) * b < c then bandFor n m c fuel (b + 1) else b

/-- The lengths of the pieces of `n` cut every `k`. -/
def cutSizes (n k : Nat) : List Nat := (List.range (ceilDiv n (max 1 k))).map fun i => min k (n - i * k)

/-- The passes of one partition that has `n` column chunks, `m` rows and `nk` contraction folds (*Fold order*). -/
def partitionPasses (n m nk c : Nat) : List Pass :=
  let b := bandFor n m c n 1
  let g := min m (2048 / b)
  ((cutSizes n b).mapIdx fun x band => (cutSizes m g).flatMap fun rows => (List.range nk).flatMap fun j =>
    (List.range band).map fun i =>
      ({ rows := rows, idle := if 0 < j ∧ i = 0 then c - rows * band else 0, fold := j, chunk := x * b + i } : Pass)).flatten

/-- Chunks given to the `i`-th of `k` named partitions (R104). -/
def chunksGiven (total k i : Nat) : Nat := if i < k then (total + k - 1 - i) / k else 0

/-- Partitions a mask names. -/
def namedCount (mask : BitVec 16) : Nat := ((List.range 16).filter fun i => mask.getLsbD i).length

/-- The partitions a mask names, in ascending order. -/
def namedParts (mask : BitVec 16) : List Nat := (List.range 16).filter fun i => mask.getLsbD i

/-- Sprue hops between two logical tiles, by number (R90, R279). -/
def tileHops (a b : Nat) : Nat :=
  (max (a / 100) (b / 100) - min (a / 100) (b / 100)) + (max (a % 100) (b % 100) - min (a % 100) (b % 100))

/-- The logical tile at a tile row and column of a partition (R103). -/
def partitionTile (mode : BitVec 2) (part r c : Nat) : Nat :=
  let t := modeTiles mode
  let per := if mode = 0 then 1 else if mode = 1 then 2 else 4
  (part / per * t + r) * 100 + (part % per * t + c)

/-- The preload of a tile whose block has a home tile in T0 of the array, or comes from T1 or the stream buffer (R296). -/
def preloadTime (user : Nat) (home : Option Nat) : Nat :=
  match home with
  | some h => if h = user then 8 else 13 + tileHops h user
  | none => 49 + user % 100

/-- Idle cycles of a run: those of R108, and the waits for preloads that the pass before and its idle cycles do not hide (R97,
R296). -/
def idleOf (preload : Pass → Nat) : Option Pass → List Pass → Nat
  | _, [] => 0
  | prev, p :: r =>
    let hidden := (prev.map fun q => q.rows + p.idle).getD (preload p)
    p.idle + (preload p - hidden) + idleOf preload (some p) r

/-- Passes, streamed rows of the busiest partition, and idle cycles over all partitions. -/
structure FoldCount where
  passes : Nat := 0
  busy : Nat := 0
  idle : Nat := 0
deriving DecidableEq, Repr, Inhabited

/-- Work one after the other. -/
def FoldCount.followedBy (a b : FoldCount) : FoldCount :=
  { passes := a.passes + b.passes, busy := a.busy + b.busy, idle := a.idle + b.idle }

/-- Work side by side in two partitions: the busier one's streamed cycles count. -/
def FoldCount.add (a b : FoldCount) : FoldCount :=
  { passes := a.passes + b.passes, busy := max a.busy b.busy, idle := a.idle + b.idle }

/-- A WS product of `m` rows, `n` columns and contraction `k`, with the preload cycles of a partition's column chunk and contraction
fold. -/
def wsCount (mode : BitVec 2) (mask : BitVec 16) (m n k f : Nat) (preload : Nat → Nat → Nat → Nat) : FoldCount :=
  let side := modeSide mode
  let nk := ceilDiv k (side * f)
  let nn := ceilDiv n side
  let c := carrySpacing mode
  let parts := namedCount mask
  let one (i : Nat) : FoldCount :=
    let ps := partitionPasses (chunksGiven nn parts i) m nk c
    { passes := ps.length, busy := sumOf Pass.rows ps, 
      idle := idleOf (fun q => preload ((namedParts mask).getD i 0) (q.chunk * parts + i) q.fold) none ps }
  (List.range parts).foldl (fun a i => a.add (one i)) {}

/-- An OS product: one pass of the token stream for each output block; an 8-bit pass takes two tokens a cycle (R98, R106). -/
def osCount (mode : BitVec 2) (mask : BitVec 16) (m n k f : Nat) : FoldCount :=
  let side := modeSide mode
  let blocks := ceilDiv k side * ceilDiv n side
  let parts := namedCount mask
  { passes := blocks, busy := chunksGiven blocks parts 0 * ceilDiv m f, idle := 0 }

end Sys2Proof.Machine
end

