-- ==== Sys2Proof/Machine/Digest.lean ====
section
/-! DEFINITION. What leaves the plane: the passes of *Fold order* with the values that leave in each, pass and result digests (R385,
R386), the units of twin mode (R389), and the MAC cells' registers (R86, R87, R91, R97-R99). -/

namespace Sys2Proof.Machine

/-! ### Digests (R385, R386) -/

/-- mix(v, r, c, x): y1 and y0 of the Dither function under key 0. -/
def DigestTerm.mix (t : DigestTerm) : Word64 :=
  let s : DitherState := { x0 := t.v, x1 := BitVec.ofNat 32 t.r, x2 := BitVec.ofNat 32 t.c, x3 := BitVec.ofNat 32 t.x }
  let y := ditherRounds 0 0 s
  (y.x1 + s.x1) ++ (y.x0 + s.x0)

/-- The digest of the values of a pass, or of an instruction. -/
def digest (ts : List DigestTerm) : Word64 := ts.foldl (fun d t => d + t.mix) 0

/-- The terms a result digest sums: those with x = 0, over every pass (R386). -/
def resultTerms (us : List TwinUnit) : List DigestTerm := us.flatten.flatten.filter fun t => t.x == 0

/-! ### Passes and their units (R104, R106, R108, R389) -/

/-- One pass: its contraction fold, and the output rows and columns it serves. -/
structure PassPlan where
  fold : Nat
  row : Nat
  rows : Nat
  col : Nat
  cols : Nat
deriving DecidableEq, Repr, Inhabited

/-- The chunks given to the `i`-th of `k` named partitions (R104). -/
def chunksOfPart (total k i : Nat) : List Nat := (List.range total).filter fun q => q % k == i

/-- The groups of a WS product, each with its passes in *Fold order* (R108). -/
def wsUnits (mode : BitVec 2) (mask : BitVec 16) (m n k f : Nat) : List (List PassPlan) :=
  let side := modeSide mode
  let parts := namedCount mask
  (List.range parts).flatMap fun i =>
    let qs := chunksOfPart (ceilDiv n side) parts i
    let b := bandFor qs.length m (carrySpacing mode) qs.length 1
    let g := min m (2048 / b)
    (chunksOf b (qs.length + 1) qs).flatMap fun band => (List.range (ceilDiv m (max 1 g))).map fun r =>
      (List.range (ceilDiv k (side * f))).flatMap fun j => band.map fun q =>
        { fold := j, row := r * g, rows := min g (m - r * g), col := q * side, cols := min side (n - q * side) }

/-- The passes of an OS product, each a unit: one for each output block (R98, R106). -/
def osUnits (mode : BitVec 2) (n k : Nat) : List (List PassPlan) :=
  let side := modeSide mode
  (List.range (ceilDiv k side)).flatMap fun i => (List.range (ceilDiv n side)).map fun j =>
    [{ fold := 0, row := i * side, rows := min side (k - i * side), col := j * side, cols := min side (n - j * side) }]

/-- The bands of rows of a row-engine instruction that fit the row buffer (R94). -/
def bandUnits (m n : Nat) : List (List PassPlan) :=
  let k := max 1 (524288 / max 1 n)
  (List.range (ceilDiv m k)).map fun i => [{ fold := 0, row := i * k, rows := min k (m - i * k), col := 0, cols := n }]

/-- The places a pass serves, rows first. -/
def PassPlan.places (p : PassPlan) : List (Nat × Nat) :=
  (List.range p.rows).flatMap fun r => (List.range p.cols).map fun c => (p.row + r, p.col + c)

/-- What leaves the plane in a pass of a WS product of `folds` folds: carriers, and at the last fold results (R385). -/
def PassPlan.wsTerms (p : PassPlan) (folds : Nat) (carried : Nat → Nat → Nat → Word32) (closed : Nat → Nat → Word32) :
    List DigestTerm :=
  p.places.map fun (r, c) =>
    if p.fold + 1 < folds then { v := carried p.fold r c, r := r, c := c, x := 1 + p.fold }
    else { v := closed r c, r := r, c := c, x := 0 }

/-- The running accumulator of a carrier after a fold of height `h`: the sum of the chunks closed by its end (R60, R107). -/
def carrierAfter (start : Traced) (ps : List Dyad) (h j : Nat) : Word32 := (canonTotal start (ps.take (64 * ((j + 1) * h / 64)))).word

/-! ### The plane (R87, R91, R97-R99, R103) -/

/-- The physical tile column of a logical one while the spare stands at column `s` (R91). -/
def physicalColumn (s c : Nat) : Nat := if c < s then c else c + 1

/-- The physical plane column of a logical plane column. -/
def planeColumn (s x : Nat) : Nat := 8 * physicalColumn s (x / 8) + x % 8

/-- The first plane row and logical plane column of a partition (R103). -/
def partOrigin (mode : BitVec 2) (p : Nat) : Nat × Nat :=
  let per := if mode = 0 then 1 else if mode = 1 then 2 else 4
  (modeSide mode * (p / per), modeSide mode * (p % per))

/-- The last of the chunks or blocks given to the `i`-th named partition. -/
def lastGiven (total parts i : Nat) : Option Nat := (chunksOfPart total parts i).getLast?

/-- The image of a cell: `f` weights at consecutive contraction indices, the low index in the low bits (R87). -/
def weightImage (f k kTotal : Nat) (code : Nat → Nat) : Word16 :=
  BitVec.ofNat 16 (packCodes (16 / f) ((List.range f).map fun t => if k + t < kTotal then code (k + t) else 0))

/-- The images in the plane after the last pass of a WS product in each named partition: plane row, logical plane column and image.
`code k n` is the weight's code at a contraction index and a column. -/
def wsImages (mode : BitVec 2) (mask : BitVec 16) (n k f : Nat) (code : Nat → Nat → Nat) : List (Nat × Nat × Word16) :=
  let side := modeSide mode
  let parts := namedParts mask
  (parts.mapIdx fun i p =>
    match lastGiven (ceilDiv n side) parts.length i with
    | none => []
    | some q =>
      let k0 := (ceilDiv k (side * f) - 1) * (side * f)
      let o := partOrigin mode p
      (List.range (min side (ceilDiv (k - k0) f))).flatMap fun r => (List.range (min side (n - q * side))).map fun c =>
        (o.1 + r, o.2 + c, weightImage f (k0 + f * r) k fun kk => code kk (q * side + c))).flatten

/-- The plane cell stands in one of the named partitions. -/
def inParts (mode : BitVec 2) (mask : BitVec 16) (s row col : Nat) : Bool :=
  (namedParts mask).any fun p =>
    let o := partOrigin mode p
    decide (o.1 ≤ row ∧ row < o.1 + modeSide mode) && (List.range (modeSide mode / 8)).any fun c =>
      physicalColumn s (o.2 / 8 + c) == col / 8

/-- The registers of the named partitions after a WS product: each cell has swapped in its image of the last pass, and a fringe
cell holds zero (R97, R106). -/
def ArrayState.loadWeights (a : ArrayState) (mode : BitVec 2) (mask : BitVec 16) (is : List (Nat × Nat × Word16)) : ArrayState :=
  let s := a.spareCol.toNat
  let cells : List WeightCell := (is.filter fun i => i.2.2 != 0).map fun i =>
    { row := i.1, col := planeColumn s i.2.1, current := i.2.2, shadow := i.2.2 }
  { a with weights := (a.weights.filter fun w => !inParts mode mask s w.row w.col) ++ cells }

/-- The accumulator unit of a cell under a sequence of products: the chunks closed, and the window open on the last (R60, R61, R98). -/
def openSum (ps : List Dyad) : Word32 × Option (Int × Int × Bool) :=
  let n := 64 * ((ps.length - 1) / 64)
  let rest := ps.drop n
  (canonSum (ps.take n), (anchorOf rest).map fun a => let w := rest.foldl (windowAdd a) (0, false); (a, w.1, w.2))

/-- The accumulators of the last output block of an OS product in each named partition (R98): `products i j` gives an entry's. -/
def osSums (mode : BitVec 2) (mask : BitVec 16) (n k : Nat) (products : Nat → Nat → List Dyad) :
    List (Nat × Nat × Word32 × Option (Int × Int × Bool)) :=
  let side := modeSide mode
  let parts := namedParts mask
  let nn := ceilDiv n side
  (parts.mapIdx fun i p =>
    match lastGiven (ceilDiv k side * nn) parts.length i with
    | none => []
    | some q =>
      let o := partOrigin mode p
      (List.range (min side (k - q / nn * side))).flatMap fun r => (List.range (min side (n - q % nn * side))).map fun c =>
        (o.1 + r, o.2 + c, openSum (products (q / nn * side + r) (q % nn * side + c)))).flatten

/-- An OS product's last blocks stand in the accumulators. -/
def ArrayState.loadSums (a : ArrayState) (is : List (Nat × Nat × Word32 × Option (Int × Int × Bool))) : ArrayState :=
  let s := a.spareCol.toNat
  let cells : List SumCell := is.map fun i =>
    let col := planeColumn s i.2.1
    let latch := ((a.sums.find? fun c => c.row == i.1 && c.col == col).map SumCell.latch).getD 0
    { row := i.1, col := col, acc := i.2.2.1, window := i.2.2.2, latch := latch }
  { a with sums := (a.sums.filter fun c => !cells.any fun x => x.row == c.row && x.col == c.col) ++ cells }

/-- A cell closes its window and moves its accumulator to the drain latch; it then starts from zero (R99). -/
def SumCell.drain (c : SumCell) : SumCell :=
  let closing (w : Int × Int × Bool) : Word32 := BitVec.ofNat 32 (Fmt.w32.round (if w.2.2 then .nearestAway else .rne) ⟨w.2.1, w.1 - 88⟩).1
  { c with acc := 0, window := none, latch := match c.window with | some w => w32Add c.acc (closing w) | none => c.acc }

/-- An OS product's accumulators are drained as it retires (R99). -/
def ArrayState.drainSums (a : ArrayState) : ArrayState :=
  { a with sums := a.sums.map fun c => if c.acc = 0 ∧ c.window = none then c else c.drain }

end Sys2Proof.Machine
end

