-- ==== Sys2Proof/Machine/StackMem.lean ====
section
/-! DEFINITION. Stacks, scrubbing, crucible-overflow adders and exercisers: OVERFLOW_ADD, ADDER_QUEUE_ROOM and
STACK_INIT_COMPLETE to EXER_COMPLETE (R302-R322). -/

namespace Sys2Proof.Machine

/-! ### Training and temperature (R303, R305, R307) -/

/-- Ticks between the due ticks of two scrub units, to the nearest tick (R308; log entry 145). -/
def scrubPace (hours : BitVec 8) : Nat := (hours.toNat * 3600000000000 + 16777216) / 33554432

/-- STACK_INIT_COMPLETE: training and zeroing done, or training failed. -/
def Device.stackInit (k : Fin 20) (trained : Bool) (lanes : BitVec 8) (d : Device) : Device :=
  let s := d.mem.hbm[k]
  if s.trained || d.sec.stackFail.getLsbD k.val then d
  else
    let d := d.updStack k fun s => { s with trained := trained, lanesRepaired := lanes }
    if trained then d.updStack k fun s => { s with scrubDue := d.tb.now.toNat + scrubPace s.scrubHours }
    else { d with sec := { d.sec with stackFail := d.sec.stackFail ||| (1 <<< k.val) } }

def execStackInitComplete (stack : Fin 20) (trained : Bool) (lanesRepaired : BitVec 8) (s : State) : Answer :=
  s.act (Device.stackInit stack trained lanesRepaired)

/-- REF_2X after a reading: set at 85 °C and above, cleared below 82 °C (R305). -/
def nextRef2x (old : Bool) (c : BitVec 8) : Bool := decide (85 ≤ c.toNat) || (old && decide (82 ≤ c.toNat))

/-- STACK_TEMP_READ (R305, R307). -/
def Device.stackTemp (k : Fin 20) (c : BitVec 8) (d : Device) : Device :=
  let s := d.mem.hbm[k]
  let ref := nextRef2x s.ref2x c
  let hot := decide (95 ≤ c.toNat)
  let d := d.updStack k fun s =>
    { s with temp := c, maxTemp := if s.maxTemp.toNat < c.toNat then c else s.maxTemp, ref2x := ref, hot := hot }
  let d := if ref = s.ref2x then d
    else d.logEvent 0x0603 .info k.val 0 (srcStack k.val)
  if hot && !s.hot then d.logEvent 0x0602 .warn k.val 0 (srcStack k.val) else d

def execStackTempRead (stack : Fin 20) (celsius : BitVec 8) (s : State) : Answer := s.act (Device.stackTemp stack celsius)

/-- CATTRIP_INDICATION: handled as a junction over-temperature (R307, R433): THERMTRIP_N falls and all device state is
lost. -/
def Device.cattrip (k : Fin 20) (d : Device) : Device :=
  let d := d.updStack k fun s => { s with cattrip := true }
  d.losePower { d.pins with tripped := true, thermtrip := true }

def execCattripIndication (stack : Fin 20) (s : State) : Answer := s.act (Device.cattrip stack)

/-! ### Scrubbing and write-back (R308, R309) -/

/-- 2 KiB units of a stack. -/
def stackUnits : Nat := 33554432

/-- The weak-word log after a word was corrected on a scrub pass: its consecutive passes. -/
def noteWeak (ws : List WeakWord) (unit word pass : Nat) : List WeakWord × Nat :=
  let old := ws.find? fun w => w.unit == unit && w.word == word
  let n := match old with
    | some w => if w.lastPass + 1 = pass then w.passes + 1 else 1
    | none => 1
  ({ unit := unit, word := word, passes := n, lastPass := pass } ::
    ws.filter (fun w => !(w.unit == unit && w.word == word)), n)

/-- One word of a scrubbed unit, read as 36 bytes: corrected and scheduled for write-back, or uncorrectable (R309, R316).
Unit u lies on channel u mod 32 (R304); even words on pseudo-channel 0. -/
def Device.scrubWord (k : Fin 20) (unit : Nat) (d : Device) (w : Nat × List Byte) : Device :=
  match ingotDecode d.mem.dec w.2 with
  | .clean => d
  | .uncorrectable => d.uncorrectable (21 + k.val) (evData [(1, unit % 32), (1, w.1 % 2), (4, unit)]) (srcStack k.val)
  | .corrected cw =>
    let s := d.mem.hbm[k]
    let (weak, n) := noteWeak s.weak unit w.1 s.scrubPasses.toNat
    let d := d.updStack k fun s =>
      { s with corr := bump s.corr, weak := weak, writeBacks := s.writeBacks ++ [{ unit := unit, word := w.1, codeword := cw }] }
    let d := d.logCorrected k
    if n = 3 then
      d.logEvent 0x0604 .warn k.val (evData [(1, k.val), (1, unit % 32), (1, w.1 % 2), (4, unit)]) (srcStack k.val)
    else d

/-- SCRUB_UNIT: the patrol scrub reads the unit at its position, outside DIAG and with a period set (R308); on-die
corrections reported meanwhile are counted (R302). -/
def Device.scrubUnit (k : Fin 20) (cws : List (Nat × List Byte)) (onDie : Nat) (d : Device) : Device :=
  let s := d.mem.hbm[k]
  if s.diag || s.scrubHours == 0 then d
  else
    let unit := s.scrubPos.toNat
    let d := cws.foldl (Device.scrubWord k unit) d
    let d := d.updStack k fun s =>
      { s with ondie := satAdd s.ondie onDie, scrubDue := s.scrubDue + scrubPace s.scrubHours, scrubServed := 0 }
    if unit + 1 < stackUnits then d.updStack k fun s => { s with scrubPos := s.scrubPos + 1 }
    else (d.updStack k fun s => { s with scrubPos := 0, scrubPasses := bump s.scrubPasses }).logEvent 0x0605 .info k.val 0
      (srcStack k.val)

def execScrubUnit (stack : Fin 20) (codewords : List (Nat × List Byte)) (onDie : Nat) (s : State) : Answer :=
  s.act (Device.scrubUnit stack codewords onDie)

/-- The write-back is made: no write to its word has been accepted since the read. A word of an object that holds other bytes than
the codeword carries has been written since. -/
def Device.writeBackStands (d : Device) (w : WriteBack) : Bool :=
  match w.addr with
  | some a => d.mem.load (a / 32 * 32) 32 == w.codeword.take 32
  | none => true

/-- WRITE_BACK (R309): the oldest scheduled write-back is made, or dropped because a newer write carries a fresh codeword. -/
def Device.writeBack (k : Fin 20) (errs : List WordError) (d : Device) : Device :=
  match d.mem.hbm[k].writeBacks with
  | [] => d
  | w :: r =>
    (d.updStack k fun s => { s with writeBacks := r }).consume errs fun d =>
      match w.addr with
      | some a =>
        if d.writeBackStands w then d.updMem fun m => m.store (a / 32 * 32) (w.codeword.take 32) else d
      | none => d

def execWriteBack (stack : Fin 20) (errs : List WordError) (s : State) : Answer := s.act (Device.writeBack stack errs)

/-! ### Crucible-overflow adders (R310, R311) -/

/-- W32 entries added in place from an address up. -/
def addWords (m : MemoryTiers) (a : Nat) : List Word32 → MemoryTiers
  | [] => m
  | x :: r =>
    let old := BitVec.ofNat 32 (ofBytes (m.load a 4))
    addWords (m.store a (bytesOf 4 (w32Add old x).toNat)) (a + 4) r

/-- Groups a controller queues. -/
def adderDepth : Nat := 4096

/-- OVERFLOW_ADD: the oldest group of a controller's queue is added in place; each word is read and decoded, added to and encoded
again (R310). The Tundish's read-and-zero in the same queue writes its entries as zero (R311). A mismatch of the lockstep pair of the
adders is contained (R394). -/
def Device.overflowAdd (k : Fin 20) (errs : List WordError) (lockstep : Bool) (d : Device) : Device :=
  match d.mem.hbm[k].adderQueue with
  | [] => d
  | g :: r =>
    d.consume errs fun d => d.inLockstep lockstep fun d =>
      if g.zero = 0 then
        let d := d.updMem fun m => addWords m g.addr g.addends
        d.updStack k fun s => { s with adderQueue := r, adderGroups := bump s.adderGroups }
      else
        let d := d.updMem fun m => m.zero g.addr g.zero
        d.updStack k fun s => { s with adderQueue := r }

def execOverflowAdd (stack : Fin 20) (errs : List WordError) (lockstep : Bool) (s : State) : Answer :=
  s.act (Device.overflowAdd stack errs lockstep)

/-- Some controller still makes an array wait. -/
def Device.adderWaits (d : Device) (n : Fin 8) : Bool :=
  (Bank.indices 20).any fun k => d.mem.hbm[k].adderWaiting.any fun w => w.1 == some n

/-- ADDER_QUEUE_ROOM: the oldest waiting group enters a queue with room; the wait is counted in STK_ADDER.STALL, and an array
none of whose groups waits any more thaws (R311). -/
def Device.adderQueueRoom (k : Fin 20) (d : Device) : Device :=
  let s := d.mem.hbm[k]
  match s.adderWaiting with
  | [] => d
  | (n, g) :: r =>
    if adderDepth ≤ s.adderQueue.length then d
    else
      let d := d.updStack k fun s => { s.settle d.tb.now with adderWaiting := r }.takeGroup g
      match n with
      | some n => if d.adderWaits n then d else d.updArray n fun a => { a with frozenAdder := false }
      | none => d

def execAdderQueueRoom (stack : Fin 20) (s : State) : Answer := s.act (Device.adderQueueRoom stack)

/-! ### Registers and commands (R317-R321) -/

def offStack (k : Fin 20) : Nat := 0x02400000 + k.val * 0x00010000

/-- COUNT_CLR of STK_CTRL. -/
def Device.clearStackCounts (k : Fin 20) (d : Device) : Device :=
  let clr (e : Exerciser) : Exerciser := { e with words := 0, mismatch := 0, uncorr := 0, corr2 := 0, corr1 := 0 }
  d.updStack k fun s => { s with ondie := 0, corr := 0, adderStall := 0, stallSince := d.tb.now, adderGroups := 0, exer := s.exer.map clr }

def Device.stkCountClr (req : Requester) (k : Fin 20) (d : Device) : Device :=
  d.writeBy req (offStack k + 8) none (Device.clearStackCounts k)

def execStkCountClr (req : Requester) (stack : Fin 20) (s : State) : Answer := s.act (Device.stkCountClr req stack)

/-- An exerciser of the stack is running. -/
def Stack.exerBusy (s : Stack) : Bool := (Bank.indices 32).any fun c => s.exer[c].busy

/-- The result of STK_QUERY. -/
def Stack.queryResult (s : Stack) : Nat :=
  let bit (b : Bool) (k : Nat) : Nat := if b then 2 ^ k else 0
  s.temp.toNat + s.maxTemp.toNat * 2 ^ 8 + bit s.ref2x 16 + bit s.hot 17 + bit s.diag 18 + bit s.exerBusy 19
    + s.corr.toNat * 2 ^ 32

/-- A command of one stack: ST_BAD_PARAM where no stack has the number, ST_FAULTED where the stack's block has a parity fault (R320, R465). -/
def Device.onStack (stack : BitVec 8) (c : OpenCmd) (body : Fin 20 → Device → Device) (d : Device) : Device :=
  match asFin 20 stack.toNat with
  | none => d.finish c .badParam
  | some k => if d.parityOf (21 + k.val) then d.finish c .faulted else body k d

def Device.stkQuery (h : CmdHdr) (stack : BitVec 8) (d : Device) : Device :=
  d.command 0x0601 h fun c d =>
    d.onStack stack c fun k d => d.ok c d.mem.hbm[k].queryResult

def execStkQuery (h : CmdHdr) (stack : BitVec 8) (s : State) : Answer := s.act (Device.stkQuery h stack)

/-- SCRUB_HOURS takes a value at once: the pace is set from the current position (R308). -/
def Device.setScrub (hours : BitVec 8) (d : Device) (k : Fin 20) : Device :=
  d.updStack k fun s => { s with scrubHours := hours, scrubDue := d.tb.now.toNat + scrubPace hours }

def Device.stkScrubSet (h : CmdHdr) (stack hours : BitVec 8) (d : Device) : Device :=
  d.adminCommand 0x0602 h fun c d =>
    if stack = 0xFF then ((Bank.indices 20).foldl (Device.setScrub hours) d).ok c
    else d.onStack stack c fun k d => (d.setScrub hours k).ok c

def execStkScrubSet (h : CmdHdr) (stack hours : BitVec 8) (s : State) : Answer := s.act (Device.stkScrubSet h stack hours)

/-- STK_DIAG_ENTER (R317). -/
def Device.stkDiagEnter (h : CmdHdr) (stack : BitVec 8) (d : Device) : Device :=
  d.adminCommand 0x0603 h fun c d =>
    d.onStack stack c fun k d =>
      if d.mem.hbm[k].diag then d.finish c .badParam
      else if d.stackUsed k ≠ 0 then d.finish c .busy
      else (d.updStack k fun s => { s with diag := true }).ok c

def execStkDiagEnter (h : CmdHdr) (stack : BitVec 8) (s : State) : Answer := s.act (Device.stkDiagEnter h stack)

/-- A stack is in DIAG and stays there: a stack being zeroed on its way out counts as out of it (log entry 14). -/
def Stack.inDiag (s : Stack) : Bool := s.diag && s.zeroing.isNone

/-- STK_DIAG_EXIT (R317): every word is rewritten before the reply. -/
def Device.stkDiagExit (h : CmdHdr) (stack : BitVec 8) (d : Device) : Device :=
  d.adminCommand 0x0604 h fun c d =>
    d.onStack stack c fun k d =>
      if !d.mem.hbm[k].inDiag then d.finish c .badParam
      else if d.mem.hbm[k].exerBusy then d.finish c .busy
      else d.updStack k fun s => { s with zeroing := some c }

def execStkDiagExit (h : CmdHdr) (stack : BitVec 8) (s : State) : Answer := s.act (Device.stkDiagExit h stack)

/-- DIAG_ZERO_COMPLETE: the stack returns to service and its STK_DIAG_EXIT is answered. -/
def Device.diagZeroComplete (k : Fin 20) (d : Device) : Device :=
  match d.mem.hbm[k].zeroing with
  | none => d
  | some c => (d.updStack k fun s => { s with zeroing := none, diag := false }).ok c

def execDiagZeroComplete (stack : Fin 20) (s : State) : Answer := s.act (Device.diagZeroComplete stack)

/-- Words of a whole channel. -/
def channelWords : Nat := 67108864

/-- Channels of a mask. -/
def maskChannels (m : Word32) : List (Fin 32) := (Bank.indices 32).filter fun c => m.getLsbD c.val

/-- EXER_RUN (R318, R319): the named channels' exercisers start. -/
def Device.exerRun (h : CmdHdr) (stack pattern mode inject : BitVec 8) (channels seed words : Word32) (d : Device) :
    Device :=
  d.adminCommand 0x0605 h fun c d =>
    d.onStack stack c fun k d =>
      let s := d.mem.hbm[k]
      if !s.inDiag || channels == 0 || decide (3 < pattern.toNat) || decide (1 < mode.toNat) || decide (4 < inject.toNat)
          || (mode == 0 && inject != 0) || decide (channelWords < words.toNat) then d.finish c .badParam
      else if (maskChannels channels).any fun x => s.exer[x].busy then d.finish c .busy
      else
        let run : ExerRun :=
          { cmd := c, pattern := pattern.setWidth 2, raw := mode == 1, inject := inject.setWidth 3, channels := channels,
            seed := seed, words := if words = 0 then channelWords else words.toNat }
        let start (v : Vector Exerciser 32) (x : Fin 32) : Vector Exerciser 32 := Bank.upd v x fun e => { e with busy := true }
        d.updStack k fun s => { s with runs := s.runs ++ [run], exer := (maskChannels channels).foldl start s.exer }

def execExerRun (h : CmdHdr) (stack pattern mode inject : BitVec 8) (channels seed words : Word32) (s : State) : Answer :=
  s.act (Device.exerRun h stack pattern mode inject channels seed words)

/-! #### Patterns and the checker (R318; log entry 146) -/

/-- One step of the generator of x^31 + x^28 + 1. -/
def prbsNext (s : BitVec 31) : BitVec 31 := (s <<< 1) ||| BitVec.zeroExtend 31 (BitVec.ofBool (s.getLsbD 30 ^^ s.getLsbD 27))

/-- `n` bits of the generator, the first in bit 0, and its state after them. -/
def prbsBits : Nat → BitVec 31 → Nat × BitVec 31
  | 0, s => (0, s)
  | n + 1, s =>
    let (v, s') := prbsBits n (prbsNext s)
    ((if s.getLsbD 30 then 1 else 0) + 2 * v, s')

/-- The 32 data bytes that a pattern gives a word of a channel, and for the walking one the codeword symbol with a 1 in it. -/
def ExerRun.data (r : ExerRun) (channel word : Nat) : List Byte :=
  match r.pattern.toNat with
  | 0 =>
    let start := (prbsBits (256 * word) ((r.seed ^^^ BitVec.ofNat 32 channel).setWidth 31)).2
    bytesOf 32 (prbsBits 256 start).1
  | 1 => (List.replicate 8 (bytesOf 4 word)).flatten
  | 2 => (List.range 32).map fun i => if i = word % 36 then BitVec.ofNat 8 (2 ^ (word / 36 % 8)) else 0
  | _ => List.replicate 32 (if word % 2 = 0 then 0 else 0xFF)

/-- INJECT distinct data symbols of a codeword, each replaced by another value. -/
def ExerRun.inject' (r : ExerRun) (channel word : Nat) (cw : List Byte) : List Byte :=
  let v (i : Nat) : BitVec 16 := Config.injected r.seed channel word i
  let first := (v 0).toNat % 32
  (List.range r.inject.toNat).foldl (fun cw i =>
    let at' := (first + i) % 32
    cw.set at' ((cw[at']?).getD 0 + 1 + BitVec.ofNat 8 ((v (i + 1)).toNat % 255))) cw

/-- The 36 symbols written to a word. -/
def ExerRun.written (r : ExerRun) (channel word : Nat) : List Byte := r.inject' channel word (ingotEncode (r.data channel word))

/-- How the checker classes words: mismatches, uncorrectable, corrected in one symbol and in two. -/
structure ExerCount where
  mismatch : Nat := 0
  uncorr : Nat := 0
  corr1 : Nat := 0
  corr2 : Nat := 0
deriving DecidableEq, Repr, Inhabited

/-- One word read back and classed under the decoder's mode: a mismatch when its data, as the decoder would deliver it, differ from the
pattern, or it is uncorrectable. -/
def ExerRun.check (r : ExerRun) (dec : Bool) (channel word : Nat) (c : ExerCount) (cw : List Byte) : ExerCount :=
  let data := r.data channel word
  let differs (w : List Byte) : Nat := if w.take 32 = data then 0 else 1
  match ingotDecode dec cw with
  | .clean => { c with mismatch := c.mismatch + differs cw }
  | .uncorrectable => { c with mismatch := c.mismatch + 1, uncorr := c.uncorr + 1 }
  | .corrected w =>
    let symbols := ((cw.zip w).filter fun x => x.1 != x.2).length
    { c with
      mismatch := c.mismatch + differs w
      corr1 := c.corr1 + (if symbols = 1 then 1 else 0), corr2 := c.corr2 + (if symbols = 1 then 0 else 1) }

/-- What a channel reads back of a word: as written, unless the row names the word. -/
def ExerRun.readBack (r : ExerRun) (reads : List ExerRead) (channel word : Nat) : List Byte :=
  ((reads.find? fun x => x.channel.val == channel && x.word == word).map ExerRead.codeword).getD (r.written channel word)

/-- The words of a channel whose read can be other than the pattern. -/
def ExerRun.suspects (r : ExerRun) (reads : List ExerRead) (channel : Nat) : List Nat :=
  if r.inject = 0 then ((reads.filter fun x => x.channel.val == channel && decide (x.word < r.words)).map ExerRead.word).eraseDups
  else List.range r.words

def ExerRun.count (r : ExerRun) (dec : Bool) (reads : List ExerRead) (channel : Nat) : ExerCount :=
  (r.suspects reads channel).foldl (fun c w => r.check dec channel w c (r.readBack reads channel w)) {}

/-- One channel's outcome counted; its exerciser stops. -/
def Exerciser.finish (e : Exerciser) (words : Nat) (c : ExerCount) : Exerciser :=
  { e with
    busy := false, words := satAdd e.words words, mismatch := satAdd e.mismatch c.mismatch, uncorr := satAdd e.uncorr c.uncorr
    corr2 := satAdd e.corr2 c.corr2, corr1 := satAdd e.corr1 c.corr1 }

/-- The first word of an ENCODED run that the decoder finds uncorrectable: its channel and number. -/
def ExerRun.lost (r : ExerRun) (dec : Bool) (reads : List ExerRead) (channels : List (Fin 32)) : Option (Nat × Nat) :=
  if r.raw then none
  else channels.findSome? fun c => ((r.suspects reads c.val).find? fun w =>
    ingotDecode dec (r.readBack reads c.val w) == .uncorrectable).map fun w => (c.val, w)

/-- EXER_COMPLETE (R318): the oldest run of a stack ends, every named channel's words checked; an uncorrectable word of an ENCODED
run is handled under R316, and mismatches are logged. Word w of a channel lies in the channel's unit w / 64, the even words on
pseudo-channel 0 (R304). -/
def Device.exerComplete (k : Fin 20) (reads : List ExerRead) (d : Device) : Device :=
  match d.mem.hbm[k].runs with
  | [] => d
  | run :: rest =>
    let chans := maskChannels run.channels
    let counts := chans.map fun c => (c, run.count d.mem.dec reads c.val)
    let done (v : Vector Exerciser 32) (x : Fin 32 × ExerCount) : Vector Exerciser 32 := Bank.upd v x.1 fun e => e.finish run.words x.2
    let lost := run.lost d.mem.dec reads chans
    let d := d.updStack k fun s => { s with runs := rest, exer := counts.foldl done s.exer }
    let bad := sumOf (fun x => x.2.mismatch) counts
    let d := if bad = 0 then d else d.logEvent 0x0606 .warn k.val 0 (srcStack k.val)
    match lost with
    | some (c, w) => d.uncorrectable (21 + k.val) (evData [(1, c), (1, w % 2), (4, w / 64 * 32 + c)]) (srcStack k.val)
    | none => d.ok run.cmd (chans.length * run.words + 2 ^ 32 * min bad (2 ^ 32 - 1))

def execExerComplete (stack : Fin 20) (reads : List ExerRead) (s : State) : Answer :=
  s.act (Device.exerComplete stack reads)

end Sys2Proof.Machine
end

