-- ==== Sys2Proof/Machine/IssueOps.lean ====
section
/-! DEFINITION. How a lane issues an instruction: what it must wait for (R129, R144, R178, R180, R288, R337), what the
instruction will write at its retirement (R64, R76), the stash and the stat store (R157-R164), and additions to overflow
(R170, R310). -/

namespace Sys2Proof.Machine

/-! ### Lanes and arrays (R118, R388) -/

/-- The array issues: not faulted, quiesced, frozen, halted, swapping its spare, quarantined or changing its mode. -/
def Device.arrayIssues (d : Device) (n : Fin 8) : Bool :=
  let a := d.arrays[n]
  !a.faulted && !a.quiesce && !a.debugFrozen && !a.frozenAdder && a.swap.isNone && a.pmodeNext.isNone
    && !d.integ.quarantine.getLsbD n.val && !d.arraysHalted

/-- Passes of the array move: it is not frozen (R114, R311, R426, R485, R530). -/
def Device.arrayMoves (d : Device) (n : Fin 8) : Bool :=
  let a := d.arrays[n]
  !a.faulted && !a.debugFrozen && !a.frozenAdder && !d.arraysHalted

def Device.updLane (d : Device) (k : Fin 16) (s : Nat) (n : Fin 17) (f : LaneState → LaneState) : Device :=
  d.updStep k s fun st => { st with lanes := Bank.upd st.lanes n f }

/-- The instruction a lane stands at, whether it takes chained results, and whether it is in a recompute block. -/
structure Current where
  instr : PlacedInstr
  chained : Bool
  /-- The consumer of this CHAIN TMM (R125). -/
  next : Option PlacedInstr
  inBlock : Bool
deriving DecidableEq, Repr, Inhabited

def currentOf (body : List PlacedInstr) (n : Nat) (inBlock : Bool) : Option Current :=
  (body[n]?).map fun i => { instr := i, chained := chainedAt body n, next := body[n + 1]?, inBlock := inBlock }

def Program.current (p : Program) (lane : Fin 17) (l : LaneState) : Option Current :=
  match l.recomp with
  | some (seg, n) => ((p.block seg (laneIndex lane.val)).map RecompBlock.body).bind fun b => currentOf b n true
  | none => currentOf (p.body lane) l.pc false

/-- The lane goes on to its next instruction. -/
def LaneState.advance (l : LaneState) : LaneState :=
  match l.recomp with
  | some (seg, n) => { l with recomp := some (seg, n + 1) }
  | none => { l with pc := l.pc + 1 }

/-! ### Hazards (R129) -/

/-- Byte ranges an instruction reads and writes under the descriptors of its step. -/
def readRanges (ds : List Desc) (c : Bool) (i : Byquel) : List Range := (i.reads c).filterMap fun h => (descAt ds h).map Desc.range
def writeRanges (ds : List Desc) (i : Byquel) : List Range :=
  ((i.writes).bind fun h => (descAt ds h).map Desc.range).toList
    ++ (match i with
        | .tattn _ _ _ _ _ _ _ _ hs .. => ((descAt ds hs).map Desc.range).toList
        | _ => [])

def anyOverlap (a b : List Range) : Bool := a.any fun x => b.any (overlaps x)

/-- An instruction may not issue past an unretired one. -/
def InFlight.blocks (f : InFlight) (reads writes : List Range) (region : Option Handle) : Bool :=
  anyOverlap f.writes (reads ++ writes) || anyOverlap f.reads writes
    || (region.isSome && (f.instr.region.map RegionUse.handle) == region)

/-- What the pair of a CHAIN TMM and its consumer, or an instruction by itself, reads and writes. -/
def Current.footprint (c : Current) (ds : List Desc) : List Range × List Range :=
  let own := (readRanges ds c.chained c.instr.instr, writeRanges ds c.instr.instr)
  match c.next with
  | some n => if c.instr.instr.isChainTmm then (own.1 ++ readRanges ds true n.instr, writeRanges ds n.instr) else own
  | none => own

/-- An earlier instruction of the lane that has not retired stands in the way; a chained consumer issues with its product. -/
def LaneState.hazard (l : LaneState) (ds : List Desc) (c : Current) : Bool :=
  let (r, w) := c.footprint ds
  !c.chained && l.inflight.any fun f => f.blocks r w (c.instr.instr.region.map RegionUse.handle)

/-! ### Versions (R178, R180) -/

/-- A held host write to the tensor arrived while an earlier step, and not this one, was in flight (R180). -/
def Device.writeStands (d : Device) (k : Fin 16) (s : Nat) (x : Desc) : Bool :=
  match d.obj? x.object with
  | none => false
  | some o =>
    match o.queue with
    | { op := .write _ _ off len _ waits _, state := .held _, .. } :: _ =>
      overlaps { object := o.id, lo := off, hi := off + len } x.range
        && waits.any (fun w => w.1 == k.val && decide (w.2 < s)) && !waits.contains (k.val, s)
    | _ => false

/-- A version check of a tensor passes for a step (R175, R178). -/
def Device.versionOk (d : Device) (k : Fin 16) (p : Program) (s : Nat) (x : Desc) : Bool :=
  x.frozen || (p.version x.tensor == s && !d.writeStands k s x)

/-- Descriptors of class WEIGHT that the pair of an instruction and its consumer reads. -/
def Current.weights (c : Current) (ds : List Desc) : List Desc :=
  let hs := c.instr.instr.reads c.chained
    ++ (if c.instr.instr.isChainTmm then (c.next.map fun n => n.instr.reads true).getD [] else [])
  (hs.filterMap (descAt ds)).filter fun x => x.cls == .weight

def Device.versionsOk (d : Device) (k : Fin 16) (p : Program) (st : StepState) (c : Current) : Bool :=
  (c.weights st.descs).all (d.versionOk k p st.step)

/-! ### Regions (R144, R171) -/

/-- A region by its handle. -/
def Program.region (p : Program) (h : Handle) : Option Region := p.regions.find? fun r => r.handle == h

def Program.updRegion (p : Program) (h : Handle) (f : Region → Region) : Program :=
  { p with regions := updFirst (fun r => r.handle == h) f p.regions }

/-- The region still holds sums of another step in flight that the Tundish has not read (R144). -/
def Program.regionHeld (p : Program) (s : Nat) (i : Byquel) : Bool :=
  match i.region with
  | none => false
  | some u => ((p.region u.handle).bind Region.step).any fun t => t != s && (p.stepAt t).isSome

/-- The region has all its additions for a step (R171). -/
def Program.regionFinal (p : Program) (s : Nat) (r : Region) : Bool :=
  r.step == some s && r.additions == p.mbCount * r.namers

/-! ### Resources (R337) and T3 (R276, R288) -/

/-- The resources an instruction of a lane takes: its arrays, the Tundish for the U lane, Aster for attention. -/
def Device.laneResources (d : Device) (lane : Nat) (i : Byquel) : List Nat :=
  (if lane = 16 then [8] else (d.laneArrays lane).map Fin.val)
    ++ (match i with | .tattn .. => [9] | _ => [])

/-- No Seedbank hold stops what would start, the Tundish datapath and Aster issue among it (R485), and no promise of another command keeps the
resources of a BEST_EFFORT step (R337). DESIGN CHOICE: the promise of a later step of the same
program, which cannot retire before it, does not (log entry 165). -/
def Device.resourcesFree (d : Device) (k : Fin 16) (st : StepState) (rs : List Nat) : Bool :=
  let later (p : Promise) : Bool := p.step.any fun x => x.1 == k.val && decide (st.step < x.2)
  !d.sec.hold && (st.promised || !(d.adm.promises.any fun p => rs.any p.names && !later p))

/-- Pieces of a range without those of other ranges of its object. -/
def Range.without (r : Range) (rs : List Range) : List (Nat × Nat) :=
  (rs.filter fun x => x.object == r.object).foldl (fun segs x => segs.flatMap fun s => cutOut s x.lo x.hi) [(r.lo, r.hi - r.lo)]

/-- The bytes in T3 that an instruction of a step reads and has not been given, in the order of its operands. -/
def Device.t3Wanted (d : Device) (st : StepState) (rs : List Range) : List Range :=
  rs.flatMap fun r =>
    match d.obj? r.object with
    | none => []
    | some o =>
      let within : Range := { r with hi := min r.hi o.size }
      (within.without st.t3Ready).flatMap fun s =>
        (o.t3Segments s.1 s.2).map fun x => { object := r.object, lo := x.1, hi := x.1 + x.2 }

/-- The T3 bytes on their way to a lane of a step. -/
def Device.t3Asked (d : Device) (k : Fin 16) (s lane : Nat) : List Range :=
  d.dmaReads.filterMap fun r => match r.purpose with
    | .stepT3 slot step l o off =>
      if slot = k.val ∧ step = s ∧ l = lane then some { object := o, lo := off, hi := off + r.length } else none
    | _ => none

/-- Bytes of an array's stream buffer, partition 9 of its hearth (R285, R289). -/
def streamBytes : Nat := 67108864

/-- T3 bytes asked for a lane, as many of them in their order as the stream buffer has room for (R289); a port whose link is down ends
the step (R509; log entry 148). -/
def Device.askStepT3 (d : Device) (k : Fin 16) (st : StepState) (lane : Nat) : List Range → Device
  | [] => d
  | r :: rs =>
    let asked := d.t3Asked k st.step lane
    let room := streamBytes - sumOf (fun x => x.hi - x.lo) asked
    match d.obj? r.object, r.without asked with
    | some o, segs =>
      match o.home with
      | .t3 port addr =>
        let c := st.cmd.getD default
        if d.linkUp port then
          let ask (x : Nat × Device) (s : Nat × Nat) : Nat × Device :=
            let n := min x.1 s.2
            (x.1 - n, if n = 0 then x.2
              else x.2.dmaIssue port (addr + BitVec.ofNat 64 s.1) n (.stepT3 k.val st.step lane o.id s.1) c)
          Device.askStepT3 (segs.foldl ask (room, d)).2 k st lane rs
        else (d.dmaFailed port c).failStep k st.step .aborted
      | _ => Device.askStepT3 d k st lane rs
    | none, _ => Device.askStepT3 d k st lane rs

/-! ### The hearth cache (R286, R299) -/

/-- The pieces of a range of an object that lie in T2. -/
def Obj.t2Segments (o : Obj) (off len : Nat) : List (Nat × Nat) :=
  (match o.home with | .t2 _ => o.homeSegments off len | _ => [])
    ++ o.view.filterMap fun e =>
      let lo := max off e.start
      let hi := min (off + len) (e.start + e.length)
      if e.place.isT2 && decide (lo < hi) then some (lo, hi - lo) else none

/-- Lines a CACHE partition of 64 MiB holds. -/
def partLines : Nat := 262144

/-- The CACHE partitions of a hearth. -/
def Hearth.cacheParts (h : Hearth) : List (Fin 10) := (Bank.indices 10).filter fun p => h.cache.getLsbD p.val

/-- A line that a hearth takes up: which partition takes it, and which line gives way to it in a full one, is left open (log entry
142). -/
def Hearth.takeLine (h : Hearth) (line : Nat) (v : BitVec 64) : Hearth :=
  match h.cacheParts[v.toNat % 2 ^ 16 % max 1 h.cacheParts.length]? with
  | none => h
  | some p =>
    let mine := h.lines.filter fun l => l.1 == p
    let kept :=
      if mine.length < partLines then h.lines
      else match mine[v.toNat / 2 ^ 16 % mine.length]? with
        | some gone => h.lines.erase gone
        | none => h.lines
    { h with lines := (p, line) :: kept }

/-- A line of T2 read through a hearth: a hit, or a miss that takes the line up (R286, R299). -/
def Device.readLine (n : Fin 8) (d : Device) (line : Nat) : Device :=
  let h := d.mem.hearths[n]
  if h.lines.any fun l => l.2 == line then d.updHearth n fun h => { h with hits := bump h.hits }
  else if h.cacheParts.isEmpty then d.updHearth n fun h => { h with misses := bump h.misses }
  else
    let (v, d) := d.takeFree
    d.updHearth n fun h => { h.takeLine line v with misses := bump h.misses }

/-- The bytes of T2 that a lane of an array reads pass through the array's hearth, each line of a range once (log entry 142). -/
def Device.throughHearth (d : Device) (lane : Nat) (rs : List Range) : Device :=
  if 16 ≤ lane then d
  else
    let segs := rs.flatMap fun r =>
      match d.obj? r.object with
      | none => []
      | some o => (o.t2Segments r.lo (min r.hi o.size - r.lo)).map fun s => (o.base + s.1, s.2)
    let lines := segs.flatMap fun s => (List.range ((s.1 + s.2 - 1) / 256 + 1 - s.1 / 256)).map (s.1 / 256 + ·)
    (d.laneArrays lane).foldl (fun d n => lines.foldl (Device.readLine n) d) d

/-! ### Whether a lane can issue -/

/-- The lane and its arrays are free to issue, and no promise, hazard or region stands in the way. -/
def Device.laneReady (d : Device) (p : Program) (st : StepState) (lane : Fin 17) : Bool :=
  let l := st.lane lane
  let arrays := d.laneArrays lane.val
  p.state == .running && l.active && l.wait == .none && arrays.all d.arrayIssues
    && (lane.val != 16 || (!d.tun.faulted && p.steps.all fun t => decide (st.step ≤ t.step) || t.uDone))

/-- The arrays stand in the lane's partition mode (R131). -/
def Device.modeHolds (d : Device) (lane : Fin 17) (l : LaneState) : Bool :=
  (d.laneArrays lane.val).all fun n => d.arrays[n].pmode == l.pmode

/-- The arrays of a lane are asked for a partition mode, and the lane waits for it (R105). -/
def Device.askMode (d : Device) (k : Fin 16) (s : Nat) (lane : Fin 17) (m : BitVec 2) : Device :=
  let d := (d.laneArrays lane.val).foldl (fun d n => d.updArray n fun a => { a with pmodeNext := some m }) d
  d.updLane k s lane fun l => { l with wait := .pmode, pmode := m, since := d.tb.now }

/-- The row of an instruction acts when its lane stands at one the row names and can issue. -/
def Device.atInstr (d : Device) (k : Fin 16) (s : Nat) (lane : Fin 17) (is : Byquel → Bool)
    (f : Program → StepState → LaneState → Current → Device → Device) : Device :=
  match d.progs[k] with
  | none => d
  | some p =>
    match p.stepAt s with
    | none => d
    | some st =>
      match p.current lane (st.lane lane) with
      | none => d
      | some c =>
        if is c.instr.instr && d.laneReady p st lane && d.resourcesFree k st (d.laneResources lane.val c.instr.instr) then
          f p st (st.lane lane) c d
        else d

/-- Bytes of a channel's source region that a send not yet acknowledged reads (R376, R377). -/
def Device.sendingRanges (d : Device) : List Range :=
  d.fab.out.filterMap fun m =>
    match m.kind with
    | .channel k _ i mb =>
      ((d.fab.programs.find? fun p => p.slot == k).bind fun p => p.channels.find? fun c => c.index == i).map fun c =>
        { object := c.srcObject, lo := c.srcOffset + mb * c.bytes, hi := c.srcOffset + (mb + 1) * c.bytes }
    | _ => none

/-- The step's lane waits for a reason. -/
def Device.setWait (d : Device) (k : Fin 16) (s : Nat) (lane : Fin 17) (w : LaneWait) : Device :=
  d.updLane k s lane fun l => { l with wait := w, since := if l.wait = w then l.since else d.tb.now }

/-- An instruction that works on data: it issues once nothing stands in its way; weight versions hold back F and B bodies and
recompute blocks (R178). -/
def Device.whenFree (d : Device) (k : Fin 16) (p : Program) (st : StepState) (lane : Fin 17) (c : Current) (errs : List WordError)
    (f : Device → Device) : Device :=
  let l := st.lane lane
  if l.hazard st.descs c || anyOverlap (c.footprint st.descs).2 d.sendingRanges then d
  else if !d.modeHolds lane l then d.askMode k st.step lane l.pmode
  else if p.regionHeld st.step c.instr.instr then d.setWait k st.step lane .crucible
  else if lane.val != 16 && !d.versionsOk k p st c then d.setWait k st.step lane .version
  else match d.t3Wanted st (c.footprint st.descs).1 with
    | r :: rs => d.askStepT3 k st lane.val (r :: rs)
    | [] => d.consume errs f

/-! ### What an instruction will write -/

/-- What an instruction works from. -/
structure IssueCtx where
  seed : Word64
  step : Nat
  descs : List Desc
  lane : Nat
  /-- The partition mode in force for the lane. -/
  mode : BitVec 2
  mb : Nat
  /-- Chained results taken as HA. -/
  chained : Option TMatrix
  /-- The object bytes of a descriptor. -/
  bytes : Desc → Nat → Byte
  read : Desc → Matrix
  specials : Desc → Word32 → List HistAdd
  stats : Nat → List (Word32 × Word32)

/-- What it writes at its retirement. -/
structure Effect where
  stores : List (Word32 × Nat × List Byte) := []
  hist : List HistAdd := []
  adds : List (Handle × List Word32) := []
  stat : Option (Nat × List (Word32 × Word32)) := none
  chain : TMatrix := []
  /-- The codes written, by row (R385). -/
  codes : List (Nat × List Nat) := []

/-- The rounding of a write to a descriptor (R64, R69). -/
def IssueCtx.rule (c : IssueCtx) (x : Desc) (ord : BitVec 8) : DrawRule :=
  let sr (use : DitherUse) : DrawRule := if x.rne then .rne else .dither c.seed use x.tensor (BitVec.ofNat 32 c.step)
  match x.cls with
  | .weight => sr (.output ord)
  | .state => sr (.output ord)
  | .stash => sr (.stash c.mb)
  | _ => .rne

/-- A value whose forming saturated counts as a saturation, and one written as zero whose forming underflowed as an underflow
(R45, R83; log entry 18). -/
def foldOutcome (t : Traced) (n : Narrowed) : Outcome :=
  if t.sat then .saturated else if t.under ∧ n.value.m = 0 then .underflow else n.outcome

/-- Histogram entries of a write, under the stream of its lane (R45, R49, R50, R66, R76; log entry 117). -/
def IssueCtx.count (c : IssueCtx) (x : Desc) (ts : List Traced) (ns : List Narrowed) : List HistAdd :=
  (ts.zip ns).map fun (t, n) => histOf x.tensor (laneStream c.lane) (foldOutcome t n) n.value t.special

/-- A matrix of values written through a descriptor. -/
def IssueCtx.put (c : IssueCtx) (h : Handle) (ord : BitVec 8) (m : TMatrix) : Effect :=
  match descAt c.descs h with
  | none => {}
  | some x =>
    let (bs, ns) := x.store (c.bytes x) (c.rule x ord) m.words
    { stores := bs.map fun b => (x.object, b.1, [b.2]), hist := c.count x m.flatten ns
      codes := (chunksOf (max 1 x.cols) (ns.length + 1) (ns.map Narrowed.code)).mapIdx fun r ns => (r, ns) }

def IssueCtx.values (c : IssueCtx) (h : Handle) : Matrix := ((descAt c.descs h).map c.read).getD []
def IssueCtx.words (c : IssueCtx) (h : Handle) : WMatrix := (c.values h).words

/-- A matrix in W32: a value outside its range saturates (R60). -/
def IssueCtx.traced (c : IssueCtx) (h : Handle) : TMatrix := (c.values h).map fun r => r.map fun v => Traced.exact v []

/-- The matrix a copy moves, an H16 special counted as what its import did (R49). -/
def IssueCtx.moved (c : IssueCtx) (h : Handle) : TMatrix := ((descAt c.descs h).map fun x => x.loadTraced (c.bytes x)).getD []

/-- HA, or the chained results in its place. -/
def IssueCtx.first (c : IssueCtx) (h : Handle) : TMatrix := c.chained.getD (c.traced h)

/-- H16 specials imported from the descriptors that an instruction other than a copy reads, for the tensor it writes (R49). -/
def IssueCtx.imports (c : IssueCtx) (reads : List Handle) (dest : Handle) : List HistAdd :=
  match descAt c.descs dest with
  | none => []
  | some x => (reads.filterMap (descAt c.descs)).flatMap fun y => c.specials y x.tensor

/-- Column `c` of `n` rows given one word each. -/
def rowsOf (f : List Word32 → List Word32) (m : WMatrix) : WMatrix := m.map f

/-- What a product computes (R93, R96, R98). -/
def IssueCtx.tmm (c : IssueCtx) (md : BitVec 3) (ord : BitVec 8) (n k : Nat) (ha hb hd : Handle) (rop : BitVec 4)
    (rimm : Word16) (accEn : Bool) (hadd : Handle) : Effect :=
  let a := c.values ha
  let b := c.values hb
  if md = 2 then { adds := [(hd, (matProduct (a.columns k) (b.columns n) fun _ _ => plain 0).words.flatten)] }
  else
    let addend := if accEn then c.values hadd else []
    let cols := if md = 1 then b else b.columns n
    let m : TMatrix := (matProduct a cols fun r j => .exact (addend.at r j) []).map fun r => r.map (riserOp rop rimm)
    if rop = 3 then { chain := m } else c.put hd ord m

/-! ### What leaves the plane (R385, R389) -/

/-- Elements per cell per cycle of a product's operands. -/
def perCellOf (ds : List Desc) (h : Handle) : Nat := ((descAt ds h).map fun x => x.format.perCell).getD 1

/-- Code or W32 word (m, n) of what an instruction writes or chains. -/
def Effect.codeAt (e : Effect) (m n : Nat) : Word32 :=
  match (e.chain[m]?).bind fun r => r[n]? with
  | some w => w.word
  | none => BitVec.ofNat 32 (((e.codes.find? fun r => r.1 == m).map fun r => r.2.getD n 0).getD 0)

/-- The groups of a WS product with the values of their passes. -/
def IssueCtx.wsValues (c : IssueCtx) (e : Effect) (md : BitVec 3) (mask : BitVec 16) (m n k : Nat) (ha hb : Handle) (accEn : Bool)
    (hadd : Handle) : List TwinUnit :=
  let f := perCellOf c.descs ha
  let h := modeSide c.mode * f
  let a := c.values ha
  let b := if md = 1 then c.values hb else (c.values hb).columns n
  let addend := if accEn then c.values hadd else []
  let carried (j r q : Nat) : Word32 := carrierAfter (.exact (addend.at r q) []) (products (a.getD r []) (b.getD q [])) h j
  (wsUnits c.mode mask m n k f).map fun u => u.map fun p => p.wsTerms (ceilDiv k h) carried e.codeAt

/-- The passes of an OS product with the accumulators that go to the drain latches. -/
def Effect.osValues (e : Effect) (mode : BitVec 2) (n k : Nat) : List TwinUnit :=
  let ws := (e.adds.headD (0, [])).2
  (osUnits mode n k).map fun u => u.map fun p => p.places.map fun (r, q) => { v := ws.getD (r * n + q) 0, r := r, c := q, x := 0 }

/-- The bands of a row-engine instruction: every value written, in a region too, and each half of each stat record; a chained one with
what its rows left the plane as. -/
def Effect.bandValues (e : Effect) (m n : Nat) (chained : List (List DigestTerm)) : List TwinUnit :=
  let halves (r : Nat) (s : Word32 × Word32) : List DigestTerm := [{ v := s.1, r := r, c := 0, x := 0x10 }, { v := s.2, r := r, c := 0, x := 0x11 }]
  let stats := ((e.stat.map Prod.snd).getD []).mapIdx halves
  let sums : List DigestTerm := (e.adds.flatMap Prod.snd).mapIdx fun q w => { v := w, r := 0, c := q, x := 0 }
  (bandUnits m n).flatten.map fun p =>
    let inBand (t : DigestTerm) : Bool := decide (p.row ≤ t.r ∧ t.r < p.row + p.rows)
    let written : List DigestTerm := (e.codes.filter fun r => decide (p.row ≤ r.1 ∧ r.1 < p.row + p.rows)).flatMap fun r =>
      r.2.mapIdx fun q v => { v := BitVec.ofNat 32 v, r := r.1, c := q, x := 0 }
    let last := if m ≤ p.row + p.rows then sums else []
    (chained.map fun ts => ts.filter inBand) ++ [written ++ ((stats.drop p.row).take p.rows).flatten ++ last]

/-- The units of an instruction (*Twin units*); a product that chains leaves its passes to the pair's (log entry 134). -/
def IssueCtx.units (c : IssueCtx) (i : Byquel) (e : Effect) (chained : List (List DigestTerm)) : List TwinUnit :=
  match i with
  | .tmm md _ mask m n k ha hb _ _ _ accEn hadd =>
    if md = 2 then e.osValues c.mode n k else c.wsValues e md mask m n k ha hb accEn hadd
  | .tew _ _ _ m n .. | .tnorm _ _ _ m n .. | .tnormb m n .. | .tsmax _ _ _ m n .. | .tsmaxb _ m n .. | .tred _ _ m n ..
  | .tstash _ m n _ _ | .tunstash _ m n _ _ | .tmov _ m n _ _ => e.bandValues m n chained
  | .tattn _ _ _ _ m _ _ _ _ _ heads hdim .. => e.bandValues m (heads * hdim) []
  | .ttie _ _ | .tsig _ _ | .twait _ _ _ | .tfenceStream | .tfenceVersion _ | .tfencePmode _ | .thint _ _ _ | .tend => []

/-- Rows zipped with their statistics. -/
def withStats (m : WMatrix) (s : List (Word32 × Word32)) : List (List Word32 × Word32 × Word32) := m.zip s

/-- What an instruction other than TSTASH, TUNSTASH and TATTN computes. -/
def IssueCtx.effect (c : IssueCtx) (i : Byquel) : Effect :=
  match i with
  | .tmm md ord _ _ n k ha hb hd rop rimm accEn hadd => c.tmm md ord n k ha hb hd rop rimm accEn hadd
  | .tew _ ord fn _ _ imm ha hb hd => c.put hd ord (tewAll fn imm (c.first ha) (if tewReadsB fn then c.traced hb else []))
  | .tnorm _ ord epse _ _ stat ha hg hd =>
    let g := (c.traced hg).headD []
    let rs := (c.first ha).map fun x => tnormRow (epsWord epse) x g
    { c.put hd ord (rs.map Prod.fst) with stat := some (stat, rs.map Prod.snd) }
  | .tnormb _ n stat ha hb hg hd =>
    let g := (c.traced hg).headD []
    let dys := c.traced hb
    let rs := ((c.traced ha).zip (dys.zip (c.stats stat))).map fun (x, dy, mu, r) => tnormbRow x dy g mu r
    { c.put hd 0 (rs.map Prod.fst) with adds := [(hg, columnDots dys.words (TMatrix.words (rs.map Prod.snd)) n)] }
  | .tsmax _ ord scale _ _ stat ha hd =>
    let rs := (c.first ha).map (tsmaxRow scale)
    { c.put hd ord (rs.map Prod.fst) with stat := some (stat, rs.map Prod.snd) }
  | .tsmaxb scale _ _ stat ha hb hd =>
    c.put hd 0 (((c.traced ha).zip ((c.traced hb).zip (c.stats stat))).map fun (x, dy, m, s) => tsmaxbRow scale x dy m s)
  | .tred md ord _ n ha hd =>
    if md = 4 then { adds := [(hd, tredColumns (c.words ha) n)] } else c.put hd ord (tredRows md (c.first ha) n)
  | .tmov ord _ _ ha hd => c.put hd ord (c.moved ha)
  | .tstash _ _ _ _ _ | .tunstash _ _ _ _ _ | .tattn .. | .ttie _ _ | .tsig _ _ | .twait _ _ _ | .tfenceStream
  | .tfenceVersion _ | .tfencePmode _ | .thint _ _ _ | .tend => {}

/-! ### The device's context -/

/-- A reader of the object of a descriptor. -/
def Device.descReader (d : Device) (x : Desc) : Nat → Byte :=
  match d.obj? x.object with
  | some o => d.rd o
  | none => fun _ => 0

/-- The stat records of a lane index, base and micro-batch. -/
def StepState.statOf (st : StepState) (idx stat mb : Nat) : List (Word32 × Word32) :=
  ((st.stats.find? fun e => e.lane == idx && e.stat == stat && e.mb == mb).map StatEntry.records).getD []

/-- Words of a lane's chained rows of `n` columns. -/
def chainRows (n : Nat) (ws : List Traced) : TMatrix := chunksOf (max 1 n) (ws.length + 1) ws

/-- Columns of the chained operand of an instruction. -/
def Byquel.width : Byquel → Nat
  | .tew _ _ _ _ n .. => n
  | .tnorm _ _ _ _ n .. => n
  | .tsmax _ _ _ _ n .. => n
  | .tred _ _ _ n .. => n
  | _ => 1

def Device.issueCtx (d : Device) (p : Program) (st : StepState) (lane : Fin 17) (c : Current) : IssueCtx :=
  let l := st.lane lane
  { seed := p.seed, step := st.step, descs := st.descs, lane := lane.val, mode := l.pmode, mb := l.mb
    chained := if c.chained then some (chainRows c.instr.instr.width l.chain) else none
    bytes := d.descReader
    read := fun x => x.load (d.descReader x)
    specials := fun x dest => x.specials (d.descReader x) dest (laneStream lane.val)
    stats := fun stat => st.statOf (laneIndex lane.val) stat l.mb }

/-! ### Overflow additions (R170, R310, R311) -/

/-- The stack on which a byte of an object in T2 lies (R278). -/
def Obj.stackOf (o : Obj) (off : Nat) : Option (Fin 20) :=
  let on (m : BitVec 20) (a : Nat) : Option (Fin 20) :=
    let ss := maskStacks m
    ss[a / 2048 % max 1 ss.length]?
  match o.view.find? fun e => decide (e.start ≤ off ∧ off < e.start + e.length) with
  | some { place := .t2 m, start := a, .. } => on m (off - a)
  | some _ => none
  | none => match o.home with | .t2 m => on m off | _ => none

/-- The addend of entry (i, j) of a fold, zero outside the region. -/
def Region.addendAt (r : Region) (ws : List Word32) (q i j : Nat) : Word32 :=
  let nfc := ceilDiv r.cols r.foldCols
  let row := q / nfc * r.foldRows + i
  let col := q % nfc * r.foldCols + j
  if row < r.rows ∧ col < r.cols then ws.getD (row * r.cols + col) 0 else 0

/-- The groups of 64 additions that a contribution sends to the folds in overflow: byte offset in OVERFLOW_OBJECT and addends, the
fold's entries in row-major order (log entry 20). -/
def Region.groups (r : Region) (ws : List Word32) : List (Nat × List Word32) :=
  (r.places.mapIdx fun q pl =>
    match pl with
    | .slot _ _ _ _ => []
    | .overflow off =>
      let all := (List.range (r.foldRows * r.foldCols)).map fun e => r.addendAt ws q (e / r.foldCols) (e % r.foldCols)
      (chunksOf 64 (all.length + 1) all).mapIdx fun i g => (off + 256 * i, g)).flatten

/-- A group goes to its stack: queued, or waiting, in the drain latches of an array that freezes or at the Tundish (R311). -/
def Device.sendGroup (d : Device) (n : Option (Fin 8)) (o : Obj) (g : AdderGroup) (off : Nat) : Device :=
  match o.stackOf off with
  | none => d
  | some k =>
    let s := d.mem.hbm[k]
    if s.adderQueue.length < adderDepth && s.adderWaiting.isEmpty then d.updStack k fun s => s.takeGroup g
    else
      let d := d.updStack k fun s => s.waitGroup n g d.tb.now
      match n with
      | some n => d.updArray n fun a => { a with frozenAdder := true }
      | none => d

/-- The overflow part of a contribution sent to the adders. -/
def Device.sendOverflow (d : Device) (k : Fin 16) (p : Program) (lane : Nat) (add : Handle × List Word32) : Device :=
  match p.region add.1, d.obj? p.stash.overflow, d.laneArrays lane with
  | some r, some o, n :: _ =>
    (r.groups add.2).foldl (fun d g =>
      d.sendGroup (some n) o { addr := o.base + g.1, addends := g.2, slot := k.val, handle := add.1.toNat } g.1) d
  | _, _, _ => d

/-- Additions of a region wait in an adder queue. -/
def Device.groupsLeft (d : Device) (k : Fin 16) (h : Handle) : Bool :=
  let mine (g : AdderGroup) : Bool := g.slot == k.val && g.handle == h.toNat
  (Bank.indices 20).any fun s => d.mem.hbm[s].adderQueue.any mine || d.mem.hbm[s].adderWaiting.any fun w => mine w.2

/-- The entry of a region that lies in overflow: its byte offset. -/
def Region.overflowAt (r : Region) (e : Nat) : Option Nat :=
  let row := e / r.cols
  let col := e % r.cols
  match r.places[row / r.foldRows * ceilDiv r.cols r.foldCols + col / r.foldCols]? with
  | some (.overflow off) => some (off + 4 * (row % r.foldRows * r.foldCols + col % r.foldCols))
  | _ => none

/-- A contribution added to the crucible entries of a region for a step (R63, R99). -/
def Region.addAll (r : Region) (s : Nat) (ws : List Word32) : Region :=
  let old := if r.step = some s then r.cells else []
  let cell (e : Nat) : Word32 :=
    if (r.overflowAt e).isSome then 0 else w32Add (old.getD e 0) (ws.getD e 0)
  { r with
    step := some s, additions := (if r.step = some s then r.additions else 0) + 1
    cells := (List.range (r.rows * r.cols)).map cell }

/-- The value of a region, crucible entries and overflow entries. -/
def Device.regionValue (d : Device) (p : Program) (r : Region) : List Word32 :=
  let base := (d.obj? p.stash.overflow).map Obj.base
  (List.range (r.rows * r.cols)).map fun e =>
    match r.overflowAt e, base with
    | some off, some b => BitVec.ofNat 32 (ofBytes (d.mem.load (b + off) 4))
    | _, _ => r.cells.getD e 0

/-! ### Stash and stat store (R157-R164) -/

/-- Granules a program's entries hold in a place. -/
def Program.stashUsed (p : Program) (pl : StashPlace) : Nat :=
  sumOf (fun st => sumOf StashEntry.granules (st.stash.filter fun e => e.place == pl)) p.steps

/-- The primary capacity in granules (R158). -/
def Device.primaryGranules (d : Device) (p : Program) : Nat :=
  match d.obj? p.stash.primary with
  | none => 0
  | some o => (o.bytesIn 0 + o.bytesIn 1 - p.stash.scratchBytes) / stashGranule

def Device.primaryFits (d : Device) (p : Program) (n : Nat) : Bool :=
  decide (p.stashUsed .primary + n ≤ d.primaryGranules p)

def Program.spillFits (p : Program) (n : Nat) : Bool :=
  p.stash.spill != 0 && decide (p.stashUsed .spill + n ≤ p.stash.spillBytes / stashGranule)

/-- Where an entry goes that is never dropped: none when the stash is full for it (R158). -/
def Device.stashPlace (d : Device) (p : Program) (n : Nat) : Option StashPlace :=
  if d.primaryFits p n then some .primary
  else if p.policy != .fail && p.spillFits n then some .spill else none

/-- An entry joins a step; one in SPILL_OBJECT is counted and logged (R181, R182). -/
def Device.addEntry (d : Device) (k : Fin 16) (s : Nat) (lane : Fin 17) (e : StashEntry) : Device :=
  let d := d.updStep k s fun st => { st with stash := st.stash ++ [e] }
  if e.place = .spill then
    let n := d.laneArray lane.val
    (d.onArrays lane.val fun a => { a with spills := bump a.spills }).raiseOnce k s 0x0205 lane.val .info n.val 0 (srcArray n.val)
  else d

/-- Stat records in use in the stat store of an array. -/
def Device.statUsed (d : Device) (idx : Nat) : Nat :=
  sumOf (fun p => sumOf (fun st => sumOf (fun e => if e.lane = idx ∧ !e.spilled then e.records.length else 0) st.stats) p.2.steps)
    d.programs

def statRecords : Nat := 524288

/-- The backward instruction that reads a stat range of a lane, if there is one (R163). -/
def Program.statRead (p : Program) (idx stat m : Nat) : Bool :=
  (p.lane (8 + idx)).body.any fun i => i.instr.statRead == some (stat, m)

/-- Stat records allocated in the stat store, or in the stash; none when the stash is full for them (R164). -/
def Device.addStats (d : Device) (k : Fin 16) (p : Program) (s : Nat) (lane : Fin 17) (mb stat : Nat)
    (rs : List (Word32 × Word32)) : Option Device :=
  let idx := laneIndex lane.val
  let entry (spilled : Bool) : StatEntry := { lane := idx, stat := stat, mb := mb, records := rs, spilled := spilled }
  if d.statUsed idx + rs.length ≤ statRecords then some (d.updStep k s fun st => { st with stats := st.stats ++ [entry false] })
  else
    let n := ceilDiv (8 * rs.length) stashGranule
    (d.stashPlace p n).map fun pl =>
      let a := d.laneArray lane.val
      let d := (d.updStep k s fun st => { st with stats := st.stats ++ [entry true] }).onArrays lane.val fun a =>
        { a with statSpills := satAdd a.statSpills rs.length }
      (d.addEntry k s lane { lane := idx, handle := 0, seg := 0, mb := mb, granules := n, place := pl, stat := true }).raiseOnce
        k s 0x020A lane.val .info a.val 0 (srcArray a.val)

/-! ### Issue -/

/-- The products of a TATTN: for each head the key-side up-projection of its queries and the value-side one of its weighted latents, and
for TRAIN_B the weight gradients (R243, R249; log entry 135). -/
def attnCount (mode : BitVec 2) (mask : BitVec 16) (kind : BitVec 2) (m heads hdim rank : Nat) : FoldCount :=
  let streamed (n part q _ : Nat) : Nat := 49 + partitionTile mode part 0 (min (modeTiles mode) (ceilDiv n 8 - q * modeTiles mode) - 1) % 100
  let head := (wsCount mode mask m rank hdim 1 (streamed rank)).followedBy (wsCount mode mask m hdim rank 1 (streamed hdim))
  let fwd : FoldCount := { passes := heads * head.passes, busy := heads * head.busy, idle := heads * head.idle }
  if kind = kindTrainB then fwd.followedBy (osCount mode mask m (2 * (heads * hdim)) rank 1) else fwd

/-- The home tile of a byte of an object in T0 of an array: that of its granule in its extent (R279); none elsewhere. -/
def Obj.homeTile (o : Obj) (n : Fin 8) (off : Nat) : Option Nat :=
  (o.view.find? fun e => e.place.isT0 n && decide (e.start ≤ off ∧ off < e.start + e.length)).map fun e =>
    (off - e.start) / granT0 % logicalTiles

/-- The longest preload of the tiles that a column chunk and a contraction fold of a product give blocks to; each tile loads the block of
its first contraction and output index (R97, R295, R296; log entry 147). -/
def Device.preloadCycles (d : Device) (n : Fin 8) (ds : List Desc) (hb : Handle) (mode : BitVec 2) (transposed : Bool) (cols k f : Nat)
    (part q j : Nat) : Nat :=
  let t := modeTiles mode
  match descAt ds hb with
  | none => 0
  | some x =>
    match d.obj? x.object with
    | none => 0
    | some o =>
      maxOver id ((List.range (min t (ceilDiv k (8 * f) - j * t))).flatMap fun r => (List.range (min t (ceilDiv cols 8 - q * t))).map fun c =>
        let kk := (j * t + r) * (8 * f)
        let nn := (q * t + c) * 8
        preloadTime (partitionTile mode part r c) (o.homeTile n (if transposed then x.loc nn kk else x.loc kk nn)))

/-- Passes and cycles of an instruction on its arrays. -/
def Device.folds (d : Device) (n' : Fin 8) (ds : List Desc) (mode : BitVec 2) : Byquel → FoldCount
  | .tmm md _ mask m n k ha hb _ _ _ _ _ =>
    let f := perCellOf ds ha
    if md = 2 then osCount mode mask m n k f
    else wsCount mode mask m n k f (d.preloadCycles n' ds hb mode (md == 1) n k f)
  | .tattn _ kind _ mask m _ _ _ _ _ heads hdim rank _ _ _ => attnCount mode mask kind m heads hdim rank
  | .tew .. | .tnorm .. | .tnormb .. | .tsmax .. | .tsmaxb .. | .tred .. | .tstash .. | .tunstash .. | .tmov .. | .ttie _ _
  | .tsig _ _ | .twait _ _ _ | .tfenceStream | .tfenceVersion _ | .tfencePmode _ | .thint _ _ _ | .tend => {}

/-- WEIGHT tensors whose reads an instruction retires: those it reads, and those of the block a TUNSTASH can trigger (R179). -/
def Program.retiresReads (p : Program) (ds : List Desc) (lane : Fin 17) (c : Current) : List Word32 :=
  if c.inBlock || lane.val == 16 then []
  else weightReads ds (c.instr, c.chained)
    ++ (match c.instr.instr with
        | .tunstash seg _ _ _ _ =>
          if seg != 0 && p.policy == .recompute then
            (((p.block seg.toNat (laneIndex lane.val)).map fun b =>
              (withChain false b.body).flatMap (weightReads ds)).getD []).eraseDups
          else []
        | _ => [])

/-- Every contribution of earlier micro-batches of a step has been made to a region (R63, R169). -/
def Region.turn (r : Region) (s mb : Nat) : Bool := decide (r.namers * mb ≤ if r.step = some s then r.additions else 0)

/-- The regions an effect adds to take the micro-batch now. -/
def Program.addsTurn (p : Program) (s mb : Nat) (adds : List (Handle × List Word32)) : Bool :=
  adds.all fun a => (p.region a.1).all fun r => r.turn s mb

/-- The record of an issued instruction. -/
def Program.flightOf (p : Program) (st : StepState) (lane : Fin 17) (c : Current) (e : Effect) (units : List TwinUnit)
    (n : FoldCount) : InFlight :=
  let l := st.lane lane
  let i := c.instr.instr
  { word := c.instr.word, instr := i, mb := l.mb, reads := readRanges st.descs c.chained i, writes := writeRanges st.descs i
    stores := e.stores, hist := e.hist, adds := e.adds, block := c.inBlock
    weights := p.retiresReads st.descs lane c, units := units, sent := p.addsTurn st.step l.mb e.adds
    passes := n.passes, busy := n.busy, idle := n.idle }

/-- A TMM of a body that its lane's array replays (R391). -/
def Device.replays (d : Device) (p : Program) (st : StepState) (lane : Fin 17) (c : Current) : Bool :=
  let i := laneIndex lane.val
  let q := p.replayQ
  let product := match c.instr.instr with | .tmm .. => true | _ => false
  !d.integ.twin && q != 0 && !c.inBlock && product && decide (lane.val < 16)
    && (st.step * p.mbCount + (st.lane lane).mb) % q == i % q
    && !d.integ.quarantine.getLsbD (i ^^^ 1)

/-- The MAC cells of an array as a product leaves them at issue: the weights of its last passes, or its last accumulators (R87,
R96-R98). -/
def IssueCtx.plane (c : IssueCtx) (i : Byquel) (a : ArrayState) : ArrayState :=
  match i with
  | .tmm md _ mask _ n k ha hb _ _ _ _ _ =>
    if md = 2 then
      let x := (c.values ha).columns k
      let y := (c.values hb).columns n
      a.loadSums (osSums c.mode mask n k fun i j => products (x.getD i []) (y.getD j []))
    else match descAt c.descs hb with
      | none => a
      | some x =>
        let code (kk q : Nat) : Nat := x.codeAt (c.bytes x) (if md = 1 then q * x.cols + kk else kk * x.cols + q)
        a.loadWeights c.mode mask (wsImages c.mode mask n k (perCellOf c.descs ha) code)
  | _ => a

/-- The instruction is in flight: its record joins the lane, with what its units hold in twin mode and what its replay compares; its
overflow additions leave, and the lane goes on. -/
def Device.enterFlight (d : Device) (k : Fin 16) (p : Program) (st : StepState) (lane : Fin 17) (c : Current) (e : Effect) : Device :=
  let i := c.instr.instr
  let l := st.lane lane
  let ctx := d.issueCtx p st lane c
  let twin := d.integ.twin && decide (lane.val < 16)
  let replayed := d.replays p st lane c
  let units := if twin || replayed then ctx.units i e (if c.chained then l.chainTerms else []) else []
  let fl := p.flightOf st lane c e (if twin && !i.isChainTmm then units else []) (d.folds (d.laneArray lane.val) st.descs l.pmode i)
  let replay : Replayed :=
    { slot := k.val, step := st.step, array := clampFin 7 (laneIndex lane.val), lane := lane.val, word := c.instr.word, mb := l.mb
      terms := resultTerms units }
  let d := if replayed then { d with integ := { d.integ with replays := d.integ.replays ++ [replay] } } else d
  let d := d.updLane k st.step lane fun l =>
    { l.advance with
      inflight := l.inflight ++ [fl], chain := e.chain.flatten, chainTerms := if twin && i.isChainTmm then units.flatten else [] }
  let d := d.onArrays lane.val (ctx.plane i)
  let d := if fl.sent then e.adds.foldl (fun d a => d.sendOverflow k p lane.val a) d else d
  d.throughHearth lane.val (c.footprint st.descs).1

/-- Stat records of a forward instruction whose backward reads them (R163); the stash may be full for them. -/
def Device.issueStats (d : Device) (k : Fin 16) (p : Program) (st : StepState) (lane : Fin 17) (c : Current) (e : Effect) : Option Device :=
  match e.stat with
  | none => some d
  | some (stat, rs) =>
    if !c.inBlock && laneIsF lane.val && p.statRead (laneIndex lane.val) stat rs.length then
      d.addStats k p st.step lane (st.lane lane).mb stat rs
    else some d

/-- A TMOV copies: each value it reads is the one it writes. -/
def Byquel.isCopy : Byquel → Bool
  | .tmov .. => true
  | _ => false

/-- A stream instruction that computes from its operands issues. -/
def Device.issueData (d : Device) (k : Fin 16) (p : Program) (st : StepState) (lane : Fin 17) (c : Current) : Device :=
  let ctx := d.issueCtx p st lane c
  let i := c.instr.instr
  let e := ctx.effect i
  let e := match i.writes with
    | some h => if i.isCopy then e else { e with hist := e.hist ++ ctx.imports (i.reads c.chained) h }
    | none => e
  match d.issueStats k p st lane c e with
  | none => d.failStep k st.step .stashFull
  | some d => d.enterFlight k p st lane c e

/-- The bytes of a stash entry from scattered bytes of its descriptor. -/
def entryBytes (n : Nat) (bs : List ByteAt) : List Byte := bs.foldl (fun l b => l.set b.1 b.2) (List.replicate n 0)

/-- A TSTASH issues: its entry is allocated and written, spilled, dropped, or refused (R157-R161). -/
def Device.issueStash (d : Device) (k : Fin 16) (p : Program) (st : StepState) (lane : Fin 17) (c : Current) (seg : Nat)
    (ha hd : Handle) : Device :=
  let idx := laneIndex lane.val
  let mb := (st.lane lane).mb
  match descAt st.descs hd with
  | none => d
  | some x =>
    let ctx := d.issueCtx p st lane c
    let ts := ctx.moved ha
    let (bs, ns) := x.store (fun _ => 0) (ctx.rule x 0) ts.words
    let hist := ctx.count x ts.flatten ns
    let entry (pl : StashPlace) : StashEntry :=
      { lane := idx, handle := hd, seg := seg, mb := mb, granules := x.stashGranules, place := pl
        bytes := entryBytes x.hi bs }
    let enter (d : Device) (pl : StashPlace) : Device :=
      (d.addEntry k st.step lane (entry pl)).enterFlight k p st lane c { hist := hist }
    if c.inBlock then enter d .scratch
    else if st.marks.any fun m => m.1 == idx && m.2.1 == seg && m.2.2.1 == mb then d.enterFlight k p st lane c {}
    else if seg != 0 && p.policy == .recompute then
      if d.primaryFits p x.stashGranules then enter d .primary
      else
        let drop (st : StepState) : StepState :=
          { st with
            stash := st.stash.filter fun e => e.stat || !(e.seg == seg && e.mb == mb)
            marks := st.marks ++ (List.range 8).map fun i => (i, seg, mb, false) }
        (d.updStep k st.step drop).enterFlight k p st lane c {}
    else match d.stashPlace p x.stashGranules with
      | some pl => enter d pl
      | none => d.failStep k st.step .stashFull

/-- A TUNSTASH issues, or its segment's recompute block begins first (R159). -/
def Device.issueUnstash (d : Device) (k : Fin 16) (p : Program) (st : StepState) (lane : Fin 17) (c : Current) (seg : Nat)
    (ha hd : Handle) : Device :=
  let idx := laneIndex lane.val
  let mb := (st.lane lane).mb
  if !c.inBlock && st.marks.contains (idx, seg, mb, false) then
    let n := d.laneArray lane.val
    let d := (d.updLane k st.step lane fun l => { l with recomp := some (seg, 0) }).onArrays lane.val fun a =>
      { a with recomputes := bump a.recomputes }
    d.raiseOnce k st.step 0x0206 lane.val .info n.val 0 (srcArray n.val)
  else match descAt st.descs ha, st.stash.find? fun e => e.lane == idx && e.handle == ha && e.mb == mb && !e.stat with
    | some x, some entry =>
      let rd (a : Nat) : Byte := entry.bytes.getD a 0
      d.enterFlight k p st lane c ((d.issueCtx p st lane c).put hd 0 (x.loadTraced rd))
    | _, _ => d

end Sys2Proof.Machine
end

