-- ==== Sys2Proof/Machine/Streams.lean ====
section
/-! DEFINITION. Stream rows: the instructions that compute, semaphores, fences, hints, the end of a body, and the slots of the pass
sequencer (R96-R168, R105, R119, R131-R137, R151-R153). -/

namespace Sys2Proof.Machine

/-! ### Instructions that compute from their operands -/

/-- A row of an instruction that computes. -/
def Device.dataRow (k : Fin 16) (s : Nat) (lane : Fin 17) (errs : List WordError) (is : Byquel → Bool) (d : Device) : Device :=
  d.atInstr k s lane is fun p st _ c d => d.whenFree k p st lane c errs fun d => d.issueData k p st lane c

def Byquel.isTmm : Byquel → Bool
  | .tmm .. => true
  | _ => false
def Byquel.isTew : Byquel → Bool
  | .tew .. => true
  | _ => false
def Byquel.isTnorm : Byquel → Bool
  | .tnorm .. => true
  | _ => false
def Byquel.isTnormb : Byquel → Bool
  | .tnormb .. => true
  | _ => false
def Byquel.isTsmax : Byquel → Bool
  | .tsmax .. => true
  | _ => false
def Byquel.isTsmaxb : Byquel → Bool
  | .tsmaxb .. => true
  | _ => false
/-- A TRED of an F or B lane. -/
def Byquel.isTred : Byquel → Bool
  | .tred md .. => md != 7
  | _ => false
def Byquel.isTmov : Byquel → Bool
  | .tmov .. => true
  | _ => false

/-- TMM (R96, R98, R104, R106, R125, R391). -/
def execTmm (slot : Fin 16) (step : Word32) (lane : Fin 17) (errs : List WordError) (s : State) : Answer :=
  s.act (Device.dataRow slot step.toNat lane errs Byquel.isTmm)
/-- TEW (R126). -/
def execTew (slot : Fin 16) (step : Word32) (lane : Fin 17) (errs : List WordError) (s : State) : Answer :=
  s.act (Device.dataRow slot step.toNat lane errs Byquel.isTew)
/-- TNORM (R163, R165). -/
def execTnorm (slot : Fin 16) (step : Word32) (lane : Fin 17) (errs : List WordError) (s : State) : Answer :=
  s.act (Device.dataRow slot step.toNat lane errs Byquel.isTnorm)
/-- TNORMB (R166). -/
def execTnormb (slot : Fin 16) (step : Word32) (lane : Fin 17) (errs : List WordError) (s : State) : Answer :=
  s.act (Device.dataRow slot step.toNat lane errs Byquel.isTnormb)
/-- TSMAX (R163, R167). -/
def execTsmax (slot : Fin 16) (step : Word32) (lane : Fin 17) (errs : List WordError) (s : State) : Answer :=
  s.act (Device.dataRow slot step.toNat lane errs Byquel.isTsmax)
/-- TSMAXB (R168). -/
def execTsmaxb (slot : Fin 16) (step : Word32) (lane : Fin 17) (errs : List WordError) (s : State) : Answer :=
  s.act (Device.dataRow slot step.toNat lane errs Byquel.isTsmaxb)
/-- TRED of an F or B lane (R127). -/
def execTred (slot : Fin 16) (step : Word32) (lane : Fin 17) (errs : List WordError) (s : State) : Answer :=
  s.act (Device.dataRow slot step.toNat lane errs Byquel.isTred)
/-- TMOV (R123). -/
def execTmov (slot : Fin 16) (step : Word32) (lane : Fin 17) (errs : List WordError) (s : State) : Answer :=
  s.act (Device.dataRow slot step.toNat lane errs Byquel.isTmov)

/-! ### The stash (R157-R161) -/

def Device.tstash (k : Fin 16) (s : Nat) (lane : Fin 17) (errs : List WordError) (d : Device) : Device :=
  d.atInstr k s lane (fun i => match i with | .tstash .. => true | _ => false) fun p st _ c d =>
    match c.instr.instr with
    | .tstash seg _ _ ha hd => d.whenFree k p st lane c errs fun d => d.issueStash k p st lane c seg.toNat ha hd
    | _ => d

def execTstash (slot : Fin 16) (step : Word32) (lane : Fin 17) (errs : List WordError) (s : State) : Answer :=
  s.act (Device.tstash slot step.toNat lane errs)

def Device.tunstash (k : Fin 16) (s : Nat) (lane : Fin 17) (errs : List WordError) (d : Device) : Device :=
  d.atInstr k s lane (fun i => match i with | .tunstash .. => true | _ => false) fun p st _ c d =>
    match c.instr.instr with
    | .tunstash seg _ _ ha hd => d.whenFree k p st lane c errs fun d => d.issueUnstash k p st lane c seg.toNat ha hd
    | _ => d

def execTunstash (slot : Fin 16) (step : Word32) (lane : Fin 17) (errs : List WordError) (s : State) : Answer :=
  s.act (Device.tunstash slot step.toNat lane errs)

/-! ### Semaphores (R132-R134) -/

/-- The lane goes on. -/
def Device.passBy (d : Device) (k : Fin 16) (s : Nat) (lane : Fin 17) : Device :=
  d.updLane k s lane fun l => { l.advance with wait := .none }

/-- Channels of a program that a TSIG triggers: those of the lane's stream on the semaphore, once for each micro-batch (R376). -/
def Device.triggered (d : Device) (k : Fin 16) (st : StepState) (lane : Fin 17) (sem : BitVec 8) (mb : Nat) : List Channel :=
  match d.fab.programs.find? fun p => p.slot == k.val with
  | none => []
  | some p => p.channels.filter fun c =>
      decide (lane.val < 16) && c.backward == laneIsB lane.val && c.trigger == sem && !st.sent.contains (c.index, mb)

/-- The 32 bytes before the data of a channel transfer: step, DEST_OBJECT, DEST_PROG, DEST_SEM, micro-batch and DEST_OFFSET; byte 11 is 2
(R376; the layout is the model's, log entry 17). -/
def transferHeader (step object prog sem mb off : Nat) : List Byte :=
  bytesOf 4 step ++ bytesOf 4 object ++ bytesOf 1 prog ++ bytesOf 1 sem ++ bytesOf 1 mb ++ bytesOf 1 2 ++ bytesOf 6 off ++ bytesOf 14 0

/-- A micro-batch's bytes sent on a channel (R376, R378). -/
def Device.sendChannel (k : Fin 16) (s mb : Nat) (d : Device) (c : Channel) : Device :=
  let bs := match d.obj? c.srcObject with
    | some o => d.objBytes o (c.srcOffset + mb * c.bytes) c.bytes
    | none => []
  let late := match d.stepOf k s with
    | some st => !st.promised || d.adm.promises.any fun q => q.step == some (k.val, s) && q.delays.toList.any (· != 0)
    | none => true
  let fields := transferHeader s c.destObject.toNat c.destProg c.destSem.toNat mb c.destOffset
  (d.updStep k s fun st => { st with sent := (c.index, mb) :: st.sent }).sendMsg c.destRank.toNat (.channel k.val s c.index mb)
    (fields ++ bs) late false

/-- TSIG: once every earlier instruction of the lane has retired, INC is added. -/
def Device.tsig (k : Fin 16) (s : Nat) (lane : Fin 17) (d : Device) : Device :=
  d.atInstr k s lane (fun i => match i with | .tsig _ _ => true | _ => false) fun _ st l c d =>
    match c.instr.instr with
    | .tsig sem inc =>
      if l.inflight.isEmpty then
        (d.triggered k st lane sem l.mb).foldl (Device.sendChannel k s l.mb) ((d.addSem k s sem.toNat inc).passBy k s lane)
      else d
    | _ => d

def execTsig (slot : Fin 16) (step : Word32) (lane : Fin 17) (s : State) : Answer := s.act (Device.tsig slot step.toNat lane)

/-- The semaphore of a TWAIT has reached its target (R134). -/
def Program.waitMet (p : Program) (s mb : Nat) : Byquel → Bool
  | .twait sem target stride => decide (target + stride * mb ≤ p.semAt (s % 2) sem.toNat)
  | _ => false

/-- TWAIT. -/
def Device.twait (k : Fin 16) (s : Nat) (lane : Fin 17) (d : Device) : Device :=
  d.atInstr k s lane (fun i => match i with | .twait _ _ _ => true | _ => false) fun p _ l c d =>
    if p.waitMet s l.mb c.instr.instr then d.passBy k s lane else d.setWait k s lane .semaphore

def execTwait (slot : Fin 16) (step : Word32) (lane : Fin 17) (s : State) : Answer := s.act (Device.twait slot step.toNat lane)

/-- The lane of a step waits for a reason: its program, its step, and the instruction it stands at. -/
def Device.waiting (d : Device) (k : Fin 16) (s : Nat) (lane : Fin 17) (w : LaneWait)
    (f : Program → StepState → LaneState → Current → Device → Device) : Device :=
  match d.progs[k] with
  | none => d
  | some p =>
    match p.stepAt s with
    | none => d
    | some st =>
      let l := st.lane lane
      if p.state == .running && l.active && l.wait == w then
        match p.current lane l with
        | none => d
        | some c => f p st l c d
      else d

/-- TWAIT_RELEASE: the semaphore has reached the target of a waiting TWAIT. -/
def Device.twaitRelease (k : Fin 16) (s : Nat) (lane : Fin 17) (d : Device) : Device :=
  d.waiting k s lane .semaphore fun p _ l c d => if p.waitMet s l.mb c.instr.instr then d.passBy k s lane else d

def execTwaitRelease (slot : Fin 16) (step : Word32) (lane : Fin 17) (s : State) : Answer :=
  s.act (Device.twaitRelease slot step.toNat lane)

/-! ### Fences and hints (R135, R137) -/

def Device.tfenceStream (k : Fin 16) (s : Nat) (lane : Fin 17) (d : Device) : Device :=
  d.atInstr k s lane (fun i => i == .tfenceStream) fun _ _ l _ d =>
    if l.inflight.isEmpty then d.passBy k s lane else d.setWait k s lane .stream

def execTfenceStream (slot : Fin 16) (step : Word32) (lane : Fin 17) (s : State) : Answer :=
  s.act (Device.tfenceStream slot step.toNat lane)

def Device.tfenceVersion (k : Fin 16) (s : Nat) (lane : Fin 17) (d : Device) : Device :=
  d.atInstr k s lane (fun i => match i with | .tfenceVersion _ => true | _ => false) fun p st _ c d =>
    match c.instr.instr with
    | .tfenceVersion ha =>
      if (descAt st.descs ha).all (d.versionOk k p s) then d.passBy k s lane else d.setWait k s lane .version
    | _ => d

def execTfenceVersion (slot : Fin 16) (step : Word32) (lane : Fin 17) (s : State) : Answer :=
  s.act (Device.tfenceVersion slot step.toNat lane)

/-- TFENCE PMODE: the lane's arrays are asked for the mode, and the lane goes on once it is in force (R105). -/
def Device.tfencePmode (k : Fin 16) (s : Nat) (lane : Fin 17) (d : Device) : Device :=
  d.atInstr k s lane (fun i => match i with | .tfencePmode _ => true | _ => false) fun _ _ _ c d =>
    match c.instr.instr with
    | .tfencePmode m =>
      let d := d.passBy k s lane
      if (d.laneArrays lane.val).all fun n => d.arrays[n].pmode == m then d.updLane k s lane fun l => { l with pmode := m }
      else d.askMode k s lane m
    | _ => d

def execTfencePmode (slot : Fin 16) (step : Word32) (lane : Fin 17) (s : State) : Answer :=
  s.act (Device.tfencePmode slot step.toNat lane)

/-- THINT: a phase begins LEAD ticks from now on the lane's arrays (R137, R425). -/
def Device.thint (k : Fin 16) (s : Nat) (lane : Fin 17) (d : Device) : Device :=
  d.atInstr k s lane (fun i => match i with | .thint _ _ _ => true | _ => false) fun _ _ _ c d =>
    match c.instr.instr with
    | .thint tag lead _ =>
      ((d.laneArrays lane.val).foldl (fun d n =>
        d.updBel fun b => b.hint d.tb.now.toNat k.val lane.val n tag lead) d).passBy k s lane
    | _ => d

def execThint (slot : Fin 16) (step : Word32) (lane : Fin 17) (s : State) : Answer := s.act (Device.thint slot step.toNat lane)

/-! ### Bodies and slots (R119, R131, R151-R153) -/

/-- The partition mode in force at an instruction of a lane's body (R131). -/
def LaneCode.modeAt (c : LaneCode) (n : Nat) : BitVec 2 := (((withMode c.pmode c.body)[n]?).map Prod.snd).getD c.pmode

/-- Entries, records and marks of a lane index and micro-batch are released (R157, R159, R163). -/
def StepState.release (st : StepState) (idx mb : Nat) : StepState :=
  { st with
    stash := st.stash.filter fun e => !(e.lane == idx && e.mb == mb)
    stats := st.stats.filter fun e => !(e.lane == idx && e.mb == mb)
    marks := st.marks.filter fun m => !(m.1 == idx && m.2.2.1 == mb) }

/-- A lane of the step's F and B streams runs a body. -/
def StepState.bodyRuns (st : StepState) : Bool := (Bank.indices 17).any fun n => n.val != 16 && (st.lane n).active

/-- The step's slots are all done once the last is released and no body of it runs. -/
def StepState.checkSlots (st : StepState) (slots : Nat) : StepState :=
  { st with slotsDone := st.slotsDone || (st.released && decide (slots ≤ st.slotIdx + 1) && !st.bodyRuns) }

/-- The end of a recompute block: its mark notes that it has run, and the lane's partition mode is restored (R159, R160). -/
def Device.endBlock (d : Device) (k : Fin 16) (p : Program) (s : Nat) (lane : Fin 17) (l : LaneState) (seg : Nat) : Device :=
  let idx := laneIndex lane.val
  let ran (m : Nat × Nat × Nat × Bool) : Nat × Nat × Nat × Bool :=
    if m.1 == idx && m.2.1 == seg && m.2.2.1 == l.mb then (m.1, m.2.1, m.2.2.1, true) else m
  let d := d.updStep k s fun st => { st with marks := st.marks.map ran }
  let d := d.updLane k s lane fun l => { l with recomp := none }
  let m := p.lanes[lane].modeAt l.pc
  if l.pmode = m then d else d.askMode k s lane m

/-- TEND: once every earlier instruction has retired, the body ends (R119). -/
def Device.tend (k : Fin 16) (s : Nat) (lane : Fin 17) (d : Device) : Device :=
  d.atInstr k s lane (fun i => i == .tend) fun p _ l _ d =>
    if !l.inflight.isEmpty then d
    else match l.recomp with
      | some (seg, _) => d.endBlock k p s lane l seg
      | none =>
        let d := d.updLane k s lane fun l => { l with active := false, pc := 0 }
        if lane.val = 16 then d.updStep k s fun st => { st with uDone := true }
        else
          let d := (d.laneArrays lane.val).foldl (fun d n => d.updArray n fun a => { a with seqActive := d.slotHeld n }) d
          let d := if laneIsB lane.val then d.updStep k s fun st => st.release (laneIndex lane.val) l.mb else d
          d.updStep k s fun st => st.checkSlots p.slots.length

def execTend (slot : Fin 16) (step : Word32) (lane : Fin 17) (s : State) : Answer := s.act (Device.tend slot step.toNat lane)

/-- A lane begins the body of a slot: its arrays show the slot, and are asked for INITIAL_PMODE when they stand in another mode. -/
def Device.startLane (k : Fin 16) (p : Program) (s idx : Nat) (sl : Slot) (d : Device) (lane : Fin 17) : Device :=
  let m := p.lanes[lane].pmode
  let arrays := d.laneArrays lane.val
  let show' (d : Device) (n : Fin 8) : Device := d.updArray n fun a =>
    { a with
      seqStep := BitVec.ofNat 32 s, seqSlot := BitVec.ofNat 9 idx, seqBackward := sl.backward
      seqMb := BitVec.ofNat 8 sl.mb, seqActive := true }
  let d := arrays.foldl show' d
  let d := d.updLane k s lane fun l => { l with mb := sl.mb, active := true, pc := 0, recomp := none, wait := .none, pmode := m, chain := [], chainTerms := [] }
  if arrays.all fun n => d.arrays[n].pmode == m then d else d.askMode k s lane m

/-- SLOT_RELEASE: the first slot of a step once every slot of the step before is done; the next slot once every lane of the slot
before it has issued TEND (R152). -/
def Device.slotRelease (k : Fin 16) (s : Nat) (d : Device) : Device :=
  match d.progs[k] with
  | none => d
  | some p =>
    match p.stepAt s with
    | none => d
    | some st =>
      let idx := if st.released then st.slotIdx + 1 else st.slotIdx
      let turn := p.steps.all fun t => decide (s ≤ t.step) || t.slotsDone
      match p.slots[idx]? with
      | none => d
      | some sl =>
        if p.state != .running || st.bodyRuns || !turn then d
        else
          let d := d.updStep k s fun st => { st with slotIdx := idx, released := true }
          (p.slotLanes sl).foldl (fun d n => d.startLane k p s idx sl (clampFin 16 n)) d

def execSlotRelease (slot : Fin 16) (step : Word32) (s : State) : Answer := s.act (Device.slotRelease slot step.toNat)

/-! ### Partition modes (R105) -/

/-- Lanes that wait for a mode of arrays that have all changed go on. -/
def Device.wakeModes (d : Device) : Device :=
  d.allLanes.foldl (fun d (k, s, lane, l) =>
    if l.wait == .pmode && (d.laneArrays lane.val).all fun n => d.arrays[n].pmodeNext.isNone then d.setWait k s lane .none else d) d

/-- PMODE_CHANGE: every partition of the array has completed its run, and the mode asked for is in force. -/
def Device.pmodeChange (n : Fin 8) (d : Device) : Device :=
  match d.arrays[n].pmodeNext with
  | none => d
  | some m =>
    if d.arrayBusy n then d
    else (d.updArray n fun a => { a with pmode := m, pmodeNext := none }).wakeModes

def execPmodeChange (array : Fin 8) (s : State) : Answer := s.act (Device.pmodeChange array)

end Sys2Proof.Machine
end

