-- ==== Sys2Proof/Machine/Gradx.lean ====
section
/-! DEFINITION. Gradient exchange: release and bucketing (R171-R175, R183-R186), rings and trees (R191-R198, R207, R208), the
reduced gradient and its handoff (R218), and the U lane's rows. -/

namespace Sys2Proof.Machine

/-! ### A bucket of a step -/

def updBucket (id : Nat) (f : Bucket → Bucket) (st : StepState) : StepState :=
  { st with buckets := updFirst (fun b => b.id == id) f st.buckets }

def StepState.bucket (st : StepState) (id : Nat) : Option Bucket := st.buckets.find? fun b => b.id == id

def Bucket.updShard (b : Bucket) (i : Nat) (f : ShardState → ShardState) : Bucket :=
  { b with shards := updFirst (fun s => s.shard == i) f b.shards }

/-- The released descriptor of an ordinal. -/
def Program.released (p : Program) (ord : Nat) : Desc := p.releasedDescs.getD ord default

/-- GX_SATURATED, once per step (R216). -/
def Device.gxSaturated (d : Device) (k : Fin 16) (s n : Nat) : Device :=
  if n = 0 then d else d.raiseOnce k s 0x0303 noLane .warn k.val 0 srcGx

/-- Saturations of B8 counted: in the step, and in the bucket's histogram (R195). -/
def Device.countB8 (d : Device) (k : Fin 16) (s n : Nat) (x : Desc) (c : BitVec 8) : Device :=
  let add : HistAdd := { tensor := x.tensor, stream := 2, outcome := 2, binade := (c.toNat : Int) - 127 }
  let d := d.countLive k s (List.replicate n add)
  (d.updStep k s fun st => { st with b8Sat := min (st.b8Sat + n) 0xFFFFFFFF }).gxSaturated k s n

/-- The plan does not fit what arrived: logged, and the step ends with ST_FAULTED, at its launch if it is still to come (R185). -/
def Device.planMismatch (d : Device) (s : Nat) : Device :=
  match d.jobProgram with
  | none => d.logEvent 0x0305 .error 0 0 srcGx
  | some (k, p) =>
    let d := d.logEvent 0x0305 .error k.val 0 srcGx
    if (p.stepAt s).isSome then d.failStep k s .faulted
    else if s < p.nextStep then d
    else d.updProg k fun p => { p with mismatched := s :: p.mismatched }

/-! ### Reduced gradients (R205, R206, R218) -/

/-- The rounding of a value the update engine writes (R218, R228). -/
def Program.updRule (p : Program) (x : Desc) (s : Nat) (use : DitherUse) : DrawRule :=
  if x.rne then .rne else .dither p.seed use x.tensor (BitVec.ofNat 32 s)

/-- Values narrowed to Z16 with their draw indexes from `first` up, and their U-stream observations (R45, R66, R83). -/
def narrowZ16 (x : Desc) (rule : DrawRule) (first : Nat) (ts : List Traced) : List Word16 × List HistAdd :=
  let ns := ts.mapIdx fun i t => Format.z16.narrow (rule.at (first + i)) t.word
  (ns.map fun n => BitVec.ofNat 16 n.code, (ts.zip ns).map fun (t, n) => histOf x.tensor 2 (foldOutcome t n) n.value)

/-- ĝ values placed in the unit that holds their elements. -/
def placeGrad (ord index : Nat) (now : Tick) (vs : List (Nat × Word16)) (st : StepState) : StepState :=
  { st with units := updFirst (fun u => u.ord == ord && u.index == index) (fun u => { u with grad := u.grad ++ vs, since := now }) st.units }

/-- ĝ sent to a rule owner: one message for the bucket (R218). -/
def Device.sendHandoff (d : Device) (k : Fin 16) (s : Nat) (b : Bucket) (owner : Nat) (vs : List (Nat × Word16)) : Device :=
  match vs.head? with
  | none => d
  | some (e, _) =>
    let blk := (e - b.first) / 256
    let n := blocksOf vs.length
    let zs := vs.map (fun v => v.2.toNat) ++ List.replicate (256 * n - vs.length) 0
    let bs := hopHeader s b.id 512 3 0 0 blk n d.fab.flatIndex ++ zs.flatMap (bytesOf 2)
    let d := { d with tun := { d.tun with handoffTx := satAdd d.tun.handoffTx vs.length, txBytes := satAdd d.tun.txBytes bs.length } }
    d.sendMsg (d.fab.atFlat owner) (.handoff k.val s b.id) bs (d.stepLate k s) false

/-- ĝ of the owned shard of a reduced bucket formed and passed on. -/
def Device.formGrad (d : Device) (k : Fin 16) (p : Program) (s : Nat) (b : Bucket) : Device :=
  let g := d.fab.groupSize
  let f := d.fab.flatIndex
  let x := p.released b.ord
  let i := ownedShard g f b.id
  match b.shards.find? fun sh => sh.shard == i with
  | none => d
  | some sh =>
    if x.frozen then d
    else
      let (first, len) := ({ id := b.id, ord := b.ord, first := b.first, length := b.length } : PlanBucket).shardElems g i
      let (zs, hs) := narrowZ16 x (p.updRule x s .reducedGradient) first ((sh.acc.take len).map plain)
      let vs := zs.mapIdx fun j z => (first + j, z)
      let d := d.countLive k s hs
      if (p.ruleOf x).blocked then
        let idx := (vs.map fun v => v.1 / blockElems).eraseDups
        idx.foldl (fun d n =>
          let part := vs.filter fun v => v.1 / blockElems == n
          let owner := p.elementOwner g b.ord (n * blockElems)
          if owner = f then d.updStep k s (placeGrad b.ord n d.tb.now part) else d.sendHandoff k s b owner part) d
      else d.updStep k s (placeGrad b.ord first d.tb.now vs)

/-- The squared-norm partial of a tensor from the shards this member owns (R205). -/
def Device.tensorNorm (d : Device) (p : Program) (st : StepState) (ord : Nat) (sigma : Int) : Word32 :=
  let g := d.fab.groupSize
  let owned (b : PlanBucket) : List Dyad :=
    let i := ownedShard g d.fab.flatIndex b.id
    match (st.bucket b.id).bind fun x => x.shards.find? fun sh => sh.shard == i with
    | none => []
    | some sh => (sh.acc.take (b.shardElems g i).2).map ofW32
  w32Scale (canonSum (squares ((p.bucketPlan.filter fun b => b.ord == ord).flatMap owned))) (-2 * sigma)

/-- Every bucketed tensor has been released and every bucket of the plan is reduced. -/
def Program.allReduced (p : Program) (st : StepState) : Bool :=
  p.bucketPlan.all fun b => (st.bucket b.id).any fun x => x.state == .done

/-- The member's squared-norm partial. -/
def Device.normPartial (d : Device) (p : Program) (st : StepState) : Word32 :=
  (p.releasedDescs.mapIdx fun o x => (o, x)).foldl (fun acc (o, x) =>
    if x.bucketed then w32Add acc (d.tensorNorm p st o (p.sigmaOf x.tensor)) else acc) 0

/-- The clip factor of a step received or formed here (R206). -/
def Device.setClip (d : Device) (k : Fin 16) (s : Nat) (n2 f : Word32) (sats : Nat) : Device :=
  let d := { d with tun := { d.tun with clip := f, n2 := n2 } }
  d.updStep k s fun st => { st with clip := some (n2, f, BitVec.ofNat 32 sats) }

/-- f from N2 (R206). -/
def GxConfig.clipFactor (c : GxConfig) (n2 : Word32) : Word32 :=
  let t := z16ToW32 c.clipNorm
  if c.normMode = 1 ∨ !((ofW32 (w32Mul t t)).lt (ofW32 n2)) then w32One else w32Mul t (wRsqrt n2)

/-- A record of a norm partial or of a clip factor. -/
def normFields (s src : Nat) (v : Word32) (sats : Nat) : List Byte := bytesOf 4 s ++ bytesOf 2 src ++ bytesOf 4 v.toNat ++ bytesOf 4 sats

/-- Members of a group in a domain, in flat order. -/
def Fabric.groupIn (f : Fabric) (g dom : Nat) : List Nat := f.ranks fun m => m.domain.toNat == dom && m.group.toNat == g

def Fabric.groupOf (f : Fabric) (r : Nat) : Nat := ((f.member r).map fun m => m.group.toNat).getD 0
def Fabric.domainOf (f : Fabric) (r : Nat) : Nat := ((f.member r).map fun m => m.domain.toNat).getD 0

/-- Domains that hold members of a group, in order. -/
def Fabric.domainsOf (f : Fabric) (g : Nat) : List Nat := f.domains.filter fun x => !(f.groupIn g x).isEmpty

/-- The lateness of a manager's message about a step. -/
def Device.managerLate (d : Device) (s : Nat) : Bool := match d.jobProgram with | some (k, _) => d.stepLate k s | none => true

/-- Partials of ranks in order, once all are there. -/
def Tundish.partialsOf (t : Tundish) (s : Nat) (dom : Bool) (rs : List Nat) : Option (List NormPartial) :=
  let got := rs.filterMap fun r => t.partials.find? fun x => x.step == s && x.domain == dom && x.rank == r
  if got.length = rs.length then some got else none

def sumPartials (ps : List NormPartial) : Word32 × Nat :=
  ps.foldl (fun acc x => (w32Add acc.1 x.value, min (acc.2 + x.sats) 0xFFFFFFFF)) (0, 0)

def Tundish.dropPartials (t : Tundish) (s : Nat) (dom : Bool) (rs : List Nat) : Tundish :=
  { t with partials := t.partials.filter fun x => !(x.step == s && x.domain == dom && rs.contains x.rank) }

/-- The total of a domain reaches the top manager: with all of the group's, the clip factor is formed and multicast. -/
def Device.normDomain (d : Device) (s src : Nat) (v : Word32) (sats : Nat) : Device :=
  let d := { d with tun := { d.tun with partials := d.tun.partials ++ [({ step := s, rank := src, domain := true, value := v, sats := sats } : NormPartial)] } }
  let g := d.fab.groupOf src
  let firsts := (d.fab.domainsOf g).map fun x => (d.fab.groupIn g x).headD 0
  match d.tun.partialsOf s true firsts with
  | none => d
  | some ps =>
    let (n2, total) := sumPartials ps
    let cfg : GxConfig := ((d.jobProgram.map Prod.snd).map Program.gx).getD {}
    let f := cfg.clipFactor n2
    let d := { d with tun := d.tun.dropPartials s true firsts }
    let me := d.fab.rank.toNat
    let members := d.fab.groupRanks g
    let d := d.sendRecords (members.filter (· != me)) .clipFactor
      (bytesOf 4 s ++ bytesOf 4 n2.toNat ++ bytesOf 4 f.toNat ++ bytesOf 4 total) (d.managerLate s)
    match members.contains me, d.jobProgram with
    | true, some (k, _) => d.setClip k s n2 f total
    | _, _ => d

/-- A member's partial reaches its domain manager: with all of the group's in the domain, the total goes on. -/
def Device.normMember (d : Device) (s src : Nat) (v : Word32) (sats : Nat) : Device :=
  let d := { d with tun := { d.tun with partials := d.tun.partials ++ [({ step := s, rank := src, domain := false, value := v, sats := sats } : NormPartial)] } }
  let rs := d.fab.groupIn (d.fab.groupOf src) (d.fab.domainOf src)
  match d.tun.partialsOf s false rs with
  | none => d
  | some ps =>
    let (total, n) := sumPartials ps
    let d := { d with tun := d.tun.dropPartials s false rs }
    let first := rs.headD 0
    if d.fab.isTop then d.normDomain s first total n
    else match d.fab.topManager with
      | some t => d.sendRecord t .normPartial (normFields s first total n) (d.managerLate s)
      | none => d

/-- The member's partial sent once every bucket is reduced; a device that is a member of no job sums its own alone. -/
def Device.normCheck (d : Device) (k : Fin 16) (s : Nat) : Device :=
  match d.progs[k] with
  | none => d
  | some p =>
    match p.stepAt s with
    | none => d
    | some st =>
      if p.gx.normMode = 0 ∨ st.normSent ∨ !p.allReduced st then d
      else
        let v := d.normPartial p st
        let d := d.updStep k s fun st => { st with normSent := true, clipSince := d.tb.now }
        let me := d.fab.rank.toNat
        if !d.joined then d.setClip k s v (p.gx.clipFactor v) st.b8Sat
        else if d.fab.isDomainManager then d.normMember s me v st.b8Sat
        else match d.fab.domainManager d.fab.myDomain with
          | some m => d.sendRecord m .normPartial (normFields s me v st.b8Sat) (d.stepLate k s)
          | none => d

/-! ### Rings and trees (R191, R192, R195) -/

/-- A bucket whose shards are all finished and whose hops are all acknowledged is DONE (R207). -/
def Device.bucketCheck (d : Device) (k : Fin 16) (s id : Nat) : Device :=
  match d.progs[k] with
  | none => d
  | some p =>
    match (p.stepAt s).bind fun st => st.bucket id with
    | none => d
    | some b =>
      if b.state == .reducing && b.unacked == 0 && b.shards.all ShardState.finished then
        let d := { d with tun := { d.tun with reduced := bump d.tun.reduced } }
        let d := d.updStep k s (updBucket id fun b => { b with state := .done })
        (d.formGrad k p s b).normCheck k s
      else d

/-- What a participant of the tree does next (R192): wait for the hop of a level, send at a level, or hold the group sum. -/
inductive TreeMove where
  | wait (level : Nat) | send (level p : Nat) | keep
deriving DecidableEq, Repr, Inhabited

/-- The next move of participant `p` of `dn` at or above a level. -/
def treeMove (dn p : Nat) : Nat → Nat → TreeMove
  | 0, _ => .keep
  | fuel + 1, l =>
    if dn ≤ 2 ^ l then .keep
    else if p % 2 ^ (l + 1) = 2 ^ l then .send l (p - 2 ^ l)
    else if p + 2 ^ l < dn then .wait l
    else treeMove dn p fuel (l + 1)

/-- Where a member stands in the reduction of a shard: segment, domain ordinal of the owner, index in the segment's ring, and
rotated index in the tree. -/
structure ShardPlace where
  seg : Nat
  root : Nat
  j : Nat
  p : Nat
deriving DecidableEq, Repr, Inhabited

def Device.shardPlace (d : Device) (id i : Nat) : ShardPlace :=
  let n := max 1 d.fab.ringSize
  let dn := max 1 d.fab.groupDomains
  let o := shardOwner (max 1 d.fab.groupSize) i id
  let seg := o % n
  let root := o / n
  { seg := seg, root := root, j := (d.fab.position + n - (seg + 1) % n) % n
    p := (d.fab.domainOrdinal + dn - root) % dn }

/-- A shard's partial sent as a hop: S1 blocks as compressed on the first hop of a ring, W32 for a cold or W32 bucket, B8
otherwise (*Wire modes*). DESIGN CHOICE: where a segment has several shards, each goes in a message of its own (R198; log entry 139). -/
def Device.sendHop (d : Device) (k : Fin 16) (p : Program) (st : StepState) (b : Bucket) (i hop dst root : Nat) (ws : List Word32) :
    Device :=
  let g := d.fab.groupSize
  let blk := shardStart (blocksOf b.length) g i
  let cnt := shardCount (blocksOf b.length) g i
  let x := p.released b.ord
  let c := ((st.table.map fun t => t.code b.ord)).getD 0
  let mode := if b.cold ∨ b.wire = .w32 then 0 else if b.wire = .s1 ∧ hop = 0 then 2 else 1
  let (payload, sat) :=
    if mode = 0 then (w32Bytes ws, 0)
    else if mode = 2 then ((b.s1.drop (34 * blk)).take (34 * cnt), 0)
    else encodeB8 p.seed c st.step b.id hop (256 * blk) ws
  let seg := (d.shardPlace b.id i).seg
  let bs := hopHeader st.step b.id hop mode seg root blk cnt d.fab.flatIndex ++ payload
  let d := d.updStep k st.step (updBucket b.id fun b => { b with unacked := b.unacked + 1 })
  let d := { d with tun := { d.tun with txBytes := satAdd d.tun.txBytes bs.length, encodeSat := satAdd d.tun.encodeSat sat } }
  (d.countB8 k st.step sat x c).sendMsg (d.fab.atFlat dst) (.hop k.val st.step b.id) bs (d.stepLate k st.step) false

/-- A shard whose ring is complete here goes on in the tree from a level. -/
def Device.treeStep (d : Device) (k : Fin 16) (p : Program) (st : StepState) (b : Bucket) (i level : Nat) (acc : List Word32) : Device :=
  let pl := d.shardPlace b.id i
  let n := max 1 d.fab.ringSize
  let dn := max 1 d.fab.groupDomains
  let put (d : Device) (l : Nat) (fin : Bool) : Device := d.updStep k st.step (updBucket b.id fun b => b.updShard i fun s =>
    { s with acc := acc, ringDone := true, level := l, finished := fin })
  match treeMove dn pl.p 64 level with
  | .keep => put d level true
  | .wait l => put d l false
  | .send l q => (put d l true).sendHop k p st b i (256 + l) ((q + pl.root) % dn * n + pl.seg) pl.root acc

/-- A member holds its sum of a shard at its place in the ring: sent on, or kept by the last member, where the tree begins. -/
def Device.ringStep (d : Device) (k : Fin 16) (p : Program) (st : StepState) (b : Bucket) (i : Nat) (acc : List Word32) : Device :=
  let pl := d.shardPlace b.id i
  let n := max 1 d.fab.ringSize
  if pl.j + 1 = n then d.treeStep k p st b i 0 acc
  else
    let d := d.updStep k st.step (updBucket b.id fun b => b.updShard i fun s => { s with acc := acc, finished := true })
    d.sendHop k p st b i pl.j (d.fab.domainOrdinal * n + (d.fab.position + 1) % n) 0 acc

/-- The own contribution to a shard. -/
def Bucket.ownShard (b : Bucket) (g i : Nat) : List Word32 :=
  (b.own.drop (256 * shardStart (blocksOf b.length) g i)).take (256 * shardCount (blocksOf b.length) g i)

/-! ### Reduction begins (R186, R194, R196, R201) -/

/-- The error memory of a bucket written, from its first element up (R196, R201). -/
def Device.writeErrmem (d : Device) (p : Program) (b : Bucket) (zs : List Word16) : Device :=
  d.objStore p.gx.errmem (2 * (p.errmemAt b.ord + b.first)) (zs.flatMap fun z => bytesOf 2 z.toNat)

/-- A value that saturated or underflowed to zero. -/
def HistAdd.lossy (a : HistAdd) : Bool := a.outcome == 1 || a.outcome == 2

/-- An S1 bucket compressed: the value that enters the sums, and the error memory (R196). The write of the error memory is no
observation point of R76, so of it only saturations and underflows are counted (R45, R66; log entry 18). -/
def Device.compress (d : Device) (k : Fin 16) (p : Program) (s : Nat) (b : Bucket) : Device × Bucket :=
  let x := p.released b.ord
  let s1 := (chunksOf 256 (b.own.length + 1) b.own).flatMap s1Block
  let dec := decodeHop 2 0 s1
  let sigma := p.sigmaOf x.tensor
  let errs := (b.own.zip dec).map fun (v, w) => tSub (plain v) (plain w)
  let errs := errs.map fun t => Traced.exact (t.value.scale (-sigma)) [t]
  let (zs, hs) := narrowZ16 x (p.updRule x s .errorMemory) b.first (errs.take b.length)
  let d := (d.writeErrmem p b zs).countLive k s (hs.filter HistAdd.lossy)
  (d.updStep k s (updBucket b.id fun b => { b with own := dec, s1 := s1 }), { b with own := dec, s1 := s1 })

/-- A full bucket whose table entry is held begins its rings. -/
def Device.startBucket (d : Device) (k : Fin 16) (p : Program) (st : StepState) (b : Bucket) (t : ScaleTable) : Device :=
  let g := d.fab.groupSize
  let x := p.released b.ord
  let moved := p.rescales.any fun r => r.1 == x.tensor && r.2.1 == st.step
  let cold := t.isNone b.ord || moved
  let d := if cold then
      { d with tun := { d.tun with cold := bump d.tun.cold } }.raiseOnce k st.step 0x0302 noLane .info k.val 0 srcGx
    else d
  let b := { b with cold := cold, state := .reducing, since := d.tb.now }
  let zeros := List.replicate b.length (0 : Word16)
  let (d, b) :=
    if b.wire = .s1 then
      if cold ∨ g ≤ 1 then (d.writeErrmem p b zeros, b) else d.compress k p st.step b
    else (d, b)
  let live := (List.range g).filter fun i => decide (0 < shardCount (blocksOf b.length) g i)
  let b := { b with shards := live.map fun i => { shard := i } }
  let d := d.updStep k st.step (updBucket b.id fun _ => b)
  let d := live.foldl (fun d i =>
    if (d.shardPlace b.id i).j = 0 then d.ringStep k p st b i (b.ownShard g i) else d) d
  d.bucketCheck k st.step b.id

/-- BUCKET_REDUCE_START (R186); the reduction datapath runs in lockstep (R394). -/
def Device.bucketReduceStart (k : Fin 16) (s id : Nat) (lockstep : Bool) (d : Device) : Device :=
  match d.progs[k] with
  | none => d
  | some p =>
    match p.stepAt s with
    | none => d
    | some st =>
      match st.bucket id, st.table with
      | some b, some t =>
        if b.state == .full && !d.tun.faulted && d.resourcesFree k st [8] then d.inLockstep lockstep fun d => d.startBucket k p st b t else d
      | _, _ => d

def execBucketReduceStart (slot : Fin 16) (step : Word32) (bucket : Nat) (lockstep : Bool) (s : State) : Answer :=
  s.act (Device.bucketReduceStart slot step.toNat bucket lockstep)

/-! ### Hops received (R191, R192, R207, R208) -/

/-- Shards from the first of a list on whose blocks add up to at most `n`. -/
def shardsWithin (p g : Nat) : Nat → List Nat → List Nat
  | _, [] => []
  | n, i :: r => if shardCount p g i ≤ n then i :: shardsWithin p g (n - shardCount p g i) r else []

/-- Shards that a hop carries: consecutive ones of its segment, and of its root in a tree, from FIRST_BLOCK on (R198). -/
def Device.hopShards (d : Device) (b : PlanBucket) (h : HeldHop) (count : Nat) : List Nat :=
  let g := d.fab.groupSize
  let p := blocksOf b.length
  shardsWithin p g count <| (List.range g).filter fun i =>
    let pl := d.shardPlace b.id i
    decide (0 < shardCount p g i) && pl.seg == h.segment && (decide (h.hop < 256) || pl.root == h.root)
      && decide (h.firstBlock ≤ shardStart p g i)

/-- Blocks a hop's payload carries. -/
def HeldHop.count (h : HeldHop) : Nat := h.payload.length / blockBytes h.mode.toNat

/-- The hop is one this member receives at its place: in its ring, or at a level of its tree. -/
def Device.hopExpected (d : Device) (b : PlanBucket) (h : HeldHop) (i : Nat) : Bool :=
  let pl := d.shardPlace b.id i
  let dn := d.fab.groupDomains
  if h.hop < 256 then pl.j == h.hop + 1
  else
    let l := h.hop - 256
    let n := max 1 d.fab.ringSize
    decide (pl.j + 1 = n) && pl.p % 2 ^ (l + 1) == 0 && decide (pl.p + 2 ^ l < dn)

/-- A reduction hop fits the plan (R185, R198). -/
def Device.hopFits (d : Device) (p : Program) (h : HeldHop) (count : Nat) : Bool :=
  match p.bucketPlan[h.bucket]? with
  | none => false
  | some b =>
    let g := d.fab.groupSize
    let ss := d.hopShards b h count
    decide (h.hop ≤ 254 ∨ (256 ≤ h.hop ∧ h.hop ≤ 261)) && decide (h.mode.toNat ≤ 2)
      && h.payload.length == count * blockBytes h.mode.toNat && !ss.isEmpty
      && (ss.head?.map fun i => shardStart (blocksOf b.length) g i) == some h.firstBlock
      && sumOf (fun i => shardCount (blocksOf b.length) g i) ss == count && ss.all (d.hopExpected b h)

/-- A handoff fits the plan, and its elements are ones this member rule-owns (R198, R218). -/
def Device.handoffFits (d : Device) (p : Program) (h : HeldHop) (count : Nat) : Bool :=
  match p.bucketPlan[h.bucket]? with
  | none => false
  | some b =>
    let e := b.first + 256 * h.firstBlock
    h.hop == 512 && h.mode == 3 && h.payload.length == 512 * count && decide (0 < count)
      && decide (h.firstBlock + count ≤ blocksOf b.length)
      && p.elementOwner d.fab.groupSize b.ord (e / blockElems * blockElems) == d.fab.flatIndex

/-- The bucket is reducing and each shard of the hop waits for it. -/
def Device.hopReady (d : Device) (k : Fin 16) (p : Program) (st : StepState) (h : HeldHop) : Bool :=
  match p.bucketPlan[h.bucket]?, st.bucket h.bucket with
  | some pb, some b =>
    b.state == .reducing && d.resourcesFree k st [8] && (d.hopShards pb h h.count).all fun i =>
      (b.shards.find? fun sh => sh.shard == i).any fun sh =>
        !sh.finished && (if h.hop < 256 then !sh.ringDone else
          sh.ringDone && treeMove (max 1 d.fab.groupDomains) (d.shardPlace pb.id i).p 64 sh.level == .wait (h.hop - 256))
  | _, _ => false

/-- The part of a hop for one shard, from block `at'` of the hop on, decoded and added (R191, R192). -/
def Device.addShard (d : Device) (k : Fin 16) (p : Program) (s : Nat) (h : HeldHop) (ws : List Word32) (at' i : Nat) : Device :=
  match (d.progs[k]).bind fun p => p.stepAt s with
  | none => d
  | some st =>
    match st.bucket h.bucket with
    | none => d
    | some b =>
      let g := d.fab.groupSize
      let part := (ws.drop (256 * at')).take (256 * shardCount (blocksOf b.length) g i)
      let add (xs ys : List Word32) : List Word32 := (xs.zip ys).map fun (x, y) => w32Add x y
      if h.hop < 256 then d.ringStep k p st b i (add part (b.ownShard g i))
      else
        let acc := ((b.shards.find? fun sh => sh.shard == i).map ShardState.acc).getD []
        d.treeStep k p st b i (h.hop - 256 + 1) (add acc part)

/-- Received B8 bytes of 0x80. -/
def minus128 (bs : List Byte) : Nat := (bs.filter (· == 0x80)).length

/-- A hop whose turn has come. -/
def Device.takeHop (d : Device) (k : Fin 16) (p : Program) (st : StepState) (h : HeldHop) : Device :=
  match p.bucketPlan[h.bucket]? with
  | none => d
  | some pb =>
    let c := (st.table.map fun t => t.code pb.ord).getD 0
    let bad := if h.mode = 1 then minus128 h.payload else 0
    let d := { d with tun := { d.tun with rxMinus128 := satAdd d.tun.rxMinus128 bad } }
    let d := d.countB8 k st.step bad (p.released pb.ord) c
    let ws := decodeHop h.mode.toNat c h.payload
    let n (i : Nat) : Nat := shardCount (blocksOf pb.length) d.fab.groupSize i
    let ss := d.hopShards pb h h.count
    let placed := ss.mapIdx fun j i => (sumOf n (ss.take j), i)
    (placed.foldl (fun d x => d.addShard k p st.step h ws x.1 x.2) d).bucketCheck k st.step h.bucket

/-- A handoff can be placed: the units of its tensor exist. -/
def handoffReady (p : Program) (st : StepState) (h : HeldHop) : Bool :=
  (p.bucketPlan[h.bucket]?).any fun b => st.releasedOrds.contains b.ord

/-- Handed-off values placed by element index (R218). -/
def Device.takeHandoff (d : Device) (k : Fin 16) (p : Program) (s : Nat) (h : HeldHop) : Device :=
  match p.bucketPlan[h.bucket]? with
  | none => d
  | some b =>
    let n := min (256 * h.count) (b.length - 256 * h.firstBlock)
    let vs := ((numbersOf 2 h.payload).take n).mapIdx fun i v => (b.first + 256 * h.firstBlock + i, BitVec.ofNat 16 v)
    let idx := (vs.map fun v => v.1 / blockElems).eraseDups
    let d := { d with tun := { d.tun with handoffRx := satAdd d.tun.handoffRx n } }
    idx.foldl (fun d i =>
      let part := vs.filter fun v => v.1 / blockElems == i
      let add (u : UpdUnit) : UpdUnit := { u with grad := u.grad ++ part }
      d.updStep k s fun st => { st with units := updFirst (fun u => u.ord == b.ord && u.index == i) add st.units }) d

/-- Bytes the receive buffer holds, and its size (R208). -/
def Device.rxHeld (d : Device) : Nat :=
  sumOf (fun h => 32 + h.payload.length) d.tun.held + sumOf (fun r => 2 * r.2.2.2.2.length) d.tun.heldRanges
    + sumOf (fun t => t.bytes.length) d.fab.heldTransfers

def Tundish.rxCapacity (t : Tundish) : Nat := (if t.rxbufMib = 0 then 64 else t.rxbufMib.toNat) * 1048576

def Device.rxFull (d : Device) : Bool := decide (d.tun.rxCapacity ≤ d.rxHeld)

def heldHop (m : HopMsg) (k : Nat) : HeldHop :=
  { program := k, step := m.step.toNat, bucket := m.bucket.toNat, hop := m.hop.toNat, mode := m.mode, segment := m.segment.toNat
    root := m.root.toNat, firstBlock := m.firstBlock.toNat, sender := m.sender.toNat, payload := m.payload }

/-- A hop or handoff is to be held, and the receive buffer is full: it waits at its sender (R208, R361). -/
def Device.hopWaits (m : HopMsg) (ready : Device → Fin 16 → Program → StepState → HeldHop → Bool) (d : Device) (k : Fin 16)
    (p : Program) : Bool :=
  d.rxFull && (match p.stepAt m.step.toNat with
    | some st => !ready d k p st (heldHop m k.val)
    | none => !decide (m.step.toNat < p.nextStep))

/-- A hop or handoff that fits: taken at once when its turn has come, held otherwise; with the buffer full it waits at its sender
(R208); one of a step that has ended is dropped. -/
def Device.receiveHop (m : HopMsg) (ready : Device → Fin 16 → Program → StepState → HeldHop → Bool)
    (take : Device → Fin 16 → Program → StepState → HeldHop → Device) (d : Device) (k : Fin 16) (p : Program) : Device :=
  let h := heldHop m k.val
  let rx (d : Device) : Device := { d with tun := { d.tun with rxBytes := satAdd d.tun.rxBytes (32 + m.payload.length) } }
  match p.stepAt h.step with
  | some st =>
    if ready d k p st h then
      let since := ((st.bucket h.bucket).map Bucket.since).getD d.tb.now
      take ((rx d).notePeerLate k h.step since (d.fab.atFlat h.sender) m.late) k p st h
    else if d.rxFull then d
    else { rx d with tun := { (rx d).tun with held := d.tun.held ++ [h] } }
  | none =>
    if h.step < p.nextStep then rx d
    else if d.rxFull then d
    else { rx d with tun := { (rx d).tun with held := d.tun.held ++ [h] } }

/-- HOP_RECEIVE (R191, R192, R207, R394); in HOLD no bucket stands, and what arrives is discarded (R371). -/
def Device.hopReceive (m : HopMsg) (lockstep : Bool) (d : Device) : Device :=
  match d.jobProgram with
  | none => d.planMismatch m.step.toNat
  | some (k, p) =>
    if !d.joined || d.fab.job == .hold then d
    else if d.hopFits p (heldHop m k.val) m.blockCount.toNat then
      d.receiveHop m Device.hopReady (fun d k p st h => d.inLockstep lockstep fun d => d.takeHop k p st h) k p
    else d.planMismatch m.step.toNat

def execHopReceive (msg : HopMsg) (lockstep : Bool) (s : State) : Answer := s.act (Device.hopReceive msg lockstep)

/-- HANDOFF_RECEIVE (R218). -/
def Device.handoffReceive (m : HopMsg) (d : Device) : Device :=
  match d.jobProgram with
  | none => d.planMismatch m.step.toNat
  | some (k, p) =>
    if !d.joined || d.fab.job == .hold then d
    else if d.handoffFits p (heldHop m k.val) m.blockCount.toNat then
      d.receiveHop m (fun _ _ p st h => handoffReady p st h) (fun d k p st h => d.takeHandoff k p st.step h) k p
    else d.planMismatch m.step.toNat

def execHandoffReceive (msg : HopMsg) (s : State) : Answer := s.act (Device.handoffReceive msg)

/-- HELD_HOP_PROCESS: hop `n` of the receive buffer, once its turn has come. -/
def Device.heldHopProcess (n : Nat) (lockstep : Bool) (d : Device) : Device :=
  match d.tun.held[n]? with
  | none => d
  | some h =>
    match asFin 16 h.program with
    | none => d
    | some k =>
      match d.progs[k] with
      | none => d
      | some p =>
        match p.stepAt h.step with
        | none => d
        | some st =>
          let d' := { d with tun := { d.tun with held := d.tun.held.eraseIdx n } }
          if h.hop = 512 then (if handoffReady p st h then d'.takeHandoff k p st.step h else d)
          else if d.hopReady k p st h then d'.inLockstep lockstep fun d => d.takeHop k p st h else d

def execHeldHopProcess (n : Nat) (lockstep : Bool) (s : State) : Answer := s.act (Device.heldHopProcess n lockstep)

/-! ### Release (R127, R171-R175, R183, R184) -/

/-- The read-and-zero of a fold in overflow joins the queues of the controllers that hold it, 64 entries a group (R172, R311; log entry 149). -/
def Device.zeroFold (d : Device) (k : Fin 16) (o : Obj) (r : Region) (off : Nat) : Device :=
  let bytes := 4 * (r.foldRows * r.foldCols)
  (List.range (ceilDiv bytes 256)).foldl (fun d i =>
    let at' := off + 256 * i
    d.sendGroup none o
      { addr := o.base + at', addends := [], slot := k.val, handle := r.handle.toNat, zero := min 256 (bytes - 256 * i) } at') d

/-- The crucible and overflow entries of a region written to zero (R172). -/
def Device.zeroRegion (d : Device) (k : Fin 16) (p : Program) (r : Region) : Device :=
  let zero (d : Device) (pl : FoldPlace) : Device :=
    match pl, d.obj? p.stash.overflow with
    | .overflow off, some o => d.zeroFold k o r off
    | .overflow _, none => d
    | .slot _ _ _ _, _ => d
  let d := r.places.foldl zero d
  d.updProg k fun p => p.updRegion r.handle Region.clear

/-- A contribution x_i: 2^σ times the gradient, for S1 with the error memory added (R183). -/
def contribution (sigma : Int) (g : Word32) (e : Option Word16) : Word32 × Outcome :=
  let w := match e with | some z => w32Add g (z16ToW32 z) | none => g
  let (c, o) := Fmt.w32.round .rne ((ofW32 w).scale sigma)
  (BitVec.ofNat 32 c, o)

/-- Every contribution of a tensor with its observation. -/
def Device.contributions (d : Device) (p : Program) (ord : Nat) (x : Desc) (gs : List Word32) : List (Word32 × Outcome) :=
  let sigma := p.sigmaOf x.tensor
  let err (i : Nat) : Option Word16 :=
    if p.gx.wireOf x.tensor = .s1 then
      (d.obj? p.gx.errmem).map fun o => BitVec.ofNat 16 (ofBytes (d.objBytes o (2 * (p.errmemAt ord + i)) 2))
    else none
  gs.mapIdx fun i g => contribution sigma g (err i)

/-- A full bucket waits for its table (R202, R216). -/
def Device.noteScaleWait (d : Device) (k : Fin 16) (s : Nat) : Device :=
  match d.stepOf k s with
  | none => d
  | some st =>
    if st.table.isSome || !(st.buckets.any fun b => b.state == .full) then d
    else
      let d := d.updStep k s fun st => { st with scaleSince := some (st.scaleSince.getD d.tb.now) }
      d.raiseOnce k s 0x0304 noLane .info k.val 0 srcGx

/-- The region of a released tensor read, zeroed and bucketed. -/
def Device.releaseTensor (d : Device) (k : Fin 16) (p : Program) (s ord : Nat) (h : Handle) : Device :=
  let x := p.released ord
  match p.region h with
  | none => d
  | some r =>
    let gs := d.regionValue p r
    let d := d.zeroRegion k p r
    let d := if x.frozen then d.raiseOnce k s 0x0207 16 .info k.val 0 srcGx else d
    if !x.bucketed then d.updStep k s fun st => { st with releasedOrds := st.releasedOrds ++ [ord] }
    else
      let xs := d.contributions p ord x gs
      let d := d.countLive k s (xs.map fun c => histOf x.tensor 1 c.2 (ofW32 c.1))
      let bucket (b : PlanBucket) : Bucket :=
        { id := b.id, ord := ord, first := b.first, length := b.length, wire := p.gx.wireOf x.tensor, state := .full
          own := padTo (256 * blocksOf b.length) (((xs.drop b.first).take b.length).map Prod.fst) }
      let unit' (u : Nat × Nat × Nat) : UpdUnit := { ord := ord, index := u.1, first := u.2.1, length := u.2.2 }
      let us := if x.frozen then [] else (p.ruleRuns d.fab.groupSize d.fab.flatIndex ord x).map unit'
      let d := d.updStep k s fun st =>
        { st with
          releasedOrds := st.releasedOrds ++ [ord]
          buckets := st.buckets ++ (p.bucketPlan.filter fun b => b.ord == ord).map bucket
          units := st.units ++ us }
      d.noteScaleWait k s

/-- The layer scales of a step stand: the choice due before it has been made (R73). -/
def Program.sigmaStands (p : Program) (s : Nat) : Bool :=
  p.sigmaPeriod == 0 || s == p.firstStep || s % p.sigmaPeriod != 0
    || (p.sigmaDue.isNone && p.steps.all fun t => decide (s ≤ t.step))

/-- Regions of a tie group, in increasing order of use handle (R173, R174). -/
def tieUses (ds : List Desc) (group : Word16) : List Handle :=
  (ds.mapIdx fun i x => (i, x)).filterMap fun (i, x) => if x.tieGroup == group then some (BitVec.ofNat 12 i) else none

/-- The regions of a TTIE added into that of the lowest handle, and the others zeroed (R174). -/
def Device.tieRegions (d : Device) (k : Fin 16) (p : Program) (s : Nat) (group : Word16) : Device :=
  match (tieUses p.descs group).filterMap p.region with
  | [] => d
  | r :: rest =>
    let add (acc : List Word32) (x : Region) : List Word32 := (acc.zip (d.regionValue p x)).map fun (a, b) => w32Add a b
    let sum := rest.foldl add (d.regionValue p r)
    let d := rest.foldl (fun d x => d.zeroRegion k p x) d
    -- the sum stands in the region of the lowest handle, its overflow entries in OVERFLOW_OBJECT
    let overflowing := (List.range sum.length).filterMap fun e => (r.overflowAt e).map fun off => (off, sum.getD e 0)
    let d := overflowing.foldl (fun d x => d.objStore p.stash.overflow x.1 (bytesOf 4 x.2.toNat)) d
    let cells := sum.mapIdx fun e w => if (r.overflowAt e).isSome then 0 else w
    d.updProg k fun p => p.updRegion r.handle fun r => { r with cells := cells, step := some s }

/-- Regions an instruction of the U lane reads. -/
def Program.regionsRead (p : Program) : Byquel → List Region
  | .ttie g _ => (tieUses p.descs g).filterMap p.region
  | .tred _ _ _ _ ha _ => (p.region ha).toList
  | _ => []

/-- Every region an instruction reads is final; the sum of a TTIE stands for its group (R171, R174). -/
def Program.readsFinal (p : Program) (s : Nat) (i : Byquel) : Bool := (p.regionsRead i).all (p.regionFinal s)

/-- The Tundish does the work of a TTIE or TRED GRAD. -/
def Device.readRegions (d : Device) (k : Fin 16) (p : Program) (s : Nat) : Byquel → Device
  | .ttie g _ => d.tieRegions k p s g
  | .tred _ _ _ _ ha _ =>
    match p.releasedHandles.findIdx? (· == ha) with
    | some ord => d.releaseTensor k p s ord ha
    | none => d
  | _ => d

/-- A TTIE or TRED GRAD issues: at once when its regions are final and none before it waits; otherwise it waits, with
REGION_EARLY the first time a region is not final (R171). -/
def Device.uRead (d : Device) (k : Fin 16) (p : Program) (st : StepState) (l : LaneState) (c : Current) (errs : List WordError)
    (lockstep : Bool) : Device :=
  let i := c.instr.instr
  let waits := l.inflight.any InFlight.early
  if l.hazard st.descs c || !p.sigmaStands st.step then d
  else
    let final := p.readsFinal st.step i
    if final && !waits then
      d.consume errs fun d => d.inLockstep lockstep fun d => (d.readRegions k p st.step i).passBy k st.step 16
    else
      let fl : InFlight := { word := c.instr.word, instr := i, mb := l.mb, early := true }
      let d := d.updLane k st.step 16 fun l => { l.advance with inflight := l.inflight ++ [fl] }
      if final then d else d.raiseOnce k st.step 0x0208 16 .warn k.val 0 srcGx

/-- TRED GRAD of the U lane (R127, R171, R183). -/
def Device.tredGrad (k : Fin 16) (s : Nat) (errs : List WordError) (lockstep : Bool) (d : Device) : Device :=
  d.atInstr k s 16 (fun i => match i with | .tred md .. => md == 7 | _ => false) fun p st l c d =>
    d.uRead k p st l c errs lockstep

def execTredGrad (slot : Fin 16) (step : Word32) (errs : List WordError) (lockstep : Bool) (s : State) : Answer :=
  s.act (Device.tredGrad slot step.toNat errs lockstep)

/-- TTIE (R174). -/
def Device.ttie (k : Fin 16) (s : Nat) (errs : List WordError) (lockstep : Bool) (d : Device) : Device :=
  d.atInstr k s 16 (fun i => match i with | .ttie _ _ => true | _ => false) fun p st l c d =>
    d.uRead k p st l c errs lockstep

def execTtie (slot : Fin 16) (step : Word32) (errs : List WordError) (lockstep : Bool) (s : State) : Answer :=
  s.act (Device.ttie slot step.toNat errs lockstep)

/-- REGION_FINAL_RELEASE: the first TTIE or TRED GRAD that waits reads its regions once they are final. -/
def Device.regionFinalRelease (k : Fin 16) (s : Nat) (errs : List WordError) (lockstep : Bool) (d : Device) : Device :=
  match d.progs[k] with
  | none => d
  | some p =>
    match p.stepAt s with
    | none => d
    | some st =>
      match (st.lane 16).inflight.find? InFlight.early with
      | none => d
      | some fl =>
        if p.state == .running && !d.tun.faulted && !d.sec.hold && p.readsFinal s fl.instr then
          d.consume errs fun d => d.inLockstep lockstep fun d =>
          let d := d.updLane k s 16 fun l => { l with inflight := l.inflight.erase fl }
          let d := d.readRegions k p s fl.instr
          match d.stepOf k s with
          | none => d
          | some st => if (st.lane 16).wait == .stream && (st.lane 16).inflight.isEmpty then d.passBy k s 16 else d
        else d

def execRegionFinalRelease (slot : Fin 16) (step : Word32) (errs : List WordError) (lockstep : Bool) (s : State) : Answer :=
  s.act (Device.regionFinalRelease slot step.toNat errs lockstep)

end Sys2Proof.Machine
end

