-- ==== Sys2Proof/Machine/Update.lean ====
section
/-! DEFINITION. The update engine: passes over the rule-owned units (R219-R228), layer-scale rescales (R74, R75), the refresh of
PRE roots (R230, R231), and the multicast of new weights (R232, R379). -/

namespace Sys2Proof.Machine

/-! ### State arrays as memory (R229) -/

/-- Z16 values of an object. -/
def Device.readZ16 (d : Device) (id : Word32) (off n : Nat) : List Word16 :=
  match d.obj? id with
  | none => List.replicate n 0
  | some o => (numbersOf 2 (d.objBytes o off (2 * n))).map (BitVec.ofNat 16)

def z16Bytes (zs : List Word16) : List Byte := zs.flatMap fun z => bytesOf 2 z.toNat

/-- A unit of work with what its passes read. -/
structure UnitCtx where
  p : Program
  set : RuleSet
  st : StepState
  u : UpdUnit
  /-- The released descriptor. -/
  x : Desc
  rule : Rule
  consts : StepConsts
  /-- Group size and flat index. -/
  g : Nat
  f : Nat

def UnitCtx.stateOff (c : UnitCtx) (a : StateArr) : Nat := c.p.stateAt c.g c.f c.u.ord c.x a c.u.index

/-- Values of an array for the unit. -/
def UnitCtx.read (c : UnitCtx) (d : Device) (a : StateArr) (n : Nat) : List Word32 :=
  (d.readZ16 c.set.stateObject (c.stateOff a) n).map z16ToW32

/-- The same with no history. -/
def UnitCtx.load (c : UnitCtx) (d : Device) (a : StateArr) (n : Nat) : List Traced := (c.read d a n).map plain

/-- Values narrowed and written to an array: the values as written (R228). -/
def UnitCtx.write (c : UnitCtx) (k : Fin 16) (d : Device) (a : StateArr) (first : Nat) (ts : List Traced) : Device × List Word16 :=
  let (zs, hs) := narrowZ16 c.x (c.p.updRule c.x c.st.step a.use) first ts
  ((d.objStore c.set.stateObject (c.stateOff a) (z16Bytes zs)).countLive k c.st.step hs, zs)

/-- ĝ of a unit in element order. -/
def UpdUnit.values (u : UpdUnit) : List Word16 :=
  (List.range u.length).map fun i => ((u.grad.find? fun v => v.1 == u.first + i).map Prod.snd).getD 0

/-- The unit holds ĝ for all its elements. -/
def UpdUnit.complete (u : UpdUnit) : Bool := decide (u.length ≤ u.grad.length)

/-! ### Weights -/

/-- Descriptors under which a weight tensor lies, one for each place of its bytes. -/
def StepState.weightDescs (st : StepState) (tensor : Word32) : List Desc :=
  let all := st.descs.filter fun x => x.tensor == tensor && x.cls == .weight
  all.foldl (fun l x => if l.any fun y => y.object == x.object && y.offset == x.offset then l else l ++ [x]) []

/-- Elements of a weight tensor as W32 values. -/
def Device.readWeights (d : Device) (st : StepState) (tensor : Word32) (first n : Nat) : List Word32 :=
  match (st.weightDescs tensor).head? with
  | none => List.replicate n 0
  | some x =>
    match d.obj? x.object with
    | none => List.replicate n 0
    | some o => (List.range n).map fun i => toW32 (x.elem (d.rd o) ((first + i) / x.cols) ((first + i) % x.cols)).1

/-- Consecutive elements of a weight written under one descriptor: the Z16 value, narrowed once more under the rounding of the
descriptor where it is of another format (R64; log entry 24). -/
def Device.putWeights (d : Device) (x : Desc) (rule : DrawRule) (first : Nat) (zs : List Word16) : Device :=
  match x.format with
  | .z4 =>
    match d.obj? x.object with
    | none => d
    | some o =>
      let m := x.load (d.rd o)
      let row (r : Nat) : List Word32 := (List.range x.cols).map fun c =>
        let e := r * x.cols + c
        if first ≤ e ∧ e < first + zs.length then z16ToW32 (zs.getD (e - first) 0) else toW32 (m.at r c)
      let rows := (zs.mapIdx fun i _ => (first + i) / x.cols).eraseDups
      d.objStoreAll x.object (x.storeRows (d.rd o) rule (rows.map fun r => (r, row r))).1
  | .z16 => d.objStoreAll x.object ((zs.mapIdx fun i z =>
      let a := x.loc ((first + i) / x.cols) ((first + i) % x.cols)
      [(a, z.extractLsb' 0 8), (a + 1, z.extractLsb' 8 8)]).flatten)
  | f => d.objStoreAll x.object ((zs.mapIdx fun i z =>
      let a := x.loc ((first + i) / x.cols) ((first + i) % x.cols)
      let n := (f.narrow (rule.at (first + i)) (z16ToW32 z)).code
      if f.bytes = 2 then [(a, BitVec.ofNat 8 n), (a + 1, BitVec.ofNat 8 (n / 256))] else [(a, BitVec.ofNat 8 n)]).flatten)

/-- The device's copy of a weight written, wherever it lies. -/
def Device.writeWeights (d : Device) (p : Program) (st : StepState) (tensor : Word32) (first : Nat) (zs : List Word16) : Device :=
  (st.weightDescs tensor).foldl (fun d x => d.putWeights x (p.updRule x st.step .weight) first zs) d

/-- Elements from `pos` up that ranges cover without a gap. -/
def covered (rs : List (Nat × Nat)) : Nat → Nat → Nat
  | 0, pos => pos
  | fuel + 1, pos =>
    match rs.find? fun r => decide (r.1 ≤ pos ∧ pos < r.1 + r.2) with
    | some r => covered rs fuel (r.1 + r.2)
    | none => pos

/-- Elements of a released tensor that hold the step's update; with all of them the tensor reaches its next version (R177). -/
def Device.noteWritten (d : Device) (k : Fin 16) (s ord first len : Nat) : Device :=
  let d := d.updStep k s fun st => { st with written := st.written ++ [(ord, first, len)] }
  match d.progs[k] with
  | none => d
  | some p =>
    match p.stepAt s with
    | none => d
    | some st =>
      let x := p.released ord
      let rs := (st.written.filter fun w => w.1 == ord).map Prod.snd
      if x.elems ≤ covered rs (rs.length + 1) 0 ∧ p.version x.tensor = s then
        d.updProg k fun p => p.setVersion x.tensor (s + 1)
      else d

/-- The write condition of a tensor in a step (R179). -/
def Program.mayWrite (p : Program) (st : StepState) (x : Desc) : Bool :=
  st.readsLeft x.tensor == 0 && p.version x.tensor == st.step

/-! ### Layer-scale rescale (R74, R75) -/

/-- An array of a tensor multiplied by a power of two, exactly, every write observed. -/
def Device.rescaleArray (d : Device) (k : Fin 16) (p : Program) (set : RuleSet) (s ord : Nat) (x : Desc) (delta : Int)
    (a : StateArr) : Device :=
  match a.power with
  | none => d
  | some n2 =>
    let g := d.fab.groupSize
    let f := d.fab.flatIndex
    let rs := p.ruleRuns g f ord x
    match rs with
    | [] => d
    | r :: _ =>
      let off := p.stateAt g f ord x a r.1
      let old := d.readZ16 set.stateObject off (a.bytes rs / 2)
      let (zs, hs) := narrowZ16 x .rne 0 (old.map fun z => plain (w32Scale (z16ToW32 z) (n2 * delta / 2)))
      (d.objStore set.stateObject off (z16Bytes zs)).countLive k s hs

/-- The rescale of a tensor's state, once, before the first write of the step in which its new scale takes effect. -/
def Device.rescale (d : Device) (k : Fin 16) (s ord : Nat) : Device :=
  match d.progs[k] with
  | none => d
  | some p =>
    let x := p.released ord
    match p.rules, p.rescales.find? fun r => r.1 == x.tensor && r.2.1 == s && !r.2.2.2 with
    | some set, some r =>
      let d := (p.ruleOf x).arrays.foldl (fun d a => d.rescaleArray k p set s ord x r.2.2.1 a) d
      let mark (q : Word32 × Nat × Int × Bool) : Word32 × Nat × Int × Bool :=
        if q.1 == x.tensor && q.2.1 == s then (q.1, q.2.1, q.2.2.1, true) else q
      d.updProg k fun p => { p with rescales := p.rescales.map mark }
    | _, _ => d

/-! ### The passes (R220-R222, R226) -/

/-- A unit as its passes see it. -/
def Device.unitCtx (d : Device) (k : Fin 16) (s n : Nat) : Option UnitCtx :=
  match d.progs[k] with
  | none => none
  | some p =>
    match p.stepAt s, p.rules with
    | some st, some set =>
      (st.units[n]?).map fun u =>
        let x := p.released u.ord
        let o := set.ruleOf x.tensor
        { p := p, set := set, st := st, u := u, x := x, rule := p.ruleOf x, g := d.fab.groupSize, f := d.fab.flatIndex
          consts := set.consts (st.schedule.lr s) o.wdEn o.lrMult (p.sigmaOf x.tensor) s }
    | _, _ => none

def Device.updUnit (d : Device) (k : Fin 16) (s n : Nat) (f : UpdUnit → UpdUnit) : Device :=
  d.updStep k s fun st => { st with units := st.units.modify n f }

/-- Exact values of ĝ as the rows of a block, zeros beyond the tensor (R217). -/
def blockRows (zs : List Word16) : Matrix :=
  chunksOf blockSide (blockElems + 1) ((zs.map ofZ16) ++ List.replicate (blockElems - zs.length) Dyad.zero)

/-- The pass-1 steps: second moments, statistics and factors from the unclipped gradient. -/
def UnitCtx.firstPass (c : UnitCtx) (k : Fin 16) (zs : List Word16) (d : Device) : Device :=
  let kst := c.consts
  match c.rule with
  | .adm =>
    let vs := c.load d .v c.u.length
    (c.write k d .v c.u.first ((vs.zip zs).map fun (v, z) => kst.second v (plain (z16ToW32 z)))).1
  | .fac =>
    let rows := blockRows zs
    let cols := rows.columns blockSide
    let next (a : StateArr) (vss : Matrix) (d : Device) : Device :=
      (c.write k d a (a.drawBase c.u.index) (((c.load d a blockSide).zip vss).map fun (o, vs) => kst.facStat o vs)).1
    next .c cols (next .r rows d)
  | .pre =>
    let g : WMatrix := (blockRows zs).words
    let next (a : StateArr) (gram : TMatrix) (d : Device) : Device :=
      (c.write k d a (a.drawBase c.u.index) (kst.preStat (squareOf (c.read d a blockElems)) gram).flatten).1
    next .rstat (squareMul (squareTranspose g) g) (next .lstat (squareMul g (squareTranspose g)) d)
  | _ => d

/-- The block record's VALID. -/
def UnitCtx.valid (c : UnitCtx) (d : Device) : Bool :=
  ((d.readZ16 c.set.stateObject (c.stateOff .record) 1).headD 0).getLsbD 0

/-- The pass-2 steps under a clip factor: the momentum or first moment written, and the new weights before their narrowing. -/
def UnitCtx.secondPass (c : UnitCtx) (k : Fin 16) (zs : List Word16) (f : Word32) (d : Device) : Device × List Traced :=
  let kst := c.consts
  let n := c.u.length
  let gs := zs.map fun z => tScale f (plain (z16ToW32 z))
  let ms := c.load d .m n
  let ws := (d.readWeights c.st c.x.tensor c.u.first n).map plain
  match c.rule with
  | .mom =>
    let m1 := (ms.zip gs).map fun (m, g) => kst.momentum m g
    ((c.write k d .m c.u.first m1).1, (m1.zip ws).map fun (m, w) => kst.step kst.etak m w)
  | .adm =>
    let vs := c.load d .v n
    let m1 := (ms.zip gs).map fun (m, g) => kst.moment m g
    ((c.write k d .m c.u.first m1).1, (m1.zip (vs.zip ws)).map fun (m, v, w) => kst.admWeight m v w)
  | .fac =>
    let r := c.load d .r blockSide
    let cs := c.load d .c blockSide
    let ir := kst.facInv (r.map Traced.value)
    let m1 := (ms.zip gs).map fun (m, g) => kst.moment m g
    ((c.write k d .m c.u.first m1).1,
     (m1.zip ws).mapIdx fun i (m, w) => kst.facWeight ir m (r.getD (i / blockSide) (plain 0)) (cs.getD (i % blockSide) (plain 0)) w)
  | .pre =>
    let m1 := (ms.zip gs).map fun (m, g) => kst.momentum m g
    let (d', mz) := c.write k d .m c.u.first m1
    if c.valid d then
      let mm := squareOf (padTo blockElems (mz.map z16ToW32))
      let lroot := squareOf (c.read d .lroot blockElems)
      let rroot := squareOf (c.read d .rroot blockElems)
      let dd := (squareMul (squareMul lroot mm).words rroot).flatten
      (d', (dd.zip ws).map fun (x, w) => kst.step kst.eta x w)
    else (d', (m1.zip ws).map fun (m, w) => kst.step kst.etak m w)
  | .none => (d, [])

/-- ĝ written to GRAD_OBJECT. -/
def UnitCtx.writeGrad (c : UnitCtx) (zs : List Word16) (d : Device) : Device :=
  if c.set.gradObject = 0 then d
  else d.objStore c.set.gradObject (c.p.gradAt c.g c.f c.u.ord c.x c.u.index) (z16Bytes zs)

/-! ### Multicast of new weights (R232, R379) -/

def Fabric.programOf (f : Fabric) (k : Nat) : FabProgram := (f.programs.find? fun x => x.slot == k).getD { slot := k }

/-- The message carries bytes of a multicast: its byte offset. -/
def Multicast.offsetOf (m : Multicast) : MsgKind → Option Nat
  | .mcast p s o first => if p == m.program && s == m.step && o == m.ord && decide (m.first ≤ first ∧ first < m.first + m.bytes / 2)
      then some (2 * (first - m.first)) else none
  | _ => none

/-- Bytes of a multicast that a receiver has acknowledged from its start up: up to its oldest message not acknowledged. -/
def Fabric.mcastAcked (f : Fabric) (m : Multicast) (r : BitVec 14) : Nat :=
  (f.out.filterMap fun x => if x.dst == r then m.offsetOf x.kind else none).foldl min m.sent

/-- The acknowledged bytes of each receiver brought up to date. -/
def Fabric.progress (f : Fabric) (m : Multicast) : Multicast :=
  { m with receivers := m.receivers.map fun r => (r.1, f.mcastAcked m r.1, r.2.2) }

/-- Bytes of a multicast from the device's copy. -/
def Device.mcastBytes (d : Device) (m : Multicast) (off n : Nat) : List Byte :=
  match asFin 16 m.program with
  | none => []
  | some k =>
    match (d.progs[k]).bind fun p => (p.stepAt m.step).map fun st => (p, st) with
    | none => []
    | some (p, st) =>
      let ws := d.readWeights st (p.released m.ord).tensor (m.first + off / 2) (n / 2)
      z16Bytes (ws.map fun w => (w32ToZ16 .rne w).1)

/-- The tensor a multicast carries. -/
def Device.mcastTensor (d : Device) (m : Multicast) : Word32 :=
  (((asFin 16 m.program).bind fun k => d.progs[k]).map fun p => (p.released m.ord).tensor).getD 0

def Multicast.same (a b : Multicast) : Bool := a.program == b.program && a.step == b.step && a.ord == b.ord && a.first == b.first

def Device.setMcast (d : Device) (m : Multicast) : Device := d.updFab fun f => { f with mcasts := updFirst (·.same m) (fun _ => m) f.mcasts }

/-- A multicast goes on: what its window allows is sent to every receiver not pruned; once every receiver has acknowledged all of
it, or has been pruned, the unit is DONE. -/
def Device.mcastPump (d : Device) (m : Multicast) : Device :=
  let m := d.fab.progress m
  let low := (m.receivers.filter fun r => !r.2.2).foldl (fun a r => min a r.2.1) m.bytes
  let limit := min m.bytes (low + 1024 * (d.fab.programOf m.program).windowKib)
  if m.bytes ≤ low then
    let d := d.updFab fun f => { f with mcasts := f.mcasts.filter fun x => !x.same m }
    match asFin 16 m.program with
    | none => d
    | some k => d.updStep k m.step fun st =>
        { st with units := updFirst (fun u => u.ord == m.ord && u.first == m.first) (fun u => { u with state := .done, unacked := 0 }) st.units }
  else if limit ≤ m.sent then d.setMcast m
  else
    let bs := rangeHeader (d.mcastTensor m).toNat (m.step + 1) (m.first + m.sent / 2) ++ d.mcastBytes m m.sent (limit - m.sent)
    let m' := { m with sent := limit }
    let late := match asFin 16 m.program with | some k => d.stepLate k m.step | none => true
    let d := d.setMcast m'
    (m.receivers.filter fun r => !r.2.2).foldl (fun d r =>
      d.sendMsg r.1.toNat (.mcast m.program m.step m.ord (m.first + m.sent / 2)) bs late false) d

/-- Receivers of a multicast: every other member of the group. -/
def Fabric.mcastTargets (f : Fabric) : List (BitVec 14 × Nat × Bool) :=
  (f.group.filter (· != f.rank.toNat)).map fun r => (BitVec.ofNat 14 r, 0, false)

/-- The wait for weights of other owners begins once every unit of the member is written. -/
def Device.noteRanges (d : Device) (k : Fin 16) (s : Nat) : Device :=
  d.updStep k s fun st =>
    if st.units.all fun u => u.state == .sending || u.state == .done then { st with rangeSince := some (st.rangeSince.getD d.tb.now) } else st

/-- New weights of a unit written to the device's copy and multicast. -/
def UnitCtx.publish (c : UnitCtx) (k : Fin 16) (n : Nat) (ws : List Traced) (d : Device) : Device :=
  let s := c.st.step
  let (zs, hs) := narrowZ16 c.x (c.p.updRule c.x s .weight) c.u.first ws
  let d := ((d.writeWeights c.p c.st c.x.tensor c.u.first zs).countLive k s hs).noteWritten k s c.u.ord c.u.first c.u.length
  let d := { d with tun := { d.tun with elements := satAdd d.tun.elements c.u.length } }
  let rs := d.fab.mcastTargets
  let d := d.updUnit k s n fun u => { u with state := if rs.isEmpty then .done else .sending, unacked := rs.length }
  let m : Multicast := { program := k.val, step := s, ord := c.u.ord, first := c.u.first, bytes := 2 * c.u.length, receivers := rs, firstSent := d.tb.now }
  let d := if rs.isEmpty then d else (d.updFab fun f => { f with mcasts := f.mcasts ++ [m] }).mcastPump m
  d.noteRanges k s

/-- Pass 2 begins: ALM_LR records the rate. -/
def Device.noteRate (d : Device) (c : UnitCtx) : Device :=
  { d with tun := { d.tun with almStep := BitVec.ofNat 32 c.st.step, almLr := c.st.schedule.lr c.st.step } }

/-! ### Rows of the passes -/

/-- No refresh of an earlier step is still to be made: the roots of a step apply from the next one, and its statistics are read as it
wrote them (R230; log entry 138). -/
def Program.rootsStand (p : Program) (s : Nat) : Bool := p.steps.all fun t => decide (s ≤ t.step) || !t.refreshDue || t.refreshed

/-- A unit of a running step, the engine not faulted; the words it reads, and its datapath in lockstep (R314, R394). -/
def Device.withUnit (d : Device) (k : Fin 16) (s n : Nat) (errs : List WordError) (lockstep : Bool)
    (ready : UnitCtx → Bool) (f : UnitCtx → Device → Device) : Device :=
  match d.unitCtx k s n with
  | some c =>
    if c.p.state == .running && !d.tun.faulted && d.resourcesFree k c.st [8] && (c.rule != .pre || c.p.rootsStand s) && ready c then
      d.consume errs fun d => d.inLockstep lockstep fun d => f c d
    else d
  | none => d

/-- PASS1_RUN (R220): ĝ to GRAD_OBJECT, and the pass-1 steps of the rule; a tensor without a rule ends there (R233). -/
def Device.pass1Run (k : Fin 16) (s n : Nat) (errs : List WordError) (lockstep : Bool) (d : Device) : Device :=
  d.withUnit k s n errs lockstep (fun c => c.p.gx.normMode != 0 && c.u.state == .waitGrad && c.u.complete) fun c d =>
    let zs := c.u.values
    let d := c.firstPass k zs (c.writeGrad zs (d.rescale k s c.u.ord))
    d.updUnit k s n fun u => { u with state := if c.rule = .none then .done else .waitApply, grad := [] }

def execPass1Run (slot : Fin 16) (step : Word32) (n : Nat) (errs : List WordError) (lockstep : Bool) (s : State) : Answer :=
  s.act (Device.pass1Run slot step.toNat n errs lockstep)

/-- PASS2_RUN (R221): under the clip factor and the write condition, the pass-2 steps of the rule on ĝ read again. -/
def Device.pass2Run (k : Fin 16) (s n : Nat) (errs : List WordError) (lockstep : Bool) (d : Device) : Device :=
  let ready (c : UnitCtx) : Bool := c.p.gx.normMode != 0 && c.u.state == .waitApply && c.st.clip.isSome && c.p.mayWrite c.st c.x
  d.withUnit k s n errs lockstep ready fun c d =>
    let f := (c.st.clip.map fun x => x.2.1).getD 0
    let zs := d.readZ16 c.set.gradObject (c.p.gradAt c.g c.f c.u.ord c.x c.u.index) c.u.length
    let (d, ws) := c.secondPass k zs f (d.noteRate c)
    c.publish k n ws d

def execPass2Run (slot : Fin 16) (step : Word32) (n : Nat) (errs : List WordError) (lockstep : Bool) (s : State) : Answer :=
  s.act (Device.pass2Run slot step.toNat n errs lockstep)

/-- SINGLE_PASS_RUN (R222): the steps of both passes in one visit; nothing goes to GRAD_OBJECT but for a tensor without a rule. -/
def Device.singlePassRun (k : Fin 16) (s n : Nat) (errs : List WordError) (lockstep : Bool) (d : Device) : Device :=
  let ready (c : UnitCtx) : Bool :=
    c.p.gx.normMode == 0 && c.u.state == .waitGrad && c.u.complete && (c.rule == .none || c.p.mayWrite c.st c.x)
  d.withUnit k s n errs lockstep ready fun c d =>
    let zs := c.u.values
    if c.rule = .none then (c.writeGrad zs d).updUnit k s n fun u => { u with state := .done, grad := [] }
    else
      let d := c.firstPass k zs ((d.rescale k s c.u.ord).noteRate c)
      let (d, ws) := c.secondPass k zs w32One d
      c.publish k n ws (d.updUnit k s n fun u => { u with grad := [] })

def execSinglePassRun (slot : Fin 16) (step : Word32) (n : Nat) (errs : List WordError) (lockstep : Bool) (s : State) : Answer :=
  s.act (Device.singlePassRun slot step.toNat n errs lockstep)

/-! ### Received weights (R179, R232, R379) -/

/-- The program that releases a tensor. -/
def Device.releaserOf (d : Device) (tensor : Word32) : Option (Fin 16 × Program) := d.programs.find? fun x => x.2.isReleased tensor

/-- MCAST_RANGE_RECEIVE: the range is held until it may be applied; with the receive buffer full it waits at its sender, and in HOLD it is
discarded (R371). -/
def Device.mcastRangeReceive (m : RangeMsg) (d : Device) : Device :=
  match d.releaserOf m.tensor with
  | none => d
  | some (k, p) =>
    let x := ((p.ordinalOf m.tensor).map p.released).getD default
    if !d.joined || d.fab.job == .hold || d.rxFull || decide (m.version.toNat ≤ p.version m.tensor) || decide (x.elems < m.first + m.values.length) then d
    else
      let s := m.version.toNat - 1
      let d := match (d.stepOf k s).bind StepState.rangeSince with
        | some t => d.notePeerLate k s t m.src.toNat m.late
        | none => d
      { d with tun := { d.tun with heldRanges := d.tun.heldRanges ++ [(k.val, m.tensor, m.version.toNat, m.first, m.values)] } }

def execMcastRangeReceive (msg : RangeMsg) (s : State) : Answer := s.act (Device.mcastRangeReceive msg)

/-- MCAST_RANGE_APPLY: held range `n` is written once every read of its step has retired. -/
def Device.mcastRangeApply (n : Nat) (d : Device) : Device :=
  match d.tun.heldRanges[n]? with
  | none => d
  | some (slot, tensor, version, first, zs) =>
    match asFin 16 slot with
    | none => d
    | some k =>
      match d.progs[k] with
      | none => d
      | some p =>
        match p.stepAt (version - 1), p.ordinalOf tensor with
        | some st, some ord =>
          if p.mayWrite st (p.released ord) then
            let d := { d with tun := { d.tun with heldRanges := d.tun.heldRanges.eraseIdx n } }
            (d.writeWeights p st tensor first zs).noteWritten k st.step ord first zs.length
          else d
        | _, _ => d

def execMcastRangeApply (n : Nat) (s : State) : Answer := s.act (Device.mcastRangeApply n)

/-! ### Root refresh (R230, R231) -/

/-- Counts of a refresh: blocks that kept a root, and blocks left on the identity path. -/
structure RefreshCount where
  kept : Nat := 0
  identity : Nat := 0
  tensors : List Word32 := []
deriving DecidableEq, Repr, Inhabited

/-- One PRE block refreshed: its new roots, its record, and the counts. -/
def Device.refreshBlock (d : Device) (k : Fin 16) (c : UnitCtx) (r : RefreshCount) : Device × RefreshCount :=
  let l := refreshRoot (squareOf (c.read d .lstat blockElems)) c.consts.eps
  let q := refreshRoot (squareOf (c.read d .rstat blockElems)) c.consts.eps
  let valid := c.valid d
  let put (d : Device) (a : StateArr) (m : Option WMatrix) : Device :=
    match m with
    | some m => (c.write k d a (a.drawBase c.u.index) (m.flatten.map plain)).1
    | none => d
  let d := put (put d .lroot l) .rroot q
  let good := l.isSome && q.isSome
  let off := c.stateOff .record
  let falls := (d.readZ16 c.set.stateObject (off + 2) 1).headD 0
  let falls := if good then falls else bump falls
  let flags : Nat := if valid || good then 1 else 0
  let d := d.objStore c.set.stateObject off (bytesOf 2 flags ++ bytesOf 2 falls.toNat)
  let d := { d with tun := { d.tun with
      preRefreshed := bump d.tun.preRefreshed
      preKept := if good || !valid then d.tun.preKept else bump d.tun.preKept
      preIdentity := if good || valid then d.tun.preIdentity else bump d.tun.preIdentity } }
  (d, if good then r else
    { r with kept := r.kept + (if valid then 1 else 0), identity := r.identity + (if valid then 0 else 1)
             tensors := if r.tensors.contains c.x.tensor then r.tensors else r.tensors ++ [c.x.tensor] })

/-- Units of a step under PRE, by their place. -/
def Program.preUnits (p : Program) (st : StepState) : List Nat :=
  (List.range st.units.length).filter fun n => (st.units[n]?).any fun u => p.ruleOf (p.released u.ord) == .pre

/-- The blocks of units refreshed; the outcome is recorded, and PRE_FALLBACK logged where a block kept its root or has none (R230, R231,
R242). -/
def Device.refreshUnits (d : Device) (k : Fin 16) (s : Nat) (us : List Nat) : Device :=
  let (d, r) := us.foldl (fun (acc : Device × RefreshCount) n =>
    match acc.1.unitCtx k s n with
    | some c => acc.1.refreshBlock k c acc.2
    | none => acc) (d, {})
  let d := d.updProg k fun p => { p with singular := r.tensors }
  let d := d.updStep k s fun st => { st with refreshed := true }
  if r.kept + r.identity = 0 then d
  else d.logEvent 0x0402 .warn k.val (evData [(2, min r.kept 65535), (2, min r.identity 65535)]) srcUpdate

/-- ROOT_REFRESH: after pass 2 of every PRE block of a refresh step, the roots are computed anew. -/
def Device.rootRefresh (k : Fin 16) (s : Nat) (errs : List WordError) (lockstep : Bool) (d : Device) : Device :=
  match d.progs[k] with
  | none => d
  | some p =>
    match p.stepAt s with
    | none => d
    | some st =>
      let us := p.preUnits st
      let applied (n : Nat) : Bool := (st.units[n]?).any fun u => u.state == .sending || u.state == .done
      if p.state != .running || !st.refreshDue || st.refreshed || !st.uDone || !us.all applied || !d.resourcesFree k st [8] then d
      else d.consume errs fun d => d.inLockstep lockstep fun d => d.refreshUnits k s us

def execRootRefresh (slot : Fin 16) (step : Word32) (errs : List WordError) (lockstep : Bool) (s : State) : Answer :=
  s.act (Device.rootRefresh slot step.toNat errs lockstep)

end Sys2Proof.Machine
end

