-- ==== Sys2Proof/Machine/GradCmds.lean ====
section
/-! DEFINITION. Scale agreement (R199-R204), the norm's records (R206), the commands of blocks 0x03 and 0x04 (R212, R213, R237,
R239) but for joining and leaving a job, and the Tundish registers' rows (R214, R215, R241). -/

namespace Sys2Proof.Machine

/-! ### Scale reports and tables (R199-R203) -/

/-- The fields of a scale report or table: step, rank, entries and histograms. -/
def scaleFields (s src : Nat) (es : List Word16) (hs : List Hist) (window : Int) : List Byte :=
  bytesOf 4 s ++ bytesOf 2 src ++ bytesOf 2 es.length ++ es.flatMap (fun e => bytesOf 2 e.toNat)
    ++ hs.flatMap fun h => h.bytes window

def Device.jobWindow (d : Device) : Int := (d.jobProgram.map fun x => x.2.windowBase).getD 0

/-- Reports of ranks in order, once all are there. -/
def Tundish.reportsOf (t : Tundish) (s : Nat) (dom : Bool) (rs : List Nat) : Option (List ScaleReport) :=
  let got := rs.filterMap fun r => t.reports.find? fun x => x.step == s && x.domain == dom && x.rank == r
  if got.length = rs.length then some got else none

def Tundish.dropReports (t : Tundish) (s : Nat) (dom : Bool) (rs : List Nat) : Tundish :=
  { t with reports := t.reports.filter fun x => !(x.step == s && x.domain == dom && rs.contains x.rank) }

/-- Reports merged: entries by *Scale report entry*, histograms by R203. -/
def mergeReports : List ScaleReport → List Word16 × List Hist
  | [] => ([], [])
  | r :: rest => rest.foldl (fun acc x => ((acc.1.zip x.entries).map fun (a, b) => mergeEntry a b, mergeAll acc.2 x.hists)) (r.entries, r.hists)

/-- A scale table, with merged histograms, reaches a program: it replaces one of its step, and buckets that wait may begin. -/
def Device.takeTable (d : Device) (k : Fin 16) (t : ScaleTable) (hists : List Hist) : Device :=
  let d := d.updProg k fun p =>
    { p with tables := t :: p.tables.filter fun x => x.step != t.step, merged := if hists.isEmpty then p.merged else hists }
  d.updStep k t.step fun st =>
    if st.buckets.any fun b => b.state == .reducing || b.state == .done then st else { st with table := some t, scaleSince := none }

/-- Domain results reach the top manager: with all of the group's, the table of the next step is formed and multicast (R200). -/
def Device.reportDomain (d : Device) (s src : Nat) (es : List Word16) (hs : List Hist) : Device :=
  let d := { d with tun := { d.tun with reports := d.tun.reports ++ [({ step := s, rank := src, domain := true, entries := es, hists := hs } : ScaleReport)] } }
  let g := d.fab.groupOf src
  let firsts := (d.fab.domainsOf g).map fun x => (d.fab.groupIn g x).headD 0
  match d.tun.reportsOf s true firsts with
  | none => d
  | some rs =>
    let (es, hs) := mergeReports rs
    let members := d.fab.groupRanks g
    let t : ScaleTable := { step := s + 1, entries := es.map (tableEntry members.length) }
    let me := d.fab.rank.toNat
    let d := { d with tun := d.tun.dropReports s true firsts }
    let d := d.sendRecords (members.filter (· != me)) .scaleTable (t.image ++ hs.flatMap fun h => h.bytes d.jobWindow) (d.managerLate s)
    match members.contains me, d.jobProgram with
    | true, some (k, _) => d.takeTable k t hs
    | _, _ => d

/-- A member's report reaches its domain manager: with all of the group's in the domain, the result goes on. -/
def Device.reportMember (d : Device) (s src : Nat) (es : List Word16) (hs : List Hist) : Device :=
  let d := { d with tun := { d.tun with reports := d.tun.reports ++ [({ step := s, rank := src, domain := false, entries := es, hists := hs } : ScaleReport)] } }
  let rs := d.fab.groupIn (d.fab.groupOf src) (d.fab.domainOf src)
  match d.tun.reportsOf s false rs with
  | none => d
  | some got =>
    let (es, hs) := mergeReports got
    let d := { d with tun := d.tun.dropReports s false rs }
    let first := rs.headD 0
    if d.fab.isTop then d.reportDomain s first es hs
    else match d.fab.topManager with
      | some t => d.sendRecord t .scaleReport (scaleFields s first es hs d.jobWindow) (d.managerLate s)
      | none => d

/-- The message of a rank stands for that member alone: the rank is of the manager's own domain. -/
def Device.memberLevel (d : Device) (src : Nat) : Bool := d.fab.isDomainManager && d.fab.domainOf src == d.fab.myDomain

/-- SCALE_REPORT_RECEIVE (R199); one with a reserved bit set is a plan mismatch. -/
def Device.scaleReportReceive (s src : Nat) (es : List Word16) (hs : List Hist) (d : Device) : Device :=
  if !d.joined then d
  else if es.any fun e => e.extractLsb' 9 5 != 0 then d.planMismatch s
  else if d.memberLevel src then d.reportMember s src es hs
  else if d.fab.isTop then d.reportDomain s src es hs
  else d

def execScaleReportReceive (step : Word32) (src : BitVec 14) (entries : List Word16) (hists : List Hist) (s : State) : Answer :=
  s.act (Device.scaleReportReceive step.toNat src.toNat entries hists)

/-- SCALE_TABLE_RECEIVE (R202, R203). -/
def Device.scaleTableReceive (s src : Nat) (es : List Word16) (hs : List Hist) (late : Bool) (d : Device) : Device :=
  match d.jobProgram with
  | none => d
  | some (k, p) =>
    if !d.joined || (decide (s < p.nextStep) && (p.stepAt s).isNone) then d
    else
      let d := match (d.stepOf k s).bind StepState.scaleSince with
        | some t => d.notePeerLate k s t src late
        | none => d
      d.takeTable k { step := s, entries := es } hs

def execScaleTableReceive (step : Word32) (src : BitVec 14) (entries : List Word16) (hists : List Hist) (late : Bool) (s : State) :
    Answer := s.act (Device.scaleTableReceive step.toNat src.toNat entries hists late)

/-! ### The norm's records (R206) -/

/-- NORM_PARTIAL_RECEIVE. -/
def Device.normPartialReceive (s src : Nat) (v : Word32) (sats : Nat) (d : Device) : Device :=
  if !d.joined then d
  else if d.memberLevel src then d.normMember s src v sats
  else if d.fab.isTop then d.normDomain s src v sats
  else d

def execNormPartialReceive (step : Word32) (src : BitVec 14) (partialSum : Word32) (saturations : Word32) (s : State) : Answer :=
  s.act (Device.normPartialReceive step.toNat src.toNat partialSum saturations.toNat)

/-- CLIP_FACTOR_RECEIVE: GX_NORM records what arrives. -/
def Device.clipFactorReceive (s src : Nat) (n2 f : Word32) (sats : Nat) (late : Bool) (d : Device) : Device :=
  if !d.joined then d
  else match d.jobProgram with
    | none => { d with tun := { d.tun with clip := f, n2 := n2 } }
    | some (k, _) =>
      let d := match d.stepOf k s with
        | some st => if st.normSent && st.clip.isNone then d.notePeerLate k s st.clipSince src late else d
        | none => d
      d.setClip k s n2 f sats

def execClipFactorReceive (step : Word32) (src : BitVec 14) (n2 clip saturations : Word32) (late : Bool) (s : State) : Answer :=
  s.act (Device.clipFactorReceive step.toNat src.toNat n2 clip saturations.toNat late)

/-! ### Naming a program, with causes that go before ownership (R148, R534) -/

/-- The program a command names: EMPTY or `bad` is ST_BAD_PARAM, another account's ST_NOT_OWNER. -/
def Device.onProgram (d : Device) (c : OpenCmd) (prog : BitVec 8) (bad : Program → Bool)
    (f : Fin 16 → Program → Device → Device) : Device :=
  match asFin 16 prog.toNat with
  | none => d.finish c .badParam
  | some k =>
    match d.progs[k] with
    | none => d.finish c .badParam
    | some p => if bad p then d.finish c .badParam else if p.account ≠ c.hdr.account then d.finish c .notOwner else f k p d

/-- The object is the account's. -/
def Device.owns (d : Device) (a : BitVec 6) (id : Word32) : Bool := (d.obj? id).any fun o => o.owner == a

/-- Bytes of a table an object holds from an offset, none when they do not lie in it. -/
def Device.tableBytes (d : Device) (id : Word32) (off n : Nat) : Option (List Byte) :=
  (d.obj? id).bind fun o => if off + n ≤ o.size then some (d.objBytes o off n) else none

/-- A rule set discarded: its objects are unpinned, and RULES_DISCARDED is logged (R237, R242). -/
def Device.discardRules (d : Device) (k : Fin 16) : Device :=
  match d.progs[k] with
  | none => d
  | some p =>
    match p.rules with
    | none => d
    | some _ =>
      let d := d.progUnpin (p.ruleObjects.filter (· != 0))
      (d.updProg k fun p => { p with rules := none, singular := [] }).logEvent 0x0404 .info k.val 0 srcUpdate

/-- A command that reads `n` bytes of an object: where some of them lie in T3 they are first asked of the host, and the command
waits (R276, R502); `ready` says that they have come. -/
def Device.withList (d : Device) (c : OpenCmd) (i : Instr) (id : Word32) (off n : Nat) (ready : Bool) (f : Device → Device) : Device :=
  match d.obj? id with
  | none => f d
  | some o =>
    if ready || n = 0 || o.size < off + n || (o.t3Segments off n).isEmpty then f d
    else
      let (d, ok) := d.askT3 o off n (.list id) c
      if ok then { d with lists := d.lists ++ [(c, i)] } else d.finish c .aborted

/-! ### Block 0x03 (R212) -/

def wireOf : Nat → Option Wire
  | 0 => some .w32
  | 1 => some .b8
  | 2 => some .s1
  | _ => none

/-- Override entries of GX_CONFIG: none when one is malformed. -/
def wireOverrides (bs : List Byte) : Option (List (Word32 × Wire)) :=
  (chunksOf 8 (bs.length + 1) bs).mapM fun e =>
    if ofBytes (e.drop 5) ≠ 0 then none
    else (wireOf (e.getD 4 0).toNat).map fun w => (BitVec.ofNat 32 (ofBytes (e.take 4)), w)

/-- The configuration a GX_CONFIG asks for, none when a field or an override is out of range. -/
def Device.gxAsked (d : Device) (p : Program) (wire bucketMib normMode : BitVec 8) (clipNorm : Word16) (errmem overrideObject : Word32)
    (count : Nat) : Option GxConfig :=
  match wireOf wire.toNat with
  | none => none
  | some w =>
    if bucketMib = 0 ∨ 64 < bucketMib.toNat ∨ 2 < normMode.toNat ∨ 4096 < count then none
    else
      let os := if count = 0 then some [] else (d.tableBytes overrideObject 0 (8 * count)).bind wireOverrides
      os.bind fun os =>
        let c : GxConfig :=
          { defaultWire := w, bucketMib := bucketMib.toNat, normMode := normMode.extractLsb' 0 2, clipNorm := clipNorm
            errmem := errmem, overrides := os }
        let need := 2 * ({ p with gx := c } : Program).errmemEntries
        let fits := if errmem = 0 then need == 0 else (d.obj? errmem).any fun o => o.allT2 && decide (need ≤ o.size)
        if fits && os.all fun o => p.isReleased o.1 then some c else none

def Device.gxConfigRun (prog wire bucketMib normMode : BitVec 8) (clipNorm : Word16) (errmem overrideObject : Word32)
    (count : Word16) (c : OpenCmd) (d : Device) : Device :=
  let ask (p : Program) : Option GxConfig := d.gxAsked p wire bucketMib normMode clipNorm errmem overrideObject count.toNat
  d.onProgram c prog (fun p => (ask p).isNone) fun k p d =>
    match ask p with
    | none => d.finish c .badParam
    | some cfg =>
      if (errmem != 0 && !d.owns c.hdr.account errmem) || (count != 0 && !d.owns c.hdr.account overrideObject) then d.finish c .notOwner
      else if p.state = .running then d.finish c .busy
      else
        let d := (d.progUnpin ([p.gx.errmem].filter (· != 0))).progPin ([errmem].filter (· != 0))
        let d := if cfg.bucketMib = p.gx.bucketMib then d else d.discardRules k
        (d.updProg k fun p => { p with gx := cfg }).ok c

def Device.gxConfig (h : CmdHdr) (prog wire bucketMib normMode : BitVec 8) (clipNorm : Word16) (errmem overrideObject : Word32)
    (count : Word16) (d : Device) : Device :=
  d.command 0x0303 h fun c d =>
    d.withList c (.gxConfig h prog wire bucketMib normMode clipNorm errmem overrideObject count) overrideObject 0 (8 * count.toNat) false
      (Device.gxConfigRun prog wire bucketMib normMode clipNorm errmem overrideObject count c)

def execGxConfig (h : CmdHdr) (prog wire bucketMib normMode : BitVec 8) (clipNorm : Word16) (errmem overrideObject : Word32)
    (overrideCount : Word16) (s : State) : Answer :=
  s.act (Device.gxConfig h prog wire bucketMib normMode clipNorm errmem overrideObject overrideCount)

/-- Buckets reduced and B8 saturations of a step in flight or the last retired. -/
def Program.gxCounts (p : Program) (s : Nat) : Option (Nat × Nat) :=
  match p.stepAt s with
  | some st => some ((st.buckets.filter fun b => b.state == .done).length, st.b8Sat)
  | none => p.lastRetired.bind fun r => if r.1 = s then some r.2 else none

def Device.gxQuery (h : CmdHdr) (prog : BitVec 8) (s : Nat) (d : Device) : Device :=
  d.command 0x0304 h fun c d =>
    d.onProgram c prog (fun p => (p.gxCounts s).isNone) fun _ p d =>
      let (n, sat) := (p.gxCounts s).getD (0, 0)
      d.ok c (n % 2 ^ 32 + sat % 2 ^ 32 * 2 ^ 32)

def execGxQuery (h : CmdHdr) (prog : BitVec 8) (step : Word32) (s : State) : Answer := s.act (Device.gxQuery h prog step.toNat)

/-- The scale table held for a step: an installed one stands in place of the one formed from reports (R204). -/
def Program.tableFor (p : Program) (s : Nat) : Option ScaleTable :=
  match (p.stepAt s).bind StepState.table with
  | some t => some t
  | none => match p.installedTable.filter fun t => t.step == s with
    | some t => some t
    | none => p.tables.find? fun t => t.step == s

def Device.gxScaleSave (h : CmdHdr) (prog : BitVec 8) (s : Nat) (object : Word32) (off : Nat) (d : Device) : Device :=
  d.command 0x0305 h fun c d =>
    d.onProgram c prog (fun p => (p.tableFor s).isNone || (d.obj? object).isNone) fun _ p d =>
      match p.tableFor s, d.obj? object with
      | some t, some o =>
        if o.owner ≠ h.account then d.finish c .notOwner
        else if o.size < off + t.image.length then d.finish c .noSpace
        else (d.objStore object off t.image).ok c (t.entries.length % 2 ^ 16)
      | _, _ => d.finish c .badParam

def execGxScaleSave (h : CmdHdr) (prog : BitVec 8) (step object : Word32) (offset : BitVec 48) (s : State) : Answer :=
  s.act (Device.gxScaleSave h prog step.toNat object offset.toNat)

/-- A table read from its image; none when it is malformed or its COUNT is not `n` (R200). -/
def tableOf (s n : Nat) (bs : List Byte) : Option ScaleTable :=
  let es := (numbersOf 2 (bs.drop 16)).map (BitVec.ofNat 16)
  if ofBytes (bs.take 4) = s ∧ ofBytes ((bs.drop 4).take 2) = n ∧ ofBytes ((bs.drop 6).take 10) = 0 ∧ bs.length = 16 + 2 * n
      ∧ (es.all fun e : Word16 => e.extractLsb' 8 7 == 0) = true then some { step := s, entries := es }
  else none

/-- Bytes of the table that GX_SCALE_LOAD reads for a program. -/
def Device.scaleBytes (d : Device) (prog : BitVec 8) : Nat :=
  16 + 2 * ((((asFin 16 prog.toNat).bind fun k => d.progs[k]).map fun p => p.releasedDescs.length).getD 0)

def Device.gxScaleLoadRun (prog : BitVec 8) (s : Nat) (object : Word32) (off : Nat) (c : OpenCmd) (d : Device) : Device :=
  let read (p : Program) : Option ScaleTable :=
    let n := p.releasedDescs.length
    (d.tableBytes object off (16 + 2 * n)).bind (tableOf s n)
  d.onProgram c prog (fun p => (d.joined && !d.fab.isTop) || s != p.nextStep || (read p).isNone) fun k p d =>
    if !d.mayRead object c.hdr.account then d.finish c .notOwner
    else if p.state = .running then d.finish c .busy
    else (d.updProg k fun q => { q with installedTable := read p }).ok c

def Device.gxScaleLoad (h : CmdHdr) (prog : BitVec 8) (step : Word32) (object : Word32) (off : BitVec 48) (d : Device) : Device :=
  d.command 0x0306 h fun c d =>
    d.withList c (.gxScaleLoad h prog step object off) object off.toNat (d.scaleBytes prog) false
      (Device.gxScaleLoadRun prog step.toNat object off.toNat c)

def execGxScaleLoad (h : CmdHdr) (prog : BitVec 8) (step object : Word32) (offset : BitVec 48) (s : State) : Answer :=
  s.act (Device.gxScaleLoad h prog step object offset)

/-! ### Tundish registers (R214, R215, R241) -/

def offTundish : Nat := 0x02000000

def Device.setGxQuiesce (v : Bool) (d : Device) : Device := { d with tun := { d.tun with quiesce := v, quiesced := d.tun.quiesced && v } }

def execGxQuiesceWrite (req : Requester) (value : Bool) (s : State) : Answer :=
  s.act fun d => d.writeBy req (offTundish + 8) none (Device.setGxQuiesce value)

/-- A step of some program is in flight. -/
def Device.anyStep (d : Device) : Bool := d.programs.any fun x => !x.2.steps.isEmpty

/-- GX_QUIESCED: no step is in flight, so no bucket either, and the receive buffer holds no hop. -/
def Device.gxQuiesced (d : Device) : Device :=
  if d.tun.quiesce && !d.anyStep && d.tun.held.isEmpty then { d with tun := { d.tun with quiesced := true } } else d

def execGxQuiesced (s : State) : Answer := s.act Device.gxQuiesced

/-- A write that changes RXBUF_MIB: under buckets in flight it faults the Tundish (R215). -/
def Device.setRxbuf (v : BitVec 8) (d : Device) : Device :=
  if v = d.tun.rxbufMib then d
  else
    let live := !d.tun.quiesced
    let d := { d with tun := { d.tun with rxbufMib := v, faulted := d.tun.faulted || live } }
    if live then (d.logEvent 0x0306 .error 0 0 srcGx).faultAll fun p => !p.steps.isEmpty else d

def execGxRxbufWrite (req : Requester) (value : BitVec 8) (s : State) : Answer :=
  s.act fun d => d.writeBy req (offTundish + 8) none (Device.setRxbuf value)

def Device.clearGxCounts (d : Device) : Device :=
  { d with tun := { d.tun with
      cold := 0, reduced := 0, txBytes := 0, rxBytes := 0, rxMinus128 := 0, encodeSat := 0, waitScale := 0, waitRxFull := 0 } }

def execGxCountClr (req : Requester) (s : State) : Answer := s.act fun d => d.writeBy req (offTundish + 8) none Device.clearGxCounts

def Device.clearUpdCounts (d : Device) : Device :=
  { d with tun := { d.tun with elements := 0, handoffRx := 0, handoffTx := 0, preRefreshed := 0, preKept := 0, preIdentity := 0 } }

def execUpdCountClr (req : Requester) (s : State) : Answer := s.act fun d => d.writeBy req (offTundish + 0x1000) none Device.clearUpdCounts

/-! ### Block 0x04 (R237) -/

def ruleOfCode : Nat → Option Rule
  | 0 => some .mom
  | 1 => some .adm
  | 2 => some .fac
  | 3 => some .pre
  | 255 => some .none
  | _ => none

/-- Override entries of RULE_SET: none when one is malformed. -/
def ruleOverrides (bs : List Byte) : Option (List RuleOverride) :=
  (chunksOf 8 (bs.length + 1) bs).mapM fun e =>
    let flags := (e.getD 5 0).toNat
    if 2 ≤ flags then none
    else (ruleOfCode (e.getD 4 0).toNat).map fun r =>
      { tensor := BitVec.ofNat 32 (ofBytes (e.take 4)), rule := r, wdEn := flags == 1
        lrMult := BitVec.ofNat 16 (ofBytes ((e.drop 6).take 2)) }

/-- The rule set a RULE_SET asks for, none when a field, an object or an override is not as R239 requires. -/
def Device.rulesAsked (d : Device) (p : Program) (defaultRule flags : BitVec 8) (beta1 beta2 eps weightDecay prePeriod : Word16)
    (stateObject gradObject overrideObject : Word32) (count : Nat) (ruleStart : Word32) : Option RuleSet :=
  if 3 < defaultRule.toNat ∨ 2 ≤ flags.toNat ∨ prePeriod = 0 ∨ 4096 < count then none
  else
    let inT2 (id : Word32) : Bool := (d.obj? id).any Obj.allT2
    if !inT2 stateObject || (gradObject != 0 && !inT2 gradObject) then none
    else match ruleOfCode defaultRule.toNat, (if count = 0 then some [] else (d.tableBytes overrideObject 0 (8 * count)).bind ruleOverrides) with
      | some r, some os =>
        if os.all fun o => p.releasedDescs.any fun x => x.tensor == o.tensor && x.cls == .weight then
          some { default := r, beta1 := beta1, beta2 := beta2, eps := eps, weightDecay := weightDecay, prePeriod := prePeriod.toNat
                 stateObject := stateObject, gradObject := gradObject, overrides := os, ruleStart := ruleStart }
        else none
      | _, _ => none

/-- 2 KiB granules. -/
def granules2K (n : Nat) : Nat := ceilDiv n 2048

/-- The program under a rule set: the sizes its objects need. -/
def Device.ruleSizes (d : Device) (p : Program) (r : RuleSet) : Nat × Nat :=
  let p := { p with rules := some r }
  ((p.stateLayout d.fab.groupSize d.fab.flatIndex).2, (p.gradLayout d.fab.groupSize d.fab.flatIndex).2)

def Device.ruleSetRun (prog defaultRule flags : BitVec 8) (beta1 beta2 eps weightDecay prePeriod : Word16)
    (stateObject gradObject overrideObject : Word32) (count : Word16) (ruleStart : Word32) (c : OpenCmd) (d : Device) : Device :=
  let ask (p : Program) : Option RuleSet := d.rulesAsked p defaultRule flags beta1 beta2 eps weightDecay prePeriod stateObject
    gradObject overrideObject count.toNat ruleStart
  d.onProgram c prog (fun p => (ask p).isNone) fun k p d =>
    match ask p with
    | none => d.finish c .badParam
    | some r =>
      let (ns, ng) := d.ruleSizes p r
      let sizes := granules2K ns + granules2K ng * 2 ^ 32
      let holds (id : Word32) (n : Nat) : Bool := (d.obj? id).any fun o => decide (n ≤ o.size)
      let a := c.hdr.account
      if !d.owns a stateObject || (gradObject != 0 && !d.owns a gradObject)
          || (count != 0 && !d.owns a overrideObject) then d.finish c .notOwner
      else if p.state = .running then d.finish c .busy
      else if !holds stateObject ns || (gradObject != 0 && !holds gradObject ng) then d.finish c .noSpace sizes
      else
        let d := (d.progUnpin (p.ruleObjects.filter (· != 0))).progPin ([stateObject, gradObject].filter (· != 0))
        let init := flags.getLsbD 0
        let d := match init, d.obj? stateObject with
          | true, some o => d.updMem fun m => m.zero o.base ns
          | _, _ => d
        let d := d.updProg k fun p => { p with rules := some r, singular := [] }
        (d.logEvent 0x0401 .info k.val (evData [(1, if init then 1 else 0)]) srcUpdate).ok c sizes

def Device.ruleSet (h : CmdHdr) (prog defaultRule flags : BitVec 8) (beta1 beta2 eps weightDecay prePeriod : Word16)
    (stateObject gradObject overrideObject : Word32) (count : Word16) (ruleStart : Word32) (d : Device) : Device :=
  d.command 0x0401 h fun c d =>
    d.withList c (.ruleSet h prog defaultRule flags beta1 beta2 eps weightDecay prePeriod stateObject gradObject overrideObject count
      ruleStart) overrideObject 0 (8 * count.toNat) false
      (Device.ruleSetRun prog defaultRule flags beta1 beta2 eps weightDecay prePeriod stateObject gradObject overrideObject count
        ruleStart c)

def execRuleSet (h : CmdHdr) (prog defaultRule flags : BitVec 8) (beta1 beta2 eps weightDecay prePeriod : Word16)
    (stateObject gradObject overrideObject : Word32) (overrideCount : Word16) (ruleStart : Word32) (s : State) : Answer :=
  s.act (Device.ruleSet h prog defaultRule flags beta1 beta2 eps weightDecay prePeriod stateObject gradObject overrideObject
    overrideCount ruleStart)

def Rule.code : Rule → Nat
  | .mom => 0
  | .adm => 1
  | .fac => 2
  | .pre => 3
  | .none => 15

/-- FALLBACKS of the member's blocks of a PRE tensor added up, saturating. -/
def Device.fallbacks (d : Device) (p : Program) (r : RuleSet) (ord : Nat) (x : Desc) : Nat :=
  let g := d.fab.groupSize
  let f := d.fab.flatIndex
  min 65535 (sumOf (fun run => ((d.readZ16 r.stateObject (p.stateAt g f ord x .record run.1 + 2) 1).headD 0).toNat) (p.ruleRuns g f ord x))

/-- RULE_QUERY (R237). DESIGN CHOICE: [63:32] of a NONE tensor, which the table leaves open, is 0 (log entry 153). -/
def Device.ruleQuery (h : CmdHdr) (prog : BitVec 8) (tensor : Word32) (d : Device) : Device :=
  d.command 0x0402 h fun c d =>
    d.onProgram c prog (fun p => p.rules.isNone || !p.isReleased tensor) fun _ p d =>
      match p.rules, p.ordinalOf tensor with
      | some r, some ord =>
        let x := p.released ord
        let rule := (r.ruleOf tensor).rule
        let runs := p.runsUnder rule d.fab.groupSize d.fab.flatIndex ord x
        let n := if rule = .none then 0 else if rule.blocked then runs.length else runElems runs
        let falls := if p.ruleOf x = .pre then d.fallbacks p r ord x else 0
        d.finish c (if p.singular.contains tensor then .singular else .ok) (rule.code + falls * 2 ^ 16 + n % 2 ^ 32 * 2 ^ 32)
      | _, _ => d.finish c .badParam

def execRuleQuery (h : CmdHdr) (prog : BitVec 8) (tensor : Word32) (s : State) : Answer := s.act (Device.ruleQuery h prog tensor)

/-- A schedule ALMANAC_SET may set (R239). -/
def scheduleOk (warmupKind decayKind tMult : BitVec 8) (baseLr minLr decaySteps gamma : Word32) : Bool :=
  decide (warmupKind.toNat ≤ 2 ∧ decayKind.toNat ≤ 5 ∧ 1 ≤ tMult.toNat ∧ tMult.toNat ≤ 16)
    && decide (0 ≤ (ofW32 minLr).m) && !(ofW32 baseLr).lt (ofW32 minLr) && decaySteps != 0
    && (decayKind != 4 || decide (0 < (ofW32 gamma).m))

def Device.almanacSet (h : CmdHdr) (prog warmupKind decayKind tMult : BitVec 8) (baseLr minLr warmupSteps decaySteps gamma
    schedStart : Word32) (d : Device) : Device :=
  d.command 0x0403 h fun c d =>
    d.onProgram c prog (fun _ => !scheduleOk warmupKind decayKind tMult baseLr minLr decaySteps gamma) fun k _ d =>
      let a : Schedule :=
        { warmupKind := warmupKind.extractLsb' 0 2, decayKind := decayKind.extractLsb' 0 3, tMult := tMult.toNat, baseLr := baseLr
          minLr := minLr, warmupSteps := warmupSteps.toNat, decaySteps := decaySteps.toNat, gamma := gamma, schedStart := schedStart.toNat }
      let d := d.updProg k fun p => { p with stagedSchedule := some a }
      (d.logEvent 0x0403 .info k.val 0 srcUpdate).ok c

def execAlmanacSet (h : CmdHdr) (prog warmupKind decayKind tMult : BitVec 8) (baseLr minLr warmupSteps decaySteps gamma
    schedStart : Word32) (s : State) : Answer :=
  s.act (Device.almanacSet h prog warmupKind decayKind tMult baseLr minLr warmupSteps decaySteps gamma schedStart)

/-- The schedule the next launched step will use (R236). -/
def Program.nextSchedule (p : Program) : Schedule := p.stagedSchedule.getD p.schedule

def Device.almanacQuery (h : CmdHdr) (prog : BitVec 8) (s : Nat) (d : Device) : Device :=
  d.command 0x0404 h fun c d => d.onProgram c prog (fun _ => false) fun _ p d => d.ok c (p.nextSchedule.lr s).toNat

def execAlmanacQuery (h : CmdHdr) (prog : BitVec 8) (step : Word32) (s : State) : Answer := s.act (Device.almanacQuery h prog step.toNat)

/-- Some released tensor is under PRE. -/
def Program.hasPre (p : Program) : Bool := p.releasedDescs.any fun x => p.ruleOf x == .pre

def Device.preRefresh (h : CmdHdr) (prog : BitVec 8) (d : Device) : Device :=
  d.command 0x0405 h fun c d =>
    d.onProgram c prog (fun p => !p.hasPre) fun k _ d => (d.updProg k fun p => { p with preRefresh := true }).ok c

def execPreRefresh (h : CmdHdr) (prog : BitVec 8) (s : State) : Answer := s.act (Device.preRefresh h prog)

/-! ### Layer scales (R73, R74, R82) -/

/-- Counts from a bin up the window, as (binade, count): bins 3, 5-63, and 2 with 4 (R73). -/
def Hist.binades (h : Hist) (window : Int) : List (Int × Nat) :=
  let n (i : Nat) : Nat := (h.bins.toList.getD i 0).toNat
  ((List.range 59).map fun (i : Nat) => (window + (i : Int), n (5 + i) + (if i = 0 then n 3 else 0) + (if i = 58 then n 2 + n 4 else 0)))

/-- The median binade; none without a non-zero value. -/
def Hist.median (h : Hist) (window : Int) : Option Int :=
  let bs := h.binades window
  let total := sumOf Prod.snd bs
  if total = 0 then none
  else ((List.range bs.length).find? fun i => decide (total ≤ 2 * sumOf Prod.snd (bs.take (i + 1)))).bind fun i => (bs[i]?).map Prod.fst

/-- Powers n of R74, doubled, that a rule's state arrays take. -/
def Rule.powers (r : Rule) : List Int := (r.arrays.filterMap StateArr.power).eraseDups

/-- The first binade that the range check of R74 finds outside the Z16 normal range. -/
def rangeFault (u : Option Hist) (r : Rule) (delta : Int) : Option Int :=
  let ends := match u with | some h => h.eMin.toList ++ h.eMax.toList | none => []
  (r.powers.flatMap fun n2 => ends.filter fun e => decide (e + n2 * delta / 2 < -126 ∨ 128 < e + n2 * delta / 2)).head?

/-- The candidate moved toward no change until the check passes: the Δ admitted. -/
def admitDelta (u : Option Hist) (r : Rule) (by' : Int) : Nat → Int → Int
  | 0, _ => 0
  | fuel + 1, delta =>
    if delta = 0 ∨ (rangeFault u r delta).isNone then delta
    else admitDelta u r by' fuel (if 0 < delta then max 0 (delta - by') else min 0 (delta + by'))

/-- A choice for one tensor: the first candidate Δ, the Δ admitted, and the binade that failed at first. DESIGN CHOICE: under PRE the
first candidate of R82 is the one after the parity step of R73, so an odd candidate of one becomes no change and raises nothing
(log entry 23). -/
def sigmaChoice (window : Int) (r : Rule) (sigma : Int) (b u : Option Hist) : Option (Int × Int × Int) :=
  (b.bind fun h => h.median window).map fun med =>
    let cand := max (-32) (min 31 (sigma - med))
    let delta := cand - sigma
    let delta := if r = .pre ∧ delta % 2 ≠ 0 then (if 0 < delta then delta - 1 else delta + 1) else delta
    (delta, admitDelta u r (if r = .pre then 2 else 1) 70 delta, (rangeFault u r delta).getD 0)

def histOfTensor (hs : List Hist) (tensor : Word32) (stream : Fin 3) : Option Hist := hs.find? fun h => h.tensor == tensor && h.stream == stream

/-- Tensors with σ selection enabled that are not FROZEN. -/
def Program.sigmaTensors (p : Program) : List Desc :=
  (p.descs.filter fun x => x.sigmaEn && !x.frozen).foldl (fun l x => if l.any fun y => y.tensor == x.tensor then l else l ++ [x]) []

/-- The histograms the choice reads: the group's merged ones where they stand in place of the device's own (R203). -/
def Program.chosenHist (p : Program) (tensor : Word32) (stream : Fin 3) : Option Hist :=
  match histOfTensor p.merged tensor stream with
  | some h => some h
  | none => histOfTensor p.accumulated tensor stream

def Program.choiceOf (p : Program) (x : Desc) : Option (Int × Int × Int) :=
  sigmaChoice p.windowBase (p.ruleOf x) (p.sigmaOf x.tensor) (p.chosenHist x.tensor 1) (p.chosenHist x.tensor 2)

/-- One tensor's choice made: its new scale, the rescale due, and SIGMA_PINNED where the range check left no change. -/
def Device.applySigma (d : Device) (k : Fin 16) (s : Nat) (x : Desc) (ch : Int × Int × Int) : Device :=
  let (first, delta, binade) := ch
  let d := if first ≠ 0 ∧ delta = 0 then
      d.logEvent 0x020D .info k.val
        (evData [(4, x.tensor.toNat), (2, (BitVec.ofInt 16 first).toNat), (2, (BitVec.ofInt 16 binade).toNat)]) srcGx
    else d
  if delta = 0 then d
  else d.updProg k fun p =>
    { p with
      sigma := (x.tensor, p.sigmaOf x.tensor + delta) :: p.sigma.filter fun y => y.1 != x.tensor
      rescales := p.rescales ++ [(x.tensor, s + 1, delta, false)] }

/-- Choices need the group's merged histograms, which come with the table of the next step. -/
def Device.sigmaReady (d : Device) (p : Program) (s : Nat) : Bool :=
  d.fab.groupSize ≤ 1 || p.sigmaTensors.isEmpty || (p.tableFor (s + 1)).isSome

/-- SIGMA_CHOOSE: after the last step of a period has retired, σ is chosen for each eligible tensor; the accumulated histograms of a
tensor whose σ changes are cleared (R79; log entry 23). -/
def Device.sigmaChoose (k : Fin 16) (d : Device) : Device :=
  match d.progs[k] with
  | none => d
  | some p =>
    match p.sigmaDue with
    | none => d
    | some s =>
      if !d.sigmaReady p s then d
      else
        let ts := p.sigmaTensors
        let d := ts.foldl (fun d x => match p.choiceOf x with | some ch => d.applySigma k s x ch | none => d) d
        let moved (h : Hist) : Bool := ts.any fun x => x.tensor == h.tensor && (p.choiceOf x).any fun ch => ch.2.1 != 0
        (d.updProg k fun p =>
          { p with sigmaDue := none, merged := [], accumulated := p.accumulated.filter fun h => !moved h }).storePyro k

def execSigmaChoose (slot : Fin 16) (s : State) : Answer := s.act (Device.sigmaChoose slot)

end Sys2Proof.Machine
end

