-- ==== Sys2Proof/Machine/AsterOps.lean ====
section
/-! DEFINITION. KV spaces at work: pages, generations and reclamation (R250-R252, R256-R262), the Trellis (R263-R265), sequence
lists (R253) and the edits of sequences (R255, R260, R261). -/

namespace Sys2Proof.Machine

/-! ### Pages and tables (R250-R252) -/

/-- Tokens of a page. -/
def pageTokens : Nat := 64

/-- Bytes of a page of a space. -/
def Space.pageBytes (s : Space) : Nat := 128 * s.rank

/-- The virtual page of a token position in a layer. -/
def Space.vpage (s : Space) (pos layer : Nat) : Nat := pos / pageTokens * s.layers + layer

/-- The most tokens a sequence holds. -/
def Space.maxTokens (s : Space) : Nat := 64 * (262144 / max 1 s.layers)

/-- The generation of a page. -/
def Space.genOf (s : Space) (page : Nat) : Word32 := ((s.dir.find? fun x => x.page == page).map PageDir.gen).getD 0

/-- A table entry is present; one that is not is dropped (R252). -/
def Space.present (s : Space) (e : PageEntry) : Bool := s.genOf e.page == e.gen

def Sequence.entry (q : Sequence) (v : Nat) : Option PageEntry := q.table.find? fun e => e.vpage == v

def Space.seq? (s : Space) (id : Word32) : Option Sequence := s.seqs.find? fun q => q.id == id

/-- The page of a virtual page of a sequence, when it is present. -/
def Space.pageOf (s : Space) (q : Sequence) (v : Nat) : Option Nat := (q.entry v).bind fun e => if s.present e then some e.page else none

/-- The virtual page of a sequence was dropped. -/
def Space.droppedAt (s : Space) (q : Sequence) (v : Nat) : Bool := (q.entry v).any fun e => !s.present e

/-- Pages a sequence refers to. -/
def Space.pagesOf (s : Space) (q : Sequence) : List Nat := (q.table.filter s.present).map PageEntry.page

/-- References to a page: of sequences and of Trellis nodes. -/
def Space.refs (s : Space) (page : Nat) : Nat :=
  sumOf (fun q => (s.pagesOf q).count page) s.seqs + sumOf (fun n => n.pages.count page) s.trellis

/-- Free pages. -/
def Space.freePages (s : Space) : Nat := s.freeList.length + (s.pages - s.nextFree)

/-- Level-1 indices whose level-2 tables hold some entry. -/
def tableIndices (es : List PageEntry) : List Nat := (es.map fun e => e.vpage / 512).eraseDups

/-- The table page of a level-2 table. -/
def Sequence.sub (q : Sequence) (t : Nat) : Option Nat := (q.subs.find? fun x => x.1 == t).map Prod.snd

/-- Table pages of a sequence: its level-1 table and its level-2 tables. -/
def Sequence.tables (q : Sequence) : List Nat := q.root :: q.subs.map Prod.snd

/-- Free table pages. -/
def Space.tablesFree (s : Space) : Nat := s.freeTables.length + (s.tablePages - s.nextTable)

/-- A sequence is pinned (R257). -/
def Sequence.isPinned (q : Sequence) : Bool := q.pinned || !q.stepPins.isEmpty

/-- Pages that a pinned sequence refers to. -/
def Space.pinnedPages (s : Space) : List Nat := ((s.seqs.filter Sequence.isPinned).flatMap s.pagesOf).eraseDups

/-- Pages read or written by a walk. -/
def Space.touch (s : Space) (now : Tick) (pages : List Nat) : Space :=
  pages.foldl (fun s p => s.setDir p fun x => { x with lastUse := now }) s

/-- A free page taken. -/
def Space.take (s : Space) : Option (Nat × Space) :=
  match s.freeList with
  | p :: r => some (p, { s with freeList := r })
  | [] => if s.nextFree < s.pages then some (s.nextFree, { s with nextFree := s.nextFree + 1 }) else none

/-- Fresh pages for virtual pages. -/
def Space.takeAll (s : Space) : List Nat → List (Nat × Nat) × Space
  | [] => ([], s)
  | v :: r =>
    match s.take with
    | none => ([], s)
    | some (p, s) =>
      let (ps, s) := s.takeAll r
      ((v, p) :: ps, s)

/-- Up to `n` free table pages taken. -/
def Space.takeTables (s : Space) : Nat → List Nat × Space
  | 0 => ([], s)
  | n + 1 =>
    let one : Option (Nat × Space) :=
      match s.freeTables with
      | t :: r => some (t, { s with freeTables := r })
      | [] => if s.nextTable < s.tablePages then some (s.nextTable, { s with nextTable := s.nextTable + 1 }) else none
    match one with
    | none => ([], s)
    | some (t, s) =>
      let (ts, s) := s.takeTables n
      (t :: ts, s)

/-- The reservation is another step's. -/
def KvReserve.others (r : KvReserve) (k step : Nat) : Bool := !(r.slot == k && r.step == step)

/-- Pages other PROMISED steps hold in reserve (R257). -/
def Space.reservedFor (s : Space) (k step : Nat) : Nat := sumOf KvReserve.pages (s.reserved.filter fun r => r.others k step)

/-- Table pages they hold in reserve. -/
def Space.tablesReservedFor (s : Space) (k step : Nat) : Nat := sumOf KvReserve.tables (s.reserved.filter fun r => r.others k step)

/-- Pages a step may take now. -/
def Space.available (s : Space) (k step : Nat) : Nat := s.freePages - s.reservedFor k step

/-- Table pages a step may take now. -/
def Space.tablesAvailable (s : Space) (k step : Nat) : Nat := s.tablesFree - s.tablesReservedFor k step

/-- A step's reservation after it has taken pages and table pages. -/
def Space.useReserve (s : Space) (k step n t : Nat) : Space :=
  { s with reserved := s.reserved.map fun r => if r.others k step then r else { r with pages := r.pages - n, tables := r.tables - t } }

/-! ### Allocation (R256) -/

/-- What an allocation asks for: pages, table pages that hold no table yet, and copies of table pages (R260). -/
structure KvAsk where
  pages : Nat := 0
  tables : Nat := 0
  copies : Nat := 0

def KvAsk.add (a b : KvAsk) : KvAsk := { pages := a.pages + b.pages, tables := a.tables + b.tables, copies := a.copies + b.copies }

/-- What an allocation meets: room, a wait for reclamation, a page to drop first, or no page to be had. -/
inductive KvRoom where
  | ready
  | wait
  | drop
  | none
deriving DecidableEq, Repr

/-- Table pages are on their way back: they await reclamation, or a TATTN in flight will publish an edit. -/
def Device.tablesComing (d : Device) (sp : Fin 16) (s : Space) : Bool :=
  !s.tableReclaim.isEmpty || (d.aster.walks.any fun w => w.space == sp && w.appends.any fun a => !a.tables.isEmpty)

/-- How an allocation stands (R256). DESIGN CHOICE: table pages are allocated in the same way, but none is dropped for; with none on its
way a table is rewritten where it lies rather than copied (log entry 93). -/
def Device.kvRoom (d : Device) (sp : Fin 16) (s : Space) (k step : Nat) (a : KvAsk) : KvRoom :=
  let short := decide (s.available k step < a.pages)
  let free := s.tablesAvailable k step
  let coming := d.tablesComing sp s
  if short then (if !s.reclaim.isEmpty then .wait else .drop)
  else if a.tables + a.copies ≤ free then .ready
  else if coming then .wait
  else if a.tables ≤ free then .ready
  else .none

/-! ### Publishing an edit (R251, R260) -/

/-- Level-2 tables whose entries differ. -/
def changedTables (old new : List PageEntry) : List Nat :=
  let at' (es : List PageEntry) (t : Nat) := es.filter fun e => e.vpage / 512 == t
  (tableIndices new).filter fun t =>
    !((at' old t).all fun e => (at' new t).contains e) || !((at' new t).all fun e => (at' old t).contains e)

/-- The table pages of a new form of a sequence, built by copy-on-write from those taken for it: the space, the sequence, and the level-2
tables that changed (none when its tables stand as they did). -/
def Space.rebuild (s : Space) (e : Word64) (ids : List Nat) (old : Option Sequence) (q : Sequence) : Space × Sequence × Option (List Nat) :=
  let prev := (old.map Sequence.subs).getD []
  let changed := changedTables ((old.map Sequence.table).getD []) q.table
  let gone := prev.filter fun x => !((tableIndices q.table).contains x.1)
  if changed.isEmpty && gone.isEmpty && old.isSome then ({ s with freeTables := s.freeTables ++ ids }, q, none)
  else
    let has (t : Nat) : Bool := prev.any fun x => x.1 == t
    let fresh := changed.filter fun t => !has t
    let (more, s) := s.takeTables (changed.length + 1 - ids.length)
    let ids := ids ++ more
    let first := fresh.zip ids
    let ids := ids.drop fresh.length
    let copied := (changed.filter has).zip (ids.drop 1)
    let kept := prev.filter fun x => !(gone.contains x) && !(copied.any fun y => y.1 == x.1)
    let replaced := (gone ++ prev.filter fun x => copied.any fun y => y.1 == x.1).map Prod.snd
      ++ (match old, ids with | some o, _ :: _ => [o.root] | _, _ => [])
    let s := { s with
      freeTables := s.freeTables ++ ids.drop (1 + copied.length)
      tableReclaim := s.tableReclaim ++ replaced.map fun t => { page := t, epoch := e } }
    (s, { q with root := ids.headD q.root, subs := kept ++ copied ++ first }, some changed)

/-- The image of a level-1 table (*Page-table entry*). -/
def Sequence.levelOne (q : Sequence) : List Byte :=
  (List.range 512).flatMap fun t => bytesOf 4 ((q.sub t).getD 0xFFFFFFFF) ++ bytesOf 4 0

/-- The image of a level-2 table. -/
def Sequence.levelTwo (q : Sequence) (t : Nat) : List Byte :=
  (List.range 512).flatMap fun i =>
    match q.entry (512 * t + i) with
    | some e => bytesOf 4 e.page ++ bytesOf 4 e.gen.toNat
    | none => bytesOf 4 0xFFFFFFFF ++ bytesOf 4 0

/-- Byte of a table page in the pool (R250). -/
def Space.tableAt (s : Space) (t : Nat) : Nat := s.pages * s.pageBytes + 4096 * t

/-- The table pages that an edit built are written: its level-2 tables, and the level-1 root. -/
def Device.storeTables (d : Device) (s : Space) (q : Sequence) (changed : Option (List Nat)) : Device :=
  match changed with
  | none => d
  | some ts =>
    let d := ts.foldl (fun d t =>
      match q.sub t with
      | some id => d.objStore s.pool (s.tableAt id) (q.levelTwo t)
      | none => d) d
    d.objStore s.pool (s.tableAt q.root) q.levelOne

/-- A sequence changed or closed under an epoch, with table pages taken for it: pages and table pages that lost their last reference
await reclamation. -/
def Device.editAt (d : Device) (sp : Fin 16) (e : Word64) (ids : List Nat) (id : Word32) (f : Sequence → Option Sequence) : Device :=
  match (d.aster.spaces[sp]).bind fun s => (s.seq? id).map fun q => (s, q) with
  | none => d
  | some (s, q) =>
    let put (s : Space) (q' : Option Sequence) : Space :=
      let s := { s with epoch := e, seqs := s.seqs.filterMap fun (x : Sequence) => if x.id == id then q' else some x }
      s.free e (((s.pagesOf q).eraseDups).filter fun p => s.refs p == 0)
    match f q with
    | none =>
      let s := put s none
      d.updSpace sp fun _ => { s with
        freeTables := s.freeTables ++ ids, tableReclaim := s.tableReclaim ++ q.tables.map fun t => { page := t, epoch := e } }
    | some q' =>
      let (s, q', changed) := s.rebuild e ids (some q) q'
      (d.updSpace sp fun _ => put s (some q')).storeTables s q' changed

/-- An edit that publishes: the epoch goes up by 1. -/
def Device.edit (d : Device) (sp : Fin 16) (id : Word32) (f : Sequence → Option Sequence) : Device :=
  match d.aster.spaces[sp] with
  | some s => d.editAt sp (s.epoch + 1) [] id f
  | none => d

/-- A new sequence published. -/
def Device.addSeq (d : Device) (sp : Fin 16) (q : Sequence) : Device :=
  match d.aster.spaces[sp] with
  | none => d
  | some s =>
    let (s, q, changed) := s.rebuild (s.epoch + 1) [] none q
    (d.updSpace sp fun _ => { s with seqs := s.seqs ++ [q], epoch := s.epoch + 1 }).storeTables s q changed

/-- Entries set in a sequence's table at the generations that stand. -/
def Space.setEntries (s : Space) (q : Sequence) (ps : List (Nat × Nat)) : Sequence :=
  { q with table := (q.table.filter fun e => !(ps.any fun p => p.1 == e.vpage))
      ++ ps.map fun p => { vpage := p.1, gen := s.genOf p.2, page := p.2 } }

/-! ### Dropping (R256, R258) -/

/-- Nodes and every node below them. -/
def subtree (all : List TrellisNode) : Nat → List TrellisNode → List TrellisNode
  | 0, ns => ns
  | fuel + 1, ns =>
    let more := all.filter fun n => !ns.contains n && ns.any fun m => n.parent == some m.id
    if more.isEmpty then ns else subtree all fuel (ns ++ more)

/-- Nodes leave the Trellis with their subtrees; pages of theirs with no other reference are freed. -/
def Space.pruneNodes (s : Space) (epoch : Word64) (ns : List TrellisNode) (except : Nat) : Space :=
  let gone := subtree s.trellis s.trellis.length ns
  let s := { s with trellis := s.trellis.filter fun n => !gone.contains n }
  s.free epoch (((gone.flatMap TrellisNode.pages).eraseDups).filter fun p => p != except && s.refs p == 0)

/-- A page dropped. -/
def Space.drop (s : Space) (page : Nat) : Space :=
  let e := s.epoch + 1
  let s := { s with epoch := e }.free e [page]
  s.pruneNodes e (s.trellis.filter fun n => n.pages.contains page) page

/-- The unpinned page with the oldest last-use tick, the lowest id on a tie. -/
def Space.victim (s : Space) : Option Nat :=
  let pinned := s.pinnedPages
  let used := ((s.seqs.flatMap s.pagesOf ++ s.trellis.flatMap TrellisNode.pages).eraseDups).filter fun p => !pinned.contains p
  let age (p : Nat) : Nat := ((s.dir.find? fun x => x.page == p).map fun x => x.lastUse.toNat).getD 0
  used.foldl (fun (best : Option Nat) p =>
    match best with
    | none => some p
    | some b => if age p < age b ∨ (age p = age b ∧ p < b) then some p else some b) none

/-- The place of an event of a step in a space (R272). -/
def spaceLane (sp : Fin 16) : Nat := 20 + sp.val

/-- An Aster event: once per step per space when a step raises it. -/
def Device.kvEvent (d : Device) (sp : Fin 16) (step : Option (Fin 16 × Nat)) (code : Nat) (sev : Severity) (data : Nat) : Device :=
  match step with
  | some (k, s) => d.raiseOnce k s code (spaceLane sp) sev sp.val data srcAster
  | none => d.logEvent code sev sp.val data srcAster

/-- One page dropped to make room, if any can be. -/
def Device.dropVictim (d : Device) (sp : Fin 16) (step : Option (Fin 16 × Nat)) : Option Device :=
  (d.aster.spaces[sp]).bind fun s => s.victim.map fun p =>
    let d := d.updSpace sp fun s => s.drop p
    let d := { d with aster := { d.aster with dropped := bump d.aster.dropped } }
    d.kvEvent sp step 0x0501 .info 0

/-! ### Reclamation (R262) -/

/-- A TATTN holds a snapshot of the space older than an epoch. DESIGN CHOICE: one paused for a re-prefill, which snapshots again before it
goes on, holds none meanwhile (log entry 158). -/
def Device.snapshotBelow (d : Device) (sp : Fin 16) (e : Word64) : Bool :=
  d.aster.walks.any fun w => w.space == sp && !w.waitPage && w.paused.isNone && decide (w.snapshot.toNat < e.toNat)

/-- Pages and table pages whose epoch no snapshot lies below go to the free list; a page at the last generation is retired. -/
def Device.reclaimPages (d : Device) (sp : Fin 16) : Device :=
  match d.aster.spaces[sp] with
  | none => d
  | some s =>
    let ready := s.reclaim.filter fun r => !d.snapshotBelow sp r.epoch
    let old := ready.filter fun r => s.genOf r.page == 0xFFFFFFFF
    let fresh := ready.filter fun r => s.genOf r.page != 0xFFFFFFFF
    let (kept, tables) := s.tableReclaim.partition fun r => d.snapshotBelow sp r.epoch
    let d := d.updSpace sp fun s =>
      { s with
        reclaim := s.reclaim.filter fun r => d.snapshotBelow sp r.epoch
        tableReclaim := kept
        freeTables := s.freeTables ++ tables.map Reclaim.page
        freeList := s.freeList ++ fresh.map Reclaim.page
        retired := s.retired ++ old.map Reclaim.page }
    old.foldl (fun d r =>
      { d with aster := { d.aster with retired := bump d.aster.retired } }.kvEvent sp none 0x0507 .info 0) d

/-- PAGE_RECLAIM. -/
def execPageReclaim (space : Fin 16) (s : State) : Answer := s.act fun d => d.reclaimPages space

/-! ### The Trellis (R263-R265) -/

/-- The key of a block under its parent's key. -/
def blockHash (x : Word64) : List Word32 → Word64
  | a :: b :: c :: e :: r =>
    let s : DitherState := { x0 := a, x1 := b, x2 := c, x3 := e }
    let y := ditherRounds (x.extractLsb' 0 32) (x.extractLsb' 32 32) s
    blockHash ((y.x1 + b) ++ (y.x0 + a)) r
  | _ => x

/-- Keys of the full blocks of a prefix, each with its block. -/
def blockKeys (x : Word64) : List (List Word32) → List (Word64 × List Word32)
  | [] => []
  | b :: r =>
    let h := blockHash x b
    (h, b) :: blockKeys h r

/-- Full blocks of a list of token ids. -/
def fullBlocks (ts : List Word32) : List (List Word32) := (chunksOf pageTokens (ts.length + 1) ts).filter fun b => b.length == pageTokens

/-- The nodes of a prefix from its first block on, and the collisions met (R264; log entry 162). -/
def Space.lookup (s : Space) : Option Nat → List (Word64 × List Word32) → List TrellisNode × Nat
  | _, [] => ([], 0)
  | parent, (h, b) :: r =>
    let cands := s.trellis.filter fun n => n.key == h && n.parent == parent
    let bad := (cands.takeWhile fun n => n.tokens != b).length
    match cands.find? fun n => n.tokens == b with
    | none => ([], bad)
    | some n =>
      let (ns, c) := s.lookup (some n.id) r
      (n :: ns, bad + c)

/-- Table entries that share the nodes of a prefix. -/
def Space.nodeEntries (s : Space) (first : Nat) (ns : List TrellisNode) : List (Nat × Nat) :=
  (ns.mapIdx fun i n => n.pages.mapIdx fun l p => ((first + i) * s.layers + l, p)).flatten

/-- Collisions counted and logged (R264). -/
def Device.noteCollisions (d : Device) (sp : Fin 16) (step : Option (Fin 16 × Nat)) (n : Nat) : Device :=
  if n = 0 then d
  else { d with aster := { d.aster with collisions := satAdd d.aster.collisions n } }.kvEvent sp step 0x0503 .info 0

/-- Token ids of a sequence from position 0 up. -/
def Sequence.tokenList (q : Sequence) : List Word32 :=
  (List.range q.length).map fun i => ((q.tokens.find? fun t => t.1 == i).map Prod.snd).getD 0

/-- The blocks of a sequence that an append has completed join the Trellis, or are shared with a node that is there (R265). -/
def Device.insertBlocks (d : Device) (sp : Fin 16) (step : Option (Fin 16 × Nat)) (id : Word32) (from' dest : Nat) : Device :=
  match (d.aster.spaces[sp]).bind fun s => (s.seq? id).map fun q => (s, q) with
  | none => d
  | some (s, q) =>
    let keys := blockKeys s.salt (fullBlocks (q.tokenList.take dest))
    let one (d : Device) (i : Nat) : Device :=
      match (d.aster.spaces[sp]).bind fun s => (s.seq? id).map fun q => (s, q), keys[i]? with
      | some (s, q), some (h, b) =>
        let path := (s.lookup none (keys.take i)).1
        let parent := path.getLast?.map TrellisNode.id
        let above := path.length == i
        let mine := (List.range s.layers).filterMap fun l => s.pageOf q (i * s.layers + l)
        if !above || mine.length ≠ s.layers then d
        else
          let cands := s.trellis.filter fun n => n.key == h && n.parent == parent
          let d := d.noteCollisions sp step ((cands.filter fun n => n.tokens != b).length)
          match cands.find? fun n => n.tokens == b with
          | some n =>
            if n.pages == mine then d
            else
              let d := { d with aster := { d.aster with hits := bump d.aster.hits } }
              d.editAt sp s.epoch [] id fun q => some (s.setEntries q (s.nodeEntries i [n]))
          | none => d.updSpace sp fun s =>
              { s with
                trellis := s.trellis ++ [{ id := s.nextNode, key := h, parent := parent, tokens := b, pages := mine }]
                nextNode := s.nextNode + 1 }
      | _, _ => d
    ((List.range (dest / pageTokens)).filter fun i => decide (from' < (i + 1) * pageTokens)).foldl one d

/-! ### Sequence lists (R253) -/

/-- An entry of a sequence list. -/
structure SeqEntry where
  index : Nat
  seq : Word32
  qrow : Nat
  qlen : Nat
  qpos : Nat
  maskLo : Nat
  window : Nat
  pad : Bool
  append : Bool
  trellis : Bool
  tokIndex : Nat
deriving DecidableEq, Repr, Inhabited

/-- A sequence list. -/
structure SeqList where
  space : Nat
  tokenCount : Nat
  entries : List SeqEntry
deriving DecidableEq, Repr, Inhabited

/-- The object byte of byte `n` of the image that a list's descriptor views: rows of 48 bytes. -/
def Desc.listByte (x : Desc) (n : Nat) : Nat := x.loc (n / 48) 0 + n % 48

/-- `k` bytes of a list's image as a number. -/
def listNum (rd : Nat → Byte) (x : Desc) (n k : Nat) : Nat := ofBytes ((List.range k).map fun i => rd (x.listByte (n + i)))

/-- The list a descriptor holds; entries beyond its view are not there. -/
def readList (rd : Nat → Byte) (x : Desc) : SeqList :=
  let f := listNum rd x
  let count := min (f 4 4) (x.rows - 1)
  { space := f 0 1
    tokenCount := min (f 8 4) (12 * (x.rows - 1 - count))
    entries := (List.range count).map fun i =>
      let b := 48 * (1 + i)
      let flags := f (b + 24) 1
      { index := i, seq := BitVec.ofNat 32 (f b 4), qrow := f (b + 4) 4, qlen := f (b + 8) 4, qpos := f (b + 12) 4
        maskLo := f (b + 16) 4, window := f (b + 20) 4, pad := flags % 2 == 1, append := flags / 2 % 2 == 1
        trellis := flags / 4 % 2 == 1, tokIndex := f (b + 28) 4 } }

/-- Token ids of an entry from the token area. -/
def entryTokens (rd : Nat → Byte) (x : Desc) (count : Nat) (e : SeqEntry) : List Word32 :=
  (List.range e.qlen).map fun i => BitVec.ofNat 32 (listNum rd x (48 * (1 + count) + 4 * (e.tokIndex + i)) 4)

/-- The bytes that write the outcome of an entry: STATUS, and the span for DROPPED and NOT_STORED. -/
def statusBytes (x : Desc) (e : SeqEntry) (st : Nat) (span : Option (Nat × Nat)) : List ByteAt :=
  let b := 48 * (1 + e.index)
  (x.listByte (b + 25), BitVec.ofNat 8 st) ::
    (match span with
     | none => []
     | some (lo, hi) => (bytesOf 4 lo ++ bytesOf 4 hi).mapIdx fun i v => (x.listByte (b + 32 + i), v))

/-- Rows of an entry. -/
def SeqEntry.rows (e : SeqEntry) : List Nat := (List.range e.qlen).map fun i => e.qrow + i

/-- Rows leave the query matrix, or are also another entry's (R254). -/
def badRows (m : Nat) (es : List SeqEntry) (e : SeqEntry) : Bool :=
  decide (m < e.qrow + e.qlen)
    || es.any fun o => o.index != e.index && decide (o.qrow < e.qrow + e.qlen ∧ e.qrow < o.qrow + o.qlen)

/-- The visible keys of a row at a position (R246): lo and one past hi; `len` is the sequence length after the entry's tokens. -/
def visible (causal : Bool) (e : SeqEntry) (p len : Nat) : Nat × Nat :=
  let lo := if 1 ≤ e.window then max e.maskLo (p + 1 - e.window) else e.maskLo
  (lo, if causal then p + 1 else len)

/-! ### Holding edits (R257, R261) -/

/-- A PROMISED step has the sequence pinned. -/
def Device.stepPinned (d : Device) (sp : Fin 16) (id : Word32) : Bool :=
  ((d.aster.spaces[sp]).bind fun s => s.seq? id).any fun q => !q.stepPins.isEmpty

/-- An appending TATTN that arrived before and is in flight, paused or not, names the sequence, or a PROMISED step has it pinned (R260,
R261). -/
def Device.editHeld (d : Device) (sp : Fin 16) (id : Word32) (arrival : Nat) : Bool :=
  (d.aster.walks.any fun w =>
      w.space == sp && !w.waitPage && !w.appends.isEmpty && w.seqs.contains id && decide (w.arrival < arrival))
    || d.stepPinned sp id

end Sys2Proof.Machine
end

