-- ==== Sys2Proof/Machine/Attn.lean ====
section
/-! DEFINITION. The arithmetic of attention (R244-R249), row by row and head by head, and which latents a row sees. -/

namespace Sys2Proof.Machine

/-- The fields of a TATTN (R120, *TATTN words*). -/
structure Attn where
  causal : Bool
  kind : BitVec 2
  ord : BitVec 8
  pmask : BitVec 16
  m : Nat
  layer : Nat
  hq : Handle
  ho : Handle
  hs : Handle
  hup : Handle
  heads : Nat
  hdim : Nat
  rank : Nat
  scale : Word16
  hdo : Handle
  hdq : Handle
deriving DecidableEq, Repr, Inhabited

def Byquel.attn : Byquel → Option Attn
  | .tattn causal kind ord pmask m layer hq ho hs hup heads hdim rank scale hdo hdq =>
    some ⟨causal, kind, ord, pmask, m, layer, hq, ho, hs, hup, heads, hdim, rank, scale, hdo, hdq⟩
  | _ => none

/-- DECODE and PREFILL read pages (R248). -/
def Attn.paged (a : Attn) : Bool := decide (a.kind.toNat < 2)

/-- H of R243. -/
def Attn.width (a : Attn) : Nat := a.heads * a.hdim

/-! ### One head of one row (R244) -/

/-- Narrowing to Z16 with RNE; what it does to the value is part of the value's history (log entry 18). -/
def narrowed (t : Traced) : Traced :=
  let (z, o) := w32ToZ16 .rne t.word
  { word := z16ToW32 z, sat := t.sat || o == .saturated, under := t.under || o == .underflow }

/-- A canonical sum of exact products of formed values and stored ones. -/
def canonDot (xs : List Traced) (ys : List Dyad) : Traced := tSum (products (xs.map Traced.value) ys) xs

/-- The up-projections of head `h`: UK_h and UV_h, R rows of HDIM values. -/
def Attn.uk (a : Attn) (up : Matrix) (h : Nat) : Matrix := up.map fun r => (r.drop (h * a.hdim)).take a.hdim
def Attn.uv (a : Attn) (up : Matrix) (h : Nat) : Matrix := up.map fun r => (r.drop (a.width + h * a.hdim)).take a.hdim

/-- a[c] of *Row arithmetic*, and du[c] of *TRAIN_B arithmetic*: a row of values through a projection. -/
def project (uk : Matrix) (q : List Dyad) : List Traced := uk.map fun r => narrowed (tSum (products q r) [])

/-- z[j] of *Row arithmetic*. -/
def attnScores (scale : Word16) (a : List Traced) (keys : Matrix) : List Traced :=
  keys.map fun l => tMul (canonDot a l) (plain (z16ToW32 scale))

/-- e[j] of *Row arithmetic* under a maximum. -/
def attnExps (z : List Traced) (m : Traced) : List Traced := z.map (smaxTerm m)

/-- p[j] of *Row arithmetic* under a sum. -/
def attnWeights (e : List Traced) (s : Traced) : List Traced := e.map fun v => narrowed (tMul v (tFn fnRecip s))

/-- Column `c` of a list of latents. -/
def column (ls : Matrix) (c : Nat) : List Dyad := ls.map fun l => l.getD c Dyad.zero

/-- u[c] of *Row arithmetic*, and da[c] of *TRAIN_B arithmetic*: weighted sums of latents. -/
def attnLatent (rank : Nat) (p : List Traced) (keys : Matrix) : List Traced :=
  (List.range rank).map fun c => narrowed (canonDot p (column keys c))

/-- What one head of one row gives: its output, m and s. -/
structure HeadOut where
  out : List Traced
  m : Word32
  s : Word32
deriving DecidableEq, Repr, Inhabited

/-- One head of one unmasked row. -/
def Attn.head (at' : Attn) (up : Matrix) (h : Nat) (q : List Dyad) (keys : Matrix) : HeadOut :=
  let a := project (at'.uk up h) q
  let z := attnScores at'.scale a keys
  let m := rowMax z
  let e := attnExps z m
  let s := rowSum e
  let u := attnLatent at'.rank (attnWeights e s) keys
  let uv := at'.uv up h
  { out := (List.range at'.hdim).map fun d => canonDot u (column uv d), m := m.word, s := s.word }

/-- The query of head `h` in a row of HQ, and the row's own latent as Z16. -/
def Attn.query (a : Attn) (row : List Dyad) (h : Nat) : List Dyad := (row.drop (h * a.hdim)).take a.hdim
def Attn.latent (a : Attn) (row : List Dyad) : List Word16 :=
  ((row.drop a.width).take a.rank).map fun v => BitVec.ofNat 16 (Fmt.z16.round .rne v).1

/-- The empty marker of a stat record (R247). -/
def emptyRecord : Word32 × Word32 := (0xFFFFFFFF, 0)

/-- One row: its output columns and a record per head; a row with no key is fully masked (R247). -/
def Attn.row (a : Attn) (up : Matrix) (row : List Dyad) (keys : Option Matrix) : List Traced × List (Word32 × Word32) :=
  match keys with
  | none => (List.replicate a.width (plain 0), List.replicate a.heads emptyRecord)
  | some ks =>
    let hs := (List.range a.heads).map fun h => a.head up h (a.query row h) ks
    (hs.flatMap HeadOut.out, hs.map fun h => (h.m, h.s))

/-! ### Training backward (R249) -/

/-- What the backward of one head of one row forms. -/
structure HeadBack where
  q : List Dyad
  dout : List Dyad
  a : List Traced
  u : List Traced
  du : List Traced
  da : List Traced
  /-- Rows of the keys, with p[j] and ds[j]. -/
  keys : List (Nat × Traced × Traced)
deriving DecidableEq, Repr, Inhabited

/-- One head of one row whose record is not the empty marker; `keys` gives the rows that hold the visible keys. -/
def Attn.headBack (at' : Attn) (up : Matrix) (h : Nat) (q dout : List Dyad) (rec : Word32 × Word32) (rows : List Nat)
    (keys : Matrix) : HeadBack :=
  let a := project (at'.uk up h) q
  let p := attnWeights (attnExps (attnScores at'.scale a keys) (plain rec.1)) (plain rec.2)
  let u := attnLatent at'.rank p keys
  let du := project (at'.uv up h) dout
  let dp := keys.map fun l => canonDot du l
  let cc := dotSum dp p
  let ds := (dp.zip p).map fun (x, y) => tMul (tMul (tSub x cc) y) (plain (z16ToW32 at'.scale))
  let da := attnLatent at'.rank ds keys
  { q := q, dout := dout, a := a, u := u, du := du, da := da, keys := rows.zip (p.zip ds) }

/-- dq of a head. -/
def Attn.dq (a : Attn) (up : Matrix) (h : Nat) (b : HeadBack) : List Traced :=
  let uk := a.uk up h
  (List.range a.hdim).map fun d => canonDot b.da (column uk d)

/-- The backward of every head and row, in increasing t = h × M + r; none where the row contributes nothing. -/
abbrev BackTerms := List (Option HeadBack)

/-- The factors of the two products of each t that dl of a key row sums, in the order shown. -/
def dlFactors (ts : BackTerms) (row c : Nat) : List (Traced × Traced) :=
  let none' := (plain 0, plain 0)
  ts.flatMap fun t =>
    match t with
    | none => [none', none']
    | some b =>
      match b.keys.find? fun k => k.1 == row with
      | none => [none', none']
      | some (_, p, ds) => [(ds, b.a.getD c (plain 0)), (p, b.du.getD c (plain 0))]

/-- dl of a key row. -/
def Attn.dl (a : Attn) (ts : BackTerms) (row : Nat) : List Traced :=
  (List.range a.rank).map fun c => let fs := dlFactors ts row c; dotSum (fs.map Prod.fst) (fs.map Prod.snd)

/-- One product of each t of a head, those of other heads zero. -/
def Attn.headProducts (a : Attn) (ts : BackTerms) (h : Nat) (f : HeadBack → Dyad) : List Dyad :=
  List.replicate (h * a.m) Dyad.zero
    ++ (List.range a.m).map fun r => (((ts[h * a.m + r]?).bind id).map f).getD Dyad.zero

/-- The additions to HUP's crucible region, row-major: dUK of every head, then dUV. -/
def Attn.upGrad (a : Attn) (ts : BackTerms) : List Word32 :=
  (List.range a.rank).flatMap fun c =>
    (List.range a.width).map (fun i =>
      canonSum (a.headProducts ts (i / a.hdim) fun b => (b.da.getD c (plain 0)).value.mul (b.q.getD (i % a.hdim) Dyad.zero)))
      ++ (List.range a.width).map fun i =>
      canonSum (a.headProducts ts (i / a.hdim) fun b => (b.u.getD c (plain 0)).value.mul (b.dout.getD (i % a.hdim) Dyad.zero))

/-! ### Rows of an entry (R246) -/

/-- The position of row `r` of an entry. -/
def SeqEntry.posOf (e : SeqEntry) (r : Nat) : Nat := e.qpos + (r - e.qrow)

/-- The visible positions of a row, none when it is fully masked; `len` is the sequence length after the entry's own tokens. -/
def SeqEntry.visibleOf (e : SeqEntry) (causal : Bool) (len r : Nat) : Option (List Nat) :=
  let (lo, hi) := visible causal e (e.posOf r) len
  if e.pad || decide (hi ≤ lo) then none else some ((List.range (hi - lo)).map (lo + ·))

/-- The entry of a list that holds a row. -/
def entryOfRow (es : List SeqEntry) (r : Nat) : Option SeqEntry := es.find? fun e => decide (e.qrow ≤ r ∧ r < e.qrow + e.qlen)

/-! ### The kinds -/

/-- Rows written through a descriptor: bytes and histogram entries. -/
def IssueCtx.putRows (c : IssueCtx) (h : Handle) (ord : BitVec 8) (rows : List (Nat × List Traced)) : Effect :=
  match descAt c.descs h with
  | none => {}
  | some x =>
    let (bs, ns) := x.storeRows (c.bytes x) (c.rule x ord) (rows.map fun r => (r.1, r.2.map Traced.word))
    { stores := bs.map fun b => (x.object, b.1, [b.2]), hist := c.count x (rows.flatMap Prod.snd) ns }

/-- The rows a list of entries covers, in increasing order, each once. -/
def coveredRows (m : Nat) (es : List SeqEntry) : List Nat := (List.range m).filter fun r => (entryOfRow es r).isSome

/-- Training entries whose rows leave the query matrix or are shared are INVALID (R254). -/
def trainValid (m : Nat) (es : List SeqEntry) : List SeqEntry := es.filter fun e => !badRows m es e

/-- Rows of the keys of a training row: those of its own entry at the visible positions (R248). -/
def Attn.trainKeys (a : Attn) (e : SeqEntry) (r : Nat) : Option (List Nat) :=
  (e.visibleOf a.causal (e.qpos + e.qlen) r).map fun ps =>
    (ps.filter fun p => decide (e.qpos ≤ p ∧ p < e.qpos + e.qlen)).map fun p => e.qrow + (p - e.qpos)

/-- The latents of rows of HQ, as values. -/
def Attn.latents (a : Attn) (hq : Matrix) (rows : List Nat) : Matrix := rows.map fun r => (a.latent (hq.getD r [])).map ofZ16

/-- Status bytes of training entries. -/
def trainStatus (x : Desc) (m : Nat) (es : List SeqEntry) : List (Word32 × Nat × List Byte) :=
  es.flatMap fun e => (statusBytes x e (if badRows m es e then 1 else 0) none).map fun b => (x.object, b.1, [b.2])

/-- TRAIN_F: outputs, and M × HEADS records; a row of no entry has the record (0, 0). -/
def IssueCtx.trainF (c : IssueCtx) (a : Attn) (xs : Desc) (l : SeqList) : Effect × List (Word32 × Word32) :=
  let hq := c.values a.hq
  let up := c.values a.hup
  let ok := trainValid a.m l.entries
  let rowOf (r : Nat) : List Traced × List (Word32 × Word32) :=
    let keys := ((entryOfRow ok r).bind fun e => a.trainKeys e r).map (a.latents hq)
    a.row up (hq.getD r []) keys
  let covered := coveredRows a.m l.entries
  let outs := covered.map fun r => (r, rowOf r)
  let e := c.putRows a.ho a.ord (outs.map fun o => (o.1, o.2.1))
  let recs := (List.range a.m).flatMap fun r =>
    ((outs.find? fun o => o.1 == r).map fun o => o.2.2).getD (List.replicate a.heads (0, 0))
  ({ e with stores := e.stores ++ trainStatus xs a.m l.entries }, recs)

/-- TRAIN_B: HDQ, and the additions to HUP's region. -/
def IssueCtx.trainB (c : IssueCtx) (a : Attn) (xs : Desc) (l : SeqList) (recs : List (Word32 × Word32)) : Effect :=
  let hq := c.values a.hq
  let up := c.values a.hup
  let dout := c.values a.hdo
  let ok := trainValid a.m l.entries
  let term (h r : Nat) : Option HeadBack :=
    let rec' := recs.getD (r * a.heads + h) (0, 0)
    if rec' = emptyRecord then none
    else ((entryOfRow ok r).bind fun e => a.trainKeys e r).map fun ks =>
      a.headBack up h (a.query (hq.getD r []) h) (a.query (dout.getD r []) h) rec' ks (a.latents hq ks)
  let ts : BackTerms := (List.range a.heads).flatMap fun h => (List.range a.m).map (term h)
  let rowOf (r : Nat) : List Traced :=
    ((List.range a.heads).flatMap fun h =>
        match (ts[h * a.m + r]?).bind id with
        | some b => a.dq up h b
        | none => List.replicate a.hdim (plain 0))
      ++ a.dl ts r
  let e := c.putRows a.hdq a.ord ((coveredRows a.m l.entries).map fun r => (r, rowOf r))
  { e with
    stores := e.stores ++ trainStatus xs a.m l.entries
    adds := [(a.hup, a.upGrad ts)] }

end Sys2Proof.Machine
end

