-- ==== Sys2Proof/Machine/Walks.lean ====
section
/-! DEFINITION. What a TATTN of kind DECODE or PREFILL reads and writes in its KV space (R246, R251-R259), and the gather queues
(R110, R266, R267). -/

namespace Sys2Proof.Machine

/-! ### Entries (R253, R254) -/

/-- The sequence list a TATTN names. -/
def Device.attnList (d : Device) (ds : List Desc) (a : Attn) : Option (Desc × SeqList) :=
  (descAt ds a.hs).map fun x => (x, readList (d.descReader x) x)

/-- The space of a list. -/
def Device.spaceAt (d : Device) (n : Nat) : Option (Fin 16 × Space) := (asFin 16 n).bind fun sp => (d.aster.spaces[sp]).map fun s => (sp, s)

/-- An entry is not INVALID, whatever the position of its append (R254). -/
def Space.entryShape (s : Space) (account : BitVec 6) (a : Attn) (l : SeqList) (e : SeqEntry) : Bool :=
  (s.seq? e.seq).isSome && s.owner == account && decide (a.layer < s.layers) && a.rank == s.rank && !badRows a.m l.entries e
    && decide (e.qpos + e.qlen ≤ s.maxTokens) && (!e.append || decide (e.tokIndex + e.qlen ≤ l.tokenCount))

/-- An entry is not INVALID (R254); a re-prefill appends where its span lies (R259). -/
def Space.entryOk (s : Space) (account : BitVec 6) (a : Attn) (l : SeqList) (reprefill : Bool) (e : SeqEntry) : Bool :=
  s.entryShape account a l e && (!e.append || reprefill || (s.seq? e.seq).any fun q => e.qpos == q.length)

/-- The sequence length after an entry's own tokens. -/
def SeqEntry.lenAfter (e : SeqEntry) (q : Sequence) : Nat := if e.append then max q.length (e.qpos + e.qlen) else q.length

/-- The position is one of the entry's own tokens. -/
def SeqEntry.own (e : SeqEntry) (p : Nat) : Bool := e.append && decide (e.qpos ≤ p ∧ p < e.qpos + e.qlen)

/-- The visible range of an entry: the least first and the greatest last of its unmasked rows (one past it). -/
def SeqEntry.span (e : SeqEntry) (causal : Bool) (q : Sequence) : Option (Nat × Nat) :=
  if e.pad then none
  else
    let rs := (e.rows.map fun r => visible causal e (e.posOf r) (e.lenAfter q)).filter fun v => decide (v.1 < v.2)
    rs.foldl (fun (acc : Option (Nat × Nat)) v =>
      some (match acc with | none => v | some (lo, hi) => (min lo v.1, max hi v.2))) none

/-- Position pages that an entry reads. -/
def SeqEntry.readPages (e : SeqEntry) (causal : Bool) (q : Sequence) : List Nat :=
  match e.span causal q with
  | none => []
  | some (lo, hi) => ((((List.range (hi - lo)).map (lo + ·)).filter fun p => !e.own p).map (· / pageTokens)).eraseDups

/-- A position page of a sequence has a dropped page of a layer. -/
def Space.droppedPos (s : Space) (q : Sequence) (layer pp : Nat) : Bool := s.droppedAt q (s.vpage (pp * pageTokens) layer)

/-- The entry's visible range contains a dropped page of its layer (R259). -/
def Space.readsDropped (s : Space) (a : Attn) (e : SeqEntry) (q : Sequence) : Bool := (e.readPages a.causal q).any (s.droppedPos q a.layer)

/-- SPAN_LO and SPAN_HI (R259). -/
def Space.droppedSpan (s : Space) (a : Attn) (e : SeqEntry) (q : Sequence) : Nat × Nat :=
  let top := ((e.span a.causal q).map fun v => (v.2 - 1) / pageTokens).getD 0
  let bad := (List.range (top + 1)).filter fun pp => (List.range s.layers).any fun l => s.droppedPos q l pp
  (pageTokens * (bad.head?).getD 0, min (pageTokens * ((bad.getLast?).getD 0 + 1)) q.length)

/-- The first valid entry whose visible range contains a dropped page. -/
def Space.firstDropped (s : Space) (a : Attn) (ok : List SeqEntry) : Option (SeqEntry × Sequence) :=
  ok.findSome? fun e => (s.seq? e.seq).bind fun q => if s.readsDropped a e q then some (e, q) else none

/-! ### Appends (R255, R256) -/

/-- Virtual pages an append falls in. -/
def Space.appendPages (s : Space) (layer : Nat) (e : SeqEntry) : List Nat :=
  if e.append then (((List.range e.qlen).map fun i => s.vpage (e.qpos + i) layer)).eraseDups else []

/-- The append needs a fresh page there: none is present, or more than one reference is held to it; a re-prefill writes no page
that is present (R255, R259). DESIGN CHOICE: an ordinary append that falls in a dropped partial page outside every visible range takes a
fresh page, and the page's earlier tokens stay lost (log entry 155). -/
def Space.needsPage (s : Space) (reprefill : Bool) (q : Sequence) (v : Nat) : Bool :=
  match s.pageOf q v with
  | none => true
  | some p => !reprefill && decide (1 < s.refs p)

/-- Virtual pages of a sequence that an append needs fresh pages for. -/
def Space.freshFor (s : Space) (reprefill : Bool) (layer : Nat) (e : SeqEntry) (q : Sequence) : List Nat :=
  (s.appendPages layer e).filter (s.needsPage reprefill q)

/-- What entries set at virtual pages ask for: a page each, new level-2 tables, and copies of the root and of the tables that stand. -/
def Sequence.ask (q : Sequence) (vs : List Nat) : KvAsk :=
  let idx := (vs.map (· / 512)).eraseDups
  let fresh := (idx.filter fun t => (q.sub t).isNone).length
  if vs.isEmpty then {} else { pages := vs.length, tables := fresh, copies := 1 + (idx.length - fresh) }

/-- What the append of an entry asks for. -/
def Space.entryAsk (s : Space) (reprefill : Bool) (layer : Nat) (e : SeqEntry) : KvAsk :=
  match s.seq? e.seq with
  | some q => q.ask (s.freshFor reprefill layer e q)
  | none => {}

/-- What the appends of a list of entries ask for. -/
def Space.appendNeed (s : Space) (reprefill : Bool) (layer : Nat) (es : List SeqEntry) : KvAsk :=
  es.foldl (fun n e => n.add (s.entryAsk reprefill layer e)) {}

/-- Appends planned, their pages and table pages taken; table pages for the copies only where there is room for all of them. -/
def Space.planAppends (s : Space) (reprefill : Bool) (a : Attn) (roomy : Bool) (tok : SeqEntry → List Word32) :
    List SeqEntry → List AppendPlan × Space
  | [] => ([], s)
  | e :: r =>
    match e.append, s.seq? e.seq with
    | true, some q =>
      let vs := s.freshFor reprefill a.layer e q
      let ask := q.ask vs
      let (ps, s) := s.takeAll vs
      let (ts, s) := s.takeTables (ask.tables + if roomy then ask.copies else 0)
      let p : AppendPlan :=
        { seq := e.seq, layer := a.layer, qpos := e.qpos, qlen := e.qlen, trellis := e.trellis
          tokens := if a.layer = 0 then tok e else [], pages := ps, tables := ts }
      let (l, s) := s.planAppends reprefill a roomy tok r
      (p :: l, s)
    | _, _ => s.planAppends reprefill a roomy tok r

/-! ### Latents (R245, R250, R255) -/

/-- Byte of a latent in the pool. -/
def Space.latentAt (s : Space) (page pos c : Nat) : Nat := page * s.pageBytes + 2 * (pos % pageTokens * s.rank + c)

/-- The latent of a position as pages hold it; one that nothing has appended has no value the spec states. -/
def Space.pageLatent (s : Space) (pool : Nat → Byte) (q : Sequence) (layer pos : Nat) : List Word16 :=
  match s.pageOf q (s.vpage pos layer) with
  | some p => (List.range s.rank).map fun c =>
      let at' := s.latentAt p pos c
      pool (at' + 1) ++ pool at'
  | none => (List.range s.rank).map fun c => Config.absentLatent q.id.toNat pos c

/-- The latent a row of an entry sees at a position. -/
def Space.keyLatent (s : Space) (pool : Nat → Byte) (a : Attn) (hq : Matrix) (e : SeqEntry) (q : Sequence) (pos : Nat) : List Dyad :=
  (if e.own pos then a.latent (hq.getD (e.qrow + (pos - e.qpos)) []) else s.pageLatent pool q a.layer pos).map ofZ16

/-- The output of a row of a valid entry. -/
def Space.rowOut (s : Space) (pool : Nat → Byte) (a : Attn) (hq up : Matrix) (e : SeqEntry) (r : Nat) : List Traced :=
  match s.seq? e.seq with
  | none => List.replicate a.width (plain 0)
  | some q =>
    let keys := (e.visibleOf a.causal (e.lenAfter q) r).map fun ps => ps.map (s.keyLatent pool a hq e q)
    (a.row up (hq.getD r []) keys).1

/-- Bytes an append writes: shared pages copied, then the latents of the entry's rows (R255). -/
def Space.appendBytes (s : Space) (pool : Nat → Byte) (reprefill : Bool) (a : Attn) (hq : Matrix) (e : SeqEntry) (q : Sequence)
    (p : AppendPlan) : List (Word32 × Nat × List Byte) :=
  let copies := p.pages.filterMap fun (v, fresh) =>
    (s.pageOf q v).map fun old =>
      (s.pool, fresh * s.pageBytes, (List.range s.pageBytes).map fun i => pool (old * s.pageBytes + i))
  let target (pos : Nat) : Option Nat :=
    let v := s.vpage pos a.layer
    match p.pages.find? fun x => x.1 == v with
    | some x => some x.2
    | none => if reprefill then none else s.pageOf q v
  copies ++ (List.range e.qlen).filterMap fun i =>
    (target (e.qpos + i)).map fun page =>
      (s.pool, s.latentAt page (e.qpos + i) 0, (a.latent (hq.getD (e.qrow + i) [])).flatMap fun z => bytesOf 2 z.toNat)

/-- Pages a walk reads or writes (R256). -/
def Space.walkPages (s : Space) (a : Attn) (ok : List SeqEntry) (ps : List AppendPlan) : List Nat :=
  ((ok.flatMap fun e =>
    match s.seq? e.seq with
    | none => []
    | some q =>
      ((e.readPages a.causal q).filterMap fun pp => s.pageOf q (s.vpage (pp * pageTokens) a.layer))
        ++ (s.appendPages a.layer e).filterMap (s.pageOf q)) ++ ps.flatMap fun p => p.pages.map Prod.snd).eraseDups

/-! ### Gathering (R110, R266, R267) -/

/-- The fill target of a program in a partition mode (R110); 0 selects the default. -/
def Program.fillTarget (p : Program) (mode : BitVec 2) : Nat :=
  let n := (p.fill.toList[mode.toNat]?).getD 0
  if n = 0 then (if mode = 0 then 800 else if mode = 1 then 400 else 200) else n

/-- The bucket of a key count under a space's boundaries. -/
def Space.bucketOf (s : Space) (n : Nat) : Nat := (s.bounds.filter fun b => decide (b ≤ n)).length

/-- Visible keys of an entry's last row; none when it is masked. -/
def SeqEntry.lastCount (e : SeqEntry) (causal : Bool) (q : Sequence) : Nat :=
  ((e.visibleOf causal (e.lenAfter q) (e.qrow + e.qlen - 1)).map List.length).getD 0

/-- Rows join a queue of the same key, or a new one. -/
def joinQueue (q : GatherQueue) : List GatherQueue → List GatherQueue
  | [] => [q]
  | x :: r =>
    if { x with rows := [], target := 0 } = { q with rows := [], target := 0 } then
      { x with rows := x.rows ++ q.rows } :: r
    else x :: joinQueue q r

/-- The smallest latest-issue tick of a queue. -/
def GatherQueue.latest (q : GatherQueue) : Nat :=
  match q.rows with
  | [] => 0
  | r :: rs => rs.foldl (fun m x => min m x.latest) r.latest

/-- Products of a queue: every full one, and short ones while its latest-issue tick has come. Answers the rows left, the products
and those short. -/
def GatherQueue.run (now : Nat) : Nat → GatherQueue → GatherQueue × Nat × Nat
  | 0, q => (q, 0, 0)
  | fuel + 1, q =>
    let n := q.rows.length
    let full := decide (q.target ≤ n)
    if n = 0 || !(full || decide (q.latest ≤ now)) then (q, 0, 0)
    else
      let (q, a, b) := GatherQueue.run now fuel { q with rows := q.rows.drop (max 1 q.target) }
      (q, a + 1, b + if full then 0 else 1)

/-- The row belongs to an instruction. -/
def GatherRow.ofFlight (r : GatherRow) (k s lane word mb : Nat) : Bool :=
  r.program == k && r.step == s && r.lane == lane && r.word == word && r.mb == mb

/-- TATTNs with no row left in a queue are no longer gathering. -/
def Device.clearGathering (d : Device) : Device :=
  d.allLanes.foldl (fun d (k, s, lane, _) =>
    d.updLane k s lane fun l => { l with inflight := l.inflight.map fun f =>
      { f with gathering := f.gathering
          && d.aster.queues.any fun q => q.rows.any fun r => r.ofFlight k.val s lane.val f.word f.mb } }) d

/-- Every queue issues what it can. -/
def Device.runQueues (d : Device) (only : Option Nat) : Device :=
  let run (i : Nat) (q : GatherQueue) : GatherQueue × Nat × Nat :=
    if (only.map (· == i)).getD true then q.run d.tb.now.toNat (q.rows.length + 1) else (q, 0, 0)
  let rs := d.aster.queues.mapIdx run
  let a := d.aster
  { d with aster := { a with
      queues := (rs.map Prod.fst).filter fun q => !q.rows.isEmpty
      products := satAdd a.products (sumOf (fun (r : GatherQueue × Nat × Nat) => r.2.1) rs)
      short := satAdd a.short (sumOf (fun (r : GatherQueue × Nat × Nat) => r.2.2) rs) } }.clearGathering

/-- GATHER_DEADLINE: the time base reaches a latest-issue tick of the queue. -/
def execGatherDeadline (n : Nat) (s : State) : Answer := s.act fun d => d.runQueues (some n)

end Sys2Proof.Machine
end

