-- ==== Sys2Proof/Machine/Launch.lean ====
section
/-! DEFINITION. STEP_LAUNCH (R118, R132, R140, R143, R145, R148, R238, R257, R288, R336, R337): the checks, admission, and what a
launch sets up. -/

namespace Sys2Proof.Machine

/-! ### Channel transfers that arrive (R376, R377) -/

/-- A transfer that breaks R377 is discarded and logged, and ends the steps of its destination. -/
def Device.channelBad (d : Device) (t : HeldTransfer) : Device :=
  let d := d.logEvent 0x0707 .error 0 0 srcJob
  match asFin 16 t.destProg with
  | none => d
  | some k =>
    match d.progs[k] with
    | none => d
    | some p => match p.inFlight.head? with
      | none => d
      | some st => d.failStep k st.step .faulted

/-- Bytes of the destination object that a transfer writes begin here (R376 step 3). -/
def HeldTransfer.at' (t : HeldTransfer) (mbCount : Nat) : Nat := t.destOffset + (t.step % 2 * mbCount + t.mb) * t.bytes.length

/-- The destination range lies in the object; a transfer without bytes only signals. -/
def Device.transferFits (d : Device) (p : Program) (t : HeldTransfer) : Bool :=
  t.bytes.isEmpty || (d.obj? t.destObject).any fun o => decide (t.at' p.mbCount + t.bytes.length ≤ o.size)

/-- A transfer written and signalled. -/
def Device.landTransfer (d : Device) (k : Fin 16) (t : HeldTransfer) : Device :=
  match d.progs[k] with
  | none => d
  | some p =>
    if d.transferFits p t then
      let d := if t.bytes.isEmpty then d else d.objStore t.destObject (t.at' p.mbCount) t.bytes
      d.addSem k t.step t.destSem.toNat 1
    else d.channelBad t

/-- The transfers held for a step that launches. -/
def Device.landHeld (d : Device) (k : Fin 16) (s : Nat) : Device :=
  let mine (t : HeldTransfer) : Bool := t.destProg == k.val && t.step == s
  let ts := d.fab.heldTransfers.filter mine
  let d := d.updFab fun f => { f with heldTransfers := f.heldTransfers.filter fun t => !mine t }
  ts.foldl (fun d t => d.landTransfer k t) d

/-! ### What a step starts with -/

/-- Descriptors as the launch binds them (R140). -/
def Program.boundDescs (p : Program) : List Desc :=
  p.stagedDescs.foldl (fun ds x =>
    match ds[x.1.toNat]? with
    | some y => ds.set x.1.toNat (y.bind x.2.1 x.2.2)
    | none => ds) p.descs

/-- WEIGHT tensors with the reads that a step retires (R179). -/
def Program.readsOfStep (p : Program) : List (Word32 × Nat) :=
  ((p.descs.filter fun x => x.cls == .weight).map Desc.tensor).eraseDups.map fun t => (t, p.readsPerStep t)

/-- A step refreshes PRE roots (R230). -/
def Program.refreshStep (p : Program) (s : Nat) : Bool :=
  p.hasPre && (p.preRefresh
    || (p.rules.any fun r => r.prePeriod != 0 && decide (r.ruleStart.toNat ≤ s + 1) && (s + 1 - r.ruleStart.toNat) % r.prePeriod == 0))

/-- No installed table can come to this device from elsewhere: it is the top manager, of no job, or of another reduction group than
the top manager, whose program it would be installed for. -/
def Device.ownTable (d : Device) : Bool :=
  d.fab.isTop || !d.joined || (d.fab.topManager.all fun t => (d.fab.groupOf t) != d.fab.myGroup)

/-- The scale table a step begins with on this device: the one installed or received, and for the step a program starts from all NONE
where none is; every other member of the top manager's group waits for the table that it multicasts (R201, R202, R204; log entry
26). -/
def Device.launchTable (d : Device) (p : Program) (s : Nat) : Option ScaleTable :=
  let inst := p.installedTable.filter fun t => t.step == s
  if inst.isSome && (d.fab.isTop || !d.joined) then inst
  else match p.tables.find? fun t => t.step == s with
    | some t => some t
    | none => if (s = p.firstStep || s = p.baseVersion) && d.ownTable then some (p.coldTable s) else none

/-- The state of a step at its launch. -/
def Device.freshStep (d : Device) (p : Program) (s : Nat) (c : Option OpenCmd) (promised reprefill : Bool) : StepState :=
  let lanes : Vector LaneState 17 := Vector.ofFn fun n =>
    if n.val = 16 then { active := p.uLanes != 0 } else { pmode := (p.lane n.val).pmode }
  { step := s, cmd := c, promised := promised, reprefill := reprefill, descs := p.boundDescs, lanes := lanes
    uDone := p.uLanes == 0, pendingReads := p.readsOfStep, table := d.launchTable p s, schedule := p.nextSchedule
    refreshDue := p.refreshStep s }

/-- The table of the step a program starts from, or an installed one, goes to every member of its group when that step is launched on
the top manager (R201, R204). -/
def Device.sendInstalled (d : Device) (k : Fin 16) (p : Program) (s : Nat) : Device :=
  match d.launchTable p s with
  | some t =>
    let installed := p.installedTable.any fun t => t.step == s
    if d.fab.isTop && (installed || s = p.baseVersion || s = p.firstStep) && (d.jobProgram.map Prod.fst) == some k then
      d.sendRecords (d.fab.group.filter (· != d.fab.rank.toNat)) .scaleTable t.image (d.stepLate k s)
    else d
  | none => d

/-- A step is launched: its bank cleared, staged settings taken, its state set up, and transfers held for it landed; one that a hop
has shown to have another plan ends at once (R185). -/
def Device.launchStep (d : Device) (k : Fin 16) (s : Nat) (c : Option OpenCmd) (promised reprefill : Bool) : Device :=
  match d.progs[k] with
  | none => d
  | some p =>
    let st := d.freshStep p s c promised reprefill
    let bank := s % 2
    let d := d.setProg k (some { p with
      state := .running, descs := st.descs, stagedDescs := [], schedule := p.nextSchedule, stagedSchedule := none
      preRefresh := p.preRefresh && !st.refreshDue, steps := p.steps ++ [st]
      sems := p.sems.filter fun x => x.1 != bank, semSaturated := p.semSaturated.filter fun x => x.1 != bank })
    let d := (d.sendInstalled k p s).landHeld k s
    if p.mismatched.contains s then d.failStep k s .faulted else d

/-! ### Checks (R118, R145, R148, R238) -/

/-- The step number a launch may name: the next-step number, or the one after the last step in flight (R145; log entry 151). -/
def Program.launchable (p : Program) : Nat := p.nextStep + p.steps.length

/-- Lanes of a stream that are present. -/
def Program.tooManyLanes (p : Program) : Bool := decide (4 < p.fLanes ∨ 4 < p.bLanes)

/-- A launch is ST_BAD_PARAM (R148, R238). DESIGN CHOICE: so is one of a program with NORM_MODE set and no rule set that releases no
tensor, on which R238 is silent (log entry 154). -/
def Device.launchBad (d : Device) (s : Nat) (p : Program) : Bool :=
  p.state == .halted || s != p.launchable || (d.integ.twin && p.tooManyLanes)
    || (!p.releasedHandles.isEmpty && p.rules.isNone) || (p.gx.normMode != 0 && (p.rules.all fun r => r.gradObject == 0))

/-- A launch is ST_BUSY. -/
def Device.launchBusy (d : Device) (p : Program) : Bool :=
  decide (2 ≤ p.steps.length) || d.fab.job == .joining || d.fab.job == .hold || d.tun.quiesce

/-- Arrays that the program's lanes bind to. -/
def Device.programArrays (d : Device) (p : Program) : List (Fin 8) :=
  (((List.range 16).filter fun n => (p.lane n).present).flatMap d.laneArrays).eraseDups

/-- A lane of the program is bound to a quarantined array (R408). -/
def Device.boundQuarantined (d : Device) (p : Program) : Bool := (d.programArrays p).any fun n => d.integ.quarantine.getLsbD n.val

/-- The body of some lane of a program issues an instruction of a kind. -/
def Program.issues (p : Program) (is : Byquel → Bool) : Bool := (List.range 17).any fun n => (p.lane n).body.any fun i => is i.instr

/-- The program has a byte in a stack: in an object whose home or extents lie on it. -/
def Device.usesStack (d : Device) (p : Program) (k : Fin 20) : Bool :=
  p.objects.any fun id => (d.obj? id).any fun o => o.places.any fun x =>
    match x.1 with
    | .t2 m => m.getLsbD k.val
    | _ => false

/-- The steps of a program need a block, by its index (R465): the arrays of its lanes and their hearths, the Tundish, Aster for
attention, the stacks of its objects, Octing in a job, Bellows, and integrity in twin mode. -/
def Device.needsBlock (d : Device) (p : Program) (b : Nat) : Bool :=
  if 3 ≤ b ∧ b < 11 then (d.programArrays p).any fun n => n.val + 3 == b
  else if b = 11 then true
  else if b = 12 then p.issues Byquel.isTattn
  else if 13 ≤ b ∧ b < 21 then (d.programArrays p).any fun n => n.val + 13 == b
  else if h : 21 ≤ b ∧ b < 41 then d.usesStack p ⟨b - 21, by omega⟩
  else if b = 41 then d.joined
  else if b = 42 then true
  else if b = 46 then d.integ.twin
  else false

/-- A step of the program needs a block with a parity fault (R465). -/
def Device.parityHits (d : Device) (p : Program) : Bool :=
  (List.range 49).any fun b => d.intc.parity.getLsbD b && d.needsBlock p b

/-! ### Admission (R257, R288, R335-R337) -/

/-- TATTNs of kind DECODE or PREFILL of a program's bodies, with the lists that descriptors hold. -/
def Device.attnLists (d : Device) (p : Program) (ds : List Desc) : List (Attn × SeqList) :=
  ((List.range 8).flatMap fun n => (p.lane n).body).filterMap fun i =>
    (i.instr.attn.filter Attn.paged).bind fun a => (d.attnList ds a).map fun x => (a, x.2)

/-- The lists of a step to be launched. -/
def Device.stepLists (d : Device) (p : Program) : List (Attn × SeqList) := d.attnLists p p.boundDescs

/-- Appending entries of lists: space, layer and entry. -/
def appendsOf (ls : List (Attn × SeqList)) : List (Nat × Nat × SeqEntry) :=
  ls.flatMap fun x => (x.2.entries.filter SeqEntry.append).map fun e => (x.2.space, x.1.layer, e)

/-- Appends of the steps in flight. -/
def Device.flightAppends (d : Device) : List (Nat × Nat × SeqEntry) := d.flightSteps.flatMap fun x => appendsOf (d.attnLists x.1 x.2.descs)

/-- The lists of a step with their spaces and the entries that will be valid: the sequence will have the length that an append names once
the appends of steps in flight, and of the step itself, have been made. -/
def Device.stepEntries (d : Device) (p : Program) : List (Fin 16 × Space × Attn × List SeqEntry) :=
  let ls := d.stepLists p
  let before := d.flightAppends ++ appendsOf ls
  let reached (sp : Fin 16) (e : SeqEntry) : Bool :=
    before.any fun x => x.1 == sp.val && x.2.2.seq == e.seq && x.2.2.qpos + x.2.2.qlen == e.qpos
  ls.filterMap fun (a, l) =>
    (d.spaceAt l.space).map fun (sp, s) =>
      (sp, s, a, l.entries.filter fun e => s.entryOk p.account a l false e || (s.entryShape p.account a l e && reached sp e))

/-- Sequences of a space that a step names. -/
def Device.stepNames (d : Device) (p : Program) (sp : Fin 16) : List Word32 :=
  ((d.stepLists p).flatMap fun x => if x.2.space = sp.val then x.2.entries.map SeqEntry.seq else []).eraseDups

/-- The objects a STEP_LAUNCH names (R288). -/
def Device.launchObjects (d : Device) (p : Program) : List Word32 :=
  ((p.boundDescs.map Desc.object ++ p.stash.objects ++ [p.gx.errmem] ++ p.ruleObjects
      ++ (d.stepLists p).filterMap fun x => (d.spaceAt x.2.space).map fun y => y.2.pool).filter (· != 0)).eraseDups

/-- A placement record agrees with the device (R335). -/
def Device.placedAs (d : Device) (r : CyclePlacement) : Bool :=
  (d.obj? r.object).any fun o =>
    o.home.tier == r.tier.toNat && o.bytesIn 0 == r.bytesT0 && o.bytesIn 1 == r.bytesT1 && o.bytesIn 2 == r.bytesT2
      && (match o.home with | .t2 m => m.setWidth 24 == r.mask | _ => r.mask == 0)

/-- The assumptions of a cycle table hold: floors, twin mode, replay interval and placements. -/
def Device.tableHolds (d : Device) (p : Program) (t : CycleTable) : Bool :=
  t.readFloor == d.mem.floors.read.toNat && t.writeFloor == d.mem.floors.write.toNat && t.remoteFloor == d.mem.floors.remote.toNat
    && t.twin == d.integ.twin && t.replayInterval == (if d.integ.twin then 0 else p.replayQ) && t.placements.all d.placedAs

/-- The table names this part: family, and the stepping of every array in RESOURCES. -/
def CycleTable.names (t : CycleTable) : Bool :=
  t.family == 8 && (Bank.indices 8).all fun n => !t.resources.getLsbD n.val || t.steppings.getLsbD (Config.arrayStepping n).toNat

/-- Ticks of the arithmetic sequence `off`, `off + per`, … below `t`. -/
def ticksBelow (off per t : Nat) : Nat := if t ≤ off then 0 else (t - off - 1) / per + 1

/-- The rotation period in ticks; a value outside 1,000-600,000 acts as 10,000 (INTEG_ROT). -/
def Integrity.rotTicks (i : Integrity) : Nat :=
  (if 1000 ≤ i.rotPeriod.toNat ∧ i.rotPeriod.toNat ≤ 600000 then i.rotPeriod.toNat else 10000) * 1000000

/-- The array at whose ticks an array's swaps fall due: the primary of its pair in twin mode (R388). -/
def Device.swapLead (d : Device) (n : Fin 8) : Fin 8 := if d.integ.twin then clampFin 7 (n.val - n.val % 2) else n

/-- An array's swaps take time: its spare is not locked, or in twin mode the other array's of its pair is not; the swap of a pair counts
once (R388). -/
def Device.swapsOn (d : Device) (n : Fin 8) : Bool :=
  if d.integ.twin then
    n == d.swapLead n && (!d.arrays[n].spareLocked || !d.arrays[clampFin 7 (n.val + 1)].spareLocked)
  else !d.arrays[n].spareLocked

/-- Due ticks of an array's swaps below a tick (R405). -/
def Device.swapsBelow (d : Device) (n : Fin 8) (t : Nat) : Nat :=
  let per := d.integ.rotTicks
  ticksBelow ((d.swapLead n).val * (per / 8)) per t

/-- Swaps that the rotation schedule puts in a window, on the arrays of a set of resources (R405). -/
def Device.swapsIn (d : Device) (res : BitVec 12) (from' len : Nat) : Nat :=
  sumOf (fun (n : Fin 8) => if res.getLsbD n.val && d.swapsOn n then d.swapsBelow n (from' + len) - d.swapsBelow n from' else 0)
    (Bank.indices 8)

/-- Buckets charged as cold: scale entry not held now, or held as NONE. -/
def Device.coldBuckets (d : Device) (p : Program) (s : Nat) : Nat :=
  let t := match p.tableFor s with | some t => some t | none => d.launchTable p s
  (p.bucketPlan.filter fun b => t.all fun t => t.isNone b.ord).length

/-- Instructions of other commands are in flight on a set of resources; the promised predecessor's do not count. -/
def Device.resourcesBusy (d : Device) (res : BitVec 12) (except : Option (Nat × Nat)) : Bool :=
  d.allLanes.any fun (k, s, lane, l) =>
    some (k.val, s) != except
      && l.inflight.any fun f => (d.laneResources lane.val f.instr).any fun r => res.getLsbD r

/-- The first entry of a named sequence with a dropped page in its visible range. -/
def Device.droppedEntry (d : Device) (p : Program) : Option SeqEntry :=
  (d.stepEntries p).findSome? fun (_, s, a, es) => (s.firstDropped a es).map Prod.fst

/-- Pages and table pages that the appends of a step need in a space: those of each sequence once, without those that an append of a step
in flight takes; of the copies of table pages, which give way as the step goes on, those of the instruction that makes most (log entry 161). -/
def Device.stepNeed (d : Device) (p : Program) (sp : Fin 16) : KvAsk :=
  match d.aster.spaces[sp] with
  | none => {}
  | some s =>
    let mine := (d.stepEntries p).flatMap fun x => if x.1 = sp then x.2.2.2.map fun e => (x.2.2.1.layer, e) else []
    let taken (id : Word32) : List Nat :=
      d.flightAppends.flatMap fun x => if x.1 = sp.val ∧ x.2.2.seq = id then s.appendPages x.2.1 x.2.2 else []
    let one (id : Word32) : KvAsk :=
      match s.seq? id with
      | none => {}
      | some q =>
        let vs := (mine.flatMap fun x => if x.2.seq = id then s.freshFor false x.1 x.2 q else []).eraseDups
        q.ask (vs.filter fun v => !((taken id).contains v))
    let asks := ((mine.map fun x => x.2.seq).eraseDups).map one
    let copies := (d.stepEntries p).map fun x => if x.1 = sp then (s.appendNeed false x.2.2.1.layer x.2.2.2).copies else 0
    { asks.foldl KvAsk.add {} with copies := copies.foldl max 0 }

/-- Pages free or soon to be, over those other steps reserve. -/
def Space.reservable (s : Space) (k step : Nat) : Nat := s.freePages + s.reclaim.length - s.reservedFor k step

/-- Table pages free or soon to be, over those other steps reserve. -/
def Space.tablesReservable (s : Space) (k step : Nat) : Nat := s.tablesFree + s.tableReclaim.length - s.tablesReservedFor k step

/-- Pages dropped until a step's pages can be reserved; whether they can. -/
def Device.dropFor (d : Device) (sp : Fin 16) (k step : Nat) (ask : KvAsk) : Nat → Device × Bool
  | 0 => (d, false)
  | fuel + 1 =>
    match d.aster.spaces[sp] with
    | none => (d, false)
    | some s =>
      if ask.pages ≤ s.reservable k step then (d, decide (ask.tables ≤ s.tablesReservable k step))
      else match d.dropVictim sp none with
        | none => (d, false)
        | some d => d.dropFor sp k step ask fuel

/-- The sequences a step names pinned in a space, or unpinned. -/
def Space.pinStep (s : Space) (k step : Nat) (ids : List Word32) : Space :=
  { s with seqs := s.seqs.map fun q => if ids.contains q.id then { q with stepPins := (k, step) :: q.stepPins } else q }

def Sequence.unpinStep (k step : Nat) (q : Sequence) : Sequence :=
  { q with stepPins := q.stepPins.filter fun x => !(x.1 == k && x.2 == step) }

def Space.unpinStep (s : Space) (k step : Nat) : Space :=
  { s with
    seqs := s.seqs.map (Sequence.unpinStep k step)
    reserved := s.reserved.filter fun r => r.others k step }

/-- A step's pins and reservations in every space end. -/
def Device.unpinKv (d : Device) (k step : Nat) : Device :=
  { d with aster := { d.aster with spaces := d.aster.spaces.map (Option.map fun s => s.unpinStep k step) } }

/-- One space's part of the reservation. -/
def Device.reserveIn (d : Device) (p : Program) (k step : Nat) (sp : Fin 16) : Device × Bool :=
  let ask := d.stepNeed p sp
  let d := d.updSpace sp fun s => s.pinStep k step (d.stepNames p sp)
  match d.dropFor sp k step ask (((d.aster.spaces[sp]).map fun s => s.pages + 1).getD 1) with
  | (d, true) =>
    (d.updSpace sp fun s =>
      { s with
        reserved := s.reserved ++ [{
          slot := k, step := step, pages := ask.pages
          tables := min (ask.tables + ask.copies) (s.tablesReservable k step) }] }, true)
  | (d, false) => (d.kvEvent sp none 0x0506 .info 0, false)

/-- Sequences pinned and pages reserved for a PROMISED step (R257); nothing is kept of a reservation that fails. -/
def Device.reserveKv (d : Device) (p : Program) (k step : Nat) : Device × Bool :=
  let sps := (((d.stepEntries p).filter fun x => x.2.1.owner == p.account).map Prod.fst).eraseDups
  let (d, ok) := sps.foldl (fun (acc : Device × Bool) sp => if acc.2 then acc.1.reserveIn p k step sp else acc) (d, true)
  if ok then (d, true) else (d.unpinKv k step, false)

/-- The PROMISED predecessor of a step in flight: its promised tick. -/
def Device.predecessor (d : Device) (k : Fin 16) (s : Nat) : Option Promise :=
  d.adm.promises.find? fun q => decide (0 < s) && q.step == some (k.val, s - 1)

/-- The last part of *Admission procedure* for a step, once its pages are reserved. -/
def Device.admitTimed (d : Device) (c : OpenCmd) (k : Fin 16) (p : Program) (s : Nat) (t : CycleTable) (pr : Promise) : Device × Bool :=
  let pc := c.hdr.powerClass.toNat
  let base := t.base.getD pc 0
  let pred := d.predecessor k s
  let from' := max d.tb.now.toNat (d.committedEnd pr fun q => pred == some q)
  let extra := t.coldBucket * d.coldBuckets p s + t.swap * d.swapsIn pr.resources from' base
    + (if p.refreshStep s then t.preRefresh else 0)
  let ask : AdmitAsk :=
    { promise := pr, time := base + extra, drain := if d.resourcesBusy pr.resources (pred.bind Promise.step) then none else some 0
      successor := pred.map fun q => (q.tick, t.successor.getD pc 0 + extra) }
  match d.accept c ask with
  | (d, true) => (d, true)
  | (d, false) => (d.unpinKv k.val s, false)

/-- Admission of a PROMISED STEP_LAUNCH (R336). -/
def Device.admitStep (d : Device) (c : OpenCmd) (k : Fin 16) (p : Program) (s : Nat) : Device × Bool :=
  if !d.tb.locked then (d.refuseTime c .reference, false)
  else match p.cycle with
    | none => (d.refuseTime c .noTable, false)
    | some t =>
      let pr : Promise :=
        { hdr := c.hdr, opcode := c.opcode, resources := t.resources.setWidth 12, tick := 0, step := some (k.val, s)
          pins := (d.launchObjects p).filter fun id => (d.obj? id).isSome }
      if !t.names || t.base.getD c.hdr.powerClass.toNat 0 = 0 then (d.refuseTime c .noTable, false)
      else if !d.tableHolds p t then (d.refuseTime c .assumption, false)
      else if (d.launchObjects p).any fun id => (d.obj? id).any Obj.anyT3 then (d.finish c .staging, false)
      else if d.commitmentsFull then (d.refuseTime c .commitments, false)
      else if !d.bellowsGrants pr then (d.refuseTime c .cap, false)
      else match d.droppedEntry p with
        | some e => (d.finish c .pagesDropped e.index, false)
        | none =>
          match d.reserveKv p k.val s with
          | (d, false) => (d.refuseTime c .kvReserve, false)
          | (d, true) => d.admitTimed c k p s t pr

/-! ### STEP_LAUNCH -/

def Device.stepLaunch (h : CmdHdr) (prog : BitVec 8) (step : Word32) (d : Device) : Device :=
  let s := step.toNat
  d.command 0x0203 h fun c d =>
    d.onProgram c prog (d.launchBad s) fun k p d =>
      if d.launchBusy p then d.finish c .busy
      else if d.boundQuarantined p || d.parityHits p then d.finish c .faulted
      else if h.promised then
        match d.admitStep c k p s with
        | (d, true) => d.launchStep k s (some c) true false
        | (d, false) => d
      else d.launchStep k s (some c) false false

def execStepLaunch (h : CmdHdr) (prog : BitVec 8) (step : Word32) (s : State) : Answer := s.act (Device.stepLaunch h prog step)

end Sys2Proof.Machine
end

