-- ==== Sys2Proof/Machine/Arrays.lean ====
section
/-! DEFINITION. The array registers' commands and spare-column swaps: ARR_QUIESCE_WRITE to COLUMN_TEST_COMPLETE (R111-R116, R405,
R406). -/

namespace Sys2Proof.Machine

/-- BAR0 offset of ARRAYn (R112). -/
def offArray (n : Fin 8) : Nat := 0x01000000 + n.val * 0x00100000

/-! ### Idle and quiesce (R112, R113) -/

/-- QUIESCE takes a value; QUIESCED stays while a swap runs (R113). A quiesce that begins is not yet one for a charged swap (R115). -/
def ArrayState.setQuiesce (now : Tick) (v : Bool) (a : ArrayState) : ArrayState :=
  let a := if v && !a.quiesce then { a with quiesceSince := now, charged := false } else a
  { a with quiesce := v, quiesced := a.quiesced && (v || a.swap.isSome) }

def execArrQuiesceWrite (req : Requester) (array : Fin 8) (value : Bool) (s : State) : Answer :=
  s.act fun d => d.writeBy req (offArray array + 8) none fun d => d.updArray array (ArrayState.setQuiesce d.tb.now value)

/-- COUNT_CLR of ARR_CTRL. -/
def ArrayState.clearCounts (a : ArrayState) : ArrayState :=
  { a with passes := 0, busyCycles := 0, bubbles := 0, idle := 0, tstoreCorr := 0, crucibleCorr := 0, sprueCorr := 0 }

def execArrCountClr (req : Requester) (array : Fin 8) (s : State) : Answer :=
  s.act fun d => d.writeBy req (offArray array + 8) none fun d => d.updArray array ArrayState.clearCounts

/-! ### Swaps (R111, R405) -/

/-- The column a swap moves the spare to on its way to a goal. -/
def towardCol (s goal : Nat) : Nat := if goal < s then s - 1 else if s < goal then s + 1 else s

/-- Successive swaps bring the spare to a column and lock it there (R390, R407). -/
def Device.steerTo (d : Device) (n : Fin 8) (col : Nat) : Device :=
  d.updArray n fun a =>
    if a.spareCol.toNat = col then { a with spareLocked := true }
    else { a with swap := some { target := towardCol a.spareCol.toNat col, goal := col, lock := true } }

/-- The column the next rotation swap moves to (R111). -/
def ArrayState.rotationTarget (a : ArrayState) : Nat := if a.dirDown then a.spareCol.toNat - 1 else a.spareCol.toNat + 1

/-- A rotation swap begins on one array. -/
def ArrayState.rotate (now : Tick) (a : ArrayState) : ArrayState :=
  if a.spareLocked || a.faulted || a.swap.isSome then a
  else { a with lastSwap := some now, swap := some { target := a.rotationTarget, goal := a.rotationTarget, lock := false } }

/-- The arrays whose swaps fall due with array `n`'s: the pair at the primary's tick in twin mode (R388). -/
def Device.dueArrays (d : Device) (n : Fin 8) : List (Fin 8) :=
  if d.integ.twin then (if n.val % 2 = 0 then [n, clampFin 7 (n.val + 1)] else []) else [n]

/-- The rotation swaps of a set of arrays begin once every one of them is empty (R405: a run boundary). -/
def Device.startRotation (d : Device) (ns : List (Fin 8)) : Device :=
  if ns.all fun n => d.arrayEmpty n && d.arrays[n].swap.isNone then
    let d := { d with integ := { d.integ with rotDue := ns.foldl (fun m (n : Fin 8) => m &&& ~~~(1#8 <<< n.val)) d.integ.rotDue } }
    ns.foldl (fun d n => d.updArray n (ArrayState.rotate d.tb.now)) d
  else d

/-- The rotation swaps that are due begin where they can. -/
def Device.startRotations (d : Device) : Device :=
  (Bank.indices 8).foldl (fun d n => if d.integ.rotDue.getLsbD n.val then d.startRotation (d.dueArrays n) else d) d

/-- ROTATION_SWAP_DUE: with ROT_EN the array's swap is due, and begins at once on an idle or quiesced array. -/
def Device.rotationDue (n : Fin 8) (d : Device) : Device :=
  if !d.integ.rotEn then d
  else
    let due := (d.dueArrays n).filter fun k => !d.arrays[k].spareLocked && !d.arrays[k].faulted
    { d with integ := { d.integ with rotDue := due.foldl (fun m (k : Fin 8) => m ||| (1#8 <<< k.val)) d.integ.rotDue } }.startRotations

def execRotationSwapDue (array : Fin 8) (s : State) : Answer := s.act (Device.rotationDue array)

/-- A swap ends: the spare stands at its target, and the next of successive swaps begins. -/
def ArrayState.endSwap (a : ArrayState) : ArrayState :=
  match a.swap with
  | none => a
  | some w =>
    let a := { a with spareCol := BitVec.ofNat 7 w.target, dirDown := dirAt a.dirDown w.target }
    if w.target = w.goal then
      { a with swap := none, spareLocked := a.spareLocked || w.lock, quiesced := a.quiesced && a.quiesce }
    else { a with swap := some { w with target := towardCol w.target w.goal } }

def execSpareSwapDone (array : Fin 8) (s : State) : Answer :=
  s.act fun d => (d.updArray array ArrayState.endSwap).startRotations

/-- The event data of ARRAY_STEER_BAD: the value written, and SPARE_COL at the write (R116). -/
def steerData (v : Word32) (col : BitVec 7) : Nat := evData [(4, v.toNat), (1, col.toNat)]

/-- The cycle table charges a swap now: a due tick of the rotation schedule has passed since the array's last swap (R115, R405; log
entry 137). -/
def Device.swapCharged (d : Device) (n : Fin 8) : Bool :=
  let last := match d.arrays[n].lastSwap with
    | some t => d.swapsBelow n (t.toNat + 1)
    | none => 0
  decide (last < d.swapsBelow n (d.tb.now.toNat + 1))

/-- A quiesced array begins the swap that ARR_SPARE asks for; one at the cadence the cycle table charges keeps every promise, so the
ticks that its quiesce has taken are no delay (R115). -/
def Device.hostSwap (d : Device) (n : Fin 8) (col : Nat) : Device :=
  let a := d.arrays[n]
  let charged := d.swapCharged n
  let d := d.updArray n fun a =>
    { a with swap := some { target := col, goal := col, lock := false }, lastSwap := some d.tb.now, charged := a.charged || charged }
  if charged && !a.charged then d.refundDelay .hostQuiesce (d.tb.now - a.quiesceSince).toNat fun p => p.names n.val else d

/-- A write to ARR_SPARE (R113, R114): a value other than s ± 1, a locked spare, or a swap of the quiesced array under way is ignored;
on an array that is not quiesced the columns are re-steered at once, which ends a rotation swap under way and faults the array and
the steps with an instruction in flight there. -/
def Device.spareWrite (n : Fin 8) (v : Word32) (d : Device) : Device :=
  let a := d.arrays[n]
  let col := (v.extractLsb' 0 7).toNat
  let s := a.spareCol.toNat
  if !((col = s + 1 ∨ col + 1 = s) ∧ col ≤ 100) ∨ a.spareLocked ∨ (a.swap.isSome ∧ a.quiesced) then
    d.logEvent 0x020B .warn n.val (steerData v a.spareCol) (srcArray n.val)
  else if a.quiesced then d.hostSwap n col
  else
    let hit := d.allLanes.filterMap fun (k, s, lane, l) =>
      if (d.laneArrays lane.val).contains n && !l.inflight.isEmpty then some (k, s) else none
    let d := d.updArray n fun a =>
      { a with spareCol := BitVec.ofNat 7 col, dirDown := dirAt a.dirDown col, swap := none, faulted := true }
    let d := d.logEvent 0x020C .error n.val (evData [(4, v.toNat)]) (srcArray n.val)
    hit.eraseDups.foldl (fun d x => if (d.stepOf x.1 x.2).isSome then d.failStep x.1 x.2 .faulted else d) d

def execArrSpareWrite (req : Requester) (array : Fin 8) (value : Word32) (s : State) : Answer :=
  s.act fun d => d.writeBy req (offArray array + 0x18) none (Device.spareWrite array value)

/-- ARRAY_QUIESCED: quiesce is requested and the array is empty (R113). -/
def Device.arrayQuiesced (n : Fin 8) (d : Device) : Device :=
  if d.arrays[n].quiesce && d.arrayEmpty n then (d.updArray n fun a => { a with quiesced := true }).startRotations else d

def execArrayQuiesced (array : Fin 8) (s : State) : Answer := s.act (Device.arrayQuiesced array)

/-- COLUMN_TEST_COMPLETE (R405, R406): with a pack held the detached column has run its content; a defect locks the spare. -/
def Device.columnTest (n : Fin 8) (pass : Bool) (d : Device) : Device :=
  if d.integ.pack.isNone || d.arrays[n].swap.isSome then d
  else if pass then { d with integ := { d.integ with passes := bump d.integ.passes } }
  else
    let d := { d with integ := { d.integ with
      fails := bump d.integ.fails, rotDue := d.integ.rotDue &&& ~~~(1#8 <<< n.val) } }
    (d.updArray n fun a => { a with spareLocked := true }).logEvent 0x0806 .warn n.val d.arrays[n].spareCol.toNat srcIntegrity

def execColumnTestComplete (array : Fin 8) (pass : Bool) (s : State) : Answer := s.act (Device.columnTest array pass)

end Sys2Proof.Machine
end

