-- ==== Sys2Proof/Machine/Aster.lean ====
section
/-! DEFINITION. Aster: TATTN (R243-R259), waits for pages and for re-prefills, the commands of block 0x05 (R268, R269) and the ASTER
registers (R270). -/

namespace Sys2Proof.Machine

/-! ### TATTN (R244, R255-R259) -/

/-- An instruction of a lane as a walk names it. -/
def Walk.isOf (w : Walk) (k s lane word mb : Nat) : Bool :=
  w.program == k && w.step == s && w.lane == lane && w.word == word && w.mb == mb

/-- What the issue of a TATTN works from. -/
structure AttnIssue where
  k : Fin 16
  p : Program
  st : StepState
  lane : Fin 17
  c : Current
  a : Attn
  /-- The descriptor of the sequence list, and the list. -/
  x : Desc
  l : SeqList
  sp : Fin 16
  sc : Space
  ok : List SeqEntry
  /-- Entries restored by a re-prefill. -/
  refilled : List Nat
  /-- The walk paused for a re-prefill that goes on now: its pages are its own already. -/
  held : Option Walk
  /-- The walk's place among the arrivals of edits (R260). -/
  arrival : Nat

def AttnIssue.mb (i : AttnIssue) : Nat := (i.st.lane i.lane).mb

/-- The walk of the issue with its appends: its snapshot is the epoch and the roots that stand. -/
def AttnIssue.walk (i : AttnIssue) (plans : List AppendPlan) : Walk :=
  let ids := (i.l.entries.map SeqEntry.seq).eraseDups
  { program := i.k.val, step := i.st.step, lane := i.lane.val, word := i.c.instr.word, mb := i.mb, space := i.sp
    snapshot := i.sc.epoch, roots := ids.filterMap fun id => (i.sc.seq? id).map fun q => (id, q.root), seqs := ids, appends := plans
    arrival := i.arrival, reprefill := i.st.reprefill, refilled := i.refilled }

/-- The walk stands in the list of walks in place of an earlier one of the same instruction. -/
def Device.putWalk (d : Device) (w : Walk) : Device :=
  { d with aster := { d.aster with
      walks := d.aster.walks.filter (fun v => !v.isOf w.program w.step w.lane w.word w.mb) ++ [w] } }

/-- Bytes of the list's object. -/
def AttnIssue.listStores (i : AttnIssue) (bs : List ByteAt) : List (Word32 × Nat × List Byte) := bs.map fun b => (i.x.object, b.1, [b.2])

/-- Status bytes of every entry of an instruction that issues: INVALID, REPREFILLED or OK. -/
def AttnIssue.statuses (i : AttnIssue) : List (Word32 × Nat × List Byte) :=
  i.listStores (i.l.entries.flatMap fun e =>
    statusBytes i.x e (if !(i.ok.contains e) then 1 else if i.refilled.contains e.index then 4 else 0) none)

/-- Output rows of an entry written as zero. -/
def Device.zeroRows (d : Device) (i : AttnIssue) (e : SeqEntry) : Device :=
  let rows := e.rows.map fun r => (r, List.replicate i.a.width (plain 0))
  ((d.issueCtx i.p i.st i.lane i.c).putRows i.a.ho i.a.ord rows).stores.foldl (fun d x => d.objStore x.1 x.2.1 x.2.2) d

/-- INVALID entries of the list. -/
def AttnIssue.invalid (i : AttnIssue) : List SeqEntry := i.l.entries.filter fun e => !(i.ok.contains e)

/-- Each INVALID entry counted: KV_ENTRY_INVALID is logged once per step, its repeat count taking the others (R254, R272). -/
def Device.noteInvalid (d : Device) (i : AttnIssue) : Device :=
  i.invalid.foldl (fun d _ => d.kvEvent i.sp (some (i.k, i.st.step)) 0x0504 .warn 0) d

/-- Bytes of the list written. -/
def Device.storeList (d : Device) (i : AttnIssue) (bs : List ByteAt) : Device :=
  bs.foldl (fun d b => d.objStore i.x.object b.1 [b.2]) d

/-- An entry's outcome written, the INVALID entries marked, zeroed and counted, and the step ended with ST_PAGES_DROPPED. -/
def Device.endDropped (d : Device) (i : AttnIssue) (e : SeqEntry) (status : Nat) (span : Nat × Nat) : Device :=
  let d := i.invalid.foldl (fun d e => (d.zeroRows i e).storeList i (statusBytes i.x e 1 none)) d
  ((d.storeList i (statusBytes i.x e status (some span))).noteInvalid i).failStep i.k i.st.step .pagesDropped

/-- Aster writes the one-entry list of a re-prefill into the recompute program's descriptor (R259). -/
def Device.writeRefill (d : Device) (x : Desc) (sp : Fin 16) (q : Sequence) (lo hi : Nat) : Device :=
  let toks := (List.range (hi - lo)).map fun n => ((q.tokens.find? fun t => t.1 == lo + n).map Prod.snd).getD 0
  let header := [BitVec.ofNat 8 sp.val, 0, 0, 0] ++ bytesOf 4 1 ++ bytesOf 4 toks.length ++ List.replicate 36 0
  let entry := bytesOf 4 q.id.toNat ++ bytesOf 4 0 ++ bytesOf 4 (hi - lo) ++ bytesOf 4 lo ++ bytesOf 4 0 ++ bytesOf 4 0
    ++ [2, 0, 0, 0] ++ List.replicate 20 0
  let image := header ++ entry ++ toks.flatMap fun t => bytesOf 4 t.toNat
  ((image.take (48 * x.rows)).mapIdx fun n b => (n, b)).foldl (fun d b => d.objStore x.object (x.listByte b.1) [b.2]) d

/-- The recompute program of a space, when it can be launched at all. -/
def Device.recompute (d : Device) (s : Space) : Option (Fin 16 × Program × Desc) :=
  ((s.recompProg.bind (asFin 16)).bind fun k => (d.progs[k]).map fun p => (k, p)).bind fun (k, p) =>
    if p.state = .halted then none else (descAt p.descs s.recompHandle).map fun x => (k, p, x)

/-- A walk that meets a dropped page: paused for a re-prefill, launched as soon as the recompute program takes a step; without one
the entry is DROPPED and the step ends (R259). -/
def Device.meetDropped (d : Device) (i : AttnIssue) (plans : List AppendPlan) (e : SeqEntry) (q : Sequence) : Device :=
  let (lo, hi) := i.sc.droppedSpan i.a e q
  match d.recompute i.sc with
  | none => (d.zeroRows i e).endDropped i e 2 (lo, hi)
  | some (k, p, x) =>
    if d.launchBusy p then d.putWalk { i.walk plans with paused := some (k.val, none) }
    else
      let s := p.launchable
      let d := (d.writeRefill x i.sp q lo hi).launchStep k s none false true
      d.putWalk { i.walk plans with paused := some (k.val, some s), refilled := e.index :: i.refilled }

/-- Rows of a DECODE instruction join their queues (R266, R267). -/
def AttnIssue.queue (i : AttnIssue) (array : Nat) (mode : BitVec 2) (latest : Nat) (e : SeqEntry) (q : Sequence) : GatherQueue :=
  { array := array, space := i.sp, layer := i.a.layer, hup := ((descAt i.st.descs i.a.hup).map Desc.tensor).getD 0, heads := i.a.heads,
    hdim := i.a.hdim, rank := i.a.rank, scale := i.a.scale, causal := i.a.causal, pmask := i.a.pmask,
    bucket := i.sc.bucketOf (e.lastCount i.a.causal q), target := i.p.fillTarget mode
    rows := List.replicate e.qlen
      { program := i.k.val, step := i.st.step, lane := i.lane.val, word := i.c.instr.word, mb := i.mb, latest := latest } }

/-- The latest-issue tick of a TATTN's rows: GATHER_HOLD ticks from now, or, for a PROMISED step, what the admission unit sets, which
the spec does not give (a free value). -/
def Device.gatherLatest (d : Device) (i : AttnIssue) : Nat × Device :=
  if i.st.promised then (d.takeFree.1.toNat, d.takeFree.2) else (d.tb.now.toNat + i.sc.gatherHold, d)

def Device.gather (d : Device) (i : AttnIssue) : Device :=
  let array := (d.laneArray i.lane.val).val
  let (latest, d) := d.gatherLatest i
  let qs := i.ok.filterMap fun e => (i.sc.seq? e.seq).map fun q => i.queue array (i.st.lane i.lane).pmode latest e q
  let d := { d with aster := { d.aster with queues := qs.foldl (fun l q => joinQueue q l) d.aster.queues } }
  d.runQueues none

/-- The instruction in flight is marked as gathering. -/
def Device.markGathering (d : Device) (i : AttnIssue) : Device :=
  d.updLane i.k i.st.step i.lane fun l => { l with inflight := l.inflight.map fun f =>
    if f.word = i.c.instr.word ∧ f.mb = i.mb then { f with gathering := true } else f }

/-- A TATTN of a paged kind issues, its pages being there: the snapshot, the walk, and what its retirement will write. -/
def Device.issueWalk (d : Device) (i : AttnIssue) (plans : List AppendPlan) : Device :=
  let reprefill := i.st.reprefill
  let ctx := d.issueCtx i.p i.st i.lane i.c
  let hq := ctx.values i.a.hq
  let up := ctx.values i.a.hup
  let pool := match d.obj? i.sc.pool with | some o => d.rd o | none => fun _ => 0
  let d := d.updSpace i.sp fun s => s.touch d.tb.now (i.sc.walkPages i.a i.ok plans)
  let rowOf (r : Nat) : List Traced :=
    match entryOfRow i.ok r with
    | some e => i.sc.rowOut pool i.a hq up e r
    | none => List.replicate i.a.width (plain 0)
  let e := ctx.putRows i.a.ho i.a.ord ((coveredRows i.a.m i.l.entries).map fun r => (r, rowOf r))
  let appended := (i.ok.filter (·.append)).flatMap fun e =>
    match plans.find? fun p => p.seq == e.seq && p.qpos == e.qpos, i.sc.seq? e.seq with
    | some p, some q => i.sc.appendBytes pool reprefill i.a hq e q p
    | _, _ => []
  let e := { e with stores := e.stores ++ appended ++ i.statuses, hist := e.hist ++ ctx.imports [i.a.hq, i.a.hup] i.a.ho }
  let d := ((d.enterFlight i.k i.p i.st i.lane i.c e).putWalk (i.walk plans)).noteInvalid i
  if i.a.kind = 0 then (d.markGathering i).gather i else d

/-- The first append for which pages run out, with how many pages go before it. -/
def Space.firstShort (s : Space) (reprefill : Bool) (layer avail : Nat) : Nat → List SeqEntry → Option SeqEntry
  | _, [] => none
  | used, e :: r =>
    let used := used + (s.entryAsk reprefill layer e).pages
    if avail < used then some e else s.firstShort reprefill layer avail used r

/-- The walk under the snapshot: a dropped page in a visible range is met (R259), or the instruction goes in flight. -/
def Device.walkOn (d : Device) (i : AttnIssue) (plans : List AppendPlan) : Device :=
  match i.sc.firstDropped i.a i.ok with
  | some (e, q) => d.meetDropped i plans e q
  | none => d.issueWalk i plans

/-- Pages and table pages of the appends taken, out of the step's reservation first; then the walk. -/
def Device.allocate (d : Device) (i : AttnIssue) (ask : KvAsk) : Device :=
  let tok (e : SeqEntry) : List Word32 := entryTokens (d.descReader i.x) i.x i.l.entries.length e
  let roomy := decide (ask.tables + ask.copies ≤ i.sc.tablesAvailable i.k.val i.st.step)
  let (plans, s) := i.sc.planAppends i.st.reprefill i.a roomy tok i.ok
  let s := s.useReserve i.k.val i.st.step (sumOf (fun p => p.pages.length) plans) (sumOf (fun p => p.tables.length) plans)
  let d := { d.updSpace i.sp fun _ => s with aster.arrivals := i.arrival + 1 }
  (d.putWalk ({ i with sc := s }.walk plans)).walkOn { i with sc := s } plans

/-- Aster's part of the issue of a paged TATTN: the pages of its appends are allocated before its snapshot (R255, R256), then it walks. -/
def Device.issuePaged (d : Device) (i : AttnIssue) : Device :=
  match i.held with
  | some w => d.walkOn i w.appends
  | none =>
    let reprefill := i.st.reprefill
    let ask := i.sc.appendNeed reprefill i.a.layer i.ok
    let wait (d : Device) : Device := d.putWalk { i.walk [] with waitPage := true }
    let stop : Device :=
      match (i.sc.firstShort reprefill i.a.layer (i.sc.available i.k.val i.st.step) 0 i.ok).orElse fun _ => i.ok.find? (·.append) with
      | none => d
      | some e => (d.kvEvent i.sp (some (i.k, i.st.step)) 0x0505 .warn 0).endDropped i e 3 (e.qpos, e.qpos + e.qlen)
    match d.kvRoom i.sp i.sc i.k.val i.st.step ask with
    | .ready => d.allocate i ask
    | .wait => wait d
    | .drop => ((d.dropVictim i.sp (some (i.k, i.st.step))).map wait).getD stop
    | .none => stop

/-- TRAIN_F records when a TRAIN_B of the lane index reads them (R248, R163, R164). -/
def Device.trainStats (d : Device) (k : Fin 16) (p : Program) (st : StepState) (lane : Fin 17) (c : Current) (a : Attn)
    (recs : List (Word32 × Word32)) : Option Device :=
  let idx := laneIndex lane.val
  let wanted := (p.lane (8 + idx)).body.any fun i => (i.instr.attn).any fun b => b.kind == kindTrainB && b.ho == a.ho
  match (trainRanges 0 (p.lane idx).body).find? fun x => x.1.word == c.instr.word with
  | some (_, lo, _) => if wanted && !c.inBlock then d.addStats k p st.step lane (st.lane lane).mb lo.toNat recs else some d
  | none => some d

/-- The records a TRAIN_B reads: those of the TRAIN_F with the same HO. -/
def trainRecords (p : Program) (st : StepState) (lane : Fin 17) (a : Attn) : List (Word32 × Word32) :=
  let idx := laneIndex lane.val
  match (trainRanges 0 (p.lane idx).body).find? fun x => (x.1.instr.attn).any fun b => b.ho == a.ho with
  | some (_, lo, _) => st.statOf idx lo.toNat (st.lane lane).mb
  | none => []

/-- A training attention issues; it reads no pages (R248, R249). -/
def Device.issueTrain (d : Device) (k : Fin 16) (p : Program) (st : StepState) (lane : Fin 17) (c : Current) (a : Attn) (x : Desc)
    (l : SeqList) : Device :=
  let ctx := d.issueCtx p st lane c
  let note (d : Device) : Device :=
    (l.entries.filter (badRows a.m l.entries)).foldl (fun d _ => d.raiseOnce k st.step 0x0504 (spaceLane 0) .warn 0 0 srcAster) d
  if a.kind = kindTrainB then
    let e := ctx.trainB a x l (trainRecords p st lane a)
    note (d.enterFlight k p st lane c { e with hist := e.hist ++ ctx.imports [a.hq, a.hup, a.hdo] a.hdq })
  else
    let (e, recs) := ctx.trainF a x l
    match d.trainStats k p st lane c a recs with
    | none => d.failStep k st.step .stashFull
    | some d => note (d.enterFlight k p st lane c { e with hist := e.hist ++ ctx.imports [a.hq, a.hup] a.ho })

/-- A list whose space is not there: every entry is INVALID. -/
def Device.issueNoSpace (d : Device) (k : Fin 16) (p : Program) (st : StepState) (lane : Fin 17) (c : Current) (a : Attn) (x : Desc)
    (l : SeqList) : Device :=
  let ctx := d.issueCtx p st lane c
  let e := ctx.putRows a.ho a.ord ((coveredRows a.m l.entries).map fun r => (r, List.replicate a.width (plain 0)))
  let marks := l.entries.flatMap fun e => (statusBytes x e 1 none).map fun b => (x.object, b.1, [b.2])
  let d := d.enterFlight k p st lane c { e with stores := e.stores ++ marks }
  l.entries.foldl (fun d _ => d.raiseOnce k st.step 0x0504 (spaceLane (clampFin 15 l.space)) .warn l.space 0 srcAster) d

/-- A TATTN of a lane finds its sequence list and issues (R248, R253). -/
def Device.issueRows (d : Device) (k : Fin 16) (p : Program) (st : StepState) (lane : Fin 17) (c : Current) (a : Attn)
    (held : Option Walk) : Device :=
  match d.attnList st.descs a with
  | none => d
  | some (x, l) =>
    if !a.paged then d.issueTrain k p st lane c a x l
    else match d.spaceAt l.space with
      | none => d.issueNoSpace k p st lane c a x l
      | some (sp, sc) =>
        d.issuePaged
          { k := k, p := p, st := st, lane := lane, c := c, a := a, x := x, l := l, sp := sp, sc := sc
            ok := l.entries.filter (sc.entryOk p.account a l st.reprefill)
            refilled := (held.map Walk.refilled).getD [], held := held, arrival := (held.map Walk.arrival).getD d.aster.arrivals }

/-- A TATTN at issue, `held` the walk that goes on after a re-prefill: held while Aster is quiesced. DESIGN CHOICE: the TATTNs of a
re-prefill step are not held, so that the paused walk, which is in flight, can complete (R259, R270; log entry 159). -/
def Device.issueAttn (d : Device) (k : Fin 16) (p : Program) (st : StepState) (lane : Fin 17) (c : Current) (held : Option Walk)
    (errs : List WordError) : Device :=
  match c.instr.instr.attn with
  | none => d
  | some a =>
    if d.aster.quiesce && held.isNone && !st.reprefill then d
    else d.whenFree k p st lane c errs fun d => d.issueRows k p st lane c a held

/-- A walk of the instruction the lane stands at is waiting. -/
def Device.walkWaits (d : Device) (k s lane word mb : Nat) : Bool :=
  d.aster.walks.any fun w => w.isOf k s lane word mb && (w.waitPage || w.paused.isSome)

def Device.tattn (k : Fin 16) (s : Nat) (lane : Fin 17) (errs : List WordError) (d : Device) : Device :=
  d.atInstr k s lane (fun i => i.attn.isSome) fun p st l c d =>
    if d.walkWaits k.val s lane.val c.instr.word l.mb then d else d.issueAttn k p st lane c none errs

/-- TATTN. -/
def execTattn (slot : Fin 16) (step : Word32) (lane : Fin 17) (errs : List WordError) (s : State) : Answer :=
  s.act (Device.tattn slot step.toNat lane errs)

/-! ### Walks that go on (R256, R259) -/

/-- A waiting walk tried again from its issue. -/
def Device.retryWalk (d : Device) (w : Walk) : Device :=
  match asFin 16 w.program, asFin 17 w.lane with
  | some k, some lane =>
    d.atInstr k w.step lane (fun i => i.attn.isSome) fun p st l c d =>
      if c.instr.word = w.word ∧ l.mb = w.mb then d.issueAttn k p st lane c (if w.paused.isSome then some w else none) [] else d
  | _, _ => d

/-- PAGE_ALLOC_RESUME: the `n`-th walk, if it waits for a page, takes it. -/
def Device.pageAllocResume (n : Nat) (d : Device) : Device :=
  match d.aster.walks[n]? with
  | some w => if w.waitPage then d.retryWalk w else d
  | none => d

def execPageAllocResume (n : Nat) (s : State) : Answer := s.act (Device.pageAllocResume n)

/-- REPREFILL_RESUME: the `n`-th walk, if it is paused, goes on once its re-prefill step has retired; a re-prefill that could not be
launched is launched. -/
def Device.reprefillResume (n : Nat) (d : Device) : Device :=
  match d.aster.walks[n]? with
  | none => d
  | some w =>
    match w.paused with
    | none => d
    | some (_, none) => d.retryWalk w
    | some (slot, some s) =>
      if ((asFin 16 slot).bind fun k => d.stepOf k s).isSome then d
      else match asFin 16 w.program with
        | some k => (d.kvEvent w.space (some (k, w.step)) 0x0502 .info 0).retryWalk w
        | none => d

def execReprefillResume (n : Nat) (s : State) : Answer := s.act (Device.reprefillResume n)

/-! ### Naming a space (R268, R269) -/

/-- The space a command names: one that is not there is ST_BAD_PARAM, another account's ST_NOT_OWNER. -/
def Device.withSpace (d : Device) (c : OpenCmd) (space : BitVec 8) (f : Fin 16 → Space → Device → Device) : Device :=
  match d.spaceAt space.toNat with
  | none => d.finish c .badParam
  | some (sp, s) => if s.owner ≠ c.hdr.account then d.finish c .notOwner else f sp s d

/-- Default boundaries of the length buckets (R266). -/
def defaultBounds : List Nat := (List.range 15).map fun i => 128 * 2 ^ i

/-- Bytes of POOL_OBJECT that a space needs (R250). -/
def poolBytes (rank layers pages tables seqs : Nat) : Nat := pages * (128 * rank) + tables * 4096 + Config.kvMetadata pages tables seqs layers

/-- Sequences the spaces may hold. -/
def Device.seqTotal (d : Device) : Nat := sumOf (fun x => x.2.maxSeqs) d.liveSpaces

def Device.kvCreate (h : CmdHdr) (space : BitVec 8) (rank layers : Word16) (pool pages tablePages maxSeqs : Word32) (salt : Word64)
    (d : Device) : Device :=
  d.command 0x0501 h fun c d =>
    let r := rank.toNat
    let okFields := decide (64 ≤ r ∧ r ≤ 1024 ∧ r % 16 = 0 ∧ 1 ≤ layers.toNat ∧ layers.toNat ≤ 4096 ∧ 1 ≤ pages.toNat
      ∧ 2 ≤ tablePages.toNat ∧ 1 ≤ maxSeqs.toNat ∧ maxSeqs.toNat ≤ 65536)
    match asFin 16 space.toNat, d.obj? pool with
    | some sp, some o =>
      let need := poolBytes r layers.toNat pages.toNat tablePages.toNat maxSeqs.toNat
      if !okFields || !o.allT2 || (d.aster.spaces[sp]).isSome then d.finish c .badParam
      else if o.owner ≠ h.account then d.finish c .notOwner
      else if o.size < need ∨ 65536 < d.seqTotal + maxSeqs.toNat then d.finish c .noSpace (need % 2 ^ 48)
      else
        let s : Space :=
          { owner := h.account, rank := r, layers := layers.toNat, pool := pool, pages := pages.toNat, tablePages := tablePages.toNat
            maxSeqs := maxSeqs.toNat, salt := salt, bounds := defaultBounds }
        let d := { d with aster := { d.aster with spaces := Bank.upd d.aster.spaces sp fun _ => some s } }
        (d.progPin [pool]).ok c (need % 2 ^ 48)
    | _, _ => d.finish c .badParam

def execKvCreate (h : CmdHdr) (space : BitVec 8) (rank layers : Word16) (pool pages tablePages maxSeqs : Word32) (salt : Word64)
    (s : State) : Answer := s.act (Device.kvCreate h space rank layers pool pages tablePages maxSeqs salt)

/-- A loaded program has a TATTN whose sequence list names the space. -/
def Device.spaceNamed (d : Device) (sp : Fin 16) : Bool :=
  d.programs.any fun (_, p) => (d.stepLists p).any fun x => x.2.space == sp.val

def Device.kvDestroy (h : CmdHdr) (space : BitVec 8) (d : Device) : Device :=
  d.command 0x0502 h fun c d =>
    d.withSpace c space fun sp s d =>
      if d.spaceNamed sp || s.seqs.any Sequence.isPinned then d.finish c .busy
      else
        let edits := s.heldEdits
        let d := { d with aster := { d.aster with
          spaces := Bank.upd d.aster.spaces sp fun _ => none
          walks := d.aster.walks.filter fun w => w.space != sp
          queues := d.aster.queues.filter fun q => q.space != sp } }.clearGathering
        let d := (d.progUnpin [s.pool]).ok c
        edits.foldl (fun d e => d.finish e.cmd .badParam) d

def execKvDestroy (h : CmdHdr) (space : BitVec 8) (s : State) : Answer := s.act (Device.kvDestroy h space)

/-! ### Sequences (R255, R264, R268) -/

/-- The list of token ids that a LOOKUP names. -/
def Device.tokenList (d : Device) (object : Word32) (off n : Nat) : Option (List Word32) :=
  (d.tableBytes object off (4 * n)).map fun bs => (numbersOf 4 bs).map (BitVec.ofNat 32)

/-- The prefix of a new sequence that the Trellis holds: entries to share, tokens matched, and collisions met (R264). -/
def Space.shared (s : Space) (toks : List Word32) : List (Nat × Nat) × Nat × Nat :=
  let (ns, bad) := s.lookup none (blockKeys s.salt (fullBlocks toks))
  (s.nodeEntries 0 ns, ns.length, bad)

/-- Table pages that a new sequence takes. -/
def Sequence.newTables (q : Sequence) : Nat := 1 + (tableIndices q.table).length

/-- A sequence opened: with LOOKUP it shares every matched block (R264). -/
def Device.openSeq (d : Device) (sp : Fin 16) (s : Space) (c : OpenCmd) (seq : Word32) (toks : List Word32) : Device :=
  let (es, blocks, bad) := s.shared toks
  let n := pageTokens * blocks
  let q := s.setEntries { id := seq, length := n, tokens := (toks.take n).mapIdx fun i t => (i, t) } es
  if s.maxSeqs ≤ s.seqs.length ∨ s.tablesAvailable 16 0 < q.newTables then d.finish c .noSpace
  else
    let d := d.addSeq sp q
    let d := { d with aster := { d.aster with hits := satAdd d.aster.hits blocks } }.noteCollisions sp none bad
    d.ok c n

def Device.kvSeqOpen (h : CmdHdr) (space : BitVec 8) (lookup : Bool) (seq object : Word32) (off count : Nat) (d : Device) : Device :=
  d.command 0x0503 h fun c d =>
    match d.spaceAt space.toNat with
    | none => d.finish c .badParam
    | some (sp, s) =>
      if (s.seq? seq).isSome || (lookup && (d.tokenList object off count).isNone) then d.finish c .badParam
      else if s.owner ≠ h.account || (lookup && !d.mayRead object h.account) then d.finish c .notOwner
      else if s.maxSeqs ≤ s.seqs.length ∨ s.tablesAvailable 16 0 = 0 then d.finish c .noSpace
      else if lookup && (d.obj? object).any fun o => !(o.t3Segments off (4 * count)).isEmpty then d.finish c .staging
      else d.openSeq sp s c seq (if lookup then (d.tokenList object off count).getD [] else [])

def execKvSeqOpen (h : CmdHdr) (space : BitVec 8) (lookup : Bool) (seq tokenObject : Word32) (tokenOffset : BitVec 48)
    (tokenCount : Word32) (s : State) : Answer :=
  s.act (Device.kvSeqOpen h space lookup seq tokenObject tokenOffset.toNat tokenCount.toNat)

/-- The sequence an edit changes or reads. -/
def KvEdit.seq : KvEdit → Word32
  | .close id => id
  | .truncate id _ => id
  | .fork src _ _ => src

/-- A host edit waits: an appending TATTN in flight or a PROMISED step names the sequence, or an earlier edit of it is held (R260, R261). -/
def Device.mustHold (d : Device) (sp : Fin 16) (s : Space) (id : Word32) : Bool :=
  d.editHeld sp id d.aster.arrivals || s.heldEdits.any fun e => e.edit.seq == id

/-- An edit held with its command. -/
def Device.holdEdit (d : Device) (sp : Fin 16) (c : OpenCmd) (e : KvEdit) (room : Bool := false) : Device :=
  let d := d.updSpace sp fun s =>
    { s with heldEdits := s.heldEdits ++ [{ cmd := c, edit := e, arrival := d.aster.arrivals, room := room }] }
  { d with aster.arrivals := d.aster.arrivals + 1 }

/-- A sequence closed. -/
def Device.closeSeq (d : Device) (sp : Fin 16) (c : OpenCmd) (id : Word32) : Device :=
  match (d.aster.spaces[sp]).bind fun s => s.seq? id with
  | none => d.finish c .badParam
  | some q => if q.pinned then d.finish c .busy else (d.edit sp id fun _ => none).ok c

/-- Bytes of a page of a space copied to another. -/
def Device.copyPage (d : Device) (s : Space) (old fresh : Nat) : Device :=
  match d.obj? s.pool with
  | none => d
  | some o => d.objStore s.pool (fresh * s.pageBytes) (d.objBytes o (old * s.pageBytes) s.pageBytes)

/-- Pages of the position page that a length cuts, by layer: virtual page and page. -/
def Space.cutPages (s : Space) (q : Sequence) (length : Nat) : List (Nat × Nat) :=
  if length % pageTokens = 0 then []
  else (List.range s.layers).filterMap fun l =>
    let v := s.vpage length l
    (s.pageOf q v).map fun p => (v, p)

/-- Entries and tokens of a sequence below a length. -/
def Space.cutTo (s : Space) (length : Nat) (q : Sequence) : Sequence :=
  let keep := ceilDiv length pageTokens * s.layers
  { q with
    length := length, table := q.table.filter fun e => decide (e.vpage < keep), tokens := q.tokens.filter fun t => decide (t.1 < length) }

/-- Fresh copies of pages, taken from the free pages: the virtual pages with the copies. -/
def Device.copyPages (d : Device) (sp : Fin 16) (cs : List (Nat × Nat)) : Device × List (Nat × Nat) :=
  match d.aster.spaces[sp] with
  | none => (d, [])
  | some s =>
    let (ps, s') := s.takeAll (cs.map Prod.fst)
    let d := d.updSpace sp fun _ => s'
    ((cs.zip ps).foldl (fun d x => d.copyPage s x.1.2 x.2.2) d, ps)

/-- Shared pages that a truncation copies for the sequence (R268). -/
def Space.sharedCut (s : Space) (q : Sequence) (length : Nat) : List (Nat × Nat) :=
  (s.cutPages q length).filter fun x => decide (1 < s.refs x.2)

/-- The sequence a fork opens: pages below the length shared, the partial page with them until it is copied; a dropped page stays
dropped (R265). -/
def Space.forkOf (s : Space) (q : Sequence) (dst : Word32) (length : Nat) : Sequence :=
  { s.cutTo length q with id := dst, pinned := false, stepPins := [], root := 0, subs := [] }

/-- What an edit asks for. -/
def Space.editAsk (s : Space) : KvEdit → KvAsk
  | .close _ => {}
  | .truncate id length =>
    match s.seq? id with
    | none => {}
    | some q =>
      let q' := s.setEntries (s.cutTo length q) (s.sharedCut q length)
      { pages := (s.sharedCut q length).length, copies := if q'.table = q.table then 0 else 1 + (changedTables q.table q'.table).length }
  | .fork src dst length =>
    match s.seq? src with
    | none => {}
    | some q => { pages := (s.cutPages q length).length, tables := (s.forkOf q dst length).newTables }

/-- A sequence truncated; a shared page it cuts is copied for it (R255, R268). DESIGN CHOICE: with no page to be had it stays shared, to be
copied by the append that falls in it (log entry 93). -/
def Device.truncateSeq (d : Device) (sp : Fin 16) (c : OpenCmd) (id : Word32) (length : Nat) : Device :=
  match (d.aster.spaces[sp]).bind fun s => (s.seq? id).map fun q => (s, q) with
  | none => d.finish c .badParam
  | some (s, q) =>
    if q.length < length then d.finish c .badParam
    else
      let cs := s.sharedCut q length
      let (d, ps) := if cs.length ≤ s.available 16 0 then d.copyPages sp cs else (d, [])
      (d.edit sp id fun q =>
        some (match d.aster.spaces[sp] with | some s => s.setEntries (s.cutTo length q) ps | none => q)).ok c

/-- A sequence forked: pages below the length shared, the partial page copied for every layer (R265). -/
def Device.forkSeq (d : Device) (sp : Fin 16) (c : OpenCmd) (src dst : Word32) (length : Nat) : Device :=
  match (d.aster.spaces[sp]).bind fun s => (s.seq? src).map fun q => (s, q) with
  | none => d.finish c .badParam
  | some (s, q) =>
    if (s.seq? dst).isSome || decide (q.length < length) then d.finish c .badParam
    else
      let ask := s.editAsk (.fork src dst length)
      if s.maxSeqs ≤ s.seqs.length ∨ s.tablesAvailable 16 0 < ask.tables ∨ s.available 16 0 < ask.pages then d.finish c .noSpace
      else
        let (d, ps) := d.copyPages sp (s.cutPages q length)
        (d.addSeq sp (match d.aster.spaces[sp] with
          | some s => s.setEntries (s.forkOf q dst length) ps
          | none => s.forkOf q dst length)).ok c

/-- An edit applied. -/
def Device.applyEdit (d : Device) (sp : Fin 16) (c : OpenCmd) : KvEdit → Device
  | .close id => d.closeSeq sp c id
  | .truncate id length => d.truncateSeq sp c id length
  | .fork src dst length => d.forkSeq sp c src dst length

/-- The edit is to be made at all: its sequences and its length are as its command asks. -/
def Space.editStands (s : Space) : KvEdit → Bool
  | .close _ => true
  | .truncate id length => (s.seq? id).any fun q => decide (length ≤ q.length)
  | .fork src dst length =>
    (s.seq? dst).isNone && decide (s.seqs.length < s.maxSeqs) && (s.seq? src).any fun q => decide (length ≤ q.length)

/-- An edit that nothing holds: applied if there is room for it or none to be had; else, a page being dropped for it if need be, it waits
(R256). `wait` is what becomes of it then. -/
def Device.tryEdit (d : Device) (sp : Fin 16) (s : Space) (c : OpenCmd) (e : KvEdit) (wait : Device → Device) : Device :=
  if !s.editStands e then d.applyEdit sp c e
  else match d.kvRoom sp s 16 0 (s.editAsk e) with
    | .ready | .none => d.applyEdit sp c e
    | .wait => wait d
    | .drop => ((d.dropVictim sp none).map wait).getD (d.applyEdit sp c e)

def Device.kvSeqClose (h : CmdHdr) (space : BitVec 8) (nowait : Bool) (seq : Word32) (d : Device) : Device :=
  d.command 0x0504 h fun c d =>
    match d.spaceAt space.toNat with
    | none => d.finish c .badParam
    | some (sp, s) =>
      match s.seq? seq with
      | none => d.finish c .badParam
      | some q =>
        if s.owner ≠ h.account then d.finish c .notOwner
        else if q.pinned then d.finish c .busy
        else if d.mustHold sp s seq then (if nowait then d.finish c .busy else d.holdEdit sp c (.close seq))
        else d.tryEdit sp s c (.close seq) fun d => d.holdEdit sp c (.close seq) true

def execKvSeqClose (h : CmdHdr) (space : BitVec 8) (nowait : Bool) (seq : Word32) (s : State) : Answer :=
  s.act (Device.kvSeqClose h space nowait seq)

def Device.kvTruncate (h : CmdHdr) (space : BitVec 8) (nowait : Bool) (seq length : Word32) (d : Device) : Device :=
  d.command 0x0506 h fun c d =>
    match d.spaceAt space.toNat with
    | none => d.finish c .badParam
    | some (sp, s) =>
      match s.seq? seq with
      | none => d.finish c .badParam
      | some q =>
        if q.length < length.toNat then d.finish c .badParam
        else if s.owner ≠ h.account then d.finish c .notOwner
        else if d.mustHold sp s seq || q.pinned then
          (if nowait then d.finish c .busy else d.holdEdit sp c (.truncate seq length.toNat))
        else d.tryEdit sp s c (.truncate seq length.toNat) fun d => d.holdEdit sp c (.truncate seq length.toNat) true

def execKvTruncate (h : CmdHdr) (space : BitVec 8) (nowait : Bool) (seq length : Word32) (s : State) : Answer :=
  s.act (Device.kvTruncate h space nowait seq length)

def Device.kvSeqFork (h : CmdHdr) (space : BitVec 8) (nowait : Bool) (src dst length : Word32) (d : Device) : Device :=
  d.command 0x0505 h fun c d =>
    match d.spaceAt space.toNat with
    | none => d.finish c .badParam
    | some (sp, s) =>
      if ((s.seq? src).map fun q => decide (q.length < length.toNat)).getD true || (s.seq? dst).isSome then d.finish c .badParam
      else if s.owner ≠ h.account then d.finish c .notOwner
      else if d.mustHold sp s src then (if nowait then d.finish c .busy else d.holdEdit sp c (.fork src dst length.toNat))
      else d.tryEdit sp s c (.fork src dst length.toNat) fun d => d.holdEdit sp c (.fork src dst length.toNat) true

def execKvSeqFork (h : CmdHdr) (space : BitVec 8) (nowait : Bool) (src dst length : Word32) (s : State) : Answer :=
  s.act (Device.kvSeqFork h space nowait src dst length)

/-- KV_PIN holds the edit: the truncation of a pinned sequence. -/
def Space.pinHolds (s : Space) : KvEdit → Bool
  | .truncate id _ => (s.seq? id).any (·.pinned)
  | _ => false

/-- The hold of the `n`-th held edit is over. -/
def Device.editFree (d : Device) (sp : Fin 16) (s : Space) (n : Nat) (e : HeldEdit) : Bool :=
  !d.editHeld sp e.edit.seq e.arrival && !((s.heldEdits.take n).any fun x => x.edit.seq == e.edit.seq) && !s.pinHolds e.edit

/-- HELD_KV_EDIT_APPLY: the `n`-th held edit of a space, once nothing holds it. -/
def Device.heldKvEditApply (sp : Fin 16) (n : Nat) (d : Device) : Device :=
  match d.aster.spaces[sp] with
  | none => d
  | some s =>
    match s.heldEdits[n]? with
    | none => d
    | some e =>
      if d.editFree sp s n e then
        let leave (l : List HeldEdit) : List HeldEdit := l.eraseIdx n
        let rest := { s with heldEdits := leave s.heldEdits }
        (d.updSpace sp fun s => { s with heldEdits := leave s.heldEdits }).tryEdit sp rest e.cmd e.edit fun d =>
          d.updSpace sp fun s => { s with heldEdits := s.heldEdits.take n ++ { e with room := true } :: s.heldEdits.drop n }
      else d

def execHeldKvEditApply (space : Fin 16) (n : Nat) (s : State) : Answer := s.act (Device.heldKvEditApply space n)

/-- A sequence of a space of the account: not open is ST_BAD_PARAM. -/
def Device.withSeq (d : Device) (c : OpenCmd) (space : BitVec 8) (seq : Word32) (f : Fin 16 → Space → Sequence → Device → Device) :
    Device :=
  match d.spaceAt space.toNat with
  | none => d.finish c .badParam
  | some (sp, s) =>
    match s.seq? seq with
    | none => d.finish c .badParam
    | some q => if s.owner ≠ c.hdr.account then d.finish c .notOwner else f sp s q d

def Device.kvPin (h : CmdHdr) (space : BitVec 8) (unpin : Bool) (seq : Word32) (d : Device) : Device :=
  d.command 0x0507 h fun c d =>
    d.withSeq c space seq fun sp _ _ d =>
      (d.updSpace sp fun s => { s with seqs := updFirst (fun q => q.id == seq) (fun q => { q with pinned := !unpin }) s.seqs }).ok c

def execKvPin (h : CmdHdr) (space : BitVec 8) (unpin : Bool) (seq : Word32) (s : State) : Answer :=
  s.act (Device.kvPin h space unpin seq)

/-- Boundaries are fifteen and strictly increasing. -/
def rising : List Nat → Bool
  | a :: b :: r => decide (a < b) && rising (b :: r)
  | _ => true

/-- The recompute program asked for: none, or a loaded slot of the account in which the handle is of class KV. -/
def Device.recompOk (d : Device) (a : BitVec 6) (prog : BitVec 8) (handle : Word16) : Bool :=
  prog == 0xFF || match asFin 16 prog.toNat with
    | none => false
    | some k => (d.progs[k]).any fun p => p.account == a && (p.descs[handle.toNat]?).any fun x => x.cls == .kv

def Device.kvConfig (h : CmdHdr) (space prog : BitVec 8) (handle : Word16) (hold : Word32) (bounds : List Word32) (d : Device) : Device :=
  d.command 0x0508 h fun c d =>
    match d.spaceAt space.toNat with
    | none => d.finish c .badParam
    | some (sp, s) =>
      let bs := bounds.map BitVec.toNat
      if bs.length ≠ 15 ∨ !rising bs ∨ !d.recompOk h.account prog handle then d.finish c .badParam
      else if s.owner ≠ h.account then d.finish c .notOwner
      else
        (d.updSpace sp fun s =>
          { s with
            recompProg := if prog = 0xFF then none else some prog.toNat, recompHandle := handle.extractLsb' 0 12
            gatherHold := hold.toNat, bounds := bs }).ok c

def execKvConfig (h : CmdHdr) (space recompProg : BitVec 8) (recompHandle : Word16) (gatherHold : Word32) (bounds : List Word32)
    (s : State) : Answer := s.act (Device.kvConfig h space recompProg recompHandle gatherHold bounds)

/-- The sequence holds at least one dropped page. -/
def Space.anyDropped (s : Space) (q : Sequence) : Bool := q.table.any fun e => !s.present e

def Device.kvQuery (h : CmdHdr) (space : BitVec 8) (seq : Word32) (d : Device) : Device :=
  d.command 0x0509 h fun c d =>
    d.withSeq c space seq fun _ s q d =>
      let r := q.length % 2 ^ 32 + min (s.pagesOf q).length (2 ^ 31 - 1) * 2 ^ 32 + (if q.isPinned then 2 ^ 63 else 0)
      d.finish c (if s.anyDropped q then .pagesDropped else .ok) r

def execKvQuery (h : CmdHdr) (space : BitVec 8) (seq : Word32) (s : State) : Answer := s.act (Device.kvQuery h space seq)

/-! ### ASTER (R270) -/

def offAster : Nat := 0x02100000

def Device.setAstQuiesce (v : Bool) (d : Device) : Device :=
  { d with aster := { d.aster with quiesce := v, quiesced := d.aster.quiesced && v } }

def execAstQuiesceWrite (req : Requester) (value : Bool) (s : State) : Answer :=
  s.act fun d => d.writeBy req (offAster + 8) none (Device.setAstQuiesce value)

/-- A walk is in flight: its TATTN has issued, and is not past its retirement; it may be paused (R259). -/
def Walk.inFlight (w : Walk) : Bool := !w.waitPage

/-- AST_QUIESCED: quiesce is requested and no walk is in flight. -/
def Device.astQuiesced (d : Device) : Device :=
  if d.aster.quiesce && !(d.aster.walks.any Walk.inFlight) then { d with aster := { d.aster with quiesced := true } } else d

def execAstQuiesced (s : State) : Answer := s.act Device.astQuiesced

def Device.clearAstCounts (d : Device) : Device :=
  { d with aster := { d.aster with retired := 0, reprefills := 0, dropped := 0, hits := 0, collisions := 0, products := 0, short := 0 } }

def execAstCountClr (req : Requester) (s : State) : Answer := s.act fun d => d.writeBy req (offAster + 8) none Device.clearAstCounts

end Sys2Proof.Machine
end

