-- ==== Sys2Proof/Machine/Control.lean ====
section
/-! DEFINITION. The interrupt controller, the control cores and the event recorder: SOURCE_SENSE_CHANGE to LASTWORDS_COPY and
the event commands (R440-R461, R467-R469). -/

namespace Sys2Proof.Machine

/-! ### The INTC (R446-R451) -/

/-- A source is level-sensed: a pin whose MODE is 1 (R445). -/
def Intc.isLevel (i : Intc) (s : Fin 512) : Bool := isPinSource s.val && i.src[s].level

/-- A source is in service on some core. -/
def Device.inService (d : Device) (s : Fin 512) : Bool :=
  (Bank.indices 4).any fun c => d.cores[c].stack.any fun e => e.source.toNat == s.val

/-- A source is pending (R446): an edge source's pending bit; a level source while it is sensed and not in service. -/
def Device.pendingSource (d : Device) (s : Fin 512) : Bool :=
  if d.intc.isLevel s then d.intc.src[s].sensed && !d.inService s else d.intc.src[s].pend

/-- SOURCE_SENSE_CHANGE (R446): source 0 has no line. -/
def Device.senseChange (s : BitVec 9) (asserted : Bool) (d : Device) : Device :=
  let i : Fin 512 := ⟨s.toNat, s.isLt⟩
  if s = 0 then d
  else
    let x := d.intc.src[i]
    let pend := x.pend || (asserted && !x.sensed && !d.intc.isLevel i)
    { d with intc := { d.intc with src := Bank.upd d.intc.src i fun x => { x with sensed := asserted, pend := pend } } }

def execSourceSenseChange (source : BitVec 9) (asserted : Bool) (s : State) : Answer :=
  s.act (Device.senseChange source asserted)

/-- The level of the top entry of an in-service stack, 0 when it is empty. -/
def Core.topLevel (c : Core) : Nat := ((c.stack.getLast?).map fun e => e.level.toNat).getD 0

/-- Running priority (R447). -/
def Core.runPriority (c : Core) : Nat := max c.threshold.toNat c.topLevel

/-- A core takes machine interrupts now: it runs, is not halted, and MIE is set or it is in user mode. -/
def Core.takes (c : Core) : Bool := c.running && !c.debugHalted && (c.mstatusMIE || c.mode == .user)

/-- A core is eligible for a maskable source (R447). -/
def Device.eligible (d : Device) (s : Fin 512) (c : Fin 4) : Bool :=
  let k := d.cores[c]
  d.intc.src[s].coreMask.getLsbD c.val && decide (k.runPriority < d.intc.src[s].priority.toNat) && k.meie && k.takes

/-- Cores in order from the round-robin pointer. -/
def fromPointer (p : Fin 4) : List (Fin 4) := [p, p + 1, p + 2, p + 3]

/-- The core a source goes to among the eligible ones in `free`: the lowest running priority, ties from the pointer (R448);
with it, whether there was a tie. -/
def Device.pickCore (d : Device) (s : Fin 512) (free : List (Fin 4)) : Option (Fin 4 × Bool) :=
  let es := (fromPointer d.intc.pointer).filter fun c => free.contains c && d.eligible s c
  match es with
  | [] => none
  | e :: r =>
    let best := (e :: r).foldl (fun m c => min m d.cores[c].runPriority) d.cores[e].runPriority
    let ties := (e :: r).filter fun c => d.cores[c].runPriority == best
    (ties.head?).map fun c => (c, decide (1 < ties.length))

/-- The pending source that ranks first among those with a core free: the highest PRIORITY, the lower number on a tie. -/
def Device.topSource (d : Device) (free : List (Fin 4)) : Option (Fin 512 × Fin 4 × Bool) :=
  (Bank.indices 512).foldl (fun best s =>
    let p := d.intc.src[s].priority.toNat
    if s.val = 0 ∨ p = 0 ∨ !d.pendingSource s then best
    else
      let better := match best with
        | none => true
        | some (b, _, _) => decide (d.intc.src[b].priority.toNat < p)
      if better then (match d.pickCore s free with | some (c, t) => some (s, c, t) | none => best) else best) none

/-- A core enters a trap with no register read: steps 1 and 2 of R449, the machine-mode entry every trap of a core makes. -/
def Core.enter (k : Core) (cause tval target : Word64) : Core :=
  { k with
    mepc := k.pc, mcause := cause, mtval := tval, mstatusMPIE := k.mstatusMIE, mstatusMIE := false,
    mstatusMPP := k.mode, mode := .machine, pc := target }

/-- Delivery of source `s` at level `p` (R449): edge delivery clears the pending bit (R446). -/
def Device.deliver (d : Device) (s : Fin 512) (level : Nat) (c : Fin 4) : Device :=
  let target := d.intc.vbase + BitVec.ofNat 64 (32 * s.val)
  let d := d.updCore c fun k =>
    { k.enter 0x800000000000000B (BitVec.ofNat 64 s.val) target with
      stack := k.stack ++ [{ source := BitVec.ofNat 9 s.val, level := BitVec.ofNat 5 level }] }
  { d with intc := { d.intc with src := Bank.upd d.intc.src s fun x => { x with pend := false } } }

/-- One cycle of routing: at most one source to each core (R448). -/
def Device.routeCycle : Nat → List (Fin 4) → Device → Device
  | 0, _, d => d
  | k + 1, free, d =>
    match d.topSource free with
    | none => d
    | some (s, c, tie) =>
      let d := d.deliver s d.intc.src[s].priority.toNat c
      let d := if tie then { d with intc := { d.intc with pointer := c + 1 } } else d
      Device.routeCycle k (free.filter (· != c)) d

/-- INTERRUPT_ROUTE (R448): a parity fault of the INTC stops maskable sources (R465). -/
def Device.interruptRoute (d : Device) : Device := if d.parityOf 43 then d else d.routeCycle 4 (Bank.indices 4)

def execInterruptRoute (s : State) : Answer := s.act Device.interruptRoute

/-- INTC_EOI (R450): pops the top entry it names; any other source, or an empty stack, is an order fault. -/
def Device.eoi (c : Fin 4) (v : Word32) (d : Device) : Device :=
  let k := d.cores[c]
  let s := v.extractLsb' 0 9
  match k.stack.getLast? with
  | some e =>
    if e.source = s then d.updCore c fun k => { k with stack := k.stack.dropLast }
    else
      { d with intc := { d.intc with faultOrder := true, orderCore := c } }.logEvent 0x0A01 .error c.val
        (evData [(2, s.toNat), (2, e.source.toNat + 2 ^ 11 * e.level.toNat)]) srcEvr
  | none =>
    { d with intc := { d.intc with faultOrder := true, orderCore := c } }.logEvent 0x0A01 .error c.val
      (evData [(2, s.toNat), (2, 0)]) srcEvr

def execIntcEoiWrite (core : Fin 4) (value : Word32) (s : State) : Answer := s.act (Device.eoi core value)

/-- The fault core: CC0 while the INTC has a parity fault (R451, R465). -/
def Device.faultCore (d : Device) : Fin 4 := if d.parityOf 43 then 0 else d.intc.faultCore

/-- FAULT_INTERRUPT_DELIVER (R451): source 0 at level 16, while a cause is set and none is in service. -/
def Device.faultDeliver (d : Device) : Device :=
  let c := d.faultCore
  let k := d.cores[c]
  if (d.intc.faultOrder || d.intc.faultParity || d.intc.faultPost) && k.running && !k.debugHalted
      && !k.stack.any fun e => e.level == 16
  then d.deliver 0 16 c else d

def execFaultInterruptDeliver (s : State) : Answer := s.act Device.faultDeliver

def offIntc : Nat := 0x02A00000

/-- The causes of INTC_FAULT whose bits are 1 cleared (R451). -/
def Intc.clearFault (v : Word32) (i : Intc) : Intc :=
  { i with
    faultOrder := i.faultOrder && !v.getLsbD 0
    faultParity := i.faultParity && !v.getLsbD 1
    faultPost := i.faultPost && !v.getLsbD 2 }

def Device.updIntc (d : Device) (f : Intc → Intc) : Device := { d with intc := f d.intc }

def Device.intcFaultClear (req : Requester) (v : Word32) (d : Device) : Device :=
  d.writeBy req (offIntc + 0x28) none fun d => d.updIntc (Intc.clearFault v)

def execIntcFaultClear (req : Requester) (value : Word32) (s : State) : Answer := s.act (Device.intcFaultClear req value)

/-- INTC_SWSET: software sources 256-511; other values are ignored (R469). -/
def Intc.setSoftware (v : Word32) (i : Intc) : Intc :=
  let s := v.extractLsb' 0 9
  if s.toNat < 256 then i else { i with src := Bank.upd i.src ⟨s.toNat, s.isLt⟩ fun x => { x with pend := true } }

def Device.swset (req : Requester) (v : Word32) (d : Device) : Device :=
  d.writeBy req (offIntc + 0x38) none fun d => d.updIntc (Intc.setSoftware v)

def execIntcSwsetWrite (req : Requester) (value : Word32) (s : State) : Answer := s.act (Device.swset req value)

/-! ### Control cores (R441-R444) -/

/-- CC_RUN's bit for a core: set, the core begins at CC_ENTRY; cleared, it is reset and keeps nothing (R442). Its THRESHOLD
is an INTC register, and its EVR_POST area an EVR one: both stay. -/
def Device.runBit (v : Word32) (d : Device) (c : Fin 4) : Device :=
  if c.val = 0 then d
  else if v.getLsbD c.val then
    d.updCore c fun k => if k.running then k else { k with running := true, pc := d.intc.entry }
  else d.updCore c fun k => { threshold := k.threshold, postImage := k.postImage, postWritten := k.postWritten }

def Device.ccRunWrite (req : Requester) (v : Word32) (d : Device) : Device :=
  d.writeBy req (offIntc + 0x10) none fun d => (Bank.indices 4).foldl (Device.runBit v) d

def execCcRunWrite (req : Requester) (value : Word32) (s : State) : Answer := s.act (Device.ccRunWrite req value)

/-- Where a trap through mtvec goes: the base, or base + 4 × cause for an interrupt in vectored mode (RISC-V privileged
architecture; log entry 10). -/
def mtvecTarget (mtvec : Word64) (interrupt : Bool) (cause : Nat) : Word64 :=
  let base := mtvec &&& ~~~3#64
  if interrupt && mtvec.extractLsb' 0 2 == 1 then base + BitVec.ofNat 64 (4 * cause) else base

/-- An interrupt of a core's own, taken through mtvec. -/
def Core.takeLocal (k : Core) (cause : Nat) : Core :=
  k.enter (BitVec.ofNat 64 (2 ^ 63 + cause)) 0 (mtvecTarget k.mtvec true cause)

/-- MTIMER_INTERRUPT (R443): raised while TB_NOW ≥ MTIMECMP, taken when it is enabled. -/
def Device.mtimer (c : Fin 4) (d : Device) : Device :=
  let due := decide (d.cores[c].mtimecmp.toNat ≤ d.tb.now.toNat)
  d.updCore c fun k =>
    let k := { k with mtip := due }
    if due && k.mtie && k.takes then k.takeLocal 7 else k

def execMtimerInterrupt (core : Fin 4) (s : State) : Answer := s.act (Device.mtimer core)

/-- MSIP_WRITE (R443): raised while MSIP is 1, taken when it is enabled. -/
def Device.msipWrite (c : Fin 4) (v : Bool) (d : Device) : Device :=
  d.updCore c fun k =>
    let k := { k with msip := v }
    if v && k.msie && k.takes then k.takeLocal 3 else k

def execMsipWrite (core : Fin 4) (value : Bool) (s : State) : Answer := s.act (Device.msipWrite core value)

/-- The access-fault causes of R444. -/
def coreCause : CoreAccess → Nat
  | .fetch => 1
  | .load => 5
  | .store => 7

/-- *Control-core address map* (R441) grants every access of a kind at an address: fetches from the boot ROM and the control SRAM; loads
and stores as each range has them. In the register space an access narrower than its register, or unaligned, is one to a reserved
location (R462), so no address of it is granted whatever the access (log entry 171). -/
def coreGrants (kind : CoreAccess) (a : Nat) : Bool :=
  let rom := decide (a < 0x10000)
  let sram := decide (0x10000000 ≤ a ∧ a < 0x14000000)
  let records := decide (0x20000000 ≤ a ∧ a < 0x20100000)
  let timer := decide (0x30000000 ≤ a ∧ a < 0x30004000 ∧ a % 0x1000 < 12)
  let device := decide (2 ^ 52 ≤ a ∧ a < 2 ^ 53)
  match kind with
  | .fetch => rom || sram
  | .load => rom || sram || records || timer || device
  | .store => sram || timer || device

/-- An access-fault exception (R444): mtval holds the address, and nothing is written. -/
def Device.accessFault (c : Fin 4) (kind : CoreAccess) (a : Word64) (d : Device) : Device :=
  d.updCore c fun k =>
    if k.running && !k.debugHalted then k.enter (BitVec.ofNat 64 (coreCause kind)) a (mtvecTarget k.mtvec false (coreCause kind))
    else k

/-- CORE_ACCESS_FAULT: a core's access that the address map does not grant (R441, R444). -/
def Device.coreAccess (c : Fin 4) (kind : CoreAccess) (a : Word64) (d : Device) : Device :=
  if coreGrants kind a.toNat then d else d.accessFault c kind a

def execCoreAccessFault (core : Fin 4) (kind : CoreAccess) (addr : Word64) (s : State) : Answer :=
  s.act (Device.coreAccess core kind addr)

/-! ### Event recorder -/

/-- EVR_ACCEPT (R457): one occurrence of the input queue. -/
def execEvrAccept (s : State) : Answer := s.act Device.evrStep

/-- The bytes of a core's record image. -/
def Core.image (k : Core) : List Byte := (Bank.indices 8).flatMap fun i => bytesOf 8 k.postImage[i].toNat

/-- A well-formed image (R460): reserved fields, REPEAT, RESET_EPOCH and the last 8 bytes zero. -/
def imageOk (bs : List Byte) : Bool :=
  fieldAt bs 2 1 / 16 == 0 && fieldAt bs 3 1 == 0 && fieldAt bs 24 8 == 0 && fieldAt bs 56 8 == 0

/-- The occurrence an image submits at a tick, under order key 512 + c (R457). -/
def imageOccurrence (c : Fin 4) (bs : List Byte) (now : Tick) : Occurrence :=
  { code := BitVec.ofNat 16 (fieldAt bs 0 2), severity := Severity.ofCode (BitVec.ofNat 2 (fieldAt bs 2 1)),
    source := BitVec.ofNat 32 (fieldAt bs 4 4), tick := BitVec.ofNat 64 (fieldAt bs 8 8),
    data := BitVec.ofNat 192 (fieldAt bs 32 24), key := 512 + c.val, arrives := now.toNat }

/-- One doubleword of a core's EVR_POST area. -/
def Core.post (k : Core) (i : Fin 8) (v : Word64) : Core :=
  { k with postImage := Bank.upd k.postImage i fun _ => v, postWritten := k.postWritten ||| (1#8 <<< i.val) }

/-- EVR_POST_SUBMIT (R460): the last doubleword submits the image, or discards it and sets INTC_FAULT.POST. -/
def Device.evrPost (c : Fin 4) (v : Word64) (d : Device) : Device :=
  let k := d.cores[c].post 7 v
  let ok := k.postWritten == 0xFF && imageOk k.image
  let d := d.updCore c fun _ => { k with postWritten := 0 }
  if ok then { d with evr := d.evr.enqueue (imageOccurrence c k.image d.tb.now) }
  else { d with intc := { d.intc with faultPost := true } }.logEvent 0x0A04 .warn c.val 0 srcEvr

def execEvrPostSubmit (core : Fin 4) (value : Word64) (s : State) : Answer := s.act (Device.evrPost core value)

/-- LASTWORDS_COPY (R458): the copy of the oldest untried FATAL record is asked of the Seedbank. -/
def Device.lastwordsCopy (d : Device) : Device :=
  match d.evr.untried with
  | none => d
  | some r =>
    if d.sec.writes.any fun o => o.write == .lastWords r.seq then d else d.seedAsk (.lastWords r.seq) none

def execLastwordsCopy (s : State) : Answer := s.act Device.lastwordsCopy

/-! ### Commands of block 0x0A (R467, R468) -/

/-- A record put into its place in a list in rising SEQ. -/
def insertBySeq (r : EventRecord) : List EventRecord → List EventRecord
  | [] => [r]
  | x :: l => if r.seq.toNat < x.seq.toNat then r :: x :: l else x :: insertBySeq r l

/-- The records EVT_READ returns: consistent, SEQ at least START_SEQ, severity at least the minimum, in increasing SEQ. -/
def Evr.readFrom (e : Evr) (start : BitVec 48) (max : Nat) (sev : Nat) : List EventRecord :=
  let rs := e.records.filter fun r => r.valid && decide (start.toNat ≤ r.seq.toNat) && decide (sev ≤ r.severity.code.toNat)
  (rs.foldl (fun l r => insertBySeq r l) []).take max

def Device.evtRead (h : CmdHdr) (addr : Word64) (start : BitVec 48) (max : Word16) (sev : BitVec 8) (d : Device) :
    Device :=
  d.command 0x0A01 h fun c d =>
    if addr.toNat % 64 ≠ 0 ∨ max = 0 ∨ 16384 < max.toNat ∨ 3 < sev.toNat then d.finish c .badParam
    else if d.evr.faulted then d.finish c .faulted
    else
      let rs := d.evr.readFrom start max.toNat sev.toNat
      let d := if rs.isEmpty then d else d.hostWrite h.port addr (rs.flatMap EventRecord.bytes)
      d.ok c rs.length

def execEvtRead (h : CmdHdr) (hostAddr : Word64) (start : BitVec 48) (max : Word16) (minSeverity : BitVec 8) (s : State) :
    Answer := s.act (Device.evtRead h hostAddr start max minSeverity)

def Device.evtSummary (h : CmdHdr) (d : Device) : Device :=
  d.command 0x0A02 h fun c d => d.ok c (d.evr.nextSeq.toNat + 2 ^ 48 * d.evr.lastFatalCode.toNat)

def execEvtSummary (h : CmdHdr) (s : State) : Answer := s.act (Device.evtSummary h)

def Device.evtFilterSet (h : CmdHdr) (sev n0 n1 v0 v1 : BitVec 8) (ms : Word16) (d : Device) : Device :=
  d.adminCommand 0x0A03 h fun c d =>
    if 1 < sev.toNat ∨ 4 < n0.toNat ∨ 4 < n1.toNat ∨ ms = 0 then d.finish c .badParam
    else
      let n (p : Fin 2) : BitVec 3 := (if p.val = 0 then n0 else n1).extractLsb' 0 3
      let v (p : Fin 2) : BitVec 8 := if p.val = 0 then v0 else v1
      { d with evr := { d.evr with
          minSeverity := sev == 1, notify := Vector.ofFn n, vec := Vector.ofFn v, repeatWindowMs := ms } }.ok c

def execEvtFilterSet (h : CmdHdr) (minSeverity notify0 notify1 vector0 vector1 : BitVec 8) (repeatMs : Word16)
    (s : State) : Answer := s.act (Device.evtFilterSet h minSeverity notify0 notify1 vector0 vector1 repeatMs)

def Evr.clearDrops (e : Evr) : Evr := { e with dropFiltered := 0, dropError := 0, dropWarn := 0, dropInfo := 0 }

def Device.evtDropsClear (h : CmdHdr) (d : Device) : Device :=
  d.adminCommand 0x0A04 h fun c d => { d with evr := d.evr.clearDrops }.ok c

def execEvtDropsClear (h : CmdHdr) (s : State) : Answer := s.act (Device.evtDropsClear h)

end Sys2Proof.Machine
end

