-- ==== Sys2Proof/Machine/RegOps.lean ====
section
/-! DEFINITION. The shadows of register halves (R462, R463). -/

namespace Sys2Proof.Machine

/-- The low and the high half of a 64-bit value. -/
def lowHalf (v : Word64) : Word32 := v.extractLsb' 0 32
def highHalf (v : Word64) : Word32 := v.extractLsb' 32 32

/-- A requester's write shadow. -/
def Device.setWriteShadow (d : Device) (req : Requester) (s : Option Shadow) : Device :=
  { d with writeShadow := Bank.upd d.writeShadow req.index fun _ => s }

def Device.setReadShadow (d : Device) (req : Requester) (s : Option Shadow) : Device :=
  { d with readShadow := Bank.upd d.readShadow req.index fun _ => s }

/-- A write of a part of a 64-bit register with RWS fields, which holds `old`: the high half is staged, the low half commits
with a high half staged for it, a whole write commits at once; a commit empties the shadow it used (R463). -/
def Device.writeStaged (d : Device) (req : Requester) (reg : Nat) (part : RegPart) (v old : Word64)
    (commit : Word64 → Device → Device) : Device :=
  match part with
  | .hi => d.setWriteShadow req (some { reg := reg, value := lowHalf v })
  | .full => commit v (d.setWriteShadow req none)
  | .lo =>
    match d.writeShadow[req.index] with
    | some s =>
      if s.reg = reg then commit (s.value ++ lowHalf v) (d.setWriteShadow req none)
      else commit (highHalf old ++ lowHalf v) d
    | none => commit (highHalf old ++ lowHalf v) d

/-- A read of a part of a 64-bit register that holds `v`: the value returned, and the shadow (R463). -/
def Device.readStaged (d : Device) (req : Requester) (reg : Nat) (part : RegPart) (v : Word64) : Word64 × Device :=
  match part with
  | .full => (v, d)
  | .lo => ((lowHalf v).setWidth 64, d.setReadShadow req (some { reg := reg, value := highHalf v }))
  | .hi =>
    match d.readShadow[req.index] with
    | some s => ((if s.reg = reg then s.value else highHalf v).setWidth 64, d)
    | none => ((highHalf v).setWidth 64, d)

end Sys2Proof.Machine
end

