-- ==== Sys2Proof/Machine/Intake.lean ====
section
/-! DEFINITION. The intake and admission registers and the session commands: REPLY_COALESCE_TIMER to RESET (R323, R331, R344-R352,
R473-R476, R505). -/

namespace Sys2Proof.Machine

def offIntake (p : Fin 2) : Nat := 0x00100000 + p.val * 0x1000

/-! ### The ring (R323, R326, R349, R473) -/

/-- REPLY_COALESCE_TIMER: COALESCE_US has passed since the first reply not yet signalled (R331). -/
def Device.coalesceTimer (p : Fin 2) (d : Device) : Device :=
  let q := d.ports[p]
  if q.coalesceUs = 0 ∨ q.coalesceSince.isNone then d
  else (d.updPort p fun q => { q with coalesced := 0, coalesceSince := none }).msix p q.vector

def execReplyCoalesceTimer (port : Fin 2) (s : State) : Answer := s.act (Device.coalesceTimer port)

/-- ENABLE takes force: the port is no longer quiesced. -/
def HostPort.start (q : HostPort) : HostPort := { q with enabled := true, enablePending := false, quiesced := false }

/-- ENABLE is cleared; the port is quiesced at once when no consumed command lacks its final reply. -/
def Device.stopPort (d : Device) (p : Fin 2) : Device :=
  let idle := d.outstanding p == 0
  d.updPort p fun q => { q with enabled := false, enablePending := false, quiesced := q.quiesced || idle }

/-- INT_CTRL.ENABLE: 1 is ignored until READY (R473), and waits for the clearing of a RING_RESET (R323). -/
def Device.setEnable (p : Fin 2) (v : Bool) (d : Device) : Device :=
  if !v then d.stopPort p
  else if !d.sec.ready then d
  else d.updPort p fun q => if q.clearing then { q with enablePending := true } else q.start

def Device.intEnableWrite (req : Requester) (p : Fin 2) (v : Bool) (d : Device) : Device :=
  d.writeBy req (offIntake p) (some p) (Device.setEnable p v)

def execIntEnableWrite (req : Requester) (port : Fin 2) (value : Bool) (s : State) : Answer :=
  s.act (Device.intEnableWrite req port value)

/-- RING_RESET: with ENABLE 0 the ring state starts over and the window is being zeroed; with ENABLE 1 it is ignored. -/
def Device.ringRestart (p : Fin 2) (d : Device) : Device :=
  let q := d.ports[p]
  if q.enabled || q.enablePending then d.logEvent 0x0006 .warn p.val 0 (srcIntake p)
  else d.updPort p fun q =>
    { q with readOffset := 0, consumed := 0, expectPhase := true, stalled := false, clearing := true }

def Device.ringReset (req : Requester) (p : Fin 2) (d : Device) : Device :=
  d.writeBy req (offIntake p) (some p) (Device.ringRestart p)

def execRingReset (req : Requester) (port : Fin 2) (s : State) : Answer := s.act (Device.ringReset req port)

/-- RING_RESET_DONE: every byte of the window is zero, and an ENABLE written meanwhile takes effect (R323). -/
def Device.ringResetDone (p : Fin 2) (d : Device) : Device :=
  if d.ports[p].clearing then
    d.updPort p fun q =>
      let q := { q with window := [], clearing := false }
      if q.enablePending then q.start else q
  else d

def execRingResetDone (port : Fin 2) (s : State) : Answer := s.act (Device.ringResetDone port)

def Device.clearIntCounts (p : Fin 2) (d : Device) : Device :=
  d.updPort p fun q => { q with countDuplicates := 0, countPackets := 0 }

def Device.intCountClr (req : Requester) (p : Fin 2) (d : Device) : Device :=
  d.writeBy req (offIntake p) (some p) (Device.clearIntCounts p)

def execIntCountClr (req : Requester) (port : Fin 2) (s : State) : Answer := s.act (Device.intCountClr req port)

/-! ### The reply ring (R329, R330, R350) -/

/-- A ring register written while the port is not quiesced (R350). -/
def Device.cfgLive (d : Device) (p : Fin 2) : Device :=
  (d.updPort p fun q => { q with faulted := true }).logEvent 0x0005 .error p.val 0 (srcIntake p)

/-- INT_REPLY_BASE takes a value; bits [11:0] are reserved. -/
def Device.setReplyBase (p : Fin 2) (v : Word64) (d : Device) : Device :=
  let live := !d.ports[p].quiesced
  let d := d.updPort p fun q => { q with replyBase := v &&& 0xFFFFFFFFFFFFF000 }
  if live then d.cfgLive p else d

def Device.replyBaseWrite (req : Requester) (p : Fin 2) (part : RegPart) (v : Word64) (d : Device) : Device :=
  d.writeBy req (offIntake p + 0x18) (some p) fun d =>
    d.writeStaged req (offIntake p + 0x18) part v d.ports[p].replyBase (Device.setReplyBase p)

def execIntReplyBaseWrite (req : Requester) (port : Fin 2) (part : RegPart) (value : Word64) (s : State) : Answer :=
  s.act (Device.replyBaseWrite req port part value)

/-- INT_REPLY_CFG takes a value; a change of SIZE_LOG2 needs QUIESCED (R350). -/
def Device.setReplyCfg (p : Fin 2) (v : Word32) (d : Device) : Device :=
  let size : BitVec 5 := v.extractLsb' 11 5
  let live := !d.ports[p].quiesced && size != d.ports[p].sizeLog2
  let d := d.updPort p fun q =>
    { q with vector := v.extractLsb' 24 8, coalesceN := v.extractLsb' 16 8, sizeLog2 := size,
             coalesceUs := v.extractLsb' 0 11 }
  if live then d.cfgLive p else d

def Device.replyCfgWrite (req : Requester) (p : Fin 2) (v : Word32) (d : Device) : Device :=
  d.writeBy req (offIntake p + 0x20) (some p) (Device.setReplyCfg p v)

def execIntReplyCfgWrite (req : Requester) (port : Fin 2) (value : Word32) (s : State) : Answer :=
  s.act (Device.replyCfgWrite req port value)

/-- INT_REPLY_HEAD frees entries (R330). -/
def Device.setReplyHead (p : Fin 2) (v : Word32) (d : Device) : Device := d.updPort p fun q => { q with head := v }

def Device.replyHeadWrite (req : Requester) (p : Fin 2) (v : Word32) (d : Device) : Device :=
  d.writeBy req (offIntake p + 0x28) (some p) (Device.setReplyHead p v)

def execIntReplyHeadWrite (req : Requester) (port : Fin 2) (value : Word32) (s : State) : Answer :=
  s.act (Device.replyHeadWrite req port value)

/-- INTAKE_QUIESCED: ENABLE is 0 and no consumed command lacks its final reply (R349, R350). -/
def Device.intakeQuiesced (p : Fin 2) (d : Device) : Device :=
  if !d.ports[p].enabled && d.outstanding p == 0 then d.updPort p fun q => { q with quiesced := true } else d

def execIntakeQuiesced (port : Fin 2) (s : State) : Answer := s.act (Device.intakeQuiesced port)

def offAdmission : Nat := 0x00200000

/-- COUNT_CLR of ADM_CTRL (R351). -/
def Device.clearAdmCounts (d : Device) : Device :=
  { d with adm := { d.adm with
      accepted := 0, refused := 0, kept := 0, broken := 0, lateMax := 0, causes := Vector.replicate 10 0 } }

def Device.admCountClr (req : Requester) (d : Device) : Device := d.writeBy req offAdmission none Device.clearAdmCounts

def execAdmCountClr (req : Requester) (s : State) : Answer := s.act (Device.admCountClr req)

/-! ### Session commands (R344-R346, R505) -/

/-- The state code of IDENTIFY and GET_STATE. -/
def BootState.code : BootState → Nat
  | .bootRom => 0
  | .loading => 1
  | .running => 2

/-- The firmware version: 0 under the boot ROM. -/
def Device.firmwareVersion (d : Device) : Nat :=
  match d.sec.state with
  | .running => (Config.firmwareVersion d.sec.measFw).toNat
  | _ => 0

/-- The result of IDENTIFY on a port. -/
def Device.identity (d : Device) (p : Fin 2) : Nat :=
  8 + 2 ^ 8 * Config.ctrlStepping.toNat + 2 ^ 16 * d.firmwareVersion + 2 ^ 32 * p.val
    + (if d.isAdmin p then 2 ^ 33 else 0) + 2 ^ 34 * d.sec.state.code

def Device.identify (h : CmdHdr) (d : Device) : Device := d.command 0x0001 h fun c d => d.ok c (d.identity h.port)

def execIdentify (h : CmdHdr) (s : State) : Answer := s.act (Device.identify h)

/-- The result of GET_STATE; HOLD is the job's (R370). -/
def Device.stateWord (d : Device) : Nat :=
  d.sec.state.code + (if d.fab.job = .none then 0 else 4) + (if d.fab.job = .hold then 8 else 0)
    + (if d.tb.refLost then 16 else 0) + 2 ^ 5 * d.programs.length + 2 ^ 16 * d.adm.promises.length
    + 2 ^ 32 * (d.tb.now.toNat % 2 ^ 32)

def Device.getState (h : CmdHdr) (d : Device) : Device := d.command 0x0002 h fun c d => d.ok c d.stateWord

def execGetState (h : CmdHdr) (s : State) : Answer := s.act (Device.getState h)

/-- NOP returns TB_NOW; every packet consumed earlier has been dispatched, since dispatch is in order (R328). -/
def Device.nop (h : CmdHdr) (d : Device) : Device := d.command 0x0003 h fun c d => d.ok c d.tb.now.toNat

def execNop (h : CmdHdr) (s : State) : Answer := s.act (Device.nop h)

/-- The admin role passes to a port (R505, R352). -/
def Device.passAdmin (d : Device) (p : Fin 2) (adopt : Bool) : Device :=
  { d with admin := { port := p, changes := bump d.admin.changes, lastByAdopt := adopt } }.logEvent 0x0007 .info p.val 0
    (srcIntake p)

def Device.adminHandover (h : CmdHdr) (d : Device) : Device :=
  d.adminCommand 0x0008 h fun c d =>
    if d.linkUp (otherPort h.port) then (d.passAdmin (otherPort h.port) false).ok c else d.finish c .busy

def execAdminHandover (h : CmdHdr) (s : State) : Answer := s.act (Device.adminHandover h)

/-- Ticks the admin's link must have been down. -/
def adoptTicks : Nat := 1000000000

def Device.adminAdopt (h : CmdHdr) (d : Device) : Device :=
  d.command 0x0009 h fun c d =>
    if d.isAdmin h.port then d.finish c .badParam
    else
      let a := d.admin.port
      if !d.linkUp a && decide (adoptTicks < (d.tb.now - d.ports[a].downSince).toNat) then
        (d.passAdmin h.port true).ok c
      else d.finish c .busy

def execAdminAdopt (h : CmdHdr) (s : State) : Answer := s.act (Device.adminAdopt h)

/-! ### Firmware (R475, R476) -/

def maxImage : Nat := 33554432

/-- The packet of an FW_LOAD is valid against the chunks before it. -/
def Device.chunkOk (d : Device) (off len total : Nat) : Bool :=
  decide (off % 8 = 0 ∧ len % 8 = 0 ∧ 8 ≤ len ∧ len ≤ 1048576 ∧ total ≤ maxImage ∧ off + len ≤ total)
    && d.sec.imageLength.all (· == total)

def Device.fwLoad (h : CmdHdr) (addr : Word64) (off len total : Word32) (d : Device) : Device :=
  d.command 0x0010 h fun c d =>
    if !d.chunkOk off.toNat len.toNat total.toNat then d.finish c .badParam
    else if d.sec.state = .running then d.finish c .busy
    else if !d.linkUp h.port then (d.dmaFailed h.port c).finish c .aborted
    else { d with sec := { d.sec with state := .loading, imageLength := some total.toNat } }.dmaIssue h.port addr len.toNat
      (.fwChunk off.toNat) c

def execFwLoad (h : CmdHdr) (hostAddr : Word64) (offset length imageLength : Word32) (s : State) : Answer :=
  s.act (Device.fwLoad h hostAddr offset length imageLength)

/-- A chunk's bytes in the image buffer; nothing is kept once the firmware runs. -/
def Device.holdChunk (d : Device) (c : OpenCmd) (off : Nat) (bs : List Byte) : Device :=
  let d := if d.sec.state = .running then d
    else { d with sec := { d.sec with image := Cells.noteAll d.sec.image off bs } }
  d.ok c d.sec.image.length

/-- Bytes of both signatures. -/
def sigBytes : Nat := 384 + 16224

/-- The first check of R476, from 2 on, that an image fails. -/
def Device.imageFault (d : Device) (img : List Byte) : Option Nat :=
  let code := fieldAt img 16 4
  let entry := fieldAt img 12 4
  let svn := fieldAt img 8 4
  let body := img.take (64 + code)
  let sigA := (img.drop (64 + code)).take 384
  let sigB := (img.drop (64 + code + 384)).take 16224
  if fieldAt img 0 4 ≠ 0x5A384657 ∨ fieldAt img 4 4 ≠ 8 ∨ ((img.drop 20).take 44).any (· != 0)
      ∨ img.length ≠ 64 + code + sigBytes ∨ entry % 4 ≠ 0 ∨ entry < 64 ∨ 60 + code < entry ∨ 64 < svn then some 2
  else if svn < d.seed.svn then some 3
  else if !Config.verifyFirst body sigA then some 4
  else if !Config.verifySecond body sigB then some 5
  else none

/-- The image buffer discarded: the boot ROM waits for chunks again. -/
def Security.discardImage (s : Security) : Security := { s with state := .bootRom, image := [], imageLength := none }

/-- CC0 jumps into the image at ENTRY (R475, R476). -/
def Device.runImage (d : Device) (img : List Byte) : Device :=
  let d := { d with sec := { d.sec with
    state := .running, imageSvn := BitVec.ofNat 16 (fieldAt img 8 4), measFw := Config.sha384 img } }
  d.updCore 0 fun k => { k with pc := BitVec.ofNat 64 (0x10000000 + fieldAt img 12 4) }

def Device.fwStart (h : CmdHdr) (total : Word32) (d : Device) : Device :=
  d.command 0x0011 h fun c d =>
    if d.sec.imageLength ≠ some total.toNat ∨ d.sec.image.length ≠ total.toNat then d.finish c .badParam
    else if d.sec.state = .running then d.finish c .busy
    else
      let img := d.sec.image.map Prod.snd
      match d.imageFault img with
      | some k =>
        ({ d with sec := d.sec.discardImage }.logEvent 0x0B02 .warn 0 k srcSecurity).finish c .authFail
      | none => ((d.runImage img).logEvent 0x0B01 .info 0 (fieldAt img 8 4) srcSecurity).ok c

def execFwStart (h : CmdHdr) (imageLength : Word32) (s : State) : Answer := s.act (Device.fwStart h imageLength)

/-- RESET (R345): ST_OK, then ST_RESET for every command without a final reply, then the warm reset. -/
def Device.reset (h : CmdHdr) (kind : BitVec 8) (d : Device) : Device :=
  d.adminCommand 0x0018 h fun c d =>
    if kind ≠ 0 then d.finish c .badParam
    else
      let d := d.ok c
      (d.opens.foldl (fun d o => d.finish o .reset) d).resetTo 2

def execReset (h : CmdHdr) (kind : BitVec 8) (s : State) : Answer := s.act (Device.reset h kind)

end Sys2Proof.Machine
end

