-- ==== Sys2Proof/Machine/Startup.lean ====
section
/-! DEFINITION. Resets, start-up, security and the Seedbank: SYSRST_ASSERT to SEEDBANK_COMMIT (R345, R472-R493, R526, R527). -/

namespace Sys2Proof.Machine

/-! ### Reset events -/

/-- SYSRST_N low for 1 µs: a reset of kind 1, held until its release (R526). -/
def Device.sysrstAssert (d : Device) : Device :=
  if d.pins.powered && !d.pins.tripped then
    if d.pins.sysrstLow then d
    else { d with pins := { d.pins with sysrstLow := true } }.resetTo 1
  else { d with pins := { d.pins with sysrstLow := true } }

def execSysrstAssert (s : State) : Answer := s.actAlways Device.sysrstAssert

/-- SYSRST_N released: the device leaves the reset it held it in, and start-up continues from the 5 ms row (R526). -/
def Device.sysrstRelease (d : Device) : Device :=
  let n : Device := { d with pins := { d.pins with sysrstLow := false, inReset := false } }
  if d.pins.powered && !d.pins.tripped && d.pins.inReset then n.leaveReset else n

def execSysrstRelease (s : State) : Answer := s.actAlways Device.sysrstRelease

/-- The longest a containment reset waits for the last-words attempt of its FATAL record: 25 ms (R489). -/
def lastWordsWait : Nat := 25000000

/-- Every FATAL record of the recorder has had its last-words attempt (R458): none waits to be written, to be tried or to commit. -/
def Device.lastWordsOver (d : Device) : Bool :=
  !(d.evr.queue.any fun o => o.severity == .fatal) && d.evr.untried.isNone && !(d.sec.writes.any fun o => o.write.isLastWords)

/-- A containment reset that has been begun runs once its last-words attempt is over, or 25 ms after it was begun (R489). -/
def Device.containmentReset (d : Device) : Device :=
  if d.sec.containmentPending && (d.lastWordsOver || decide (lastWordsWait ≤ (d.tb.now - d.sec.containmentSince).toNat)) then d.resetTo 3
  else d

def execContainmentReset (s : State) : Answer := s.act Device.containmentReset

/-- The boot ROM ends start-up: READY, unless a die failed its self-test or a stack its training (R472, R474). -/
def Device.bootReady (dieFail : BitVec 26) (d : Device) : Device :=
  let trained := (Bank.indices 20).all fun k => d.mem.hbm[k].trained
  if d.sec.ready || d.pins.startFail then d
  else if dieFail ≠ 0 ∨ d.sec.stackFail ≠ 0 then
    let d := { d with sec := { d.sec with dieFail := dieFail }, pins := { d.pins with startFail := true } }
    d.logEvent 0x0B03 .fatal 0 (dieFail.toNat + 2 ^ 26 * d.sec.stackFail.toNat) srcSecurity
  else if trained then { d with sec := { d.sec with ready := true } }
  else d

def execBootReady (dieFail : BitVec 26) (s : State) : Answer := s.act (Device.bootReady dieFail)

/-! ### Attestation (R478, R479) -/

/-- The settings record: SEEDBANK_READ items 0 to 4, 8 bytes each (R479, R491). -/
def Seedbank.item (b : Seedbank) (i : Nat) : Nat :=
  match i with
  | 0 => b.svn % 256
  | 1 => if b.identity then 1 else 0
  | 2 => if b.debugDisabled then 1 else 0
  | 3 => b.capUf.toNat + 2 ^ 32 * b.capWrites
  | 4 => b.ceiling.toNat + 2 ^ 16 * b.ceilingWrites
  | _ =>
    match asFin 8 (i - 5) with
    | none => 0
    | some n =>
      let l := b.repairs[n]
      l.length + 256 * ((l.getLast?).map fun r => r.1.toNat).getD 0x7F

def Seedbank.settings (b : Seedbank) : List Byte := (List.range 5).flatMap fun i => bytesOf 8 (b.item i)

/-- SHA-384 of the held pack, zero when none is held. -/
def Device.packDigest (d : Device) : Nat := (d.integ.pack.map fun p => (Config.sha384 p.bytes).toNat).getD 0

/-- The first 704 bytes of an attestation report (R479); the identity public keys are the part's own. -/
def Device.attestBody (d : Device) (nonce : List Byte) : List Byte :=
  bytesOf 4 1 ++ bytesOf 4 8 ++ bytesOf 4 d.seed.svn ++ bytesOf 4 d.sec.imageSvn.toNat ++ bytesOf 8 d.tb.now.toNat
    ++ (nonce ++ List.replicate 32 0).take 32
    ++ bytesOf 48 d.sec.measFw.toNat ++ bytesOf 48 d.packDigest
    ++ bytesOf 48 (Config.sha384 d.seed.settings).toNat
    ++ [BitVec.ofNat 8 ((if d.seed.debugDisabled then 1 else 0) + (if d.integ.pack.isSome then 2 else 0))]
    ++ List.replicate 7 0
    ++ bytesOf 384 Config.rsaModulus.toNat ++ bytesOf 4 65537 ++ bytesOf 48 Config.slhPublic.toNat ++ List.replicate 60 0

/-- A byte string cut or filled to a length. -/
def fitBytes (n : Nat) (bs : List Byte) : List Byte := (bs ++ List.replicate n 0).take n

/-- The 17,312 bytes of the report. -/
def Device.attestReport (d : Device) (nonce : List Byte) : List Byte :=
  let body := d.attestBody nonce
  body ++ fitBytes 384 (Config.signFirst body) ++ fitBytes 16224 (Config.signSecond body)

def Device.attest (h : CmdHdr) (addr : Word64) (nonce : List Byte) (d : Device) : Device :=
  d.command 0x0B01 h fun c d =>
    if addr.toNat % 64 ≠ 0 ∨ !d.seed.identity then d.finish c .badParam
    else (d.hostWrite h.port addr (d.attestReport nonce)).ok c 17312

def execAttest (h : CmdHdr) (hostAddr : Word64) (nonce : List Byte) (s : State) : Answer :=
  s.act (Device.attest h hostAddr nonce)

/-! ### Seedbank commands (R482-R487, R491, R492) -/

/-- A setting write that its command may make: ST_LIMIT_REACHED, then ST_HOLDUP at once while PWRFAIL_N is asserted (R487),
then the hold-up check in its turn. -/
def Device.seedCommand (d : Device) (c : OpenCmd) (w : SeedWrite) : Device :=
  if d.seed.atLimit w then (d.finish c .limitReached).logEvent 0x0B07 .warn 0 0 srcSecurity
  else if d.bel.powerFail then
    (d.finish c .holdup).logEvent 0x0B06 .warn 0 (evData [(4, 0), (2, d.bel.voltage.toNat)]) srcSecurity
  else d.seedAsk w (some c)

def Device.svnIncrement (h : CmdHdr) (d : Device) : Device :=
  d.adminCommand 0x0B02 h fun c d =>
    if d.sec.imageSvn.toNat < d.seed.svn + 1 then d.finish c .badParam else d.seedCommand c .svn

def execSvnIncrement (h : CmdHdr) (s : State) : Answer := s.act (Device.svnIncrement h)

def Device.identityGenerate (h : CmdHdr) (d : Device) : Device :=
  d.adminCommand 0x0B03 h fun c d => d.seedCommand c .identity

def execIdentityGenerate (h : CmdHdr) (s : State) : Answer := s.act (Device.identityGenerate h)

def Device.debugDisable (h : CmdHdr) (confirm : Word32) (d : Device) : Device :=
  d.adminCommand 0x0B04 h fun c d => if confirm ≠ 0x0D15AB1E then d.finish c .badParam else d.seedCommand c .debug

def execDebugDisable (h : CmdHdr) (confirm : Word32) (s : State) : Answer := s.act (Device.debugDisable h confirm)

def Device.holdupSet (h : CmdHdr) (uf : Word32) (d : Device) : Device :=
  d.adminCommand 0x0B05 h fun c d =>
    if uf = 0 ∨ 1000000 < uf.toNat then d.finish c .badParam else d.seedCommand c (.holdup uf)

def execHoldupSet (h : CmdHdr) (uf : Word32) (s : State) : Answer := s.act (Device.holdupSet h uf)

def Device.ceilingSet (h : CmdHdr) (w : Word16) (d : Device) : Device :=
  d.adminCommand 0x0B06 h fun c d =>
    if w.toNat < Config.floorCalW ∨ 5400 < w.toNat then d.finish c .badParam else d.seedCommand c (.ceiling w)

def execCeilingSet (h : CmdHdr) (watts : Word16) (s : State) : Answer := s.act (Device.ceilingSet h watts)

def Device.seedbankRead (h : CmdHdr) (item : BitVec 8) (d : Device) : Device :=
  d.command 0x0B07 h fun c d => if 12 < item.toNat then d.finish c .badParam else d.ok c (d.seed.item item.toNat)

def execSeedbankRead (h : CmdHdr) (item : BitVec 8) (s : State) : Answer := s.act (Device.seedbankRead h item)

/-- The committed last-words entries (R481). -/
def Seedbank.committed (b : Seedbank) : List EventRecord := (b.lastWords.filter LastWords.committed).map LastWords.record

/-- START skips that many of the committed entries, oldest first (log entry 9). -/
def Device.lastwordsRead (h : CmdHdr) (addr : Word64) (start max : Word16) (d : Device) : Device :=
  d.command 0x0B08 h fun c d =>
    if addr.toNat % 64 ≠ 0 ∨ 255 < start.toNat ∨ max = 0 ∨ 256 < max.toNat then d.finish c .badParam
    else
      let all := d.seed.committed
      let rs := (all.drop start.toNat).take max.toNat
      let d := if rs.isEmpty then d else d.hostWrite h.port addr (rs.flatMap EventRecord.bytes)
      d.ok c (rs.length + 2 ^ 16 * all.length)

def execLastwordsRead (h : CmdHdr) (hostAddr : Word64) (start max : Word16) (s : State) : Answer :=
  s.act (Device.lastwordsRead h hostAddr start max)

/-- The started write commits, the hold is released and the next waiting write meets its check (R485, R486). -/
def Device.seedbankCommit (d : Device) : Device := d.seedCommit.seedRun

def execSeedbankCommit (s : State) : Answer := s.act Device.seedbankCommit

end Sys2Proof.Machine
end

