-- ==== Sys2Proof/Machine/Integrity.lean ====
section
/-! DEFINITION. Silent errors, assays and fault containment: TWIN_UNIT_COMPARE to INTEG_QUERY (R385-R414). -/

namespace Sys2Proof.Machine

/-- BAR0 offset of the INTEGRITY block (R412). -/
def offInteg : Nat := 0x02D00000

def Device.updInteg (d : Device) (f : Integrity → Integrity) : Device := { d with integ := f d.integ }

/-! ### Quarantine (R408) -/

/-- Steps in flight with a lane bound to an array. -/
def Device.faultBound (d : Device) (n : Fin 8) : Device :=
  d.faultAll fun p => !p.steps.isEmpty && (d.programArrays p).contains n

/-- ASSAY_RUN commands that wait for a run on an array that issues nothing any more end with ST_BUSY. -/
def Device.dropAssays (d : Device) (n : Fin 8) : Device :=
  let waiting := (d.integ.run.toList ++ d.integ.asked ++ d.integ.atOnce).filter fun r => r.array == n
  let d := d.updInteg fun i =>
    { i with
      run := i.run.filter fun r => r.array != n
      asked := i.asked.filter fun r => r.array != n, atOnce := i.atOnce.filter fun r => r.array != n }
  waiting.foldl (fun d r => match r.cmd with | some c => d.finish c .busy | none => d) d

/-- An array enters quarantine. -/
def Device.quarantine (d : Device) (n : Fin 8) : Device :=
  if d.integ.quarantine.getLsbD n.val then d
  else
    let d := d.updInteg fun i => { i with quarantine := i.quarantine ||| (1#8 <<< n.val) }
    ((d.dropAssays n).logEvent 0x0808 .error n.val 0 srcIntegrity).faultBound n

/-- QUARANTINE_WRITE: bits newly set quarantine their arrays at once; bits cleared release them. -/
def Device.setQuarantine (mask : BitVec 8) (d : Device) : Device :=
  let new := (Bank.indices 8).filter fun n => mask.getLsbD n.val && !d.integ.quarantine.getLsbD n.val
  new.foldl Device.quarantine (d.updInteg fun i => { i with quarantine := i.quarantine &&& mask })

def execQuarantineWrite (req : Requester) (mask : BitVec 8) (s : State) : Answer :=
  s.act fun d => d.writeBy req offInteg none (Device.setQuarantine mask)

/-! ### Failed assays (R390, R393, R407) -/

/-- An assay that found a fault. -/
def assayFailed : AssayResult → Bool
  | .pass => false
  | _ => true

/-- A failed whole-array run repairs or quarantines its array, and is logged (R407). -/
def Device.assayFail (d : Device) (n : Fin 8) (r : AssayResult) : Device :=
  match r with
  | .pass => d
  | .column c =>
    let d := d.logEvent 0x0807 .error n.val 0 srcIntegrity
    if d.arrays[n].spareLocked then d.quarantine n else d.steerTo n c.toNat
  | .notLocalised => (d.logEvent 0x0807 .error n.val 0 srcIntegrity).quarantine n

/-- One run counted in INTEG_ASSAY. -/
def Integrity.countRun (i : Integrity) (r : AssayResult) : Integrity :=
  if assayFailed r then { i with fails := bump i.fails } else { i with passes := bump i.passes }

/-- What an assay can find: nothing while no pack is held (R404). -/
def Device.found (d : Device) (r : AssayResult) : AssayResult := if d.integ.pack.isSome then r else .pass

/-! ### Twin mode (R387-R390) -/

def primaryOf (p : Fin 4) : Fin 8 := clampFin 7 (2 * p.val)
def shadowOf (p : Fin 4) : Fin 8 := clampFin 7 (2 * p.val + 1)

def Device.setPair (d : Device) (p : Fin 4) (s : TwinState) : Device :=
  d.updInteg fun i => { i with pairs := Bank.upd i.pairs p fun _ => s }

/-- The unit a pair compares next: that of the first instruction in flight on it with a unit left. -/
def Device.twinUnit (d : Device) (p : Fin 4) : Option (Fin 16 × Nat × Fin 17 × Nat) :=
  d.allLanes.findSome? fun (k, s, lane, l) =>
    if (d.laneArrays lane.val).contains (primaryOf p) then
      (l.inflight.findIdx? fun f => !f.units.isEmpty).map fun n => (k, s, lane, n)
    else none

/-- What leaves the planes of the pair in a unit. -/
def Device.unitAt (d : Device) (u : Fin 16 × Nat × Fin 17 × Nat) : TwinUnit :=
  match (d.stepOf u.1 u.2.1).bind fun st => (st.lane u.2.2.1).inflight[u.2.2.2]? with
  | some f => f.units.headD []
  | none => []

/-- The terms of a pass as an array gives them, wrong bits and all. -/
def upsetTerms (ts : List DigestTerm) (us : List Upset) : List DigestTerm :=
  us.foldl (fun ts x => ts.modify x.term fun t => { t with v := t.v ^^^ x.flip }) ts

/-- The pass digests of a unit as an array gives them (R385). -/
def passDigests (u : TwinUnit) (us : List Upset) : List Word64 :=
  u.mapIdx fun i ts => digest (upsetTerms ts (us.filter fun x => x.pass == i))

/-- A unit commits (R389). -/
def Device.commitUnit (d : Device) (u : Fin 16 × Nat × Fin 17 × Nat) : Device :=
  d.updLane u.1 u.2.1 u.2.2.1 fun l => { l with inflight := l.inflight.modify u.2.2.2 fun f => { f with units := f.units.drop 1 } }

/-- Arrays of a pair enter quarantine and the pair escalates (R390). -/
def Device.escalate (d : Device) (p : Fin 4) (ns : List (Fin 8)) : Device :=
  let d := (d.setPair p .quarantined).logEvent 0x0802 .error p.val 0 srcIntegrity
  ns.foldl Device.quarantine d

/-- TWIN_UNIT_COMPARE: every pass digest of the primary against the shadow's, each array with its wrong bits (R385, R389, R390; log
entry 134). -/
def Device.twinCompare (p : Fin 4) (primary shadow : List Upset) (d : Device) : Device :=
  if !d.integ.twin then d
  else
    let unit := (d.twinUnit p).map d.unitAt
    let equal := unit.all fun u => passDigests u primary == passDigests u shadow
    match d.twinUnit p, d.integ.pairs[p], equal with
    | none, _, _ => d
    | some u, .run, true => d.commitUnit u
    | some _, .run, false =>
      ((d.setPair p .retry).updInteg fun i => { i with twinMismatches := bump i.twinMismatches }).logEvent 0x0801 .warn p.val 0
        srcIntegrity
    | some u, .retry, true => ((d.commitUnit u).setPair p .run).updInteg fun i => { i with retryEqual := bump i.retryEqual }
    | some _, .retry, false => (d.setPair p .assay).updInteg fun i => { i with escalations := bump i.escalations }
    | some u, .retry2, true => (d.commitUnit u).setPair p .run
    | some _, .retry2, false => d.escalate p [primaryOf p, shadowOf p]
    | some _, .assay, _ => d
    | some _, .quarantined, _ => d

def execTwinUnitCompare (pair : Fin 4) (primary shadow : List Upset) (s : State) : Answer :=
  s.act (Device.twinCompare pair primary shadow)

/-- The array and column of an assay of a pair that a repair resolves: exactly one array fails, in one column, and its spare is
not locked. -/
def Device.repairable (d : Device) (p : Fin 4) (a b : AssayResult) : Option (Fin 8 × Nat) :=
  match a, b with
  | .column c, .pass => if d.arrays[primaryOf p].spareLocked then none else some (primaryOf p, c.toNat)
  | .pass, .column c => if d.arrays[shadowOf p].spareLocked then none else some (shadowOf p, c.toNat)
  | _, _ => none

/-- The arrays that an assay of a pair quarantines: those that failed, or both. -/
def badArrays (p : Fin 4) (a b : AssayResult) : List (Fin 8) :=
  let bad := (if assayFailed a then [primaryOf p] else []) ++ (if assayFailed b then [shadowOf p] else [])
  if bad.isEmpty then [primaryOf p, shadowOf p] else bad

/-- ASSAY_COMPLETE (R390). -/
def Device.pairAssayed (p : Fin 4) (x y : AssayResult) (d : Device) : Device :=
  if d.integ.pairs[p] ≠ .assay then d
  else
    let a := d.found x
    let b := d.found y
    let d := if d.integ.pack.isSome then d.updInteg fun i => (i.countRun a).countRun b else d
    match d.repairable p a b with
    | some (n, c) => (d.steerTo n c).setPair p .retry2
    | none => d.escalate p (badArrays p a b)

def execAssayComplete (pair : Fin 4) (primary shadow : AssayResult) (s : State) : Answer :=
  s.act (Device.pairAssayed pair primary shadow)

/-- A T0 extent lies on an odd-numbered array. -/
def Device.oddT0 (d : Device) : Bool :=
  d.mem.objects.any fun o => o.places.any fun p => match p.1 with | .t0 n => n.val % 2 == 1 | _ => false

/-- The conditions of R387. -/
def Device.twinFree (d : Device) (enter : Bool) : Bool :=
  !(d.programs.any fun x => x.2.state == .running) && d.adm.promises.isEmpty
    && (!enter || (d.integ.quarantine == 0 && !d.oddT0))

def Device.twinSet (h : CmdHdr) (en : BitVec 8) (d : Device) : Device :=
  d.adminCommand 0x0801 h fun c d =>
    if 1 < en.toNat then d.finish c .badParam
    else if !d.twinFree (en == 1) then d.finish c .busy
    else (d.updInteg fun i => { i with twin := en == 1, pairs := Vector.replicate 4 .run }).ok c

def execTwinSet (h : CmdHdr) (enable : BitVec 8) (s : State) : Answer := s.act (Device.twinSet h enable)

/-! ### Spot replay (R391-R393) -/

/-- The replayed product has left the plane of its source. -/
def Device.replayDone (d : Device) (r : Replayed) : Bool :=
  match asFin 16 r.slot, asFin 17 r.lane with
  | some k, some lane =>
    !((d.stepOf k r.step).any fun st => (st.lane lane).inflight.any fun f => f.word == r.word && f.mb == r.mb && !f.block)
  | _, _ => true

/-- A replay that differed: the assays of both arrays decide (R393). -/
def Device.replayDiffers (d : Device) (r : Replayed) (x y : AssayResult) : Device :=
  let i := r.array
  let q : Fin 8 := clampFin 7 (i.val ^^^ 1)
  let a := d.found x
  let b := d.found y
  let d := d.logEvent 0x0803 .warn i.val 0 srcIntegrity
  let d := d.updInteg fun t => { t with replayMismatches := bump t.replayMismatches }
  let d := if d.integ.pack.isSome then d.updInteg fun t => (t.countRun a).countRun b else d
  let d := (d.assayFail i a).assayFail q b
  if assayFailed b && !assayFailed a then d
  else
    let d := d.logEvent 0x0804 .error i.val (if assayFailed a then 0 else evData [(1, i.val), (1, q.val)]) srcIntegrity
    let d := d.updInteg fun t => { t with sourceFaults := bump t.sourceFaults }
    match asFin 16 r.slot with
    | some k => if (d.stepOf k r.step).isSome then d.failStep k r.step .faulted else d
    | none => d

/-- REPLAY_COMPARE: the `n`-th product replayed and not yet compared; its two result digests, each array with its wrong bits, decide.
`beyond` is how many ticks the comparison, with the assays that it leads to, has taken beyond what the cycle table charges; they count toward
INTEGRITY_RETRY for the promises that name one of the arrays (R341, R386, R393; log entry 164). -/
def Device.replayCompare (n : Nat) (source replay : List Upset) (x y : AssayResult) (beyond : Nat) (d : Device) : Device :=
  match d.integ.replays[n]? with
  | none => d
  | some r =>
    if !d.replayDone r then d
    else
      let d := d.updInteg fun t => { t with replays := t.replays.eraseIdx n, replayed := bump t.replayed }
      let d := d.addDelay .integrityRetry beyond fun p => p.names r.array.val || p.names (r.array.val ^^^ 1)
      if digest (upsetTerms r.terms source) = digest (upsetTerms r.terms replay) then d else d.replayDiffers r x y

def execReplayCompare (n : Nat) (source replay : List Upset) (sourceAssay replayAssay : AssayResult) (beyond : Word32) (s : State) :
    Answer := s.act (Device.replayCompare n source replay sourceAssay replayAssay beyond.toNat)

/-- A program-slot command that needs the program not RUNNING (R411). -/
def Device.slotSetting (d : Device) (c : OpenCmd) (prog : BitVec 8) (f : Program → Program) : Device :=
  match d.slotFault prog c.hdr.account with
  | some st => d.finish c st
  | none =>
    if d.slotRunning prog then d.finish c .busy
    else match asFin 16 prog.toNat with
      | some k => (d.updProg k f).ok c
      | none => d.finish c .badParam

def Device.replaySet (h : CmdHdr) (prog : BitVec 8) (q : Word16) (d : Device) : Device :=
  d.command 0x0802 h fun c d =>
    if 1024 < q.toNat then d.finish c .badParam else d.slotSetting c prog fun p => { p with replayQ := q.toNat }

def execReplaySet (h : CmdHdr) (prog : BitVec 8) (interval : Word16) (s : State) : Answer := s.act (Device.replaySet h prog interval)

def Device.hallmarkSet (h : CmdHdr) (prog : BitVec 8) (k : Word16) (d : Device) : Device :=
  d.command 0x0803 h fun c d => d.slotSetting c prog fun p => { p with hallmarkK := k.toNat }

def execHallmarkSet (h : CmdHdr) (prog : BitVec 8) (k : Word16) (s : State) : Answer := s.act (Device.hallmarkSet h prog k)

/-! ### Whole-array assay (R407) -/

/-- The array whose run begins next in idle slots: one that ASSAY_RUN asked for, else, while WA_EN is set, the next in
increasing index that is not quarantined. -/
def Device.waStart (d : Device) : Option AssayRun :=
  match d.integ.asked with
  | r :: _ => some r
  | [] =>
    if d.integ.waEn then
      let order := (List.range 8).map fun i => clampFin 7 ((d.integ.waNext.val + i) % 8)
      (order.find? fun n => !d.integ.quarantine.getLsbD n.val).map fun n => { array := n }
    else none

/-- A lane with a released slot on an array is not waiting: its next instruction may issue. -/
def Device.slotRuns (d : Device) (n : Fin 8) : Bool :=
  d.allLanes.any fun (_, _, lane, l) => l.active && l.wait == .none && (d.laneArrays lane.val).contains n

/-- The array has an idle slot: no released slot on it, every lane there waiting with nothing in flight, or ballast (R407; log entry
100). -/
def Device.idleSlot (d : Device) (n : Fin 8) : Bool :=
  ((!d.arrayBusy n && !d.slotRuns n) || d.bel.ballastActive) && !d.arrays[n].faulted

/-- The result of ASSAY_RUN (R410). -/
def assayWord (r : AssayResult) (segments : Nat) : Nat :=
  (match r with | .pass => 0 | .column c => 1 + 256 * c.toNat | .notLocalised => 2) + 2 ^ 32 * (segments % 2 ^ 32)

/-- A run ends with what it found; the command that asked for it is answered. -/
def Device.endRun (d : Device) (r : AssayRun) (res : AssayResult) : Device :=
  let d := d.updInteg fun i =>
    { i.countRun res with
      run := i.run.filter fun x => x.array != r.array, atOnce := i.atOnce.filter fun x => x.array != r.array
      waNext := if r.cmd.isNone then r.array + 1 else i.waNext }
  let d := match r.cmd with | some c => d.ok c (assayWord res r.segments) | none => d
  d.assayFail r.array res

/-- A segment of a run: it goes on, or the run ends with it. -/
def Device.segment (d : Device) (r : AssayRun) (finished : Option AssayResult) (put : Integrity → AssayRun → Integrity) : Device :=
  let r := { r with segments := r.segments + 1, active := true }
  match finished with
  | none => d.updInteg fun i => put i r
  | some res => d.endRun r res

/-- WA_SEGMENT_RUN: a segment of a run of an array, of one at once first, else in an idle slot. -/
def Device.waSegment (n : Fin 8) (finished : Option AssayResult) (d : Device) : Device :=
  if d.integ.pack.isNone then d
  else match d.integ.atOnce.find? fun r => r.array == n with
    | some r => d.segment r finished fun i r => { i with atOnce := updFirst (fun x => x.array == n) (fun _ => r) i.atOnce }
    | none =>
      if !d.idleSlot n then d
      else match d.integ.run with
        | some r =>
          if r.array = n && (d.integ.waEn || r.cmd.isSome) then d.segment r finished fun i r => { i with run := some r } else d
        | none =>
          match d.waStart with
          | some r =>
            if r.array = n then
              (d.updInteg fun i => { i with run := some r, asked := if r.cmd.isSome then i.asked.drop 1 else i.asked }).segment r
                finished fun i r => { i with run := some r }
            else d
          | none => d

def execWaSegmentRun (array : Fin 8) (finished : Option AssayResult) (s : State) : Answer :=
  s.act (Device.waSegment array finished)

/-- WA_SEGMENT_ABANDON: the running idle-slot segment ends unfinished; its run goes on in a later idle slot. -/
def Device.waAbandon (d : Device) : Device :=
  (d.updInteg fun i => { i with run := i.run.map fun r => { r with active := false } }).startRotations

def execWaSegmentAbandon (s : State) : Answer := s.act Device.waAbandon

/-- An assay runs on some array. -/
def Integrity.running (i : Integrity) : Bool :=
  i.run.isSome || !i.atOnce.isEmpty || (Bank.indices 4).any fun p => i.pairs[p] == .assay

def Device.assayRun (h : CmdHdr) (array mode : BitVec 8) (d : Device) : Device :=
  d.command 0x0805 h fun c d =>
    match asFin 8 array.toNat with
    | none => d.finish c .badParam
    | some n =>
      let r : AssayRun := { array := n, cmd := some c }
      if 1 < mode.toNat ∨ d.integ.pack.isNone then d.finish c .badParam
      else if d.integ.quarantine.getLsbD n.val ∨ (mode = 1 ∧ !d.arrays[n].quiesced) then d.finish c .busy
      else if mode = 1 then d.updInteg fun i => { i with atOnce := i.atOnce ++ [r] }
      else d.updInteg fun i => { i with asked := i.asked ++ [r] }

def execAssayRun (h : CmdHdr) (array mode : BitVec 8) (s : State) : Answer := s.act (Device.assayRun h array mode)

/-! ### Assay packs (R404) -/

/-- Bytes around a pack's body: its head and the two signatures. -/
def packFrame : Nat := 64 + sigBytes
def maxPack : Nat := 16777216

/-- Check 2: the head of a pack (R404). -/
def packHeadOk (bs : List Byte) : Bool :=
  fieldAt bs 0 4 == 0x5A384150 && fieldAt bs 4 4 == 8
    && (Bank.indices 8).all (fun n => (BitVec.ofNat 32 (fieldAt bs 12 4)).getLsbD (Config.arrayStepping n).toNat)
    && decide (fieldAt bs 24 4 ≤ 20000000) && decide (fieldAt bs 8 4 ≤ 64) && fieldAt bs 28 4 % 8 == 0
    && ((bs.drop 32).take 32).all (· == 0)

/-- The first of *Assay pack checks* that a pack fails (R404). -/
def Device.packFault (d : Device) (bs : List Byte) : Option Status :=
  let n := fieldAt bs 28 4
  let body := bs.take (64 + n)
  if bs.length ≠ n + packFrame ∨ maxPack < bs.length then some .badParam
  else if !packHeadOk bs then some .badParam
  else if fieldAt bs 8 4 < d.seed.svn then some .authFail
  else if !Config.verifyFirst body ((bs.drop (64 + n)).take 384) then some .authFail
  else if !Config.verifySecond body ((bs.drop (64 + n + 384)).take 16224) then some .authFail
  else if d.integ.pack.any fun p => p.id.toNat == fieldAt bs 16 4 && decide (fieldAt bs 20 4 < p.version.toNat) then some .badParam
  else none

/-- The bytes of an ASSAY_LOAD have arrived. -/
def Device.holdPack (d : Device) (c : OpenCmd) (bs : List Byte) : Device :=
  if d.integ.running then d.finish c .busy
  else match d.packFault bs with
    | some st => d.finish c st
    | none =>
      let p : AssayPack :=
        { id := BitVec.ofNat 32 (fieldAt bs 16 4), version := BitVec.ofNat 32 (fieldAt bs 20 4)
          svn := BitVec.ofNat 32 (fieldAt bs 8 4), waTicks := fieldAt bs 24 4, bytes := bs }
      ((d.updInteg fun i => { i with pack := some p }).logEvent 0x080B .info 0 0 srcIntegrity).ok c (p.id.toNat + 2 ^ 32 * p.version.toNat)

def Device.assayLoad (h : CmdHdr) (addr : Word64) (len : Word32) (d : Device) : Device :=
  d.adminCommand 0x0804 h fun c d =>
    if len.toNat % 8 ≠ 0 ∨ maxPack < len.toNat ∨ len.toNat < packFrame then d.finish c .badParam
    else if d.integ.running then d.finish c .busy
    else if !d.linkUp h.port then (d.dmaFailed h.port c).finish c .aborted
    else d.dmaIssue h.port addr len.toNat .assay c

def execAssayLoad (h : CmdHdr) (hostAddr : Word64) (length : Word32) (s : State) : Answer := s.act (Device.assayLoad h hostAddr length)

/-! ### Repair records and the query (R409, R410) -/

def Device.repairCommit (h : CmdHdr) (array col : BitVec 8) (d : Device) : Device :=
  d.adminCommand 0x0806 h fun c d =>
    match asFin 8 array.toNat with
    | none => d.finish c .badParam
    | some n =>
      if 100 < col.toNat ∧ col ≠ 0x7F then d.finish c .badParam else d.seedCommand c (.repair n (col.extractLsb' 0 7))

def execRepairCommit (h : CmdHdr) (array column : BitVec 8) (s : State) : Answer := s.act (Device.repairCommit h array column)

def Device.integWord (d : Device) (n : Fin 8) (q k : Nat) : Nat :=
  let a := d.arrays[n]
  (if d.integ.twin then 1 else 0) + (if d.integ.quarantine.getLsbD n.val then 2 else 0) + (if a.spareLocked then 4 else 0)
    + 2 ^ 3 * a.spareCol.toNat + 2 ^ 10 * d.seed.repairs[n].length + 2 ^ 16 * q + 2 ^ 32 * k
    + 2 ^ 48 * min d.integ.twinMismatches.toNat 65535

def Device.integQuery (h : CmdHdr) (array prog : BitVec 8) (d : Device) : Device :=
  d.command 0x0807 h fun c d =>
    match asFin 8 array.toNat with
    | none => d.finish c .badParam
    | some n =>
      if prog = 0xFF then d.ok c (d.integWord n 0 0)
      else match d.slotFault prog h.account with
        | some st => d.finish c st
        | none =>
          match (asFin 16 prog.toNat).bind fun k => d.progs[k] with
          | some p => d.ok c (d.integWord n p.replayQ p.hallmarkK)
          | none => d.finish c .badParam

def execIntegQuery (h : CmdHdr) (array prog : BitVec 8) (s : State) : Answer := s.act (Device.integQuery h array prog)

/-! ### Register writes (R412, R413) -/

/-- COUNT_CLR of INTEG_CTRL. -/
def Integrity.clearCounts (i : Integrity) : Integrity :=
  { i with
    twinMismatches := 0, retryEqual := 0, escalations := 0, replayed := 0, replayMismatches := 0, sourceFaults := 0
    passes := 0, fails := 0 }

def execIntegCountClr (req : Requester) (s : State) : Answer :=
  s.act fun d => d.writeBy req offInteg none fun d => d.updInteg Integrity.clearCounts

/-- Ticks of one swap: 9,808 array-clock cycles (R111). -/
def swapTicks : Nat := 3270

/-- A new rotation period: PROMISED commands whose windows now hold more swaps are delayed by them (R413). -/
def Device.setRotPeriod (v : Word32) (d : Device) : Device :=
  let n := d.updInteg fun i => { i with rotPeriod := v.extractLsb' 0 20 }
  let now := d.tb.now.toNat
  let extra (p : Promise) : Nat := n.swapsIn p.resources now (p.tick - now) - d.swapsIn p.resources now (p.tick - now)
  let delay (p : Promise) : Promise := { p with delays := Bank.upd p.delays DelayCause.hostQuiesce.index (· + extra p * swapTicks) }
  { n with adm := { n.adm with promises := n.adm.promises.map delay } }

def execRotPeriodWrite (req : Requester) (value : Word32) (s : State) : Answer :=
  s.act fun d => d.writeBy req (offInteg + 0x10) none (Device.setRotPeriod value)

end Sys2Proof.Machine
end

