-- ==== Sys2Proof/Machine/Verdict.lean ====
section
/-! DEFINITION. Hallmark reports and verdicts (R398-R400). -/

namespace Sys2Proof.Machine

/-- A verdict as HALLMARK_VERDICT_RECEIVE carries it. -/
def verdictAgreed : BitVec 2 := 0
def verdictExpelled : BitVec 2 := 1
def verdictHold : BitVec 2 := 2
/-- A hold for a member whose own group agrees: it enters HOLD as the others do, and logs no mismatch. -/
def verdictJobHold : BitVec 2 := 3

/-- HALLMARK_MISMATCH. -/
def Device.logMismatch (d : Device) (v : Nat) : Device := d.logEvent 0x0805 .error 0 (evData [(4, v)]) srcIntegrity

/-- A verdict reaches this member (R399, R400): "agreed", expelled, or a hold of the whole job. -/
def Device.takeVerdict (d : Device) (v : Nat) (x : BitVec 2) : Device :=
  if d.fab.job = .none ∨ d.fab.job = .hold then d
  else
    let d := match d.jobProgram with
      | some (k, _) => d.updProg k fun p => { p with verdicts := (v, x.toNat) :: p.verdicts.filter fun y => y.1 != v }
      | none => d
    let d := if d.integ.hmVersion.toNat = v then { d with integ := { d.integ with hmAgreed := x == verdictAgreed } } else d
    if x = verdictExpelled then ((d.logMismatch v).haltAll .expelled).loseRank d.fab.rank.toNat d.fab.rank.toNat
    else if x = verdictHold ∨ x = verdictJobHold then
      let had := d.programs.any fun p => !p.2.steps.isEmpty
      let d := (if x = verdictHold then d.logMismatch v else d).haltAll .faulted
      if had then d.memberFault else d.enterHold d.fab.rank.toNat
    else d

def verdictFields (v : Nat) (x : BitVec 2) : List Byte := bytesOf 4 v ++ bytesOf 1 x.toNat

/-- A verdict sent to ranks, and taken here when this device is one of them. -/
def Device.giveVerdict (d : Device) (v : Nat) (x : BitVec 2) (rs : List Nat) : Device :=
  let me := d.fab.rank.toNat
  let d := d.sendRecords (rs.filter (· != me)) .verdict (verdictFields v x)
  if rs.contains me then d.takeVerdict v x else d

/-- K as the top manager has it. -/
def Device.managerK (d : Device) : Nat := (d.jobProgram.map fun x => x.2.hallmarkK).getD 8

/-- The top manager decides for a group once it holds every member's report of a version (R399). -/
def Device.decideHallmark (d : Device) (g v : Nat) : Device :=
  let members := d.fab.groupRanks g
  let rs := members.filterMap fun r => d.integ.reports.find? fun x => x.group == g && x.version == v && x.rank.toNat == r
  if rs.length ≠ members.length then d
  else
    let d := { d with integ := { d.integ with reports := d.integ.reports.filter fun x => !(x.group == g && x.version == v) } }
    let value (x : HallmarkReport) : Option (BitVec 128) := if x.k = d.managerK then some x.value else none
    let holders (x : HallmarkReport) : List HallmarkReport := rs.filter fun y => (value y).isSome && value y == value x
    match rs.find? fun x => decide (members.length < 2 * (holders x).length) with
    | some x =>
      let good := (holders x).map fun y => y.rank.toNat
      let bad := members.filter fun r => !good.contains r
      if bad.isEmpty then d.giveVerdict v verdictAgreed members
      else
        let d := if bad.contains d.fab.rank.toNat then d else d.logMismatch v
        (d.giveVerdict v verdictAgreed good).giveVerdict v verdictExpelled bad
    | none =>
      let others := (List.range d.fab.table.length).filter fun r => !members.contains r
      let d := if members.contains d.fab.rank.toNat then d else d.logMismatch v
      (d.giveVerdict v verdictHold members).giveVerdict v verdictJobHold others

/-- A report reaches a manager: the domain manager relays it, the top manager keeps it. -/
def Device.hallmarkArrives (d : Device) (r : HallmarkReport) : Device :=
  if d.fab.isTop then
    let same (x : HallmarkReport) : Bool := x.group == r.group && x.version == r.version && x.rank == r.rank
    let d := { d with integ := { d.integ with reports := d.integ.reports.filter (fun x => !same x) ++ [r] } }
    d.decideHallmark r.group r.version
  else match d.fab.topManager with
    | some t =>
      if d.fab.isDomainManager then
        d.sendRecord t .hallmarkReport
          (bytesOf 2 r.group ++ bytesOf 2 r.rank.toNat ++ bytesOf 4 r.version ++ bytesOf 2 r.k ++ bytesOf 16 r.value.toNat)
      else d
    | none => d

/-- The program reports its hallmark of a version (R398). -/
def Program.reports (p : Program) (v : Nat) : Bool := p.hallmarkK != 0 && v % p.hallmarkK == 0 && decide (p.baseVersion + 3 ≤ v)

/-- The report of a version, in a group of more than one member. -/
def Device.reportHallmark (d : Device) (k : Fin 16) (p : Program) (v : Nat) : Device :=
  if d.fab.groupSize ≤ 1 || !d.joined || !p.reports v then d
  else
    let h := d.hallmark p
    let d := { d with integ := { d.integ with
      hallmark := h, hmVersion := BitVec.ofNat 32 v, hmAgreed := false, hmProg := BitVec.ofNat 8 k.val } }
    let r : HallmarkReport := { group := d.fab.myGroup, rank := d.fab.rank, version := v, k := p.hallmarkK, value := h }
    if d.fab.isTop || d.fab.isDomainManager then d.hallmarkArrives r
    else match d.fab.manager with
      | some m =>
        d.sendRecord m .hallmarkReport
          (bytesOf 2 r.group ++ bytesOf 2 r.rank.toNat ++ bytesOf 4 r.version ++ bytesOf 2 r.k ++ bytesOf 16 r.value.toNat)
      | none => d

def execHallmarkReportReceive (group rank : BitVec 14) (version : Word32) (k : Word16) (value : BitVec 128) (s : State) : Answer :=
  s.act fun d =>
    d.hallmarkArrives { group := group.toNat, rank := rank, version := version.toNat, k := k.toNat, value := value }

def execHallmarkVerdictReceive (version : Word32) (verdict : BitVec 2) (s : State) : Answer :=
  s.act fun d => d.takeVerdict version.toNat verdict

end Sys2Proof.Machine
end

