-- ==== Sys2Proof/Machine/Release.lean ====
section
/-! DEFINITION. Retirement: of instructions (R130, R179, R255, R256), of waits (R144, R178), and of steps (R42, R79, R143, R177,
R199). -/

namespace Sys2Proof.Machine

/-! ### What the retirement of a TATTN publishes (R255, R260, R265) -/

/-- A sequence with the entries, token ids and length that an append publishes. -/
def Space.appended (s : Space) (reprefill : Bool) (a : AppendPlan) (q : Sequence) : Sequence :=
  let q := s.setEntries q a.pages
  let toks := a.tokens.mapIdx fun i t => (a.qpos + i, t)
  let q := { q with tokens := (q.tokens.filter fun t => !(toks.any fun u => u.1 == t.1)) ++ toks }
  if a.layer + 1 = s.layers ∧ !reprefill then { q with length := max q.length (a.qpos + a.qlen) } else q

/-- One append published under an epoch. -/
def Device.publishAppend (d : Device) (sp : Fin 16) (e : Word64) (reprefill : Bool) (a : AppendPlan) : Device :=
  match d.aster.spaces[sp] with
  | some s => d.editAt sp e a.tables a.seq fun q => some (s.appended reprefill a q)
  | none => d

/-- Blocks that an append of the last layer has completed join the Trellis. -/
def Device.growTrellis (d : Device) (sp : Fin 16) (step : Fin 16 × Nat) (a : AppendPlan) : Device :=
  match d.aster.spaces[sp] with
  | some s => if a.trellis && a.layer + 1 == s.layers then d.insertBlocks sp (some step) a.seq a.qpos (a.qpos + a.qlen) else d
  | none => d

/-- A walk ends: its appends are published in one epoch. -/
def Device.endWalk (d : Device) (k : Fin 16) (st : StepState) (w : Walk) : Device :=
  let d := { d with aster := { d.aster with walks := d.aster.walks.erase w } }
  if w.appends.isEmpty then d
  else
    let e := ((d.aster.spaces[w.space]).map Space.epoch).getD 0 + 1
    let d := d.updSpace w.space fun s => { s with epoch := e }
    let d := w.appends.foldl (fun d a => d.publishAppend w.space e st.reprefill a) d
    w.appends.foldl (fun d a => d.growTrellis w.space (k, st.step) a) d

/-- The walk of an instruction in flight. -/
def Device.walkOf (d : Device) (k s lane : Nat) (f : InFlight) : Option Walk := d.aster.walks.find? fun w => w.isOf k s lane f.word f.mb

/-- Edits of a sequence apply in arrival order (R260): an append waits for an earlier walk that still appends to it, and for an edit of it
held since before. DESIGN CHOICE: not for a walk paused for a re-prefill, nor for an edit that waits for a pin or for pages, which could not
go on before it; and the append of a re-prefill waits for no edit (log entry 160). -/
def Device.appendTurn (d : Device) (w : Walk) : Bool :=
  let mine (id : Word32) : Bool := w.appends.any fun b => b.seq == id
  let before (e : HeldEdit) : Bool :=
    decide (e.arrival < w.arrival) && mine e.edit.seq && !e.room && !d.stepPinned w.space e.edit.seq
      && !((d.aster.spaces[w.space]).any fun s => s.pinHolds e.edit)
  !(d.aster.walks.any fun v =>
      v.space == w.space && decide (v.arrival < w.arrival) && v.inFlight && v.paused.isNone && v.appends.any fun a => mine a.seq)
    && (w.reprefill || !((d.aster.spaces[w.space]).any fun s => s.heldEdits.any before))

/-! ### INSTRUCTION_RETIRE (R130) -/

/-- An instruction in flight can retire. -/
def Device.canRetire (d : Device) (k : Fin 16) (s : Nat) (lane : Fin 17) (f : InFlight) : Bool :=
  !f.early && !f.gathering && f.units.isEmpty && (d.laneArrays lane.val).all d.arrayMoves
    && !((f.instr.region).any fun u => d.groupsLeft k u.handle) && (d.walkOf k.val s lane.val f).all d.appendTurn

/-- Counters of the arrays that ran an instruction (R112). -/
def Device.countPasses (d : Device) (lane : Fin 17) (f : InFlight) : Device :=
  d.onArrays lane.val fun a =>
    let a := { a with passes := satAdd a.passes f.passes, busyCycles := satAdd a.busyCycles f.busy, idle := satAdd a.idle f.idle }
    if f.instr.isOsTmm then a.drainSums else a

/-- A contribution is added to a region (R63, R99); its overflow part goes to the adders if it has not gone at issue (R170). -/
def Device.makeAddition (d : Device) (k : Fin 16) (s : Nat) (lane : Fin 17) (h : Handle) (sent : Bool) (ws : List Word32) : Device :=
  let d := match sent, d.progs[k] with
    | false, some p => d.sendOverflow k p lane.val (h, ws)
    | _, _ => d
  d.updProg k fun p => p.updRegion h fun r => r.addAll s ws

/-- Held contributions to a region whose turn has come are made. -/
def Device.makeHeld (k : Fin 16) (s : Nat) (lane : Fin 17) (h : Handle) : Nat → Device → Device
  | 0, d => d
  | fuel + 1, d =>
    match (d.progs[k]).bind fun p => p.region h with
    | none => d
    | some r =>
      match r.held.find? fun c => r.turn s c.1 with
      | none => d
      | some c =>
        let d := d.updProg k fun p => p.updRegion h fun r => { r with held := r.held.erase c }
        (d.makeAddition k s lane h false c.2).makeHeld k s lane h fuel

/-- A contribution of a micro-batch: made at its turn, held until then (R63, R169; log entry 136). -/
def Device.contribute (k : Fin 16) (s : Nat) (lane : Fin 17) (f : InFlight) (d : Device) (a : Handle × List Word32) : Device :=
  match (d.progs[k]).bind fun p => p.region a.1 with
  | none => d
  | some r =>
    if r.turn s f.mb then (d.makeAddition k s lane a.1 f.sent a.2).makeHeld k s lane a.1 r.held.length
    else d.updProg k fun p => p.updRegion a.1 fun r => { r with held := r.held ++ [(f.mb, a.2)] }

/-- What an instruction writes becomes visible. -/
def Device.commitFlight (d : Device) (k : Fin 16) (s : Nat) (lane : Fin 17) (f : InFlight) : Device :=
  let own := if lane.val < 16 then some (d.laneArray lane.val) else none
  let d := f.stores.foldl (fun d x => d.objStore x.1 x.2.1 x.2.2 own) d
  let d := d.countLive k s f.hist
  let d := f.adds.foldl (Device.contribute k s lane f) d
  let read (x : Word32 × Nat) : Word32 × Nat := if f.weights.contains x.1 then (x.1, x.2 - 1) else x
  let d := d.updStep k s fun st => { st with pendingReads := st.pendingReads.map read }
  d.countPasses lane f

/-- A lane that waited at TFENCE STREAM goes on once nothing of it is in flight. -/
def Device.wakeStream (d : Device) (k : Fin 16) (s : Nat) (lane : Fin 17) : Device :=
  match d.stepOf k s with
  | none => d
  | some st => if (st.lane lane).wait == .stream && (st.lane lane).inflight.isEmpty then d.passBy k s lane else d

def Device.retireInstr (k : Fin 16) (s : Nat) (lane : Fin 17) (n : Nat) (d : Device) : Device :=
  match d.stepOf k s with
  | none => d
  | some st =>
    match (st.lane lane).inflight[n]? with
    | none => d
    | some f =>
      if !d.canRetire k s lane f then d
      else
        let w := d.walkOf k.val s lane.val f
        let d := (d.commitFlight k s lane f).updLane k s lane fun l => { l with inflight := l.inflight.eraseIdx n }
        let d := match w with
          | some w => d.endWalk k st w
          | none => d
        (d.wakeStream k s lane).startRotations

/-- INSTRUCTION_RETIRE: the `n`-th instruction a lane has in flight. -/
def execInstructionRetire (slot : Fin 16) (step : Word32) (lane : Fin 17) (n : Nat) (s : State) : Answer :=
  s.act (Device.retireInstr slot step.toNat lane n)

/-! ### Waits that end (R144, R178) -/

/-- The instruction a lane stands at issues, if it computes. -/
def Device.issueStanding (k : Fin 16) (s : Nat) (lane : Fin 17) (c : Current) (errs : List WordError) (d : Device) : Device :=
  match c.instr.instr with
  | .tattn .. => d.tattn k s lane errs
  | .tstash .. => d.tstash k s lane errs
  | .tunstash .. => d.tunstash k s lane errs
  | .ttie _ _ | .tsig _ _ | .twait _ _ _ | .tfenceStream | .tfenceVersion _ | .tfencePmode _ | .thint _ _ _ | .tend => d
  | _ => d.dataRow k s lane errs fun _ => true

/-- VERSION_FENCE_RELEASE: the versions a lane waits for are there. -/
def Device.versionRelease (k : Fin 16) (s : Nat) (lane : Fin 17) (errs : List WordError) (d : Device) : Device :=
  d.waiting k s lane .version fun p st _ c d =>
    match c.instr.instr with
    | .tfenceVersion ha => if (descAt st.descs ha).all (d.versionOk k p s) then d.passBy k s lane else d
    | _ => if d.versionsOk k p st c then (d.setWait k s lane .none).issueStanding k s lane c errs else d

def execVersionFenceRelease (slot : Fin 16) (step : Word32) (lane : Fin 17) (errs : List WordError) (s : State) : Answer :=
  s.act (Device.versionRelease slot step.toNat lane errs)

/-- CRUCIBLE_INTERLOCK_RELEASE: the Tundish has finished reading the region a lane waits for. -/
def Device.crucibleRelease (k : Fin 16) (s : Nat) (lane : Fin 17) (errs : List WordError) (d : Device) : Device :=
  d.waiting k s lane .crucible fun p _ _ c d =>
    if p.regionHeld s c.instr.instr then d else (d.setWait k s lane .none).issueStanding k s lane c errs

def execCrucibleInterlockRelease (slot : Fin 16) (step : Word32) (lane : Fin 17) (errs : List WordError) (s : State) : Answer :=
  s.act (Device.crucibleRelease slot step.toNat lane errs)

/-! ### STEP_RETIRE (R42) -/

/-- Released tensors whose update the step produces: neither FROZEN nor under rule NONE. -/
def Program.updatedDescs (p : Program) : List Desc := p.releasedDescs.filter fun x => p.ruleOf x != .none

/-- Every weight version that the step produces stands. -/
def Program.versionsMade (p : Program) (s : Nat) : Bool := p.updatedDescs.all fun x => p.version x.tensor == s + 1

/-- The verdict the step waits for has arrived (R400). -/
def Device.verdictStands (d : Device) (p : Program) (s : Nat) : Bool :=
  s = 0 || d.fab.groupSize ≤ 1 || !p.reports (s - 1) || p.verdicts.any fun v => v.1 == s - 1

/-- Every condition of R42 holds. -/
def Device.stepDone (d : Device) (k : Fin 16) (p : Program) (st : StepState) : Bool :=
  p.state == .running && (p.inFlight.head?.map StepState.step) == some st.step
    && st.slotsDone && st.uDone && ((Bank.indices 17).all fun n => (st.lane n).inflight.isEmpty)
    && (st.buckets.all fun b => b.state == .done) && (st.units.all fun u => u.state == .done)
    && p.versionsMade st.step && (!st.refreshDue || st.refreshed)
    && !(d.integ.replays.any fun r => r.slot == k.val && r.step == st.step) && d.verdictStands p st.step

/-- WEIGHT tensors whose version advances because the step retires (R177). -/
def Program.retireVersions (p : Program) (s : Nat) : Program :=
  let made := p.updatedDescs.map Desc.tensor
  ((p.descs.filter fun x => x.cls == .weight && !x.frozen && !made.contains x.tensor).map Desc.tensor).eraseDups.foldl
    (fun p t => p.setVersion t (s + 1)) p

/-- The E_MAX entries of a report (R199). -/
def Program.reportEntries (p : Program) (live : List Hist) (change : Desc → Bool) : List Word16 :=
  p.releasedDescs.map fun x => reportEntry (change x) ((histOfTensor live x.tensor 1).bind Hist.eMax)

/-- σ of a tensor takes a new value at the step after. DESIGN CHOICE: SIGMA_CHANGE is formed from this member's own histograms, the merged
ones not being back when the report leaves (R199; log entry 140). -/
def Program.sigmaChanges (p : Program) (x : Desc) : Bool :=
  p.sigmaDue.isSome && (p.sigmaTensors.any fun y => y.tensor == x.tensor) && (p.choiceOf x).any fun c => c.2.1 != 0

/-- The scale report of a step that retires (R199, R203): to the domain manager; a device of no job forms its own table. DESIGN CHOICE:
in a job whose domain has no manager nobody takes the report (R188, R199; log entry 141). -/
def Device.reportScales (d : Device) (k : Fin 16) (p : Program) (st : StepState) : Device :=
  if p.releasedHandles.isEmpty then d
  else
    let es := p.reportEntries st.live p.sigmaChanges
    let hs := if p.sigmaDue.isSome && decide (1 < d.fab.groupSize) then
        p.accumulated.filter fun h => h.stream != 0 && p.sigmaTensors.any fun x => x.tensor == h.tensor
      else []
    if !d.joined then d.takeTable k { step := st.step + 1, entries := es.map (tableEntry 1) } []
    else if d.fab.isDomainManager then d.reportMember st.step d.fab.rank.toNat es hs
    else match d.fab.domainManager d.fab.myDomain with
      | some m => d.sendRecord m .scaleReport (scaleFields st.step d.fab.rank.toNat es hs p.windowBase) (d.stepLate k st.step)
      | none => d

/-- The program after one of its steps has retired; a region that the Tundish has not read begins the next step at zero (R63). -/
def Program.afterRetire (p : Program) (st : StepState) : Program :=
  let s := st.step
  let p := p.retireVersions s
  { p with
    nextStep := s + 1, steps := p.steps.filter fun x => x.step != s
    state := if p.steps.length ≤ 1 then .loaded else .running
    regions := p.regions.map fun r => if r.step = some s then r.clear else r
    accumulated := mergeAll p.accumulated st.live
    sigmaDue := if p.sigmaPeriod != 0 && (s + 1) % p.sigmaPeriod == 0 then some s else p.sigmaDue
    tables := p.tables.filter fun t => t.step != s
    installedTable := p.installedTable.filter fun t => t.step != s
    lastRetired := some (s, (st.buckets.filter fun b => b.state == .done).length, st.b8Sat) }

def Device.stepRetire (k : Fin 16) (s : Nat) (d : Device) : Device :=
  match d.progs[k] with
  | none => d
  | some p =>
    match p.stepAt s with
    | none => d
    | some st =>
      if !d.stepDone k p st then d
      else
        let d := d.zeroOverflow p (p.regions.filter fun r => r.step == some s)
        let d := (d.updProg k fun p => p.afterRetire st).unpinKv k.val s
        let d := d.storePyro k
        let d := match d.progs[k] with
          | some p => (d.reportScales k p st).reportHallmark k p (s + 1)
          | none => d
        let d := if st.reprefill then { d with aster := { d.aster with reprefills := bump d.aster.reprefills } } else d
        d.endStep st .ok s

/-- STEP_RETIRE. -/
def execStepRetire (slot : Fin 16) (step : Word32) (s : State) : Answer := s.act (Device.stepRetire slot step.toNat)

end Sys2Proof.Machine
end

