-- ==== Sys2Proof/Machine/Links.lean ====
section
/-! DEFINITION. Octing links and messages: LINK_ACK_RECEIVE to OCT_PORT_UP, ACK_RECEIVE, E2E_TIMEOUT and PFC_FRAME_RECEIVE (R354, R358,
R361-R365). -/

namespace Sys2Proof.Machine

/-! ### Link-level retry (R362) -/

/-- A link sequence number comes before another, within half the number circle. -/
def lsnBefore (a b : Word16) : Bool := a != b && decide ((b - a).toNat < 32768)

/-- Frames up to an acknowledged LSN leave the replay buffer. -/
def OctPort.release (q : OctPort) (now : Tick) (acked : Word16) : OctPort :=
  let left := q.replay.filter fun f => lsnBefore acked f.frame.lsn
  if left.length = q.replay.length then q else { q with replay := left, progress := now }

/-- A link-level frame: it carries the port's next LSN without using it up, and enters no replay buffer. LINK_ACKED says what has arrived
in order, so a LINK_NAK names the LSN after it; the RETRANSMIT bit marks a LINK_NAK of type resync (log entry 17). -/
def Device.emitLink (d : Device) (p : Fin 8) (type : FrameType) (resync : Bool) : Device :=
  let q := d.fab.ports[p]
  d.emit (.frame p
    { type := type, srcMac := q.mac, vlan := q.vlan, ethertype := q.ethertype, pcp := q.ctrlPcp, retransmit := resync
      src := d.fab.rank, dst := d.fab.rank, lsn := q.txLsn, linkAcked := q.rxLsn - 1, jobTag := d.fab.jobTag })

/-- The frames of a replay buffer sent again from an LSN, with what has arrived by now, and the replay counted. -/
def Device.replayFrom (d : Device) (p : Fin 8) (lsn : Word16) : Device :=
  let q := d.fab.ports[p]
  let fs := q.replay.filter fun f => !lsnBefore f.frame.lsn lsn
  if fs.isEmpty then d
  else
    let d := d.updOct p fun q => { q with replays := bump q.replays, progress := d.tb.now }
    fs.foldl (fun d f => d.emit (.frame p { f.frame with linkAcked := q.rxLsn - 1 })) d

/-- LINK_ACK_RECEIVE. -/
def Device.linkAck (p : Fin 8) (acked : Word16) (d : Device) : Device :=
  if (d.fab.ports[p]).mode = .direct then d.updOct p fun q => q.release d.tb.now acked else d

def execLinkAckReceive (port : Fin 8) (acked : Word16) (s : State) : Answer := s.act (Device.linkAck port acked)

/-- LINK_NAK_RECEIVE: frames before the named LSN have arrived; those from it on are sent again. A resync starts the count of frames
to receive over. -/
def Device.linkNak (p : Fin 8) (lsn : Word16) (resync : Bool) (d : Device) : Device :=
  if (d.fab.ports[p]).mode ≠ .direct then d
  else if resync then d.updOct p fun q => { q with rxLsn := 0 }
  else (d.updOct p fun q => q.release d.tb.now (lsn - 1)).replayFrom p lsn

def execLinkNakReceive (port : Fin 8) (lsn : Word16) (resync : Bool) (s : State) : Answer := s.act (Device.linkNak port lsn resync)

/-- LINK_ACK_TIMER: frames have arrived since the last LINK_ACK. -/
def Device.linkAckTimer (p : Fin 8) (d : Device) : Device :=
  let q := d.fab.ports[p]
  if q.mode = .direct ∧ q.ackDue then (d.updOct p fun q => { q with ackDue := false }).emitLink p .linkAck false else d

def execLinkAckTimer (port : Fin 8) (s : State) : Answer := s.act (Device.linkAckTimer port)

/-- LINK_REPLAY_TIMER: 1,000 ticks without progress, and a replay from the oldest unacknowledged frame. -/
def Device.linkReplayTimer (p : Fin 8) (d : Device) : Device :=
  match (d.fab.ports[p]).replay with
  | f :: _ =>
    if (d.fab.ports[p]).mode = .direct ∧ 1000 ≤ d.ticksSince (d.fab.ports[p]).progress then d.replayFrom p f.frame.lsn else d
  | [] => d

def execLinkReplayTimer (port : Fin 8) (s : State) : Answer := s.act (Device.linkReplayTimer port)

/-- LINK_ABANDON_TIMER: 8,000 ticks after its first transmission the oldest frame and every later one are abandoned; LSN starts over. -/
def Device.linkAbandon (p : Fin 8) (d : Device) : Device :=
  let q := d.fab.ports[p]
  if q.mode = .direct ∧ (q.replay.head?.any fun f => decide (8000 ≤ d.ticksSince f.firstSent)) = true then
    let d := d.updOct p fun q => { q with abandoned := satAdd q.abandoned q.replay.length, replay := [], txLsn := 0 }
    (d.emitLink p .linkNak true).logEvent 0x0702 .info p.val 0 (srcOct p.val)
  else d

def execLinkAbandonTimer (port : Fin 8) (s : State) : Answer := s.act (Device.linkAbandon port)

/-! ### Ports (R358, R365, R354) -/

/-- OCT_PORT_DOWN: the port retrains, and what waits on it takes the alternate route. -/
def Device.octDown (p : Fin 8) (d : Device) : Device :=
  if (d.fab.ports[p]).aligned then
    let d := d.updOct p fun q => { q with aligned := false, retrains := bump q.retrains }
    ((d.logEvent 0x0701 .warn p.val 0 (srcOct p.val)).emit (.octRetrain p)).flushPort p
  else d

def execOctPortDown (port : Fin 8) (s : State) : Answer := s.act (Device.octDown port)

/-- OCT_PORT_UP: all lanes are locked; frames that waited for a port leave. -/
def Device.octUp (p : Fin 8) (d : Device) : Device :=
  if (d.fab.ports[p]).mode = .off then d else (d.updOct p fun q => { q with aligned := true }).flushAll

def execOctPortUp (port : Fin 8) (s : State) : Answer := s.act (Device.octUp port)

/-- PFC_FRAME_RECEIVE: a class is paused, or resumes and what waited leaves. -/
def Device.pfc (p : Fin 8) (ctrl pause : Bool) (d : Device) : Device :=
  if (d.fab.ports[p]).mode ≠ .switched then d
  else
    let d := d.updOct p fun q => if ctrl then { q with pausedCtrl := pause } else { q with pausedData := pause }
    if pause then d else d.flushPort p

def execPfcFrameReceive (port : Fin 8) (ctrl pause : Bool) (s : State) : Answer := s.act (Device.pfc port ctrl pause)

/-! ### Acknowledged messages (R361, R363) -/

/-- The multicasts a message belongs to go on. -/
def Device.pumpFor (d : Device) (kind : MsgKind) : Device :=
  (d.fab.mcasts.filter fun m => (m.offsetOf kind).isSome).foldl Device.mcastPump d

/-- ACK_RECEIVE: the source's grant is noted, and the message's timer ends; a second ACK finds no message (R361, R363). What waited for
a window may leave. -/
def Device.ackReceive (src : BitVec 14) (id : BitVec 48) (credit : Nat) (d : Device) : Device :=
  let d := d.updFab fun f => f.updPeer src fun p => { p with credit := some credit }
  match d.fab.out.find? fun m => m.dst == src && m.msgId == id && m.tries != 0 with
  | none => d.sendWaiting
  | some m =>
    let d := d.updFab fun f => { f with out := f.out.filter fun x => !(x.dst == src && x.msgId == id) }
    let d := match m.kind with
      | .hop k s b =>
        (match asFin 16 k with
        | some k => (d.updStep k s (updBucket b fun x => { x with unacked := x.unacked - 1 })).bucketCheck k s b
        | none => d)
      | .mcast _ _ _ _ => d.pumpFor m.kind
      | _ => d
    d.sendWaiting

def execAckReceive (src : BitVec 14) (msgId : BitVec 48) (credit : Word32) (s : State) : Answer :=
  s.act (Device.ackReceive src msgId credit.toNat)

/-- E2E_TIMEOUT: E2E_US after its latest transmission the message is sent again, or after MAX_TRIES its destination is lost (R363,
R370). -/
def Device.e2eTimeout (dst : BitVec 14) (id : BitVec 48) (d : Device) : Device :=
  match d.fab.out.find? fun m => m.dst == dst && m.msgId == id && m.tries != 0 with
  | none => d
  | some m =>
    if d.ticksSince m.lastSent < 1000 * d.fab.e2eUs then d
    else if m.tries < d.fab.maxTries then
      let m' := { m with tries := m.tries + 1, lastSent := d.tb.now }
      let d := d.updFab fun f =>
        { f with out := updFirst (fun x => x.dst == dst && x.msgId == id) (fun _ => m') f.out, retransmits := bump f.retransmits }
      (d.logEvent 0x0703 .info 0 0 srcJob).sendFrames m'
    else
      (d.updFab fun f => { f with out := f.out.filter fun x => !(x.dst == dst && x.msgId == id) }).loseRank dst.toNat
        d.fab.rank.toNat

def execE2eTimeout (dst : BitVec 14) (msgId : BitVec 48) (s : State) : Answer := s.act (Device.e2eTimeout dst msgId)

end Sys2Proof.Machine
end

