-- ==== Sys2Proof/Machine/Job.lean ====
section
/-! DEFINITION. The job hierarchy: HEARTBEAT_TIMER to PULL_RECEIVE (R366-R375, R379, R380). -/

namespace Sys2Proof.Machine

/-! ### Heartbeats and job time (R367-R372) -/

/-- The state code of OCT_JOB and of heartbeats. -/
def JobState.code : JobState → Nat
  | .none => 0
  | .joining => 1
  | .active => 2
  | .hold => 3
  | .resuming => 4

/-- The oldest step in flight, 0xFFFF_FFFF when there is none. -/
def Device.oldestStep (d : Device) : Nat :=
  (d.programs.filterMap fun x => x.2.inFlight.head?.map StepState.step).foldl min (2 ^ 32 - 1)

/-- The fields of a heartbeat to a rank: this device's rank, state and oldest step, and the times of R368: its own job time as t1 to its
manager; to a rank it manages, the t1 of that rank's latest heartbeat, its receipt t2, and its own job time as t3. 64 bytes, 2 codewords
(R357). -/
def Device.heartbeatBytes (d : Device) (dst : Nat) : List Byte :=
  let now := d.jobTime.toNat
  let q := d.fab.peer (BitVec.ofNat 14 dst)
  let manages := d.fab.supervised.contains dst
  let bs := bytesOf 2 d.fab.rank.toNat ++ bytesOf 1 d.fab.job.code ++ bytesOf 4 d.oldestStep
    ++ bytesOf 8 (if manages then q.stampT1.toNat else now) ++ bytesOf 8 (if manages then q.stampT2.toNat else 0)
    ++ bytesOf 8 (if manages then now else 0)
  bs ++ List.replicate (64 - bs.length) 0

/-- A heartbeat leaves for a rank. -/
def Device.sendHeartbeat (d : Device) (dst : Nat) : Device :=
  let bs := d.heartbeatBytes dst
  d.sendFrame true
    { type := .heartbeat, src := d.fab.rank, dst := BitVec.ofNat 14 dst, msgLength := BitVec.ofNat 32 bs.length
      firstSent := d.jobTime.extractLsb' 0 48, jobTag := d.fab.jobTag, payload := (padCodewords bs).flatMap ingotEncode }

/-- The ranks a member's heartbeats go to (R369): its manager, and those it manages. -/
def Fabric.beatTargets (f : Fabric) : List Nat := (f.supervised ++ f.manager.toList).eraseDups

/-- HEARTBEAT_TIMER. -/
def Device.heartbeatTimer (d : Device) : Device :=
  if d.joined then d.fab.beatTargets.foldl (fun d r => d.sendHeartbeat r) d else d

def execHeartbeatTimer (s : State) : Answer := s.act Device.heartbeatTimer

/-- θ and the path delay of an exchange (R368), θ rounded toward zero. -/
def theta (t1 t2 t3 t4 : Word64) : Int := (((t2 - t1).toInt) - ((t4 - t3).toInt)).tdiv 2
def pathDelay (t1 t2 t3 t4 : Word64) : Int := (((t2 - t1).toInt) + ((t4 - t3).toInt)).tdiv 2

/-- |θ| beyond 20 ticks on 16 consecutive exchanges (R368). -/
def Device.noteRange (d : Device) (th : Int) : Device :=
  if th.natAbs ≤ 20 then d.updFab fun f => { f with outOfRange := 0 }
  else if d.fab.outOfRange + 1 < 16 then d.updFab fun f => { f with outOfRange := f.outOfRange + 1 }
  else (d.updFab fun f => { f with outOfRange := 0 }).logEvent 0x0708 .warn 0 0 srcJob

/-- A time exchange with the manager: the first after joining sets JOB_OFFSET, whatever the job's state, every later one corrects TB_NOW
(R367, R368). -/
def Device.exchange (d : Device) (t1 t2 t3 : Word64) : Device :=
  let t4 := d.jobTime
  let th := theta t1 t2 t3 t4
  let d := d.updFab fun f => { f with theta := BitVec.ofInt 32 th, delay := BitVec.ofInt 32 (pathDelay t1 t2 t3 t4) }
  if !d.fab.offsetSet then
    d.updFab fun f =>
      { f with jobOffset := f.jobOffset + BitVec.ofInt 64 th, offsetSet := true, job := if f.job = .joining then .active else f.job }
  else (d.setCorr (BitVec.ofInt 32 th)).noteRange th

/-- What a heartbeat of a rank that is not lost tells: it lives, whether it is joining, and when it was sent and came. -/
def Fabric.hear (f : Fabric) (src : BitVec 14) (joining : Bool) (now : Tick) (t1 at' : Word64) : Fabric :=
  f.updPeer src fun p => { p with lastHeartbeat := some now, lost := false, joining := joining, stampT1 := t1, stampT2 := at' }

/-- The first heartbeat that a top manager hears of a domain manager says HOLD: it has joined for a rank that the job holds as lost (R373;
log entry 167). -/
def Fabric.joinedIntoHold (f : Fabric) (src : BitVec 14) (state : JobState) : Bool :=
  f.isTop && f.job == .active && state == .hold && (f.peer src).lastHeartbeat.isNone

/-- HEARTBEAT_RECEIVE: of a lost rank only one that joins again is heard (R370); the manager's carries the times of an exchange
once it has heard this member, and its HOLD is followed (R372, R373). -/
def Device.heartbeatReceive (src : BitVec 14) (state : JobState) (t1 t2 t3 : Word64) (d : Device) : Device :=
  if !d.joined then d
  else if (d.fab.peer src).lost && state != .joining then d
  else
    let held := d.fab.joinedIntoHold src state
    let d := d.updFab fun f => f.hear src (state == .joining) d.tb.now t1 d.jobTime
    if held then d.enterHold d.fab.rank.toNat
    else if d.fab.manager ≠ some src.toNat then d
    else
      let d := d.updFab fun f => { f with lastManagerBeat := d.tb.now }
      let d := if t2 = 0 then d else d.exchange t1 t2 t3
      if state = .hold ∧ d.fab.job = .active then d.enterHold src.toNat else d

/-- The oldest step in flight that a heartbeat carries is recorded nowhere. -/
def execHeartbeatReceive (src : BitVec 14) (state : JobState) (_oldest : Word32) (t1 t2 t3 : Word64) (s : State) : Answer :=
  s.act (Device.heartbeatReceive src state t1 t2 t3)

/-- 300 µs have passed since a tick (R370, R372). -/
def Device.silentSince (d : Device) (t : Tick) : Bool := decide (300000 ≤ d.ticksSince t)

/-- HEARTBEAT_TIMEOUT: a supervised member that has sent a heartbeat falls silent for 300 µs (R370). -/
def Device.heartbeatTimeout (rank : BitVec 14) (d : Device) : Device :=
  if d.joined && d.fab.supervised.contains rank.toNat && (d.fab.peer rank).lastHeartbeat.any d.silentSince then
    d.loseRank rank.toNat d.fab.rank.toNat
  else d

def execHeartbeatTimeout (rank : BitVec 14) (s : State) : Answer := s.act (Device.heartbeatTimeout rank)

/-- MANAGER_SILENCE_TIMEOUT: no heartbeat of the manager for 300 µs, and HOLD, naming it (R372). -/
def Device.managerSilent (d : Device) : Device :=
  match d.fab.manager with
  | some m =>
    if (d.fab.job = .active ∨ d.fab.job = .resuming) ∧ d.silentSince d.fab.lastManagerBeat = true then d.enterHold m else d
  | none => d

def execManagerSilenceTimeout (s : State) : Answer := s.act Device.managerSilent

/-- LOSS_NOTICE_RECEIVE (R370, R371): relayed on receipt, and HOLD entered. -/
def execLossNoticeReceive (src rank : BitVec 14) (s : State) : Answer := s.act fun d => d.loseRank rank.toNat src.toNat

/-! ### Resume (R374) -/

/-- The release tick that stands for "steps differ": every JOB_RESUME is answered ST_BAD_PARAM (log entry 38). -/
def resumeRefused : Word64 := 0xFFFFFFFFFFFFFFFF

/-- The workers a domain manager passes the top manager's releases to. -/
def Fabric.relays (f : Fabric) : List Nat := f.workers.filter fun r => f.topManager != some r

/-- No rank is lost any more: the job is released when every rank of its table is in RESUMING, so a lost rank has joined again
(R370, R374). -/
def Fabric.clearLost (f : Fabric) : Fabric :=
  let clear (p : Peer) : Peer := { p with lost := false }
  { f with peers := f.peers.map clear }

/-- A RESUMING member learns the outcome; a domain manager passes it to its workers. -/
def Device.resumeRelease (tick : Word64) (d : Device) : Device :=
  let d := if d.fab.isDomainManager then d.sendRecords d.fab.relays .release (bytesOf 8 tick.toNat) else d
  let d := d.updFab fun f => if tick = resumeRefused then f.clearReady else f.clearReady.clearLost
  if d.fab.job ≠ .resuming then d
  else
    let c := d.fab.resume.map Prod.fst
    let d := d.updFab fun f => { f with resume := none, job := if tick = resumeRefused then .hold else .active }
    let d := match c with
      | some c => if tick = resumeRefused then d.finish c .badParam else d.ok c tick.toNat
      | none => d
    if tick = resumeRefused then d else d.logEvent 0x0705 .info 0 0 srcJob

def execResumeReleaseReceive (tick : Word64) (s : State) : Answer := s.act (Device.resumeRelease tick)

/-- The resume step of a rank, as the top manager has it: its own, or that of the rank's READY. -/
def Fabric.readyOf (f : Fabric) (r : Nat) : Option Word32 :=
  if r = f.rank.toNat then (if f.job = .resuming then f.resume.map Prod.snd else none) else (f.peer (BitVec.ofNat 14 r)).ready

/-- The top manager releases the job when every rank is ready for one step, and refuses when two differ. -/
def Device.checkResume (d : Device) : Device :=
  let got := (List.range d.fab.table.length).map d.fab.readyOf
  let steps := (got.filterMap id).eraseDups
  if !d.fab.isTop then d
  else if 1 < steps.length then
    (d.sendRecords d.fab.managers .release (bytesOf 8 resumeRefused.toNat)).resumeRelease resumeRefused
  else if got.all Option.isSome then
    let tick := d.jobTime
    (d.sendRecords d.fab.managers .release (bytesOf 8 tick.toNat)).resumeRelease tick
  else d

/-- RESUME_READY_RECEIVE: kept by the top manager, relayed toward it by a domain manager. -/
def Device.resumeReady (rank : BitVec 14) (step : Word32) (d : Device) : Device :=
  if !d.joined then d
  else if d.fab.isTop then (d.updFab fun f => f.updPeer rank fun p => { p with ready := some step }).checkResume
  else if d.fab.isDomainManager then
    (match d.fab.topManager with
    | some t => d.sendRecord t .ready (bytesOf 2 rank.toNat ++ bytesOf 4 step.toNat)
    | none => d)
  else d

def execResumeReadyReceive (rank : BitVec 14) (step : Word32) (s : State) : Answer := s.act (Device.resumeReady rank step)

def Device.jobResume (h : CmdHdr) (job : Word64) (step : Word32) (d : Device) : Device :=
  d.adminCommand 0x0705 h fun c d =>
    if d.fab.job ≠ .hold ∨ job ≠ d.fab.jobId then d.finish c .badParam
    else
      let d := d.updFab fun f => { f with job := .resuming, resume := some (c, step) }
      if d.fab.isTop then d.checkResume
      else match d.fab.manager with
        | some m => d.sendRecord m .ready (bytesOf 2 d.fab.rank.toNat ++ bytesOf 4 step.toNat)
        | none => d

def execJobResume (h : CmdHdr) (job : Word64) (step : Word32) (s : State) : Answer := s.act (Device.jobResume h job step)

/-! ### Barriers (R375) -/

/-- The fields of a release: id, scope, group (0 but for group scope) and tick. -/
def releaseFields (id : Word32) (scope : BitVec 2) (g : Nat) (tick : Word64) : List Byte :=
  bytesOf 4 id.toNat ++ bytesOf 1 scope.toNat ++ bytesOf 2 g ++ bytesOf 8 tick.toNat

/-- A release of this id and scope, and for group scope of this member's own group, ends the barrier the member is in. -/
def Fabric.released (f : Fabric) (id : Word32) (scope : BitVec 2) (g : Nat) (b : Barrier) : Bool :=
  b.id == id && b.scope == scope && (scope != 2 || g == f.myGroup)

/-- BARRIER_RELEASE_RECEIVE: the pending barrier is answered with the tick; a domain manager passes job and group releases on. -/
def Device.barrierReleased (id : Word32) (scope : BitVec 2) (g : Nat) (tick : Word64) (d : Device) : Device :=
  if !d.joined then d
  else
    let d := if d.fab.isDomainManager ∧ scope ≠ 1 then d.sendRecords d.fab.relays .barrierRelease (releaseFields id scope g tick) else d
    match d.fab.barriers.find? (d.fab.released id scope g) with
    | some b => (d.updFab fun f => { f with barriers := f.barriers.filter fun x => x.id != id }).ok b.cmd tick.toNat
    | none => d

def execBarrierReleaseReceive (id : Word32) (scope : BitVec 2) (group : BitVec 14) (tick : Word64) (s : State) : Answer :=
  s.act (Device.barrierReleased id scope group.toNat tick)

/-- The managing device decides a release at its job time. -/
def Device.releaseBarrier (d : Device) (id : Word32) (scope : BitVec 2) (g : Nat) : Device :=
  let tick := d.jobTime
  let dest := if scope = 1 then d.fab.workers else d.fab.managers
  (d.sendRecords dest .barrierRelease (releaseFields id scope g tick)).barrierReleased id scope g tick

/-- An entry added to a count of barriers; the count as it then stands. -/
def Fabric.countEntry (f : Fabric) (key : BarrierCount) (who : Nat) : Fabric × List Nat :=
  let same (x : BarrierCount) : Bool := x.id == key.id && x.scope == key.scope && x.group == key.group && x.ofDomains == key.ofDomains
  let old := ((f.counts.find? same).map BarrierCount.entered).getD []
  let all := if old.contains who then old else old ++ [who]
  ({ f with counts := f.counts.filter (fun x => !same x) ++ [{ key with entered := all }] }, all)

def Fabric.dropCount (f : Fabric) (key : BarrierCount) : Fabric :=
  { f with counts := f.counts.filter fun x => !(x.id == key.id && x.scope == key.scope && x.group == key.group && x.ofDomains == key.ofDomains) }

/-- A complete domain reaches the top manager's count. -/
def Device.barrierDomain (d : Device) (id : Word32) (scope : BitVec 2) (g dom : Nat) : Device :=
  let key : BarrierCount := { id := id, scope := scope, group := g, ofDomains := true }
  let (f, all) := d.fab.countEntry key dom
  let want := if scope = 2 then d.fab.domainsOf g else d.fab.domains
  if want.all all.contains then (d.updFab fun _ => f.dropCount key).releaseBarrier id scope g else d.updFab fun _ => f

/-- A member's entry reaches its domain manager's count. -/
def Device.barrierMember (d : Device) (id : Word32) (scope : BitVec 2) (g rank : Nat) : Device :=
  let g := if scope = 2 then g else 0
  let key : BarrierCount := { id := id, scope := scope, group := g, ofDomains := false }
  let (f, all) := d.fab.countEntry key rank
  let want := if scope = 2 then d.fab.groupIn g d.fab.myDomain else d.fab.ranks fun m => m.domain.toNat == d.fab.myDomain
  if want.all all.contains then
    let d := d.updFab fun _ => f.dropCount key
    if scope = 1 then d.releaseBarrier id scope 0
    else if d.fab.isTop then d.barrierDomain id scope g d.fab.myDomain
    else match d.fab.topManager with
      | some t => d.sendRecord t .barrierEntry (bytesOf 4 id.toNat ++ bytesOf 1 scope.toNat ++ bytesOf 2 g)
      | none => d
  else d.updFab fun _ => f

/-- BARRIER_ENTRY_RECEIVE: a member's entry, or at the top manager a domain's. -/
def Device.barrierEntry (id : Word32) (scope : BitVec 2) (src g : Nat) (d : Device) : Device :=
  if !d.joined || d.fab.job == .hold then d
  else if d.memberLevel src then d.barrierMember id scope g src
  else if d.fab.isTop && scope != 1 then d.barrierDomain id scope (if scope = 2 then g else 0) (d.fab.domainOf src)
  else d

def execBarrierEntryReceive (id : Word32) (scope : BitVec 2) (src : BitVec 14) (group : BitVec 14) (s : State) : Answer :=
  s.act (Device.barrierEntry id scope src.toNat group.toNat)

def Device.fabBarrier (h : CmdHdr) (id : Word32) (scope : BitVec 8) (d : Device) : Device :=
  d.command 0x0704 h fun c d =>
    let sc : BitVec 2 := scope.extractLsb' 0 2
    if 2 < scope.toNat then d.finish c .badParam
    else if d.fab.job ≠ .active ∨ (d.fab.barriers.any fun b => b.id == id) = true ∨ 16 ≤ d.fab.barriers.length then d.finish c .busy
    else
      let d := d.updFab fun f => { f with barriers := f.barriers ++ [{ id := id, scope := sc, cmd := c }] }
      let me := d.fab.rank.toNat
      if d.fab.isDomainManager then d.barrierMember id sc d.fab.myGroup me
      else match d.fab.domainManager d.fab.myDomain with
        | some m => d.sendRecord m .barrierEntry (bytesOf 4 id.toNat ++ bytesOf 1 sc.toNat ++ bytesOf 2 d.fab.myGroup)
        | none => d

def execFabBarrier (h : CmdHdr) (id : Word32) (scope : BitVec 8) (s : State) : Answer := s.act (Device.fabBarrier h id scope)

/-! ### Multicast that lags (R380) -/

/-- The fields of a PRUNE or a PULL: tensor, version, first element and elements. -/
def rangeFields (tensor : Word32) (version first count : Nat) : List Byte :=
  bytesOf 4 tensor.toNat ++ bytesOf 4 version ++ bytesOf 8 first ++ bytesOf 8 count

/-- A receiver pruned: told of the range it has not acknowledged, counted and logged, and the multicast goes on without it. -/
def Device.prune (d : Device) (m : Multicast) (r : BitVec 14) (acked : Nat) : Device :=
  let m' := { m with receivers := m.receivers.map fun x => if x.1 == r then (x.1, x.2.1, true) else x }
  let first := m.first + acked / 2
  let d := (d.setMcast m').updFab fun f =>
    { f with
      out := f.out.filter fun x => !(x.dst == r && (m.offsetOf x.kind).isSome)
      prunes := bump f.prunes }
  let late := match asFin 16 m.program with | some k => d.stepLate k m.step | none => true
  let d := d.sendMsg r.toNat (.control 13)
    (Status.lagged.code :: rangeFields (d.mcastTensor m) (m.step + 1) first (m.first + m.bytes / 2 - first)) late false .prune
  (d.logEvent 0x0706 .warn 0 (evData [(2, r.toNat)]) srcJob).mcastPump m'

/-- The oldest byte of a multicast that a receiver has not acknowledged was first sent more than LAG_US ago (R380). -/
def Device.lagsBy (d : Device) (m : Multicast) (r : BitVec 14) (acked : Nat) : Bool :=
  d.fab.out.any fun x => x.dst == r && m.offsetOf x.kind == some acked && x.tries != 0
    && decide (1000 * (d.fab.programOf m.program).lagUs < (d.jobTime.extractLsb' 0 48 - x.firstSent).toNat)

/-- MCAST_LAG_TIMEOUT: receiver `r` of multicast `n` lags, while another has acknowledged the byte it lacks. -/
def Device.mcastLag (n : Nat) (r : BitVec 14) (d : Device) : Device :=
  match d.fab.mcasts[n]? with
  | none => d
  | some m0 =>
    let m := d.fab.progress m0
    match m.receivers.find? fun x => x.1 == r && !x.2.2 with
    | none => d
    | some (_, acked, _) =>
      if d.lagsBy m r acked && m.receivers.any fun x => x.1 != r && decide (acked < x.2.1) then d.prune m r acked else d

def execMcastLagTimeout (n : Nat) (receiver : BitVec 14) (s : State) : Answer := s.act (Device.mcastLag n receiver)

/-- PRUNE_RECEIVE: the missing range is asked for by PULL. -/
def Device.pruneReceive (src : BitVec 14) (tensor version : Word32) (first count : Nat) (d : Device) : Device :=
  if !d.joined || d.fab.job == .hold then d
  else
    let slot := (d.releaserOf tensor).map fun x => (x.1.val, version.toNat - 1)
    let late := match d.releaserOf tensor with | some (k, _) => d.stepLate k (version.toNat - 1) | none => true
    let d := d.updFab fun f => f.updPeer src fun p => { p with prunedIn := slot }
    d.sendMsg src.toNat .pull (rangeFields tensor version.toNat first count) late false .pull

def execPruneReceive (src : BitVec 14) (tensor version : Word32) (first count : Nat) (s : State) : Answer :=
  s.act (Device.pruneReceive src tensor version first count)

/-- PULL_RECEIVE: the range served by unicast from the device's own copy, while that copy holds the version asked for. -/
def Device.pullReceive (src : BitVec 14) (tensor version : Word32) (first count : Nat) (d : Device) : Device :=
  match d.releaserOf tensor with
  | none => d
  | some (k, p) =>
    match p.ordinalOf tensor with
    | none => d
    | some ord =>
      let s := version.toNat - 1
      let held := p.version tensor == version.toNat
        || (p.stepAt s).any fun st => st.written.any fun w => w.1 == ord && decide (w.2.1 ≤ first ∧ first + count ≤ w.2.1 + w.2.2)
      if !d.joined || d.fab.job == .hold || !held || decide ((p.released ord).elems < first + count) then d
      else
        let st := (p.stepAt s).getD { step := s, cmd := none, promised := false, descs := p.descs }
        let bs := (d.readWeights st tensor first count).flatMap fun w => bytesOf 2 (w32ToZ16 .rne w).1.toNat
        let d := d.updFab fun f => { f with pulled := satAdd f.pulled (ceilDiv bs.length 1024) }
        d.sendMsg src.toNat (.mcast k.val s ord first) (rangeHeader tensor.toNat version.toNat first ++ bs) (d.stepLate k s) false

def execPullReceive (src : BitVec 14) (tensor version : Word32) (first count : Nat) (s : State) : Answer :=
  s.act (Device.pullReceive src tensor version first count)

end Sys2Proof.Machine
end

