-- ==== Sys2Proof/Machine/FabCmds.lean ====
section
/-! DEFINITION. The fabric commands: JOB_JOIN, JOB_LEAVE (R188, R189, R212, R213, R373) and FAB_PORT_SET to OCT_COUNT_CLR
(R354, R358, R364, R381-R383). -/

namespace Sys2Proof.Machine

/-- A program is RUNNING. -/
def Device.anyRunning (d : Device) : Bool := d.programs.any fun x => x.2.state == .running

/-- Counters, messages, peers and windows of a membership as a device without one has them; the numbering of messages starts at
job entry (R360). -/
def Fabric.clean (f : Fabric) : Fabric :=
  { f with
    peers := [], barriers := [], counts := [], resume := none, out := [], rx := [], mcasts := [], heldTransfers := [], outOfRange := 0 }

/-- Every program's rule set is discarded (R237). -/
def Device.discardAllRules (d : Device) : Device := (Bank.indices 16).foldl (fun d k => d.discardRules k) d

/-! ### JOB_JOIN and JOB_LEAVE -/

/-- A membership table entry: its 8 bytes at the index they stand at (R188). -/
def memberOf (i : Nat) (bs : List Byte) : Option Member :=
  let rank := fieldAt bs 0 2
  let dom := fieldAt bs 2 1
  let role := fieldAt bs 3 1
  let group := fieldAt bs 4 2
  if rank ≠ i ∨ 64 ≤ dom ∨ 4 ≤ role ∨ 16384 ≤ group ∨ fieldAt bs 6 2 ≠ 0 then none
  else some { domain := BitVec.ofNat 6 dom, role := BitVec.ofNat 2 role, group := BitVec.ofNat 14 group }

/-- The members of a list that lie in a domain. -/
def inDomain (t : List Member) (dom : Nat) : List Member := t.filter fun m => m.domain.toNat == dom

/-- The checks of R188 on the table as a whole. -/
def tableOk (t : List Member) : Bool :=
  let doms := (t.map fun m => m.domain.toNat).eraseDups
  let groups := (t.map fun m => m.group.toNat).eraseDups
  let groupOk (g : Nat) : Bool :=
    let ns := (doms.map fun x => ((inDomain t x).filter fun m => m.group.toNat == g).length).filter (· != 0)
    ns.all (· == ns.headD 0)
  decide (t.length ≤ 16384) && doms.all (fun x => decide ((inDomain t x).length ≤ 256))
    && (decide (doms.length ≤ 1)
      || (doms.all (fun x => (inDomain t x).any Member.managesDomain) && t.any Member.managesJob))
    && groups.all groupOk

/-- The membership table that bytes hold, when it passes R188. -/
def membersOf (bs : List Byte) : Option (List Member) :=
  ((chunksOf 8 (bs.length + 1) bs).mapIdx memberOf).mapM id |>.filter tableOk

/-- A device takes its place in a job: JOINING, or at once ACTIVE where no manager is above it (R373); what its peers first grant is a free
value (R361; log entry 102). -/
def Device.joinJob (d : Device) (job : Word64) (rank : Nat) (t : List Member) : Device :=
  let (credit, d) := d.takeFree
  let d := d.updFab fun f =>
    { f.clean with
      job := .joining, jobId := job, rank := BitVec.ofNat 14 rank, table := t, jobOffset := 0, offsetSet := false
      firstCredit := credit.toNat % 2 ^ 32, lastManagerBeat := d.tb.now }
  let d := if d.fab.manager.isNone then d.updFab fun f => { f with job := .active } else d
  (d.discardAllRules).logEvent 0x0301 .info 0 (evData [(2, d.fab.flatIndex)]) srcGx

def Device.jobJoin (h : CmdHdr) (job : Word64) (rank : Word16) (table : Word32) (off : BitVec 48) (count : Word16) (d : Device) :
    Device :=
  d.adminCommand 0x0301 h fun c d =>
    let n := 8 * count.toNat
    match d.obj? table with
    | none => d.finish c .badParam
    | some o =>
      let inT3 := !(o.t3Segments off.toNat n).isEmpty
      let t := (d.tableBytes table off.toNat n).bind membersOf
      if count = 0 ∨ 16384 < count.toNat ∨ count ≤ rank ∨ o.size < off.toNat + n then d.finish c .badParam
      else if !inT3 && t.isNone then d.finish c .badParam
      else if !d.mayRead table h.account then d.finish c .notOwner
      else if d.joined then d.finish c .busy
      else if inT3 then d.finish c .staging
      else
        let d := d.joinJob job rank.toNat (t.getD [])
        d.ok c (d.fab.groupSize + 2 ^ 16 * d.fab.flatIndex + 2 ^ 32 * d.fab.myGroup)

def execJobJoin (h : CmdHdr) (job : Word64) (rank : Word16) (table : Word32) (offset : BitVec 48) (count : Word16) (s : State) :
    Answer := s.act (Device.jobJoin h job rank table offset count)

/-- A device leaves its job (R373): the leave notice is sent, and what waited for the job is aborted. -/
def Device.leaveJob (d : Device) : Device :=
  let f := d.fab
  let d := (d.sendRecords (f.lossTargets f.rank.toNat) .leave (bytesOf 2 f.rank.toNat)).endBarriers .aborted
  let d := match d.fab.resume with
    | some (c, _) => d.finish c .aborted
    | none => d
  let flat := d.fab.flatIndex
  let d := d.updFab fun f => { f.clean with job := .none, jobId := 0, rank := 0, table := [], jobOffset := 0 }
  (d.discardAllRules).logEvent 0x0301 .info 0 (evData [(2, flat)]) srcGx

def Device.jobLeave (h : CmdHdr) (job : Word64) (d : Device) : Device :=
  d.adminCommand 0x0302 h fun c d =>
    if !d.joined || d.fab.jobId != job then d.finish c .badParam
    else if d.anyRunning then d.finish c .busy
    else d.leaveJob.ok c

def execJobLeave (h : CmdHdr) (job : Word64) (s : State) : Answer := s.act (Device.jobLeave h job)

/-! ### Ports, routes and time-outs -/

/-- The mode a code names (R381). -/
def octModeOf : Nat → Option OctMode
  | 0 => some .off
  | 1 => some .direct
  | 2 => some .switched
  | _ => none

def OctMode.code : OctMode → Nat
  | .off => 0
  | .direct => 1
  | .switched => 2

/-- A port configured: a change of mode starts it afresh, down until its lanes align. -/
def OctPort.configure (q : OctPort) (mode : OctMode) (pcps : BitVec 8) (mac : BitVec 48) (vlan : BitVec 12) (ethertype : Word16) :
    OctPort :=
  let q := { q with
    dataPcp := pcps.extractLsb' 0 3, ctrlPcp := pcps.extractLsb' 4 3, mac := mac, vlan := vlan
    ethertype := if ethertype = 0 then 0x88B5 else ethertype }
  if q.mode = mode then q
  else { q with mode := mode, aligned := false, pausedData := false, pausedCtrl := false, txLsn := 0, rxLsn := 0, replay := [], ackDue := false }

/-- A route entry of 16 bytes (R358). -/
def routeOf (i : Nat) (bs : List Byte) : Option Route :=
  let port := fieldAt bs 6 1
  let alt := fieldAt bs 7 1
  if 8 ≤ port ∨ alt / 8 % 16 ≠ 0 ∨ fieldAt bs 8 2 ≠ i ∨ 16384 ≤ fieldAt bs 8 2 ∨ fieldAt bs 10 6 ≠ 0 then none
  else some { mac := BitVec.ofNat 48 (fieldAt bs 0 6), primary := clampFin 7 port, alt := if 128 ≤ alt then some (clampFin 7 (alt % 8)) else none }

def routesOf (bs : List Byte) : Option (List Route) := ((chunksOf 16 (bs.length + 1) bs).mapIdx routeOf).mapM id

/-- FAB_PORT_SET of KIND 1 once its table can be read. -/
def Device.fabRoutesRun (object : Word32) (off : Nat) (count : Nat) (c : OpenCmd) (d : Device) : Device :=
  let t := (d.tableBytes object off (16 * count)).bind routesOf
  if count = 0 ∨ 16384 < count ∨ (d.joined = true ∧ count ≠ d.fab.table.length) ∨ t.isNone = true then d.finish c .badParam
  else if !d.mayRead object c.hdr.account then d.finish c .notOwner
  else if d.anyRunning then d.finish c .busy
  else ((d.updFab fun f => { f with routes := t.getD [] }).flushAll).ok c

/-- FAB_PORT_SET of KIND 0. -/
def Device.fabPortRun (port mode pcps : BitVec 8) (mac : BitVec 48) (vlan ethertype : Word16) (c : OpenCmd) (d : Device) : Device :=
  match asFin 8 port.toNat, octModeOf mode.toNat with
  | some p, some m =>
    if pcps &&& 0x88 ≠ 0 ∨ pcps.extractLsb' 0 3 = pcps.extractLsb' 4 3 ∨ 0xFFF < vlan.toNat then d.finish c .badParam
    else if d.anyRunning then d.finish c .busy
    else ((d.updOct p fun q => q.configure m pcps mac (vlan.extractLsb' 0 12) ethertype).flushPort p).ok c
  | _, _ => d.finish c .badParam

def Device.fabPortSet (h : CmdHdr) (kind port mode pcps : BitVec 8) (mac : BitVec 48) (vlan ethertype : Word16) (routes : Word32)
    (off : BitVec 48) (count : Word16) (d : Device) : Device :=
  d.adminCommand 0x0701 h fun c d =>
    if kind = 0 then d.fabPortRun port mode pcps mac vlan ethertype c
    else if kind = 1 then
      d.withList c (.fabPortSet h kind port mode pcps mac vlan ethertype routes off count) routes off.toNat (16 * count.toNat) false
        (Device.fabRoutesRun routes off.toNat count.toNat c)
    else d.finish c .badParam

def execFabPortSet (h : CmdHdr) (kind port mode pcps : BitVec 8) (mac : BitVec 48) (vlan ethertype : Word16)
    (routeObject : Word32) (routeOffset : BitVec 48) (routeCount : Word16) (s : State) : Answer :=
  s.act (Device.fabPortSet h kind port mode pcps mac vlan ethertype routeObject routeOffset routeCount)

/-- FAB_QUERY's result (R381). -/
def OctPort.queryResult (q : OctPort) : Nat :=
  q.mode.code + (if q.up then 4 else 0) + (if q.pausedData || q.pausedCtrl then 8 else 0) + 2 ^ 16 * q.abandoned.toNat + 2 ^ 32 * q.sent.toNat

def Device.fabQuery (h : CmdHdr) (port : BitVec 8) (d : Device) : Device :=
  d.command 0x0702 h fun c d =>
    match asFin 8 port.toNat with
    | none => d.finish c .badParam
    | some p => d.ok c (d.fab.ports[p]).queryResult

def execFabQuery (h : CmdHdr) (port : BitVec 8) (s : State) : Answer := s.act (Device.fabQuery h port)

def Device.fabTimeoutSet (h : CmdHdr) (e2e : Word32) (tries : BitVec 8) (transit : Word16) (d : Device) : Device :=
  d.adminCommand 0x0703 h fun c d =>
    if e2e.toNat < 200 ∨ 100000 < e2e.toNat ∨ tries = 0 ∨ transit = 0 then d.finish c .badParam
    else if d.anyRunning then d.finish c .busy
    else (d.updFab fun f => { f with e2eUs := e2e.toNat, maxTries := tries.toNat, transitUs := transit.toNat }).ok c

def execFabTimeoutSet (h : CmdHdr) (e2eUs : Word32) (maxTries : BitVec 8) (transitUs : Word16) (s : State) : Answer :=
  s.act (Device.fabTimeoutSet h e2eUs maxTries transitUs)

/-! ### MCAST_SET -/

/-- What the fabric keeps for a program slot is changed. -/
def Fabric.updFabProgram (f : Fabric) (k : Nat) (g : FabProgram → FabProgram) : Fabric :=
  { f with programs := g (f.programOf k) :: f.programs.filter fun x => x.slot != k }

/-- The operands of a channel binding. -/
structure BindOperands where
  channel : BitVec 8
  stream : BitVec 8
  trigger : BitVec 8
  destSem : BitVec 8
  destProg : BitVec 8
  srcObject : Word32
  srcOffset : BitVec 48
  destRank : Word16
  destObject : Word32
  destOffset : BitVec 48
  bytes : Word32
deriving DecidableEq, Repr

/-- Every field but CHANNEL is zero, as KIND 2 asks. -/
def BindOperands.onlyChannel (b : BindOperands) : Bool :=
  b.stream == 0 && b.trigger == 0 && b.destSem == 0 && b.destProg == 0 && b.srcObject == 0 && b.srcOffset == 0 && b.destRank == 0
    && b.destObject == 0 && b.destOffset == 0 && b.bytes == 0

/-- A binding is in range: the destination rank is in the table, and the source object, where bytes are sent, exists and holds
every micro-batch (R376). -/
def Device.bindRange (d : Device) (p : Program) (b : BindOperands) : Bool :=
  decide (b.channel.toNat < 64 ∧ b.stream.toNat < 2 ∧ b.destProg.toNat < 16 ∧ b.destRank.toNat < d.fab.table.length)
    && (b.bytes == 0 || (d.obj? b.srcObject).any fun o => decide (b.srcOffset.toNat + p.mbCount * b.bytes.toNat ≤ o.size))

def BindOperands.toChannel (b : BindOperands) : Channel :=
  { index := b.channel.toNat, backward := b.stream == 1, trigger := b.trigger, destSem := b.destSem, destProg := b.destProg.toNat
    srcObject := b.srcObject, srcOffset := b.srcOffset.toNat, destRank := b.destRank.extractLsb' 0 14, destObject := b.destObject
    destOffset := b.destOffset.toNat, bytes := b.bytes.toNat }

/-- A channel is bound to the slot. -/
def Device.channelBound (d : Device) (k i : Nat) : Bool := (d.fab.programOf k).channels.any fun x => x.index == i

/-- What of a MCAST_SET is out of range. -/
def Device.mcastBad (d : Device) (prog kind : BitVec 8) (lag window : Word32) (b : BindOperands) (p : Program) : Bool :=
  if kind = 0 then
    !decide (1 ≤ lag.toNat ∧ lag.toNat ≤ 10000 ∧ 64 ≤ window.toNat ∧ window.toNat ≤ 65536)
  else if kind = 1 then !d.bindRange p b
  else if kind = 2 then !b.onlyChannel || !d.channelBound prog.toNat b.channel.toNat
  else true

/-- A MCAST_SET that passed its checks takes effect. -/
def Device.mcastApply (d : Device) (k : Nat) (kind : BitVec 8) (lag window : Word32) (b : BindOperands) : Device :=
  d.updFab fun f => f.updFabProgram k fun x =>
    if kind = 0 then { x with lagUs := lag.toNat, windowKib := window.toNat }
    else
      let rest := x.channels.filter fun y => y.index != b.channel.toNat
      { x with channels := if kind = 1 then rest ++ [b.toChannel] else rest }

def Device.mcastSet (h : CmdHdr) (prog kind : BitVec 8) (lag window : Word32) (b : BindOperands) (d : Device) : Device :=
  d.command 0x0706 h fun c d =>
    d.onProgram c prog (d.mcastBad prog kind lag window b) fun k p d =>
      if kind = 1 ∧ b.bytes ≠ 0 ∧ d.owns h.account b.srcObject = false then d.finish c .notOwner
      else if p.state = .running then d.finish c .busy
      else (d.mcastApply k.val kind lag window b).ok c

def execMcastSet (h : CmdHdr) (prog kind : BitVec 8) (lagUs windowKib : Word32) (channel stream trigger destSem
    destProg : BitVec 8) (srcObject : Word32) (srcOffset : BitVec 48) (destRank : Word16) (destObject : Word32)
    (destOffset : BitVec 48) (bytes : Word32) (s : State) : Answer :=
  s.act (Device.mcastSet h prog kind lagUs windowKib
    { channel := channel, stream := stream, trigger := trigger, destSem := destSem, destProg := destProg, srcObject := srcObject
      srcOffset := srcOffset, destRank := destRank, destObject := destObject, destOffset := destOffset, bytes := bytes })

/-! ### FAB_PEER_QUERY -/

/-- This device was pruned by the rank in the last retired step of a program (R381). -/
def Device.prunedBy (d : Device) (q : Peer) : Bool :=
  match q.prunedIn with
  | none => false
  | some (k, s) =>
    match (asFin 16 k).bind fun k => d.progs[k] with
    | none => false
    | some p => (p.lastRetired.map Prod.fst) == some s

/-- What is known of a rank: 0 unknown, 1 alive, 2 lost, 3 joining. -/
def Peer.standing (q : Peer) : Nat := if q.lost then 2 else if q.joining then 3 else if q.lastHeartbeat.isSome then 1 else 0

/-- Heartbeat periods of 100 µs since the last heartbeat, saturating; the spec gives none for a rank never heard, which takes a
free value (log entry 2). -/
def Device.beatPeriods (d : Device) (q : Peer) : Nat × Device :=
  match q.lastHeartbeat with
  | some t => (min 65535 ((d.tb.now - t).toNat / 100000), d)
  | none => let (v, d) := d.takeFree; (v.toNat % 65536, d)

def Device.fabPeerQuery (h : CmdHdr) (rank : Word16) (d : Device) : Device :=
  d.command 0x0707 h fun c d =>
    if 16383 < rank.toNat then d.finish c .badParam
    else
      let q := d.fab.peer (rank.extractLsb' 0 14)
      let (n, d) := d.beatPeriods q
      let pruned := d.prunedBy q
      d.finish c (if pruned then .lagged else .ok) (q.standing + (if pruned then 4 else 0) + 2 ^ 16 * n)

def execFabPeerQuery (h : CmdHdr) (rank : Word16) (s : State) : Answer := s.act (Device.fabPeerQuery h rank)

/-! ### OCT_COUNT_CLR -/

def offOcting : Nat := 0x02800000

/-- COUNT_CLR (R383). -/
def Fabric.countClear (f : Fabric) : Fabric :=
  let clear (q : OctPort) : OctPort := { q with abandoned := 0, replays := 0, retrains := 0 }
  { f with retransmits := 0, duplicates := 0, prunes := 0, pulled := 0, dropped := 0, corr := 0, ports := f.ports.map clear }

def execOctCountClr (req : Requester) (s : State) : Answer :=
  s.act fun d => d.writeBy req (offOcting + 8) none fun d => d.updFab Fabric.countClear

end Sys2Proof.Machine
end

