-- ==== Sys2Proof/Machine/Deliver.lean ====
section
/-! DEFINITION. FRAME_RECEIVE: frames on the wire, the messages they complete, and the units that consume them (R355-R361, R376-R378). A
frame that completes a message does what the row of that message does: HOP_RECEIVE and the other rows of received messages are the same
deliveries commanded whole (log entry 168). -/

namespace Sys2Proof.Machine

/-! ### The frame on the wire (R355-R357) -/

/-- TYPE of R355. -/
def FrameType.code : FrameType → Nat
  | .data => 0 | .ack => 1 | .heartbeat => 2 | .control => 3 | .linkAck => 4 | .linkNak => 5 | .pull => 6 | .prune => 7
  | .reserved n => 8 + n.val

def FrameType.ofCode (n : Nat) : FrameType :=
  if n = 0 then .data else if n = 1 then .ack else if n = 2 then .heartbeat else if n = 3 then .control else if n = 4 then .linkAck
  else if n = 5 then .linkNak else if n = 6 then .pull else if n = 7 then .prune else .reserved (clampFin 7 (n - 8))

/-- The 32-byte transport header. -/
def Frame.header (f : Frame) : List Byte :=
  bytesOf 1 (16 * f.version.toNat + f.type.code)
    ++ bytesOf 1 (16 * f.hopsLeft.toNat + (if f.retransmit then 4 else 0) + (if f.late then 2 else 0) + (if f.last then 1 else 0))
    ++ bytesOf 2 f.src.toNat ++ bytesOf 2 f.dst.toNat ++ bytesOf 2 f.lsn.toNat ++ bytesOf 6 f.msgId.toNat ++ bytesOf 2 f.linkAcked.toNat
    ++ bytesOf 4 f.offset.toNat ++ bytesOf 4 f.msgLength.toNat ++ bytesOf 6 f.firstSent.toNat ++ bytesOf 2 f.jobTag.toNat

/-- The frame but for its FCS: addresses, tag and EtherType with the most significant byte first, as Ethernet has them, then header and
payload (R355; log entry 17). -/
def Frame.wire (f : Frame) : List Byte :=
  (bytesOf 6 f.destMac.toNat).reverse ++ (bytesOf 6 f.srcMac.toNat).reverse ++ (bytesOf 2 0x8100).reverse
    ++ (bytesOf 2 (2 ^ 13 * f.pcp.toNat + f.vlan.toNat)).reverse ++ (bytesOf 2 f.ethertype.toNat).reverse ++ f.header ++ f.payload

/-- Bytes of wire time: preamble, frame, FCS and inter-frame gap (R357). -/
def Frame.wireTime (f : Frame) : Nat := 8 + f.wire.length + 4 + 12

/-- The fields of a transport header before a payload, as the receiver of a frame reads them. -/
def Frame.withHeader (f : Frame) (bs : List Byte) : Frame :=
  { f with
    version := BitVec.ofNat 4 (fieldAt bs 0 1 / 16), type := FrameType.ofCode (fieldAt bs 0 1 % 16)
    hopsLeft := BitVec.ofNat 4 (fieldAt bs 1 1 / 16), retransmit := decide (fieldAt bs 1 1 / 4 % 2 = 1)
    late := decide (fieldAt bs 1 1 / 2 % 2 = 1), last := decide (fieldAt bs 1 1 % 2 = 1)
    src := BitVec.ofNat 14 (fieldAt bs 2 2), dst := BitVec.ofNat 14 (fieldAt bs 4 2), lsn := BitVec.ofNat 16 (fieldAt bs 6 2)
    msgId := BitVec.ofNat 48 (fieldAt bs 8 6), linkAcked := BitVec.ofNat 16 (fieldAt bs 14 2), offset := BitVec.ofNat 32 (fieldAt bs 16 4)
    msgLength := BitVec.ofNat 32 (fieldAt bs 20 4), firstSent := BitVec.ofNat 48 (fieldAt bs 24 6), jobTag := BitVec.ofNat 16 (fieldAt bs 30 2) }

/-! ### Messages by their bytes (R198, R218, R232, R366, R376; log entry 17) -/

def par (bs : List Byte) (w off n : Nat) : BitVec w := BitVec.ofNat w (fieldAt bs off n)

/-- A hop or handoff (R198, R218). -/
def hopOf (bs : List Byte) (late : Bool) : HopMsg :=
  { step := par bs 32 0 4, bucket := par bs 32 4 4, hop := par bs 16 8 2, mode := par bs 8 10 1, segment := par bs 16 12 2
    root := par bs 16 14 2, firstBlock := par bs 32 16 4, blockCount := par bs 32 20 4, sender := par bs 16 24 2
    payload := bs.drop 32, late := late }

/-- A multicast range (R232). -/
def rangeOf (src : BitVec 14) (bs : List Byte) (late : Bool) : RangeMsg :=
  { version := par bs 32 0 4, tensor := par bs 32 4 4, first := fieldAt bs 12 8
    values := (numbersOf 2 (bs.drop 32)).map (BitVec.ofNat 16), src := src, late := late }

/-- A channel transfer (R376). -/
def transferOf (bs : List Byte) : HeldTransfer :=
  { step := fieldAt bs 0 4, destObject := par bs 32 4 4, destProg := fieldAt bs 8 1, destSem := par bs 8 9 1, mb := fieldAt bs 10 1
    destOffset := fieldAt bs 12 6, bytes := bs.drop 32 }

/-- A histogram of a record (R78, R203). -/
def Hist.ofBytes (bs : List Byte) : Hist :=
  let e (off : Nat) : Option Int := if fieldAt bs off 2 = 0x8000 then none else some (par bs 16 off 2).toInt
  { tensor := par bs 32 0 4, stream := clampFin 2 (fieldAt bs 4 1), eMax := e 6, eMin := e 8, specials := par bs 16 10 2
    step := par bs 32 12 4, bins := Vector.ofFn fun i => par bs 32 (16 + 4 * i.val) 4 }

def histsOf (bs : List Byte) : List Hist := (chunksOf 272 (bs.length + 1) bs).map Hist.ofBytes

/-- `n` entries of a report or table. -/
def entriesOf (n : Nat) (bs : List Byte) : List Word16 := ((numbersOf 2 bs).take n).map (BitVec.ofNat 16)

/-- A control record reaches the duty it serves (R366). -/
def Device.takeRecord (src : BitVec 14) (late : Bool) (bs : List Byte) (d : Device) : Device :=
  let r := bs.drop 1
  let n := src.toNat
  match (bs.headD 0).toNat with
  | 1 => d.loseRank (fieldAt r 0 2) n
  | 2 => d.loseRank (fieldAt r 0 2) n
  | 3 => d.barrierEntry (par r 32 0 4) (par r 2 4 1) n (fieldAt r 5 2)
  | 4 => d.barrierReleased (par r 32 0 4) (par r 2 4 1) (fieldAt r 5 2) (par r 64 7 8)
  | 5 => d.resumeReady (par r 14 0 2) (par r 32 2 4)
  | 6 => d.resumeRelease (par r 64 0 8)
  | 7 => d.scaleReportReceive (fieldAt r 0 4) (fieldAt r 4 2) (entriesOf (fieldAt r 6 2) (r.drop 8)) (histsOf (r.drop (8 + 2 * fieldAt r 6 2)))
  | 8 => d.scaleTableReceive (fieldAt r 0 4) n (entriesOf (fieldAt r 4 2) (r.drop 16)) (histsOf (r.drop (16 + 2 * fieldAt r 4 2))) late
  | 9 => d.normPartialReceive (fieldAt r 0 4) (fieldAt r 4 2) (par r 32 6 4) (fieldAt r 10 4)
  | 10 => d.clipFactorReceive (fieldAt r 0 4) n (par r 32 4 4) (par r 32 8 4) (fieldAt r 12 4) late
  | 11 => d.hallmarkArrives
      { group := fieldAt r 0 2, rank := par r 14 2 2, version := fieldAt r 4 4, k := fieldAt r 8 2, value := par r 128 10 16 }
  | 12 => d.takeVerdict (fieldAt r 0 4) (par r 2 4 1)
  | _ => d

/-! ### Channel transfers that arrive (R376, R377) -/

/-- Lanes of a step that wait on a semaphore which has now reached its target: the wait was for a message (R378). -/
def Device.noteSemWaits (d : Device) (k : Fin 16) (s sem src : Nat) (late : Bool) : Device :=
  match d.progs[k] with
  | none => d
  | some p =>
    match p.stepAt s with
    | none => d
    | some st =>
      (Bank.indices 17).foldl (fun d n =>
        let l := st.lane n
        match p.current n l with
        | some c =>
          (match c.instr.instr with
          | .twait w _ _ => if w.toNat == sem && l.wait == .semaphore && p.waitMet s l.mb c.instr.instr then d.notePeerLate k s l.since src late else d
          | _ => d)
        | none => d) d

/-- A complete channel transfer: written and signalled, held for a step not yet launched, or discarded (R371, R376, R377). -/
def Device.receiveTransfer (d : Device) (t : HeldTransfer) (src : Nat) (late : Bool) : Device :=
  if d.fab.job = .hold then d
  else match (asFin 16 t.destProg).bind fun k => (d.progs[k]).map fun p => (k, p) with
    | none => d.channelBad t
    | some (k, p) =>
      if !d.transferFits p t then d.channelBad t
      else if (p.stepAt t.step).isSome then (d.landTransfer k t).noteSemWaits k t.step t.destSem.toNat src late
      else if t.step < p.nextStep then d
      else d.updFab fun f => { f with heldTransfers := f.heldTransfers ++ [t] }

/-! ### Codewords where they are consumed (R356) -/

/-- A received codeword was corrected: counted, and logged once a step (R356, R384). -/
def Device.countCodewords (d : Device) (port n : Nat) : Device :=
  if n = 0 then d
  else
    let d := d.updFab fun f => { f with corr := satAdd f.corr n }
    match (d.programs.filterMap fun x => x.2.inFlight.head?.map fun st => (x.1, st.step)).head? with
    | some (k, s) => d.raiseOnce k s 0x0709 noLane .info port 0 (srcOct port)
    | none => d.logEvent 0x0709 .info port 0 (srcOct port)

/-- The data of codewords, with the number corrected; none when one is uncorrectable. -/
def decodePayload (dec : Bool) (bs : List Byte) : Option (List Byte × Nat) :=
  (chunksOf 36 (bs.length + 1) bs).foldl (fun acc cw =>
    acc.bind fun (out, n) =>
      match ingotDecode dec cw with
      | .clean => some (out ++ cw.take 32, n)
      | .corrected fixed => some (out ++ fixed.take 32, n + 1)
      | .uncorrectable => none) (some ([], 0))

/-- Codewords decoded for the unit that consumes them: corrections counted, an uncorrectable one handled under R316. -/
def Device.decoded (d : Device) (port : Nat) (cws : List Byte) (f : List Byte → Device → Device) : Device :=
  match decodePayload d.mem.dec cws with
  | none => d.uncorrectable port 0 (srcOct port)
  | some (bs, n) => f bs (d.countCodewords port n)

/-! ### Messages assembled, accepted and acknowledged (R359-R361) -/

/-- What is known of a source of messages. -/
def Fabric.source (f : Fabric) (src : BitVec 14) : RxSource := (f.rx.find? fun x => x.src == src).getD { src := src }

def Fabric.setSource (f : Fabric) (x : RxSource) : Fabric :=
  { f with rx := if f.rx.any fun y => y.src == x.src then updFirst (fun y => y.src == x.src) (fun _ => x) f.rx else f.rx ++ [x] }

/-- The message has completed before (R360). -/
def RxSource.done (x : RxSource) (id : BitVec 48) : Bool := decide (id.toNat < x.lowest.toNat) || x.above.contains id

/-- The lowest incomplete id moves past the ids completed. -/
def RxSource.slide : Nat → RxSource → RxSource
  | 0, x => x
  | n + 1, x => if x.above.contains x.lowest then RxSource.slide n { x with lowest := x.lowest + 1, above := x.above.erase x.lowest } else x

def RxSource.complete (x : RxSource) (id : BitVec 48) : RxSource :=
  let x := { x with above := x.above ++ [id] }
  x.slide x.above.length

/-- Nothing more is kept of a message. -/
def RxSource.gone (x : RxSource) (id : BitVec 48) : RxSource := { x with partials := x.partials.filter fun e => e.msgId != id }

/-- A frame's codewords joined to its message; bytes already there are discarded. -/
def Assembly.add (a : Assembly) (port : Nat) (f : Frame) : Assembly :=
  if a.parts.any fun y => y.1 == f.offset.toNat then a else { a with port := port, parts := a.parts ++ [(f.offset.toNat, f.payload)] }

def RxSource.put (x : RxSource) (port : Nat) (f : Frame) : RxSource :=
  let new : Assembly :=
    { msgId := f.msgId, type := f.type, length := f.msgLength.toNat, late := f.late, firstSent := f.firstSent, port := port }
  { x with partials :=
      if x.partials.any fun e => e.msgId == f.msgId then updFirst (fun e => e.msgId == f.msgId) (·.add port f) x.partials
      else x.partials ++ [new.add port f] }

/-- Every frame of the message has arrived. -/
def Assembly.complete (a : Assembly) : Bool :=
  decide (36 * max 1 (ceilDiv a.length 32) ≤ sumOf (fun p => p.2.length) a.parts)

/-- The message's codewords in the order of its bytes. -/
def Assembly.codewords (a : Assembly) : List Byte :=
  (List.range (a.length / 4096 + 1)).flatMap fun i => ((a.parts.find? fun p => p.1 == 4096 * i).map Prod.snd).getD []

/-- Bytes of receive buffer this device can grant a source (R361; log entry 102). -/
def Device.grant (d : Device) : Nat := min (d.tun.rxCapacity - d.rxHeld) 0xFFFFFFFF

/-- An ACK of a message leaves on CTRL, with what this device grants its source in MSG_LENGTH (R354, R361; log entry 102). -/
def Device.sendAck (d : Device) (dst : BitVec 14) (id : BitVec 48) : Device :=
  let n := d.grant
  let d := d.updFab fun f => f.setSource { f.source dst with told := n }
  d.sendFrame true
    { type := .ack, src := d.fab.rank, dst := dst, msgId := id, msgLength := BitVec.ofNat 32 n
      firstSent := d.jobTime.extractLsb' 0 48, jobTag := d.fab.jobTag }

/-- Transit of a message beyond TRANSIT_US, or its LATE mark, when its last frame has arrived (R378). -/
def Device.arrivesLate (d : Device) (a : Assembly) : Bool :=
  a.late || decide (d.fab.transitUs * 1000 < (d.jobTime.extractLsb' 0 48 - a.firstSent).toNat)

/-- A DATA message would have to be held, and the receive buffer is full: its consumer does not accept it yet (R208, R361). -/
def Device.refuses (d : Device) (bs : List Byte) : Bool :=
  let m := hopOf bs false
  match fieldAt bs 11 1, d.jobProgram with
  | 0, some (k, p) =>
    if m.hop = 512 then d.handoffFits p (heldHop m k.val) m.blockCount.toNat && d.hopWaits m (fun _ _ p st h => handoffReady p st h) k p
    else d.hopFits p (heldHop m k.val) m.blockCount.toNat && d.hopWaits m Device.hopReady k p
  | 0, none => false
  | 1, _ => d.rxFull
  | 2, _ =>
    let t := transferOf bs
    d.rxFull && ((asFin 16 t.destProg).bind fun k => d.progs[k]).any fun p => (p.stepAt t.step).isNone && decide (p.nextStep ≤ t.step)
  | _, _ => false

/-- A message delivered to the unit that consumes it, once and complete (R359). -/
def Device.deliverMessage (src : BitVec 14) (type : FrameType) (late lockstep : Bool) (bs : List Byte) (d : Device) : Device :=
  match type with
  | .data =>
    (match fieldAt bs 11 1 with
    | 1 => d.mcastRangeReceive (rangeOf src bs late)
    | 2 => d.receiveTransfer (transferOf bs) src.toNat late
    | _ => if (hopOf bs late).hop = 512 then d.handoffReceive (hopOf bs late) else d.hopReceive (hopOf bs late) lockstep)
  | .control => d.takeRecord src late bs
  | .pull => d.pullReceive src (par bs 32 0 4) (par bs 32 4 4) (fieldAt bs 8 8) (fieldAt bs 16 8)
  | .prune => d.pruneReceive src (par bs 32 1 4) (par bs 32 5 4) (fieldAt bs 9 8) (fieldAt bs 17 8)
  | .ack => d
  | .heartbeat => d
  | .linkAck => d
  | .linkNak => d
  | .reserved _ => d

/-- A message is complete: a duplicate is discarded and acknowledged again; another, once its consumer accepts it, is acknowledged, its
codewords are decoded, and it is delivered (R356, R360, R361, R208). -/
def Device.messageComplete (d : Device) (src : BitVec 14) (a : Assembly) (lockstep : Bool) : Device :=
  let x := d.fab.source src
  if x.done a.msgId then
    (d.updFab fun t => { t.setSource (x.gone a.msgId) with duplicates := bump t.duplicates }).sendAck src a.msgId
  else if a.type == .data && (decodePayload d.mem.dec a.codewords).any (fun y => d.refuses (y.1.take a.length)) then
    let late := d.arrivesLate a
    let keep (e : Assembly) : Assembly := if e.msgId = a.msgId then { e with whole := some (e.whole.getD late) } else e
    d.updFab fun f => f.setSource { x with partials := x.partials.map keep }
  else
    let late := a.whole.getD (d.arrivesLate a)
    let d := (d.updFab (·.setSource ((x.gone a.msgId).complete a.msgId))).sendAck src a.msgId
    d.decoded a.port a.codewords fun bs d => d.deliverMessage src a.type late lockstep (bs.take a.length)

/-- Messages that waited for room in the receive buffer are accepted once there is room (R208, R361). -/
def Device.acceptWaiting (d : Device) : Device :=
  (d.fab.rx.flatMap fun x => (x.partials.filter fun a => a.whole.isSome).map fun a => (x.src, a)).foldl
    (fun d x => d.messageComplete x.1 x.2 false) d

/-- With the receive buffer empty, a source whose last grant was of less is told anew by an ACK of its latest message (log entry 102). -/
def Device.renewCredit (d : Device) : Device :=
  if d.rxHeld ≠ 0 then d
  else
    (d.fab.rx.filter fun x => x.lowest != 0 && decide (x.told < d.grant)).foldl (fun d x => d.sendAck x.src (x.lowest - 1)) d

/-- What the fabric does by itself: accepted messages, renewed credit, and messages that no longer have to wait. -/
def Device.fabricTick (d : Device) : Device := (d.acceptWaiting.renewCredit).sendWaiting

/-! ### Frames that arrive (R355, R358, R362) -/

/-- A frame of a message for this device. -/
def Device.acceptFrame (d : Device) (p : Fin 8) (f : Frame) (lockstep : Bool) : Device :=
  let x := d.fab.source f.src
  if x.lowest.toNat + 4096 < f.msgId.toNat then d
  else
    let x := x.put p.val f
    let d := d.updFab (·.setSource x)
    match x.partials.find? fun e => e.msgId == f.msgId with
    | some a => if a.complete then d.messageComplete f.src a lockstep else d
    | none => d

/-- A frame discarded and counted (OCT_ECC.FRAMES_DROPPED). -/
def Device.dropFrame (d : Device) : Device := d.updFab fun f => { f with dropped := bump f.dropped }

/-- The job state a code names. -/
def jobStateOf (n : Nat) : JobState :=
  if n = 1 then .joining else if n = 2 then .active else if n = 3 then .hold else if n = 4 then .resuming else .none

/-- A heartbeat frame, of the rank that its header names (R368, R369). -/
def Device.takeHeartbeat (src : BitVec 14) (bs : List Byte) (d : Device) : Device :=
  d.heartbeatReceive src (jobStateOf (fieldAt bs 2 1)) (par bs 64 7 8) (par bs 64 15 8) (par bs 64 23 8)

/-- A frame for this device by its type; a reserved type means nothing to it. -/
def Device.frameForMe (d : Device) (p : Fin 8) (f : Frame) (lockstep : Bool) : Device :=
  match f.type with
  | .ack => d.ackReceive f.src f.msgId f.msgLength.toNat
  | .heartbeat => d.decoded p.val f.payload fun bs d => d.takeHeartbeat f.src bs
  | .linkAck => d
  | .linkNak => d
  | .data => d.acceptFrame p f lockstep
  | .control => d.acceptFrame p f lockstep
  | .pull => d.acceptFrame p f lockstep
  | .prune => d.acceptFrame p f lockstep
  | .reserved _ => d

/-- A frame that the link has delivered: out of hops, forwarded, or for this device (R358). -/
def Device.routeFrame (d : Device) (p : Fin 8) (f : Frame) (lockstep : Bool) : Device :=
  if f.hopsLeft = 0 then d.dropFrame
  else if f.dst ≠ d.fab.rank then d.sendFrame (f.pcp == (d.fab.ports[p]).ctrlPcp) { f with hopsLeft := f.hopsLeft - 1 }
  else d.frameForMe p f lockstep

/-- A frame whose LSN lies beyond the next one expected shows a gap, which is answered with a LINK_NAK (R362). -/
def Device.gapCheck (d : Device) (p : Fin 8) (f : Frame) : Device :=
  if lsnBefore (d.fab.ports[p]).rxLsn f.lsn then d.emitLink p .linkNak false else d

/-- A frame in order on a DIRECT port; a gap is answered with a LINK_NAK, a repeated frame discarded (R362). -/
def Device.directFrame (d : Device) (p : Fin 8) (f : Frame) (lockstep : Bool) : Device :=
  if f.lsn = (d.fab.ports[p]).rxLsn then
    (d.updOct p fun q => { q with rxLsn := q.rxLsn + 1, ackDue := true }).routeFrame p f lockstep
  else d.gapCheck p f

/-- A frame on a DIRECT port: what it acknowledges leaves the replay buffer; a LINK_ACK or LINK_NAK ends at the link (R362). -/
def Device.linkFrame (d : Device) (p : Fin 8) (f : Frame) (lockstep : Bool) : Device :=
  let d := d.linkAck p f.linkAcked
  match f.type with
  | .linkAck => d.gapCheck p f
  | .linkNak => d.linkNak p (f.linkAcked + 1) f.retransmit
  | .data => d.directFrame p f lockstep
  | .ack => d.directFrame p f lockstep
  | .heartbeat => d.directFrame p f lockstep
  | .control => d.directFrame p f lockstep
  | .pull => d.directFrame p f lockstep
  | .prune => d.directFrame p f lockstep
  | .reserved _ => d.directFrame p f lockstep

/-- FRAME_RECEIVE: a frame that fails its FCS, or whose EtherType or JOB_TAG is not the port's, is discarded and counted before anything of
it is used (R355, R356); one of another VERSION is discarded. -/
def Device.frameReceive (p : Fin 8) (f : Frame) (fcsOk : Bool) (lockstep : Bool) (d : Device) : Device :=
  let q := d.fab.ports[p]
  if !q.up then d
  else if !fcsOk then
    let d := d.dropFrame
    if q.mode = .direct then d.emitLink p .linkNak false else d
  else if f.ethertype ≠ q.ethertype || !d.joined || f.jobTag ≠ d.fab.jobTag then d.dropFrame
  else if f.version ≠ 1 then d
  else if q.mode = .direct then d.linkFrame p f lockstep
  else d.routeFrame p f lockstep

def execFrameReceive (port : Fin 8) (frame : Frame) (fcsOk : Bool) (lockstep : Bool) (s : State) : Answer :=
  s.act (Device.frameReceive port frame fcsOk lockstep)

end Sys2Proof.Machine
end

