-- ==== Sys2Proof/Machine/Tiers.lean ====
section
/-! DEFINITION. Memory tiers: OBJ_CREATE to BAR4_RESIZE (R273-R301, R339, R499-R501). -/

namespace Sys2Proof.Machine

/-! ### OBJ_CREATE, OBJ_DESTROY, OBJ_PIN, OBJ_SHARE (R297, R298) -/

/-- The home a packet names: none when a field is invalid, or serves another home and is not zero. -/
def homeOf (home index : BitVec 8) (mask : BitVec 20) (addr : Word64) : Option Home :=
  match home.toNat with
  | 1 => if mask = 0 ∧ addr = 0 then (asFin 8 index.toNat).map fun h => .t1 h [] else none
  | 2 => if index = 0 ∧ addr = 0 ∧ mask ≠ 0 then some (.t2 mask) else none
  | 3 => if mask = 0 then (asFin 2 index.toNat).map fun p => .t3 p addr else none
  | _ => none

/-- The largest number of objects. -/
def maxObjects : Nat := 262144

/-- The home with its space taken, or the status that refuses it (R281, R279). -/
def Device.takeHome (d : Device) (a : BitVec 6) (h : Home) (size : Nat) : Except Status Home :=
  match h.place with
  | none => .ok h
  | some p =>
    if !d.chargeFits a p (ceilDiv size p.granule) then .error .quota
    else match h with
      | .t1 k _ => match d.allocT1 k (ceilDiv size granT1) with | some parts => .ok (.t1 k parts) | none => .error .noSpace
      | .t2 m => if d.stacksFit m size then .ok h else .error .noSpace
      | .t3 _ _ => .ok h

/-- An object created at a base: its bytes are undefined until they are written (R303). -/
def Device.addObj (d : Device) (o : Obj) : Device :=
  { d with free := d.free + 1 }.updMem fun m =>
    { m with objects := m.objects ++ [o], fresh := m.fresh ++ [(o.base, o.size, d.free)] }

def Device.objCreate (h : CmdHdr) (id : Word32) (size : BitVec 48) (home index : BitVec 8) (mask : BitVec 20)
    (addr : Word64) (d : Device) : Device :=
  d.command 0x0101 h fun c d =>
    match homeOf home index mask addr with
    | none => d.finish c .badParam
    | some hm =>
      if id = 0 ∨ id = 0xFFFFFFFF ∨ (d.obj? id).isSome ∨ size = 0 then d.finish c .badParam
      else match d.takeHome h.account hm size.toNat with
        | .error .quota => (d.logQuota h.account).finish c .quota
        | .error st => d.finish c st
        | .ok hm =>
          if maxObjects ≤ d.mem.objects.length then d.finish c .noSpace
          else match d.baseFor size.toNat with
            | none => d.finish c .noSpace
            | some b =>
              (d.addObj { id := id, base := b, size := size.toNat, owner := h.account, home := hm }).ok c b

def execObjCreate (h : CmdHdr) (id : Word32) (size : BitVec 48) (home index : BitVec 8) (mask : BitVec 20)
    (hostAddr : Word64) (s : State) : Answer := s.act (Device.objCreate h id size home index mask hostAddr)

/-- A command on an object that exists, for its owner. -/
def Device.asOwner (d : Device) (c : OpenCmd) (id : Word32) (f : Obj → Device → Device) : Device :=
  match d.obj? id with
  | none => d.finish c .badParam
  | some o => if o.owner = c.hdr.account then f o d else d.finish c .notOwner

def Device.objDestroy (h : CmdHdr) (id : Word32) (d : Device) : Device :=
  d.command 0x0102 h fun c d => d.asOwner c id fun _ d => d.enqueue id c .destroy

def execObjDestroy (h : CmdHdr) (id : Word32) (s : State) : Answer := s.act (Device.objDestroy h id)

/-- The bit of an account in a mask of 64. -/
def accountBit (a : BitVec 6) : Word64 := 1 <<< a.toNat

def Device.objPin (h : CmdHdr) (id : Word32) (unpin : Bool) (d : Device) : Device :=
  d.command 0x0104 h fun c d =>
    match d.obj? id with
    | none => d.finish c .badParam
    | some o =>
      if o.hostPins.getLsbD h.account.toNat != unpin then d.finish c .badParam
      else if !o.readableBy h.account then d.finish c .notOwner
      else (d.updObj id fun o => { o with hostPins := o.hostPins ^^^ accountBit h.account }).ok c

def execObjPin (h : CmdHdr) (id : Word32) (unpin : Bool) (s : State) : Answer := s.act (Device.objPin h id unpin)

def Device.objShare (h : CmdHdr) (id : Word32) (readers : Word64) (d : Device) : Device :=
  d.command 0x0105 h fun c d =>
    d.asOwner c id fun _ d => (d.updObj id fun o => { o with readers := readers }).ok c

def execObjShare (h : CmdHdr) (id : Word32) (readers : Word64) (s : State) : Answer :=
  s.act (Device.objShare h id readers)

/-! ### OBJ_PLACE and moves (R277, R283, R284, R288, R298, R339) -/

/-- The target a packet names: none when a field is invalid, or serves another target and is not zero, or the target is not
above the home. -/
def targetOf (o : Obj) (target index : BitVec 8) (mask : BitVec 20) : Option Target :=
  match target.toNat with
  | 0 => if mask = 0 then (asFin 8 index.toNat).map Target.t0 else none
  | 1 => if mask = 0 ∧ 2 ≤ o.home.tier then (asFin 8 index.toNat).map Target.t1 else none
  | 2 => if index = 0 ∧ mask ≠ 0 ∧ o.home.tier = 3 then some (.t2 mask) else none
  | 3 => if index = 0 ∧ mask = 0 then some .home else none
  | _ => none

/-- A range starts and ends on a granule, or ends at the object's end. -/
def onGranule (g size off len : Nat) : Bool := off % g == 0 && ((off + len) % g == 0 || off + len == size)

/-- An extent is cut by a range: it overlaps it and is not wholly inside it. -/
def Extent.isCut (e : Extent) (off len : Nat) : Bool :=
  decide (e.start < off + len ∧ off < e.start + e.length) && !decide (off ≤ e.start ∧ e.start + e.length ≤ off + len)

/-- A range of a move obeys R277 on the object as it is: inside it, on the target's granule, on that of every extent it
cuts, and with at most 64 extents after. An empty range moves nothing and is invalid (log entry 13). -/
def Obj.rangeOk (o : Obj) (t : Target) (off len : Nat) : Bool :=
  decide (0 < len ∧ off + len ≤ o.size)
    && ((t.place []).all fun p => onGranule p.granule o.size off len)
    && (o.extents.all fun e => t.isAt e.place || !e.isCut off len || onGranule e.place.granule o.size off len)
    && decide ((o.extentsAfter t off len []).length ≤ 64)

/-- Bytes of a range that a move takes to another place. -/
def Obj.bytesMoved (o : Obj) (t : Target) (off len : Nat) : Nat :=
  match t with
  | .home => len - sumOf Prod.snd (outside o.extents off len)
  | _ => sumOf Prod.snd (o.missing t off len)

/-- A source or a target of the move lies in T3. -/
def Obj.t3Side (o : Obj) (t : Target) (off len : Nat) : Bool :=
  (t == .home && o.home.tier == 3) || !(o.t3Segments off len).isEmpty

/-- The floor rate of a move in thousandths of a byte per tick: percent of 1,638.4 GB/s over the stacks it touches (R339);
none with no T2 side. -/
def Device.floorRate (d : Device) (src tgt : List (Fin 20)) : Option Nat :=
  let all := (src ++ tgt).eraseDups
  let r := d.mem.floors.read.toNat
  let w := d.mem.floors.write.toNat
  if all.isEmpty then none
  else some (sumOf (fun k =>
    16384 * (if src.contains k then (if tgt.contains k then min r w else r) else w)) all)

/-- Unit and overhead of the target tier (R294). -/
def transferUnit : Nat → Nat × Nat
  | 2 => (64, 224)
  | 3 => (64, 448)
  | _ => (32, 28)

/-- Bytes charged for a move: every piece rounded up to the unit of the target tier, plus its overhead (R339). -/
def Obj.chargedBytes (o : Obj) (t : Target) (off len : Nat) : Nat :=
  let (u, ov) := transferUnit ((t.tier).getD o.home.tier)
  let p := o.pieceSize t off len
  len / p * (roundUp p u + ov) + (if len % p = 0 then 0 else roundUp (len % p) u + ov)

/-- T of R339 in ticks: none when the floors give the move no bandwidth. -/
def Device.moveTime (d : Device) (o : Obj) (t : Target) (off len : Nat) : Option Nat :=
  let rate := match d.floorRate (o.sourceStacks t off len) (o.targetStacks t off len) with
    | none => 256000
    | some r => min 256000 r
  if rate = 0 then none else some (ceilDiv (o.chargedBytes t off len * 1000) rate + 2000)

/-- Ticks that the BEST_EFFORT moves queued or under way on an engine take, each by the model of R339 for the pieces it has left; none where
the floors give one of them no bandwidth (R339; log entry 59). -/
def Device.movesAhead (d : Device) (e : Fin 4) : Option Nat :=
  let left (o : Obj) (q : ObjOp) : Option (Option Nat) :=
    match q.op with
    | .place _ t off len =>
      let k := match q.state with | .move _ k _ => k | _ => 0
      let cut := k * o.pieceSize t off len
      if !q.cmd.hdr.promised && o.engine t off len == e then some (d.moveTime o t (off + cut) (len - cut)) else none
    | _ => none
  let ts := d.mem.objects.flatMap fun o => o.queue.filterMap (left o)
  if ts.all Option.isSome then some (sumOf (fun t => t.getD 0) ts) else none

/-- Admission of a PROMISED OBJ_PLACE (R336, R339). -/
def Device.admitMove (d : Device) (c : OpenCmd) (o : Obj) (t : Target) (off len : Nat) : Device × Bool :=
  if !d.tb.locked then (d.refuseTime c .reference, false)
  else match d.moveTime o t off len with
    | none => (d.refuseTime c .assumption, false)
    | some n =>
      if o.anyT3 || o.t3Side t off len then (d.finish c .staging, false)
      else if d.commitmentsFull then (d.refuseTime c .commitments, false)
      else if !d.bellowsGrantsMove then (d.refuseTime c .cap, false)
      else d.accept c
        { promise := { hdr := c.hdr, opcode := c.opcode, resources := 0x800, tick := 0, engine := some (o.engine t off len)
                       object := some o.id, pins := [o.id] }
          time := n, drain := d.movesAhead (o.engine t off len) }

/-- A target that twin mode does not let OBJ_PLACE name: the shadow of a pair (R388). -/
def Device.shadowTarget (d : Device) : Target → Bool
  | .t0 n => d.integ.twin && n.val % 2 == 1
  | _ => false

def Device.objPlace (h : CmdHdr) (id : Word32) (nowait : Bool) (target index : BitVec 8) (off len : BitVec 48)
    (mask : BitVec 20) (d : Device) : Device :=
  d.command 0x0103 h fun c d =>
    match d.obj? id with
    | none => d.finish c .badParam
    | some o =>
      match targetOf o target index mask with
      | none => d.finish c .badParam
      | some t =>
        if !o.rangeOk t off.toNat len.toNat || d.shadowTarget t then d.finish c .badParam
        else if !o.readableBy h.account || (t == .home && o.owner != h.account) then d.finish c .notOwner
        else
          let op : QueuedOp := .place nowait t off.toNat len.toNat
          if h.promised then
            match d.admitMove c o t off.toNat len.toNat with
            | (d, true) => d.enqueue id c op
            | (d, false) => d
          else d.enqueue id c op

def execObjPlace (h : CmdHdr) (id : Word32) (nowait : Bool) (target index : BitVec 8) (offset length : BitVec 48)
    (mask : BitVec 20) (s : State) : Answer := s.act (Device.objPlace h id nowait target index offset length mask)

/-- A Hoist engine's counters. -/
def Device.updHoist (d : Device) (e : Fin 4) (f : Hoist → Hoist) : Device :=
  d.updMem fun m => { m with hoists := Bank.upd m.hoists e f }

/-- A move ends with a status: HST_MOVES.REFUSED counts ST_BUSY, ST_QUOTA and ST_NO_SPACE (R300). -/
def Device.endMove (d : Device) (o : Obj) (c : OpenCmd) (e : Fin 4) (st : Status) (result : Nat := 0) : Device :=
  let d :=
    if st = .busy ∨ st = .quota ∨ st = .noSpace then d.updHoist e fun x => { x with refused := bump x.refused }
    else if st = .ok then d.updHoist e fun x => { x with completed := bump x.completed } else d
  ((d.updObj o.id Obj.popQueue).conclude c st result).runQueue o.id

/-- Moves in MOVING on an engine. -/
def Device.movesOn (d : Device) (e : Fin 4) : Nat :=
  (d.mem.objects.filter fun o => match o.moving with
    | some (t, off, len, _, _) => o.engine t off len == e
    | none => false).length

/-- The charge of a move: the granules its target lacks (R281). -/
def Device.moveCharge (d : Device) (o : Obj) (t : Target) (off len : Nat) : Bool :=
  match t.place [] with
  | none => true
  | some p => d.chargeFits o.owner p (sumOf (fun s => ceilDiv s.2 p.granule) (o.missing t off len))

/-- The T3 bytes of a piece of a move asked of the host; a move of them to a target that the port's link does not let in ends
(R298, R509). -/
def Device.askPiece (d : Device) (o : Obj) (c : OpenCmd) (t : Target) (off len k : Nat) : Device × Bool :=
  let p := o.pieceSize t off len
  if t == .home then (d, true) else d.askT3 o (off + k * p) (min p (len - k * p)) (.objT3 o.id) c

/-- Writes held for the piece in copy. -/
def Obj.held (o : Obj) : List (Nat × List Byte) := (o.queue.head?.map ObjOp.heldWrites).getD []

/-- A move that cannot go on ends with ST_ABORTED: the pieces switched stay where they are (log entry 144), and what was written to the
piece in copy is stored. -/
def Device.abortMove (d : Device) (o : Obj) (c : OpenCmd) (t : Target) (off len : Nat) : Device :=
  let d := d.updObj o.id fun x => Obj.setHead { x with extents := o.view } .fresh
  (o.held.foldl (fun d w => d.objStore o.id w.1 w.2) d).endMove o c (o.engine t off len) .aborted

/-- A PROMISED OBJ_PLACE of another command holds the engine, and the move is a BEST_EFFORT one (R337). -/
def Device.engineHeld (d : Device) (c : OpenCmd) (e : Fin 4) : Bool := !c.hdr.promised && d.adm.promises.any fun p => p.engine == some e

/-- A move at the head of its queue, pins aside and no Seedbank hold on (R485): its checks, its charge, its first piece (Move states, R298, R509). -/
def Device.startMove (d : Device) (o : Obj) (c : OpenCmd) (t : Target) (off len : Nat) : Device :=
  let e := o.engine t off len
  if !o.rangeOk t off len then d.endMove o c e .badParam
  else if o.hardPinned then d.endMove o c e .busy
  else if !d.moveCharge o t off len then (d.logQuota o.owner).endMove o c e .quota
  else match d.space o t off len with
    | none => d.endMove o c e .noSpace
    | some parts =>
      if 64 ≤ d.movesOn e ∨ d.engineHeld c e ∨ d.sec.hold then d
      else
        match o.home with
        | .t3 port _ =>
          if o.t3Side t off len && !d.linkUp port then (d.dmaFailed port c).endMove o c e .aborted
          else ((d.updObj o.id (·.setHead (.move .moving 0 parts))).askPiece o c t off len 0).1
        | _ => d.updObj o.id (·.setHead (.move .moving 0 parts))

/-- Step pins on the object that hold a command's move: all but its own (R288). -/
def Device.foreignPins (d : Device) (o : Obj) (c : OpenCmd) : Nat := o.stepPins - (if (d.promiseOf c).isSome then 1 else 0)

/-- MOVE_START: the move at the head of an object's queue. -/
def Device.moveStart (id : Word32) (d : Device) : Device :=
  match d.obj? id with
  | none => d
  | some o =>
    match o.queue with
    | { op := .place nowait t off len, state := .fresh, cmd := c, .. } :: _ =>
      if 0 < d.foreignPins o c then
        if nowait then d.endMove o c (o.engine t off len) .busy else d.updObj id (·.setHead (.move .pinWait 0 []))
      else d.startMove o c t off len
    | _ => d

def execMoveStart (object : Word32) (s : State) : Answer := s.act (Device.moveStart object)

/-- MOVE_PIN_RELEASE: a move in PIN_WAIT once the last step pin is released. -/
def Device.movePinRelease (id : Word32) (d : Device) : Device :=
  match d.obj? id with
  | none => d
  | some o =>
    match o.queue with
    | { op := .place _ t off len, state := .move .pinWait _ _, cmd := c, .. } :: _ =>
      if 0 < d.foreignPins o c then d else d.startMove o c t off len
    | _ => d

def execMovePinRelease (object : Word32) (s : State) : Answer := s.act (Device.movePinRelease object)

/-- The bytes of a range of an object that lie in an extent. -/
def Obj.extentSegments (o : Obj) (off len : Nat) : List (Nat × Nat) :=
  o.extents.filterMap fun e =>
    let lo := max off e.start
    let hi := min (off + len) (e.start + e.length)
    if lo < hi then some (lo, hi - lo) else none

/-- The bytes of a piece that go home to T3, those of extents, written to the host (R276, R277). -/
def Device.pieceHome (d : Device) (o : Obj) (off n : Nat) : Device :=
  match o.home with
  | .t3 port addr =>
    (o.extentSegments off n).foldl (fun d s => d.hostWrite port (addr + BitVec.ofNat 64 s.1) (d.objBytes o s.1 s.2)) d
  | _ => d

/-- The port of a T3 home that the next bytes of a move need has its link down. -/
def Device.homeBarred (d : Device) (o : Obj) (t : Target) (off n : Nat) : Bool :=
  match o.home with
  | .t3 port _ => t == .home && !(o.extentSegments off n).isEmpty && !d.linkUp port
  | _ => false

/-- One piece switched: what lies in extents and goes home to T3 is written to the host, lines of T2 bytes written leave the hearths
(R286); writes held for the piece apply at the target. -/
def Device.switchPiece (d : Device) (o : Obj) (t : Target) (off len k : Nat) (parts : List (Fin 10 × Nat))
    (held : List (Nat × List Byte)) : Device :=
  let p := o.pieceSize t off len
  let at' := off + k * p
  let n := min p (len - k * p)
  let e := o.engine t off len
  let d := d.updHoist e fun x => { x with bytes := satAdd x.bytes n }
  let d := if t == .home then d.pieceHome o at' n else d
  let d := d.updMem fun m => m.invalidate none (o.base + at') n
  let d := d.updObj o.id fun o =>
    { o with queue := match o.queue with
        | q :: r => { q with state := .move .moving (k + 1) parts, heldWrites := [] } :: r
        | [] => [] }
  held.foldl (fun d w => d.objStore o.id w.1 w.2) d

/-- The piece of a move is in hand and switches; with the last one the extents change and the move ends (R283, R284), and before that
the T3 bytes of the next piece are asked for. -/
def Device.pieceSwitched (d : Device) (o : Obj) (c : OpenCmd) (t : Target) (off len k : Nat) (parts : List (Fin 10 × Nat))
    (held : List (Nat × List Byte)) : Device :=
  let d := d.switchPiece o t off len k parts held
  if len ≤ (k + 1) * o.pieceSize t off len then
    let d := d.updObj o.id fun x => { x with extents := o.extentsAfter t off len parts }
    d.endMove o c (o.engine t off len) .ok (o.bytesMoved t off len)
  else match d.obj? o.id with
    | none => d
    | some o' =>
      let (d, ok) := d.askPiece o' c t off len (k + 1)
      if ok then d else d.abortMove o' c t off len

/-- MOVE_PIECE_SWITCH: the piece in copy switches, once a Seedbank hold is released (R485); a byte of it that must go to a host whose link is down ends the move (R298). -/
def Device.movePieceSwitch (id : Word32) (errs : List WordError) (d : Device) : Device :=
  match d.obj? id with
  | none => d
  | some o =>
    match o.queue with
    | { op := .place _ t off len, state := .move .moving k parts, cmd := c, heldWrites := held } :: _ =>
      let p := o.pieceSize t off len
      if d.objReads id || d.sec.hold then d
      else if d.homeBarred o t (off + k * p) (min p (len - k * p)) then
        d.abortMove o c t off len
      else d.consume errs fun d => d.pieceSwitched o c t off len k parts held
    | _ => d

def execMovePieceSwitch (object : Word32) (errs : List WordError) (s : State) : Answer := s.act (Device.movePieceSwitch object errs)

/-! ### OBJ_WRITE, OBJ_READ, OBJ_QUERY, OBJ_MAP -/

/-- The range of an OBJ_WRITE or OBJ_READ is valid: 1 to 2^30 bytes inside the object, even under a conversion (R297). -/
def Obj.xferOk (o : Obj) (convert : BitVec 8) (off len : Nat) : Bool :=
  decide (convert.toNat ≤ 1 ∧ 1 ≤ len ∧ len ≤ 2 ^ 30 ∧ off + len ≤ o.size)
    && (convert == 0 || (off % 2 == 0 && len % 2 == 0))

def Device.objWrite (h : CmdHdr) (id : Word32) (nowait : Bool) (convert : BitVec 8) (off : BitVec 48) (len : Word32)
    (host : Word64) (d : Device) : Device :=
  d.command 0x0106 h fun c d =>
    match d.obj? id with
    | none => d.finish c .badParam
    | some o =>
      if !o.xferOk convert off.toNat len.toNat then d.finish c .badParam
      else if o.owner != h.account then d.finish c .notOwner
      else
        let r : Range := { object := id, lo := off.toNat, hi := off.toNat + len.toNat }
        let waits := d.writeWaits r
        let idle := d.writeIdle id
        if d.coversFrozen r then d.finish c .frozen
        else if nowait && !(waits.isEmpty && idle.isEmpty) then d.finish c .version
        else if d.coversPool id then d.finish c .busy
        else d.enqueue id c (.write nowait (convert == 1) off.toNat len.toNat host waits idle)

def execObjWrite (h : CmdHdr) (id : Word32) (nowait : Bool) (convert : BitVec 8) (offset : BitVec 48) (length : Word32)
    (hostAddr : Word64) (s : State) : Answer := s.act (Device.objWrite h id nowait convert offset length hostAddr)

/-- HELD_WRITE_APPLY (R180, R240): a held write whose waits are over is applied. -/
def Device.heldWriteApply (id : Word32) (d : Device) : Device :=
  match d.obj? id with
  | none => d
  | some o =>
    match o.queue with
    | { op := .write _ conv off len _ waits idle, state := .held data, cmd := c, .. } :: _ =>
      (d.writeHead o c conv off len waits idle data).runQueue id
    | _ => d

def execHeldWriteApply (object : Word32) (s : State) : Answer := s.act (Device.heldWriteApply object)

def Device.objRead (h : CmdHdr) (id : Word32) (convert : BitVec 8) (off : BitVec 48) (len : Word32) (host : Word64)
    (errs : List WordError) (d : Device) : Device :=
  d.command 0x0107 h fun c d =>
    match d.obj? id with
    | none => d.finish c .badParam
    | some o =>
      if !o.xferOk convert off.toNat len.toNat then d.finish c .badParam
      else if !o.readableBy h.account then d.finish c .notOwner
      else d.enqueue id c (.read (convert == 1) off.toNat len.toNat host errs)

def execObjRead (h : CmdHdr) (id : Word32) (convert : BitVec 8) (offset : BitVec 48) (length : Word32)
    (hostAddr : Word64) (errs : List WordError) (s : State) : Answer :=
  s.act (Device.objRead h id convert offset length hostAddr errs)

/-- The result of OBJ_QUERY (R297). -/
def Obj.queryResult (o : Obj) (tier : Nat) (a : BitVec 6) : Nat :=
  let bit (b : Bool) (k : Nat) : Nat := if b then 2 ^ k else 0
  o.bytesIn tier % 2 ^ 48 + o.extents.length % 64 * 2 ^ 48 + bit (decide (0 < o.stepPins)) 54
    + bit (decide (0 < o.progPins)) 55 + bit (!o.mapPins.isEmpty) 56 + bit (o.hostPins.getLsbD a.toNat) 57
    + o.owner.toNat * 2 ^ 58

def Device.objQuery (h : CmdHdr) (id : Word32) (tier : BitVec 8) (d : Device) : Device :=
  d.command 0x0108 h fun c d =>
    match d.obj? id with
    | none => d.finish c .badParam
    | some o =>
      if 4 ≤ tier.toNat then d.finish c .badParam
      else if !o.readableBy h.account then d.finish c .notOwner
      else d.ok c (o.queryResult tier.toNat h.account)

def execObjQuery (h : CmdHdr) (id : Word32) (tier : BitVec 8) (s : State) : Answer := s.act (Device.objQuery h id tier)

/-- The object can be mapped, or unmapped, on a port as it stands (R298). -/
def Device.mapInvalid (d : Device) (o : Obj) (p : Fin 2) (unmap : Bool) : Bool :=
  if unmap then !(d.ports[p].mappings.any fun m => m.object == o.id) else !o.allT2 || !o.extents.isEmpty

def Device.objMap (h : CmdHdr) (id : Word32) (unmap : Bool) (d : Device) : Device :=
  d.command 0x0109 h fun c d =>
    match d.obj? id with
    | none => d.finish c .badParam
    | some o =>
      if o.owner = h.account then d.enqueue id c (.map unmap)
      else d.finish c (if d.mapInvalid o h.port unmap then .badParam else .notOwner)

def execObjMap (h : CmdHdr) (id : Word32) (unmap : Bool) (s : State) : Answer := s.act (Device.objMap h id unmap)

/-! ### Quotas and floors -/

/-- The largest limit of a tier (R280). -/
def quotaMax : Nat → Nat
  | 0 => 240000
  | 1 => 81920
  | _ => 655360

/-- The fields of a quota command are in range (R297). -/
def quotaFields (account tier array : BitVec 8) : Bool :=
  decide (account.toNat < 64 ∧ tier.toNat < 3 ∧ (if tier = 0 then array.toNat < 8 else array = 0))

/-- A limit set. -/
def Quota.put (q : Quota) (tier array : Nat) (v : Word32) : Quota :=
  match tier with
  | 0 => { q with t0 := Bank.upd q.t0 (clampFin 7 array) fun _ => v }
  | 1 => { q with t1 := v }
  | _ => { q with t2 := v }

def Quota.get (q : Quota) (tier array : Nat) : Word32 :=
  match tier with
  | 0 => q.t0[clampFin 7 array]
  | 1 => q.t1
  | _ => q.t2

def Device.quotaSet (h : CmdHdr) (account tier array : BitVec 8) (limit : Word32) (d : Device) : Device :=
  d.adminCommand 0x010A h fun c d =>
    if !quotaFields account tier array || decide (quotaMax tier.toNat < limit.toNat) then d.finish c .badParam
    else (d.updMem fun m =>
      { m with quotas := Bank.upd m.quotas (clampFin 63 account.toNat) (·.put tier.toNat array.toNat limit) }).ok c

def execQuotaSet (h : CmdHdr) (account tier array : BitVec 8) (limit : Word32) (s : State) : Answer :=
  s.act (Device.quotaSet h account tier array limit)

/-- Granules an account uses. -/
def Device.used (d : Device) (a : BitVec 6) (tier array : Nat) : Nat :=
  match tier with
  | 0 => d.usedT0 a (clampFin 7 array)
  | 1 => d.usedT1 a
  | _ => d.usedT2 a

def Device.quotaQuery (h : CmdHdr) (account tier array : BitVec 8) (d : Device) : Device :=
  d.command 0x010B h fun c d =>
    if account.toNat ≠ h.account.toNat ∧ !d.isAdmin h.port then d.finish c .notAdmin
    else if !quotaFields account tier array then d.finish c .badParam
    else
      let a : BitVec 6 := account.setWidth 6
      let q := d.mem.quotas[a.toNat]'(a.isLt)
      d.ok c ((q.get tier.toNat array.toNat).toNat + 2 ^ 32 * d.used a tier.toNat array.toNat)

def execQuotaQuery (h : CmdHdr) (account tier array : BitVec 8) (s : State) : Answer :=
  s.act (Device.quotaQuery h account tier array)

def Device.memArbSet (h : CmdHdr) (r w m : BitVec 8) (d : Device) : Device :=
  d.adminCommand 0x010C h fun c d =>
    if 90 < r.toNat ∨ 90 < w.toNat ∨ 90 < m.toNat ∨ 90 < r.toNat + w.toNat + m.toNat then d.finish c .badParam
    else if !d.adm.promises.isEmpty then d.finish c .busy
    else (d.updMem fun t => { t with floors := { read := r, write := w, remote := m } }).ok c

def execMemArbSet (h : CmdHdr) (read write remote : BitVec 8) (s : State) : Answer :=
  s.act (Device.memArbSet h read write remote)

/-! ### Arbitration, streaming, the hearth (R287, R290, R291) -/

/-- Requests in increasing deadline, the lower requester first on a tie; those with no deadline last, in arrival order. -/
def MemRequest.before (a b : MemRequest) : Bool :=
  decide (a.deadline < b.deadline)
    || (a.deadline == b.deadline && a.deadline != 2 ^ 64 - 1 && decide (a.requester < b.requester))

/-- A request put in its place. -/
def insertRequest (x : MemRequest) : List MemRequest → List MemRequest
  | [] => [x]
  | y :: r => if x.before y then x :: y :: r else y :: insertRequest x r

/-- Requests in the order of service; equal ones keep their order. -/
def sortRequests (rs : List MemRequest) : List MemRequest := rs.foldl (fun l x => insertRequest x l) []

/-- Up to `budget` bytes served to the requests `pick` selects, in order: what is left of the budget, the requests, and the
bytes of each. -/
def serve (pick : MemRequest → Bool) : List MemRequest → Nat → Nat × List MemRequest × List (Nat × Nat)
  | [], b => (b, [], [])
  | x :: r, b =>
    if pick x then
      let n := min x.bytes b
      let (b, rs, out) := serve pick r (b - n)
      (b, { x with bytes := x.bytes - n } :: rs, (x.requester, n) :: out)
    else
      let (b, rs, out) := serve pick r b
      (b, x :: rs, out)

/-- Bytes a stack serves in a window of 512 ticks, 1,638.4 GB/s, and a floor of it, whole bytes. -/
def windowBytes : Nat := 838860
def floorBytes (pct : BitVec 8) : Nat := pct.toNat * 8388608 / 1000

/-- Reads a controller has outstanding at most; those of the twenty together are the device's 10,240 (R293). -/
def stackReads : Nat := 512

/-- The requests that reach the controller, and those whose requester waits at the limit of outstanding reads (R293). -/
def joinRequests : List MemRequest → List MemRequest → List MemRequest × List MemRequest
  | rs, [] => (rs, [])
  | rs, x :: r =>
    if x.read && decide (stackReads ≤ (rs.filter MemRequest.read).length) then
      let (rs, left) := joinRequests rs r
      (rs, x :: left)
    else joinRequests (rs ++ [x]) r

/-- Bytes of a scrub unit, and the requester number of the patrol scrub (log entry 143). -/
def scrubBytes : Nat := 2048
def scrubRequester : Nat := adderRequester + 1

/-- The read of the unit that the patrol scrub waits for, its due tick as its deadline: outside DIAG and with a period set (R308). -/
def Stack.scrubRequest (s : Stack) : List MemRequest :=
  if s.diag || s.scrubHours == 0 then []
  else [{ cls := none, read := true, requester := scrubRequester, deadline := s.scrubDue, bytes := scrubBytes - s.scrubServed }]

/-- ARB_WINDOW (R291): the requests that arrived join those waiting; each class is served to its floor, then all, the patrol scrub among
them (R308), from the remainder. -/
def Device.arbWindow (k : Fin 20) (reqs : List MemRequest) (d : Device) : Device :=
  let f := d.mem.floors
  let s := d.mem.hbm[k]
  let (rs, left) := joinRequests s.requests (s.stalled ++ reqs)
  let rs := sortRequests rs
  let (b0, rs, o0) := serve (fun x => x.cls == some 0) rs (floorBytes f.read)
  let (b1, rs, o1) := serve (fun x => x.cls == some 1) rs (floorBytes f.write)
  let (b2, rs, o2) := serve (fun x => x.cls == some 2) rs (floorBytes f.remote)
  let spare := windowBytes - (floorBytes f.read + floorBytes f.write + floorBytes f.remote) + b0 + b1 + b2
  let (_, rs, o3) := serve (fun _ => true) (sortRequests (rs ++ s.scrubRequest)) spare
  let scrubbed := sumOf (fun x : Nat × Nat => if x.1 = scrubRequester then x.2 else 0) o3
  d.updStack k fun s =>
    { s with
      requests := rs.filter fun x => x.cls.isSome && x.bytes != 0
      stalled := left
      scrubServed := s.scrubServed + scrubbed
      served := (o0 ++ o1 ++ o2 ++ o3).filter fun x => x.2 != 0 }

def execArbWindow (stack : Fin 20) (requests : List MemRequest) (s : State) : Answer :=
  s.act (Device.arbWindow stack requests)

/-- The step whose slot is released on an array's lanes: its program slot and number. -/
def Device.stepOnArray (d : Device) (n : Fin 8) : Option (Nat × Nat) :=
  d.programs.findSome? fun (k, p) => (p.steps.find? fun s =>
    (s.lanes[n.val]'(by omega)).active || (s.lanes[8 + n.val]'(by omega)).active).map fun s => (k.val, s.step)

/-- STREAM_DATA_ARRIVE (R290): data that came late froze the array for some cycles; PREFETCH_LATE is logged once per step and
array, and folded after that. -/
def Device.streamDataArrive (n : Fin 8) (late stall : Nat) (d : Device) : Device :=
  if late = 0 ∧ stall = 0 then d
  else
    let who := d.stepOnArray n
    let d := d.updHearth n fun h => { h with late := bump h.late, stall := satAdd h.stall stall }
    if who.isSome && d.arrays[n].lateLogged == who then d.repeatEvent 0x0101 .info n.val (srcHearth n.val)
    else (d.updArray n fun a => { a with lateLogged := who }).logEvent 0x0101 .info n.val (evData [(8, late)])
      (srcHearth n.val)

def execStreamDataArrive (array : Fin 8) (lateTicks stallCycles : Nat) (s : State) : Answer :=
  s.act (Device.streamDataArrive array lateTicks stallCycles)

/-- Partitions of a hearth that a write would make CACHE while they hold granules (R287). -/
def Device.blockedParts (d : Device) (h : Fin 8) (v : BitVec 10) : BitVec 10 :=
  (Bank.indices 10).foldl (fun b p =>
    if v.getLsbD p.val && d.scratch h p && decide (0 < d.partUsed h p) then b ||| (1 <<< p.val) else b) 0

/-- Bits of the system partitions of a hearth. -/
def systemMask (h : Fin 8) : BitVec 10 := if h.val = 0 then 0x3E0 else 0x200

/-- HRT_PART takes a value (R287). -/
def Device.setPart (h : Fin 8) (v : BitVec 10) (d : Device) : Device :=
  let v := v &&& ~~~(systemMask h)
  let b := d.blockedParts h v
  let c := v &&& ~~~b
  let d := d.updHearth h fun x => { x with cache := c, lines := x.lines.filter fun l => c.getLsbD l.1.val }
  if b = 0 then d else d.logEvent 0x0102 .warn h.val 0 (srcHearth h.val)

def offHearth (h : Fin 8) : Nat := 0x02200000 + h.val * 0x00020000

def Device.hrtPartWrite (req : Requester) (h : Fin 8) (v : Word32) (d : Device) : Device :=
  d.writeBy req (offHearth h + 8) none (Device.setPart h (v.extractLsb' 0 10))

def execHrtPartWrite (req : Requester) (hearth : Fin 8) (value : Word32) (s : State) : Answer :=
  s.act (Device.hrtPartWrite req hearth value)

/-! ### The aperture (R499-R501) -/

/-- The mapped object and the object offset of an aperture range that lies wholly in one mapping below the BAR's size. -/
def Device.mappedAt (d : Device) (p : Fin 2) (off len : Nat) : Option (Obj × Nat) :=
  let q := d.ports[p]
  if 2 ^ q.bar4Log2.toNat < off + len then none
  else (q.mappings.find? fun m => decide (m.offset ≤ off ∧ off < m.offset + m.span)).bind fun m =>
    (d.obj? m.object).bind fun o => if off + len ≤ m.offset + o.size then some (o, off - m.offset) else none

/-- APERTURE_READ (R500): an access reaches the device while the port's link is up. -/
def Device.apertureRead (p : Fin 2) (off : BitVec 40) (len : Nat) (errs : List WordError) (d : Device) : Device :=
  if !d.linkUp p then d
  else match d.mappedAt p off.toNat len with
    | none => d.emit (.apertureAbort p)
    | some (o, a) => d.consume errs fun d => d.emit (.apertureData p (d.objBytes o a len))

def execApertureRead (port : Fin 2) (offset : BitVec 40) (length : Nat) (errs : List WordError) (s : State) : Answer :=
  s.act (Device.apertureRead port offset length errs)

/-- A discarded aperture write is logged (R297, R500). -/
def Device.apertureDropped (d : Device) (p : Fin 2) : Device :=
  d.logEvent 0x0103 .warn p.val 0 (srcIntake p)

/-- APERTURE_WRITE (R297, R500). -/
def Device.apertureWrite (p : Fin 2) (off : BitVec 40) (bs : List Byte) (d : Device) : Device :=
  if !d.linkUp p then d
  else match d.mappedAt p off.toNat bs.length with
    | none => (d.emit (.aerCompleterAbort p)).apertureDropped p
    | some (o, a) => if d.objectNamed o.id then d.apertureDropped p else d.objStore o.id a bs

def execApertureWrite (port : Fin 2) (offset : BitVec 40) (bytes : List Byte) (s : State) : Answer :=
  s.act (Device.apertureWrite port offset bytes)

/-- BAR4_RESIZE (R498, R501): 1 GiB to 1 TiB; a mapping cut by the new size is logged. -/
def Device.bar4Resize (p : Fin 2) (n : BitVec 6) (d : Device) : Device :=
  if n.toNat < 30 ∨ 40 < n.toNat then d
  else
    let cut := d.ports[p].mappings.any fun m =>
      decide (2 ^ n.toNat < m.offset + m.span ∧ m.offset + m.span ≤ 2 ^ d.ports[p].bar4Log2.toNat)
    let d := d.updPort p fun q => { q with bar4Log2 := n }
    if cut then d.logEvent 0x0105 .warn p.val 0 (srcIntake p) else d

def execBar4Resize (port : Fin 2) (sizeLog2 : BitVec 6) (s : State) : Answer := s.act (Device.bar4Resize port sizeLog2)

end Sys2Proof.Machine
end

