-- ==== Sys2Proof/Machine/Pcie.lean ====
section
/-! DEFINITION. The host links: PERST_ASSERT to MSIX_UNMASK, PERST_RELEASE, and the completions of reads of host memory
(R297, R475, R502-R510, R516, R528). -/

namespace Sys2Proof.Machine

/-! ### Links (R505, R509, R510, R528) -/

/-- PCFG_LINKp (R515): DOWN_MS saturates. -/
def Device.linkWord (d : Device) (p : Fin 2) : Nat :=
  let q := d.ports[p]
  let ms := if q.linkUp then 0 else min (2 ^ 32 - 1) ((d.tb.now - q.downSince).toNat / 1000000)
  q.width.toNat + 2 ^ 5 * q.speed.toNat + (if q.linkUp then 2 ^ 8 else 0) + (if q.d3hot then 2 ^ 9 else 0)
    + (if q.perst then 2 ^ 10 else 0) + 2 ^ 16 * q.downCount.toNat + 2 ^ 32 * ms

/-- A transition of a port's link under R505 counted and logged, after a change that found it `was` up. -/
def Device.linkChanged (d : Device) (p : Fin 2) (was : Bool) : Device :=
  match was, d.linkUp p with
  | true, false =>
    (d.updPort p fun q => { q with downCount := bump q.downCount, downSince := d.tb.now }).logEvent 0x0008 .warn p.val 0 (srcIntake p)
  | false, true => d.logEvent 0x0009 .info p.val (d.linkWord p) (srcIntake p)
  | _, _ => d

/-- The port changed, with what follows for its link. -/
def Device.changeLink (d : Device) (p : Fin 2) (f : HostPort → HostPort) : Device :=
  (d.updPort p f).linkChanged p (d.linkUp p)

/-- The data link is down and nothing is negotiated. -/
def HostPort.dropLink (q : HostPort) : HostPort := { q with dlUp := false, width := 0, speed := 0 }

/-- The configuration space of the port at its defaults: MSI-X disabled, BAR4 of 1 GiB, D0 (R510). -/
def HostPort.configDefault (q : HostPort) : HostPort := { q with msixEnable := false, msixMask := false, bar4Log2 := 30, d3hot := false }

/-- The level of PERSTn_N. -/
def Device.setPerstPin (p : Fin 2) (low : Bool) (d : Device) : Device := d.updPort p fun q => { q with perst := low }

/-- PERST_ASSERT (R510): ENABLE cleared, the configuration space at its defaults, the link down. -/
def Device.perstAssert (p : Fin 2) (d : Device) : Device :=
  (d.changeLink p fun q => { q.dropLink.configDefault with perst := true }).stopPort p

def execPerstAssert (port : Fin 2) (s : State) : Answer := s.actPin (Device.perstAssert port) (Device.setPerstPin port true)

/-- PERST_RELEASE (R528): PCFG_LINKp.PERST clears and training begins. -/
def Device.perstRelease (p : Fin 2) (d : Device) : Device :=
  if d.ports[p].perst then (d.changeLink p fun q => { q with perst := false }).emit (.pcieTraining p) else d

def execPerstRelease (port : Fin 2) (s : State) : Answer := s.actPin (Device.perstRelease port) (Device.setPerstPin port false)

/-- PCIE_HOT_RESET: a hot reset or link disable has the effect of PERSTn_N (R510). -/
def Device.hotReset (p : Fin 2) (d : Device) : Device := (d.changeLink p fun q => q.dropLink.configDefault).stopPort p

def execPcieHotReset (port : Fin 2) (s : State) : Answer := s.act (Device.hotReset port)

/-- PCIE_LINK_DOWN (R505, R509): DL_Down, or the function enters D3hot. -/
def Device.linkDown (p : Fin 2) (d3hot : Bool) (d : Device) : Device :=
  d.changeLink p fun q => if d3hot then { q with d3hot := true } else q.dropLink

def execPcieLinkDown (port : Fin 2) (d3hot : Bool) (s : State) : Answer := s.act (Device.linkDown port d3hot)

/-- Pending vectors of a port that nothing holds back any more are sent (R503). -/
def Device.sendPending (d : Device) (p : Fin 2) : Device :=
  (Bank.indices 256).foldl (fun d v =>
    if (d.ports[p].msix[v]).pend then
      (d.updPort p fun q => { q with msix := Bank.upd q.msix v fun e => { e with pend := false } }).msix p (BitVec.ofNat 8 v.val)
    else d) d

/-- PCIE_LINK_UP (R516): the link trains while PERSTn_N is released, in D0, and the host has set MSI-X Enable and Function
Mask. -/
def Device.linkRise (p : Fin 2) (width : BitVec 5) (speed : BitVec 3) (enable mask : Bool) (d : Device) : Device :=
  if d.ports[p].perst then d
  else
    let d := d.changeLink p fun q =>
      { q with dlUp := true, d3hot := false, width := width, speed := speed, msixEnable := enable, msixMask := mask }
    if enable && !mask then d.sendPending p else d

def execPcieLinkUp (port : Fin 2) (width : BitVec 5) (speed : BitVec 3) (msixEnable msixMask : Bool) (s : State) : Answer :=
  s.act (Device.linkRise port width speed msixEnable msixMask)

/-- POISONED_TLP_RECEIVE (R502): the write is discarded and reported. -/
def Device.poisoned (p : Fin 2) (d : Device) : Device := if d.linkUp p then d.emit (.aerPoisoned p) else d

def execPoisonedTlpReceive (port : Fin 2) (s : State) : Answer := s.act (Device.poisoned port)

/-! ### MSI-X (R503, R515) -/

/-- An entry's mask bit cleared: its pending message is sent. -/
def Device.unmask (p : Fin 2) (v : Fin 256) (d : Device) : Device :=
  let pend := (d.ports[p].msix[v]).pend
  let d := d.updPort p fun q => { q with msix := Bank.upd q.msix v fun e => { e with masked := false, pend := false } }
  if pend then d.msix p (BitVec.ofNat 8 v.val) else d

/-- A requester reaches a port's MSI-X structures: the port its own, a control core either (R507, R515). -/
def reachesMsix (req : Requester) (p : Fin 2) : Bool :=
  match req with
  | .port q => q == p
  | .core _ => true
  | .smbus => false
  | .jtag => false

/-- An entry's mask bit cleared. A pending bit outlasts it while MSI-X Enable is 0, the function is masked or the link is down. -/
def Device.clearMask (p : Fin 2) (i : Fin 256) (d : Device) : Device :=
  if !d.ports[p].msixEnable || d.ports[p].msixMask || !d.linkUp p then
    d.updPort p fun q => { q with msix := Bank.upd q.msix i fun e => { e with masked := false } }
  else d.unmask p i

/-- A requester's accesses arrive: a port's while its link is up. -/
def Device.hears (d : Device) : Requester → Bool
  | .port p => d.linkUp p
  | .core _ => true
  | .smbus => true
  | .jtag => !d.seed.debugDisabled

/-- MSIX_UNMASK. -/
def Device.msixUnmask (req : Requester) (p : Fin 2) (v : BitVec 8) (d : Device) : Device :=
  if reachesMsix req p && d.hears req then d.clearMask p ⟨v.toNat, v.isLt⟩ else d

def execMsixUnmask (req : Requester) (port : Fin 2) (vector : BitVec 8) (s : State) : Answer := s.act (Device.msixUnmask req port vector)

/-! ### Reads of host memory that fail (R502, R509) -/

/-- The outstanding reads of a command forgotten: what else arrives for it finds nothing. -/
def Device.dropReads (d : Device) (c : OpenCmd) (own : DmaPurpose → Bool) : Device :=
  d.endReads fun r => r.cmd == c && own r.purpose

/-- Purposes of a read that share its fate: the reads of one command for one object or one step. -/
def DmaPurpose.sameWork : DmaPurpose → DmaPurpose → Bool
  | .objWrite a, .objWrite b => a == b
  | .objT3 a, .objT3 b => a == b
  | .stepT3 k s _ _ _, .stepT3 k' s' _ _ _ => k == k' && s == s'
  | .list a, .list b => a == b
  | _, _ => false

/-- The head of an object's queue ends with ST_ABORTED, and the queue goes on (R509). -/
def Device.abortHead (d : Device) (id : Word32) : Device :=
  match d.obj? id with
  | none => d
  | some o =>
    match o.queue with
    | [] => d
    | q :: _ =>
      match q.op with
      | .place _ t off len => d.abortMove o q.cmd t off len
      | _ => (d.endHead id q.cmd .aborted).runQueue id

/-- A read of host memory fails: the command or the step that needs it ends with ST_ABORTED, and HOST_DMA_FAIL is logged. -/
def Device.readFails (id : Nat) (d : Device) : Device :=
  match d.dmaReads.find? fun r => r.id == id && r.out with
  | none => d
  | some r =>
    let d := d.endReads fun x => x.id == id
    let d := (d.dropReads r.cmd r.purpose.sameWork).dmaFailed r.port r.cmd
    match r.purpose with
    | .objWrite o => d.abortHead o
    | .objT3 o => d.abortHead o
    | .stepT3 k s _ _ _ => (match asFin 16 k with | some k => d.failStep k s .aborted | none => d)
    | .list _ => { d with lists := d.lists.filter fun x => x.1 != r.cmd }.finish r.cmd .aborted
    | .fwChunk _ => d.finish r.cmd .aborted
    | .assay => d.finish r.cmd .aborted

def execDmaCompletionError (id : Nat) (s : State) : Answer := s.act (Device.readFails id)

/-- DMA_COMPLETION_TIMEOUT has the effect of a poisoned completion (R502). -/
def execDmaCompletionTimeout (id : Nat) (s : State) : Answer := s.act fun d => d.readFails id

/-! ### Reads of host memory that succeed -/

/-- T3 bytes of an object as the host holds them take their place in the object's bytes, but for those written since they were asked
for. -/
def Device.t3Arrives (d : Device) (id : Word32) (r : DmaRead) (bs : List Byte) : Device :=
  match d.obj? id with
  | none => d
  | some o =>
    match o.home with
    | .t3 _ base =>
      let a := o.base + (r.addr - base).toNat
      let segs := r.newer.foldl (fun segs x => segs.flatMap fun s => cutOut s x.1 (x.1 + x.2)) [(a, bs.length)]
      d.updMem fun m => segs.foldl (fun m s => m.store s.1 ((bs.drop (s.1 - a)).take s.2)) m
    | _ => d

/-- A command that waited for its list runs again. -/
def Device.resumeList (c : OpenCmd) (i : Instr) (d : Device) : Device :=
  match i with
  | .gxConfig _ prog wire mib norm clip err ovr n => d.gxConfigRun prog wire mib norm clip err ovr n c
  | .gxScaleLoad _ prog step obj off => d.gxScaleLoadRun prog step.toNat obj off.toNat c
  | .ruleSet _ prog rule flags b1 b2 eps wd pre st gr ovr n start => d.ruleSetRun prog rule flags b1 b2 eps wd pre st gr ovr n start c
  | .fabPortSet _ _ _ _ _ _ _ _ obj off n => d.fabRoutesRun obj off.toNat n.toNat c
  | _ => d

/-- The head of an object's queue has its T3 bytes: an OBJ_READ goes on by itself. -/
def Device.headReady (d : Device) (id : Word32) : Device :=
  match d.obj? id with
  | none => d
  | some o =>
    match o.queue with
    | { op := .read .., state := .dma, .. } :: _ => (d.updObj id (·.setHead .ready)).runQueue id
    | _ => d

/-- The data of an OBJ_WRITE has arrived (R180, R297). -/
def Device.writeArrives (d : Device) (id : Word32) (bs : List Byte) : Device :=
  match d.obj? id with
  | none => d
  | some o =>
    match o.queue with
    | { op := .write _ conv off len _ waits idle, state := .dma, cmd := c, .. } :: _ =>
      (d.writeHead o c conv off len waits idle bs).runQueue id
    | _ => d

/-- T3 bytes of an object have been read for a step. -/
def StepState.haveT3 (r : Range) (st : StepState) : StepState := { st with t3Ready := r :: st.t3Ready }

/-- DMA_READ_COMPLETION: the bytes asked for arrive, in the length asked for, and what waited for them goes on. -/
def Device.readArrives (id : Nat) (bs : List Byte) (d : Device) : Device :=
  match d.dmaReads.find? fun r => r.id == id && r.out && r.length == bs.length with
  | none => d
  | some r =>
    let d := d.endReads fun x => x.id == id
    match r.purpose with
    | .objWrite o => d.writeArrives o bs
    | .objT3 o =>
      let d := d.t3Arrives o r bs
      if d.objReads o then d else d.headReady o
    | .stepT3 k s _ o off =>
      let d := d.t3Arrives o r bs
      (match asFin 16 k with
      | some k => d.updStep k s (StepState.haveT3 { object := o, lo := off, hi := off + r.length })
      | none => d)
    | .fwChunk off => d.holdChunk r.cmd off bs
    | .assay => d.holdPack r.cmd bs
    | .list o =>
      let d := d.t3Arrives o r bs
      if d.dmaReads.any fun x => x.cmd == r.cmd then d
      else match d.lists.find? fun x => x.1 == r.cmd with
        | none => d
        | some (c, i) => { d with lists := d.lists.filter fun x => x.1 != c }.resumeList c i

def execDmaReadCompletion (id : Nat) (data : List Byte) (s : State) : Answer := s.act (Device.readArrives id data)

end Sys2Proof.Machine
end

