-- ==== Sys2Proof/Machine/RegMap.lean ====
section
/-! DEFINITION. The registers of BAR0 as a read returns them (R18, R40, R112, R181, R214, R241, R270, R299, R300, R321, R349, R351,
R383, R412, R438, R469, R470, R493, R513-R515). A write-only field reads zero, as a reserved one does. -/

namespace Sys2Proof.Machine

/-- A register as read: its width, 64 bits when `wide`, and its value. -/
structure Reg where
  wide : Bool
  value : Nat
deriving DecidableEq, Repr, Inhabited

/-- A value put together from fields: low bit, width and value of each. -/
def fieldsOf (fs : List (Nat × Nat × Nat)) : Nat := sumOf (fun f => f.2.2 % 2 ^ f.2.1 * 2 ^ f.1) fs

def reg32 (fs : List (Nat × Nat × Nat)) : Reg := { wide := false, value := fieldsOf fs }
def reg64 (fs : List (Nat × Nat × Nat)) : Reg := { wide := true, value := fieldsOf fs }

/-- A register of one 64-bit field. -/
def whole64 (v : Word64) : Reg := { wide := true, value := v.toNat }

/-- The registers of a block by their offsets in it; an offset not listed is a reserved location (R513). -/
abbrev RegTable := List (Nat × Reg)

/-! ### TOP, INTAKE, ADMISSION -/

/-- *TOP registers* (R514). -/
def Device.topRegs (d : Device) (req : Requester) : RegTable :=
  [(0x0000, reg64 [(0, 8, 8), (8, 8, 2), (16, 16, 0x1F3A), (32, 8, 8), (40, 8, Config.ctrlStepping.toNat)]),
   (0x0008, reg32 [(0, 3, req.index.val)]),
   (0x0010, reg32
     [(0, 2, d.sec.state.code), (2, 1, d.sec.ready.toNat), (3, 1, d.admin.port.val), (4, 1, (d.linkUp 0).toNat),
      (5, 1, (d.linkUp 1).toNat), (6, 1, d.joined.toNat), (7, 1, (d.fab.job == .hold).toNat)])]

/-- *Intake registers* of a port (R349). -/
def Device.intakeRegs (d : Device) (p : Fin 2) : RegTable :=
  let q := d.ports[p]
  [(0x0000, reg32 [(8, 1, (q.enabled || q.enablePending).toNat)]),
   (0x0008, reg32
     [(1, 1, q.enabled.toNat), (2, 1, (d.isAdmin p).toNat), (3, 1, q.expectPhase.toNat), (4, 1, q.quiesced.toNat),
      (5, 1, (!d.replyRoom p).toNat), (6, 1, q.stalled.toNat), (7, 1, q.faulted.toNat)]),
   (0x0010, reg32 [(0, 16, q.consumed.toNat), (16, 16, min (d.outstanding p) 65535)]),
   (0x0018, whole64 q.replyBase),
   (0x0020, reg32 [(0, 11, q.coalesceUs.toNat), (11, 5, q.sizeLog2.toNat), (16, 8, q.coalesceN.toNat), (24, 8, q.vector.toNat)]),
   (0x0028, reg32 [(0, 32, q.head.toNat)]),
   (0x0030, reg32 [(0, 32, q.tail.toNat)]),
   (0x0038, reg64 [(0, 32, q.countPackets.toNat), (32, 32, q.countDuplicates.toNat)])]

/-- ADM_COMMIT_r: the latest promised tick on a resource. -/
def Device.committedUntil (d : Device) (r : Nat) : Nat := maxOver Promise.tick (d.adm.promises.filter fun p => p.names r)

/-- *Admission registers* (R351). -/
def Device.admissionRegs (d : Device) : RegTable :=
  let a := d.adm
  [(0x0000, reg32 []),
   (0x0008, reg32 [(0, 7, a.promises.length), (16, 1, (!d.tb.locked).toNat)]),
   (0x0010, reg64 [(0, 32, a.accepted.toNat), (32, 32, a.refused.toNat)]),
   (0x0018, reg64 [(0, 32, a.kept.toNat), (32, 32, a.broken.toNat)]),
   (0x0020, whole64 a.lateMax)]
    ++ (List.range 12).map (fun r => (0x0100 + 8 * r, reg64 [(0, 64, d.committedUntil r)]))
    ++ (Bank.indices 10).map (fun c => (0x0208 + 8 * c.val, reg32 [(0, 32, a.causes[c].toNat)]))

/-! ### ARRAYn -/

/-- SEQ_STATUS.WAIT of an array: what the lane of the released slot waits for. -/
def Device.seqWait (d : Device) (n : Fin 8) : Nat :=
  if !d.arrays[n].seqActive then 0
  else maxOver (fun (x : Fin 16 × Nat × Fin 17 × LaneState) =>
    if !laneIsU x.2.2.1.val && x.2.2.2.active && (d.laneArrays x.2.2.1.val).contains n then
      match x.2.2.2.wait with
      | .semaphore => 1
      | .version => 2
      | _ => 0
    else 0) d.allLanes

/-- 2 KiB granules of a place that the entries of an array's lane hold (SEQ_STASH). -/
def Device.stashHeld (d : Device) (n : Fin 8) (pl : StashPlace) : Nat :=
  sumOf (fun x => sumOf (fun st => sumOf StashEntry.granules (st.stash.filter fun e => e.place == pl && e.lane == d.arrayLane n)) x.2.steps)
    d.programs

/-- Where the folds of the crucible regions of an array lie, over the loaded programs (SEQ_CRUCIBLE). -/
def Device.foldPlaces (d : Device) (n : Fin 8) : List FoldPlace :=
  d.programs.flatMap fun x => (x.2.regions.filter fun r => r.array == d.arrayLane n).flatMap Region.places

/-- One more than the slot index of a place; 0 in overflow. -/
def FoldPlace.slots : FoldPlace → Nat
  | .slot i _ _ _ => i + 1
  | .overflow _ => 0

def FoldPlace.inOverflow (p : FoldPlace) : Bool := p.slots == 0

/-- *ARRAYn registers* and *Sequencer registers* (R112, R181). -/
def Device.arrayRegs (d : Device) (n : Fin 8) : RegTable :=
  let a := d.arrays[n]
  [(0x0000, reg64
     [(0, 8, 192), (8, 8, 64), (16, 8, 101), (24, 8, 100), (32, 8, n.val), (40, 8, (Config.arrayStepping n).toNat)]),
   (0x0008, reg32 [(8, 1, a.quiesce.toNat)]),
   (0x0010, reg32
     [(1, 1, (d.arrayEmpty n).toNat), (2, 1, a.quiesced.toNat), (3, 1, a.faulted.toNat), (8, 1, a.spareLocked.toNat),
      (9, 1, d.integ.twin.toNat), (10, 2, a.pmode.toNat)]),
   (0x0018, reg32 [(0, 7, a.spareCol.toNat), (7, 1, a.dirDown.toNat)]),
   (0x0020, whole64 a.passes),
   (0x0028, whole64 a.busyCycles),
   (0x0030, whole64 a.bubbles),
   (0x0038, whole64 a.idle),
   (0x0040, reg64 [(0, 20, d.statUsed (d.arrayLane n)), (32, 32, a.statSpills.toNat)]),
   (0x0048, reg64 [(0, 32, a.tstoreCorr.toNat), (32, 16, a.crucibleCorr.toNat), (48, 16, a.sprueCorr.toNat)]),
   (0x1000, reg64
     [(0, 1, a.seqActive.toNat), (10, 8, a.seqMb.toNat), (18, 1, a.seqBackward.toNat), (19, 9, a.seqSlot.toNat),
      (30, 2, d.seqWait n), (32, 32, a.seqStep.toNat)]),
   (0x1008, reg64 [(0, 32, d.stashHeld n .primary), (32, 32, d.stashHeld n .spill)]),
   (0x1010, reg64 [(0, 32, a.spills.toNat), (32, 32, a.recomputes.toNat)]),
   (0x1018, reg64
     [(0, 9, maxOver FoldPlace.slots (d.foldPlaces n)), (32, 16, min 65535 ((d.foldPlaces n).filter FoldPlace.inOverflow).length)]),
   (0x1020, whole64 a.versionWait)]

/-! ### TUNDISH, ASTER -/

/-- GX_STATUS.SCALE_WAIT: a full bucket waits for its table (R202). -/
def Device.scaleWaits (d : Device) : Bool :=
  d.flightSteps.any fun x => x.2.table.isNone && x.2.buckets.any fun b => b.state == .full

/-- GX_STATUS.NORM_WAIT: a clip factor is awaited (R206). -/
def Device.normWaits (d : Device) : Bool := d.flightSteps.any fun x => x.2.normSent && x.2.clip.isNone

/-- A block of the update engine with its program, its step and its tensor. -/
def Device.openUnits (d : Device) : List (Program × StepState × Desc × UpdUnit) :=
  d.flightSteps.flatMap fun (p, st) => st.units.map fun u => (p, st, p.released u.ord, u)

/-- Some handoff to a rule block has not come: elements of it are another member's reduced shard, and are not held (R218). -/
def Device.lacksHandoff (d : Device) (p : Program) (u : UpdUnit) : Bool :=
  let g := d.fab.groupSize
  (p.bucketPlan.filter fun b => b.ord == u.ord).any fun b => (List.range g).any fun i =>
    let (first, len) := b.shardElems g i
    let lo := max first u.first
    shardOwner g i b.id != d.fab.flatIndex
      && (List.range (min (first + len) (u.first + u.length) - lo)).any fun e => !(u.grad.any fun v => v.1 == lo + e)

/-- UPD_STATUS.HANDOFF_WAIT: a rule block waits for ĝ with some handoff not yet received (R223). -/
def Device.handoffWaits (d : Device) : Bool :=
  d.openUnits.any fun (p, _, x, u) => (p.ruleOf x).blocked && u.state == .waitGrad && d.lacksHandoff p u

/-- UPD_STATUS.FENCE_WAIT: a block in WAIT_APPLY does not meet the write condition of R179 (R223). -/
def Device.fenceWaits (d : Device) : Bool :=
  d.openUnits.any fun (p, st, x, u) =>
    let ready := if p.gx.normMode = 0 then u.state == .waitGrad && u.complete else u.state == .waitApply
    ready && p.ruleOf x != .none && !p.mayWrite st x

/-- *Gradient exchange registers* and *Update engine registers* (R214, R241). A pass and a refresh are one command each, so
PASS1, PASS2 and REFRESH are 0 between commands. -/
def Device.tundishRegs (d : Device) : RegTable :=
  let t := d.tun
  let f := d.fab
  let sizes := if d.joined then [(7, 7, f.groupDomains), (14, 9, f.ringSize), (32, 16, f.flatIndex), (48, 16, f.groupSize)] else []
  [(0x0000, reg64 sizes),
   (0x0008, reg32 [(1, 1, t.quiesce.toNat), (16, 8, t.rxbufMib.toNat)]),
   (0x0010, reg32
     [(2, 1, d.joined.toNat), (3, 1, d.normWaits.toNat), (4, 1, d.scaleWaits.toNat), (5, 1, d.gxIdle.toNat), (6, 1, t.quiesced.toNat),
      (7, 1, t.faulted.toNat)]),
   (0x0018, reg64 [(0, 32, t.reduced.toNat), (32, 32, t.cold.toNat)]),
   (0x0020, whole64 t.txBytes),
   (0x0028, whole64 t.rxBytes),
   (0x0030, reg64 [(0, 32, t.encodeSat.toNat), (32, 32, t.rxMinus128.toNat)]),
   (0x0038, reg64 [(0, 32, t.waitRxFull.toNat), (32, 32, t.waitScale.toNat)]),
   (0x0040, reg64 [(0, 32, t.n2.toNat), (32, 32, t.clip.toNat)]),
   (0x1000, reg32 []),
   (0x1008, reg32 [(0, 1, d.updIdle.toNat), (4, 1, d.handoffWaits.toNat), (5, 1, d.fenceWaits.toNat)]),
   (0x1010, whole64 t.elements),
   (0x1018, reg64 [(0, 32, t.handoffTx.toNat), (32, 32, t.handoffRx.toNat)]),
   (0x1020, reg64 [(0, 16, t.preIdentity.toNat), (16, 16, t.preKept.toNat), (32, 32, t.preRefreshed.toNat)]),
   (0x1028, reg64 [(0, 32, t.almLr.toNat), (32, 32, t.almStep.toNat)])]

/-- *ASTER registers* (R270). -/
def Device.asterRegs (d : Device) : RegTable :=
  let a := d.aster
  let sps := d.liveSpaces.map Prod.snd
  [(0x0000, reg64 [(0, 32, 65536), (32, 8, 16)]),
   (0x0008, reg32 [(8, 1, a.quiesce.toNat)]),
   (0x0010, reg32
     [(1, 1, d.asterIdle.toNat), (2, 1, a.quiesced.toNat), (3, 1, a.gathers.toNat),
      (4, 1, (d.flightSteps.any fun x => x.2.reprefill).toNat)]),
   (0x0018, reg64 [(0, 32, sumOf Space.freePages sps), (32, 32, sumOf (fun s => s.pinnedPages.length) sps)]),
   (0x0020, reg64 [(0, 32, a.dropped.toNat), (32, 16, a.reprefills.toNat), (48, 16, a.retired.toNat)]),
   (0x0028, reg64 [(0, 32, a.collisions.toNat), (32, 32, a.hits.toNat)]),
   (0x0030, reg64 [(0, 32, a.short.toNat), (32, 32, a.products.toNat)]),
   (0x0038, reg64
     [(0, 32, sumOf (fun s => s.reclaim.length + s.tableReclaim.length) sps), (32, 16, (a.walks.filter Walk.inFlight).length)])]

/-! ### HEARTHh, STACKs -/

/-- *Hearth registers* (R299). -/
def Device.hearthRegs (d : Device) (h : Fin 8) : RegTable :=
  let x := d.mem.hearths[h]
  [(0x0000, reg64 [(8, 8, if h.val = 0 then 5 else 1), (16, 8, 64), (24, 8, 10), (32, 8, h.val)]),
   (0x0008, reg32 [(0, 10, x.cache.toNat)]),
   (0x0010, reg64 [(0, 32, x.hits.toNat), (32, 32, x.misses.toNat)]),
   (0x0018, reg64 [(0, 16, sumOf (d.partUsed h) (Bank.indices 10)), (32, 16, sumOf (d.partFree h) (Bank.indices 10))]),
   (0x0020, reg64 [(0, 32, x.stall.toNat), (32, 32, x.late.toNat)]),
   (0x0028, reg64 [(0, 32, x.corr.toNat)])]

def HeadState.pinWaits : HeadState → Bool
  | .move .pinWait _ _ => true
  | _ => false

/-- *Hoist registers* (R300). -/
def Device.hoistRegs (d : Device) (b : Fin 4) : RegTable :=
  let x := d.mem.hoists[b]
  let ms := d.movesQueued b
  [(0xC000, reg32 [(0, 8, d.movesOn b), (8, 1, (d.hoistIdle b).toNat), (9, 1, (ms.any HeadState.pinWaits).toNat)]),
   (0xC008, whole64 x.bytes),
   (0xC010, reg64 [(0, 32, x.completed.toNat), (32, 32, x.refused.toNat)])]

/-- *Stack registers* (R321), with the Hoist registers of its bridge die in the first stack of each. -/
def Device.stackRegs (d : Device) (k : Fin 20) : RegTable :=
  let s := d.mem.hbm[k]
  [(0x0000, reg64
     [(0, 8, s.lanesRepaired.toNat), (8, 8, 32), (16, 8, 64), (24, 8, 32), (32, 8, 16), (40, 8, k.val)]),
   (0x0008, reg32 [(8, 8, s.scrubHours.toNat)]),
   (0x0010, reg32
     [(1, 1, s.trained.toNat), (2, 1, s.exerBusy.toNat), (3, 1, s.diag.toNat), (4, 1, s.ref2x.toNat), (5, 1, s.hot.toNat),
      (6, 1, s.cattrip.toNat)]),
   (0x0018, reg32 [(0, 8, s.temp.toNat), (8, 8, s.maxTemp.toNat)]),
   (0x0020, reg64 [(0, 32, s.corr.toNat), (32, 32, s.ondie.toNat)]),
   (0x0028, reg64 [(0, 32, s.scrubPos.toNat), (32, 32, s.scrubPasses.toNat)]),
   (0x0030, reg64 [(0, 32, s.adderGroups.toNat), (32, 32, (s.stallRead d.tb.now).toNat)])]
    ++ (if k.val = 0 then [(0x0100, reg32 [(0, 1, d.mem.dec.toNat)])] else [])
    ++ (Bank.indices 32).flatMap (fun c =>
      let e := s.exer[c]
      [(0x1000 + 16 * c.val, reg64 [(0, 32, e.words.toNat), (32, 32, e.mismatch.toNat)]),
       (0x1008 + 16 * c.val, reg64 [(0, 16, e.corr1.toNat), (16, 16, e.corr2.toNat), (32, 16, e.uncorr.toNat)])])
    ++ (if k.val % 5 = 0 then d.hoistRegs (clampFin 3 (k.val / 5)) else [])

/-! ### OCTING, BELLOWS -/

/-- *Octing registers* (R383). -/
def Device.octingRegs (d : Device) : RegTable :=
  let f := d.fab
  let role := if d.joined then ((f.member f.rank.toNat).map fun m => m.role.toNat).getD 0 else 0
  [(0x0000, reg64 [(0, 8, 8), (8, 8, 4)]),
   (0x0008, reg32 []),
   (0x0010, reg64
     [(0, 3, f.job.code), (8, 2, role), (16, 6, if d.joined then f.myDomain else 0), (22, 14, f.rank.toNat),
      (36, 14, f.lastLost.toNat)]),
   (0x0018, whole64 f.jobOffset),
   (0x0020, reg64 [(0, 32, f.theta.toNat), (32, 32, f.delay.toNat)]),
   (0x0028, reg64 [(0, 32, f.duplicates.toNat), (32, 32, f.retransmits.toNat)]),
   (0x0030, reg64 [(0, 32, f.pulled.toNat), (32, 32, f.prunes.toNat)]),
   (0x0038, reg64 [(0, 32, f.corr.toNat), (32, 32, f.dropped.toNat)])]
    ++ (Bank.indices 8).map (fun p =>
      let q := f.ports[p]
      (0x0100 + 8 * p.val, reg64
        [(0, 1, q.up.toNat), (1, 1, q.aligned.toNat), (2, 2, q.mode.code), (4, 1, (q.pausedData || q.pausedCtrl).toNat),
         (16, 16, q.abandoned.toNat), (32, 16, q.replays.toNat), (48, 16, q.retrains.toNat)]))

/-- BEL_THERMAL. -/
def Device.belThermal (d : Device) : Reg :=
  reg64 [(8, 8, d.stackMax), (16, 8, d.bel.junctionMax), (24, 8, d.bel.outlet.toNat), (32, 8, d.bel.inlet.toNat)]

/-- BEL_SUPPLY. -/
def Device.belSupply (d : Device) : Reg := reg32 [(0, 16, d.bel.current.toNat), (16, 16, d.bel.voltage.toNat)]

/-- *Bellows registers* (R438). -/
def Device.bellowsRegs (d : Device) : RegTable :=
  let b := d.bel
  [(0x0000, reg64 [(0, 16, 6000), (16, 16, 5400), (32, 16, Config.floorCalW)]),
   (0x0008, reg32 []),
   (0x0010, reg32
     [(0, 3, b.binding.toNat), (3, 1, b.rampLimiting.toNat), (4, 1, b.ballastActive.toNat), (5, 1, b.brake.toNat),
      (6, 1, b.halted.toNat), (7, 1, d.alertN.toNat), (8, 4, b.convOk.toNat)]),
   (0x0018, reg64 [(0, 16, b.target.toNat), (16, 16, b.estimate.toNat), (32, 16, b.measured.toNat)]),
   (0x0020, reg64
     [(0, 16, min b.supply.toNat b.converterW), (16, 16, b.thermal.toNat), (32, 16, b.board.toNat), (48, 16, b.soft.toNat)]),
   (0x0028, reg32 [(0, 16, b.brakeLevel.toNat)]),
   (0x0030, reg64 [(0, 8, b.slope.toNat), (16, 16, b.ballastFloor.toNat), (32, 1, b.ballastEn.toNat)]),
   (0x0038, d.belThermal),
   (0x0040, d.belSupply),
   (0x0048, reg32 [(0, 16, b.trim.toNat)]),
   (0x0050, whole64 b.bubbleCycles),
   (0x0058, reg64 [(0, 16, b.beyondSupply.toNat), (16, 16, b.beyondThermal.toNat), (32, 16, b.beyondBrake.toNat)])]

/-! ### INTC, EVR -/

/-- INTC_SRCs; that of source 0 reads zero (R469). -/
def Device.sourceReg (d : Device) (s : Fin 512) : Reg :=
  let x := d.intc.src[s]
  if s.val = 0 then reg32 []
  else reg32 [(0, 1, (d.intc.isLevel s).toNat), (8, 4, x.priority.toNat), (16, 8, x.filter.toNat), (24, 4, x.coreMask.toNat)]

/-- INTC_PENDk. -/
def Device.pendReg (d : Device) (k : Fin 8) : Reg :=
  reg64 ((List.range 64).map fun i => (i, 1, ((asFin 512 (64 * k.val + i)).any d.pendingSource).toNat))

/-- CORE_STATUSc. -/
def Core.statusReg (k : Core) : Reg :=
  let top := (k.stack.getLast?.map fun e => e.source.toNat).getD 0
  reg32 [(0, 9, top), (9, 1, (!k.stack.isEmpty).toNat), (16, 5, k.stack.length), (27, 5, k.runPriority)]

/-- STACKc_j: four entries from the bottom. -/
def Core.stackReg (k : Core) (j : Nat) : Reg :=
  reg64 (((k.stack.drop (4 * j)).take 4).mapIdx (fun i e => [(16 * i, 9, e.source.toNat), (16 * i + 11, 5, e.level.toNat)])).flatten

/-- The registers of one core in the INTC. -/
def Core.intcRegs (k : Core) (c : Fin 4) : RegTable :=
  let b := 0x3000 + 0x40 * c.val
  [(b, k.statusReg), (b + 0x08, reg32 [(0, 4, k.threshold.toNat)]), (b + 0x10, reg32 [])]
    ++ (List.range 4).map fun j => (b + 0x18 + 8 * j, k.stackReg j)

/-- *INTC registers* (R469). -/
def Device.intcRegs (d : Device) : RegTable :=
  let i := d.intc
  let run := (Bank.indices 4).map fun c => (c.val, 1, d.cores[c].running.toNat)
  [(0x0000, reg64 [(0, 4, 4), (4, 4, 15), (8, 8, 16), (16, 16, 512)]),
   (0x0008, reg32 [(0, 2, i.faultCore.val)]),
   (0x0010, reg32 run),
   (0x0018, whole64 i.entry),
   (0x0020, whole64 i.vbase),
   (0x0028, reg32 [(0, 1, i.faultOrder.toNat), (1, 1, i.faultParity.toNat), (2, 1, i.faultPost.toNat), (8, 2, i.orderCore.val)]),
   (0x0030, reg64 [(0, 49, i.parity.toNat)]),
   (0x0038, reg32 [])]
    ++ (Bank.indices 512).map (fun s => (0x1000 + 8 * s.val, d.sourceReg s))
    ++ (Bank.indices 8).map (fun k => (0x2000 + 8 * k.val, d.pendReg k))
    ++ (Bank.indices 4).flatMap (fun c => d.cores[c].intcRegs c)

/-- EVR_SEQ, EVR_DROPS, EVR_COUNTS and EVR_SUMMARY. -/
def Evr.seqReg (e : Evr) : Reg := reg64 [(0, 48, e.nextSeq.toNat), (48, 8, e.epoch.toNat)]
def Evr.dropsReg (e : Evr) : Reg :=
  reg64 [(0, 16, e.dropInfo.toNat), (16, 16, e.dropWarn.toNat), (32, 16, e.dropError.toNat), (48, 16, e.dropFiltered.toNat)]
def Evr.countsReg (e : Evr) : Reg :=
  reg64 [(0, 16, e.count .info), (16, 16, e.count .warn), (32, 16, e.count .error), (48, 16, e.count .fatal)]
def Evr.summaryReg (e : Evr) : Reg := reg64 [(0, 48, e.lastFatalSeq.toNat), (48, 16, e.lastFatalCode.toNat)]

/-- *EVR registers* (R470); EVR_POSTc is there for the control cores alone. -/
def Device.evrRegs (d : Device) (req : Requester) : RegTable :=
  let e := d.evr
  let post := (List.range 32).map fun i => (0x0100 + 0x40 * (i / 8) + 8 * (i % 8), reg64 [])
  [(0x0000, reg64 [(0, 8, 64), (8, 24, 16384)]),
   (0x0008, reg32 [(0, 1, e.minSeverity.toNat), (4, 3, e.notify[0].toNat), (8, 3, e.notify[1].toNat), (16, 16, e.repeatWindowMs.toNat)]),
   (0x0010, reg32 [(0, 1, e.accepting.toNat), (1, 1, e.faulted.toNat), (2, 1, e.full.toNat)]),
   (0x0018, e.seqReg),
   (0x0020, e.dropsReg),
   (0x0028, e.countsReg),
   (0x0030, e.summaryReg),
   (0x0038, reg32 [(0, 8, e.vec[0].toNat), (8, 8, e.vec[1].toNat)])]
    ++ (match req with
      | .core _ => post
      | _ => [])

/-! ### SECURITY, INTEGRITY, PORTCFG, TIMEBASE -/

/-- *SECURITY registers* (R493). SVN is the counter's low eight bits. -/
def Device.securityRegs (d : Device) : RegTable :=
  let s := d.sec
  [(0x0000, reg32
     [(0, 2, s.state.code), (2, 1, s.ready.toNat), (3, 1, d.seed.identity.toNat), (4, 1, d.seed.debugDisabled.toNat),
      (5, 1, s.hold.toNat), (8, 8, d.seed.svn), (16, 16, s.imageSvn.toNat)]),
   (0x0008, reg32 [(0, 2, s.kind.toNat)]),
   (0x0010, reg64 [(0, 26, s.dieFail.toNat), (26, 20, s.stackFail.toNat)]),
   (0x0018, reg64 [(0, 32, d.seed.capUf.toNat), (32, 20, s.lastEMj.toNat), (62, 2, s.holdupOutcome.toNat)])]
    ++ (List.range 6).map fun k => (0x0020 + 8 * k, whole64 (s.measFw.extractLsb' (64 * k) 64))

/-- *Integrity registers* (R412). -/
def Device.integrityRegs (d : Device) : RegTable :=
  let i := d.integ
  let now := (i.run.toList ++ i.atOnce).head?
  [(0x0000, reg32 [(0, 8, i.quarantine.toNat), (16, 1, i.rotEn.toNat), (17, 1, i.waEn.toNat)]),
   (0x0008, reg32
     [(3, 1, i.pack.isSome.toNat), (4, 1, now.isSome.toNat), (5, 3, (now.map fun r => r.array.val).getD 0),
      (8, 4, if i.twin then 15 else 0)]),
   (0x0010, reg32 [(0, 20, i.rotPeriod.toNat)]),
   (0x0018, reg64 [(0, 16, i.escalations.toNat), (16, 16, i.retryEqual.toNat), (32, 32, i.twinMismatches.toNat)]),
   (0x0020, reg64 [(0, 16, i.sourceFaults.toNat), (16, 16, i.replayMismatches.toNat), (32, 32, i.replayed.toNat)]),
   (0x0028, reg64 [(0, 16, i.fails.toNat), (16, 16, i.passes.toNat), (32, 32, d.packId.toNat)]),
   (0x0030, whole64 (i.hallmark.extractLsb' 0 64)),
   (0x0038, whole64 (i.hallmark.extractLsb' 64 64)),
   (0x0040, reg64 [(0, 8, i.hmProg.toNat), (8, 1, i.hmAgreed.toNat), (32, 32, i.hmVersion.toNat)])]

/-- One MSI-X table entry: message address, then message data and vector control (PCI Express Base Specification, R503). -/
def MsixEntry.regs (e : MsixEntry) (at' : Nat) : RegTable :=
  [(at', whole64 e.addr), (at' + 8, reg64 [(0, 32, e.data.toNat), (32, 1, e.masked.toNat)])]

/-- The MSI-X table and PBA of a port, or their zeros, from a base in PORTCFG. -/
def Device.msixRegs (d : Device) (p : Option (Fin 2)) (base : Nat) : RegTable :=
  let entry (v : Fin 256) : MsixEntry :=
    match p with
    | some p => d.ports[p].msix[v]
    | none => { masked := false }
  (Bank.indices 256).flatMap (fun v => (entry v).regs (base + 16 * v.val))
    ++ (List.range 4).map fun k =>
      (base + 0x1000 + 8 * k, reg64 ((List.range 64).map fun i => (i, 1, (entry (clampFin 255 (64 * k + i))).pend.toNat)))

/-- *PORTCFG registers* (R515). -/
def Device.portcfgRegs (d : Device) (req : Requester) : RegTable :=
  let perPort (base : Nat) (f : Fin 2 → Reg) : RegTable := (Bank.indices 2).map fun p => (base + 8 * p.val, f p)
  perPort 0x0000 (fun p => whole64 d.ports[p].acctEn)
    ++ [(0x0010, reg32 [(0, 1, d.admin.port.val), (1, 1, d.admin.lastByAdopt.toNat), (16, 16, d.admin.changes.toNat)])]
    ++ perPort 0x0020 (fun p => reg64 [(0, 64, d.linkWord p)])
    ++ perPort 0x0030 (fun p =>
      reg64 [(0, 16, d.ports[p].lostReplies.toNat), (16, 16, d.ports[p].lostReads.toNat), (32, 32, d.ports[p].lostWrites.toNat)])
    ++ perPort 0x0040 (fun p =>
      let q := d.ports[p]
      reg64 [(0, 31, sumOf Mapping.span q.mappings / 1048576), (31, 11, q.mappings.length), (42, 6, q.bar4Log2.toNat)])
    ++ (match req with
      | .port p => d.msixRegs (some p) 0x8000
      | _ => d.msixRegs none 0x8000)
    ++ (match req with
      | .core _ => d.msixRegs (some 0) 0xA000 ++ d.msixRegs (some 1) 0xC000
      | _ => [])

/-- *TIMEBASE registers* (R40). -/
def Device.timebaseRegs (d : Device) : RegTable :=
  let t := d.tb
  [(0x0000, whole64 t.now),
   (0x0008, reg32 [(0, 1, t.syncInEn.toNat), (1, 1, t.syncOutEn.toNat), (8, 5, t.syncOutPeriod.toNat)]),
   (0x0010, reg32 [(0, 32, t.corr.toNat)]),
   (0x0018, reg32 [(0, 1, t.locked.toNat), (1, 1, (t.corr != 0).toNat), (2, 1, t.syncSeen.toNat), (3, 1, t.refLost.toNat)]),
   (0x0020, whole64 t.lastSync)]

/-! ### BAR0 (R513) -/

/-- Where a BAR0 offset lies: the registers of its block and its offset there. -/
structure BlockAt where
  regs : RegTable
  within : Nat

/-- The block of a BAR0 offset (*Register index*). -/
def Device.blockAt (d : Device) (req : Requester) (off : Nat) : BlockAt :=
  if off < 0x00100000 then ⟨d.topRegs req, off⟩
  else if off < 0x00200000 then
    if off % 0x00100000 < 0x1000 then ⟨d.intakeRegs 0, off % 0x1000⟩
    else if off % 0x00100000 < 0x2000 then ⟨d.intakeRegs 1, off % 0x1000⟩ else ⟨[], 0⟩
  else if off < 0x00300000 then ⟨d.admissionRegs, off - 0x00200000⟩
  else if off < 0x01000000 then ⟨[], 0⟩
  else if off < 0x01800000 then ⟨d.arrayRegs (clampFin 7 ((off - 0x01000000) / 0x00100000)), off % 0x00100000⟩
  else if off < 0x02000000 then ⟨[], 0⟩
  else if off < 0x02100000 then ⟨d.tundishRegs, off - 0x02000000⟩
  else if off < 0x02200000 then ⟨d.asterRegs, off - 0x02100000⟩
  else if off < 0x02300000 then ⟨d.hearthRegs (clampFin 7 ((off - 0x02200000) / 0x00020000)), off % 0x00020000⟩
  else if off < 0x02400000 then ⟨[], 0⟩
  else if off < 0x02540000 then ⟨d.stackRegs (clampFin 19 ((off - 0x02400000) / 0x00010000)), off % 0x00010000⟩
  else if off < 0x02800000 then ⟨[], 0⟩
  else if off < 0x02900000 then ⟨d.octingRegs, off - 0x02800000⟩
  else if off < 0x02A00000 then ⟨d.bellowsRegs, off - 0x02900000⟩
  else if off < 0x02B00000 then ⟨d.intcRegs, off - 0x02A00000⟩
  else if off < 0x02C00000 then ⟨d.evrRegs req, off - 0x02B00000⟩
  else if off < 0x02D00000 then ⟨d.securityRegs, off - 0x02C00000⟩
  else if off < 0x02E00000 then ⟨d.integrityRegs, off - 0x02D00000⟩
  else if off < 0x02F00000 then ⟨d.portcfgRegs req, off - 0x02E00000⟩
  else if off < 0x03000000 then ⟨d.timebaseRegs, off - 0x02F00000⟩
  else ⟨[], 0⟩

/-- The register at a BAR0 offset as a requester sees it, none at a reserved location. -/
def Device.regAt (d : Device) (req : Requester) (off : Nat) : Option Reg :=
  let b := d.blockAt req off
  b.regs.lookup b.within

/-- An access as R462 takes it: the register's offset and value, and the part of it. A whole access needs a 64-bit register; the
high half lies 4 bytes above it. -/
def Device.accessAt (d : Device) (req : Requester) (off : Nat) (part : RegPart) : Option (Nat × Reg × RegPart) :=
  match part with
  | .full => (d.regAt req off).bind fun r => if r.wide then some (off, r, .full) else none
  | .hi => (d.regAt req off).bind fun r => if r.wide then some (off, r, .hi) else none
  | .lo =>
    if off % 8 = 4 then (d.regAt req (off - 4)).bind fun r => if r.wide then some (off - 4, r, .hi) else none
    else (d.regAt req off).map fun r => (off, r, .lo)

end Sys2Proof.Machine
end

