-- ==== Sys2Proof/Machine/Registers.lean ====
section
/-! DEFINITION. Register accesses: REGISTER_READ, REG_WRITE, RESERVED_ACCESS and PARITY_FAULT (R444, R462-R466, R507, R513). -/

namespace Sys2Proof.Machine

/-! ### Reads (R463, R464) -/

/-- A core's load or store of a reserved location of the register space (R441, R444). -/
def Device.coreFault (d : Device) (c : Fin 4) (kind : CoreAccess) (off : Nat) : Device :=
  d.accessFault c kind (BitVec.ofNat 64 (0x40000000 + off))

/-- A read of a reserved location, as each requester sees it end (R444, R464). -/
def Device.readReserved (d : Device) (req : Requester) (off : Nat) : Device :=
  match req with
  | .port _ => d.emit (.readDone req .completerAbort)
  | .core c => d.coreFault c .load off
  | .smbus => d.emit (.readDone req (.value 0))
  | .jtag => d.emit (.readDone req (.value 0))

/-- REGISTER_READ: the value or the half asked for, with the read shadow (R463). -/
def Device.registerRead (req : Requester) (off : Nat) (part : RegPart) (d : Device) : Device :=
  if !d.hears req then d
  else match d.accessAt req off part with
    | none => d.readReserved req off
    | some (reg, r, part) =>
      let v := BitVec.ofNat 64 r.value
      if r.wide then
        let (v, d) := d.readStaged req reg part v
        d.emit (.readDone req (.value v))
      else d.emit (.readDone req (.value v))

def execRegisterRead (req : Requester) (offset : BitVec 26) (part : RegPart) (s : State) : Answer :=
  s.act (Device.registerRead req offset.toNat part)

/-! ### Writes, block by block (R18, R466) -/

/-- A bit of a written word calls for an effect. -/
def whenBit (w : Word32) (i : Nat) (f : Device → Device) (d : Device) : Device := if w.getLsbD i then f d else d

/-- The value of a 64-bit register after a write of a part of it, where no field is staged. -/
def mergePart (part : RegPart) (v old : Word64) : Word64 :=
  match part with
  | .full => v
  | .lo => highHalf old ++ lowHalf v
  | .hi => lowHalf v ++ lowHalf old

/-- INTAKE, one port's page (R349). -/
def Device.writeIntake (req : Requester) (p : Fin 2) (off : Nat) (part : RegPart) (v : Word64) (d : Device) : Device :=
  let w := lowHalf v
  if off = 0x00 then
    whenBit w 1 (Device.clearIntCounts p) (whenBit w 0 (Device.ringRestart p) (d.setEnable p (w.getLsbD 8)))
  else if off = 0x18 then d.writeStaged req (offIntake p + 0x18) part v d.ports[p].replyBase (Device.setReplyBase p)
  else if off = 0x20 then d.setReplyCfg p w
  else if off = 0x28 then d.setReplyHead p w
  else d

/-- ARRAYn (R112). -/
def Device.writeArray (n : Fin 8) (off : Nat) (w : Word32) (d : Device) : Device :=
  if off = 0x08 then
    whenBit w 0 (fun d => d.updArray n ArrayState.clearCounts) (d.updArray n (ArrayState.setQuiesce d.tb.now (w.getLsbD 8)))
  else if off = 0x18 then d.spareWrite n w
  else d

/-- TUNDISH (R214, R241). -/
def Device.writeTundish (off : Nat) (w : Word32) (d : Device) : Device :=
  if off = 0x08 then (whenBit w 0 Device.clearGxCounts d).setGxQuiesce (w.getLsbD 1) |>.setRxbuf (w.extractLsb' 16 8)
  else if off = 0x1000 then whenBit w 0 Device.clearUpdCounts d
  else d

/-- ASTER (R270). -/
def Device.writeAster (off : Nat) (w : Word32) (d : Device) : Device :=
  if off = 0x08 then whenBit w 0 Device.clearAstCounts (d.setAstQuiesce (w.getLsbD 8)) else d

/-- STACKs (R321). -/
def Device.writeStack (k : Fin 20) (off : Nat) (w : Word32) (d : Device) : Device :=
  if off = 0x08 then whenBit w 0 (Device.clearStackCounts k) (d.setScrub (w.extractLsb' 8 8) k)
  else if off = 0x100 then d.updMem fun m => { m with dec := w.getLsbD 0 }
  else d

/-- BELLOWS (R438). -/
def Device.writeBellows (off : Nat) (w : Word32) (d : Device) : Device :=
  if off = 0x08 then whenBit w 0 (fun d => d.updBel Bellows.clearCounts) d
  else if off = 0x28 then d.setBrakeLevel w
  else d

/-- INTC_SRCs takes a value; a pin set from edge to level loses its pending bit (R452, R469). -/
def Intc.setSource (s : Fin 512) (w : Word32) (i : Intc) : Intc :=
  let level := isPinSource s.val && w.getLsbD 0
  let set (x : IntSource) : IntSource :=
    { x with
      coreMask := w.extractLsb' 24 4, filter := w.extractLsb' 16 8, priority := w.extractLsb' 8 4, level := level
      pend := x.pend && !(level && !x.level) }
  if s.val = 0 then i else { i with src := Bank.upd i.src s set }

/-- INTC (R469). -/
def Device.writeIntc (req : Requester) (off : Nat) (part : RegPart) (v : Word64) (d : Device) : Device :=
  let w := lowHalf v
  let entry (v : Word64) (d : Device) : Device := d.updIntc fun i => { i with entry := v &&& 0xFFFFFFFFFFFFFFFE }
  let vbase (v : Word64) (d : Device) : Device := d.updIntc fun i => { i with vbase := v &&& 0xFFFFFFFFFFFFC000 }
  if off = 0x08 then d.updIntc fun i => { i with faultCore := clampFin 3 (w.extractLsb' 0 2).toNat }
  else if off = 0x10 then (Bank.indices 4).foldl (Device.runBit w) d
  else if off = 0x18 then d.writeStaged req (offIntc + 0x18) part v d.intc.entry entry
  else if off = 0x20 then d.writeStaged req (offIntc + 0x20) part v d.intc.vbase vbase
  else if off = 0x28 then d.updIntc (Intc.clearFault w)
  else if off = 0x38 then d.updIntc (Intc.setSoftware w)
  else if 0x1000 ≤ off ∧ off < 0x2000 then d.updIntc (Intc.setSource (clampFin 511 ((off - 0x1000) / 8)) w)
  else if 0x3000 ≤ off then
    let c := clampFin 3 ((off - 0x3000) / 0x40)
    if off % 0x40 = 0x08 then d.updCore c fun k => { k with threshold := w.extractLsb' 0 4 }
    else if off % 0x40 = 0x10 then d.eoi c w
    else d
  else d

/-- A write of a doubleword of EVR_POSTc, or of a half: doubleword 7 submits once its low half is written (R460). -/
def Device.postWrite (c : Fin 4) (i : Fin 8) (part : RegPart) (v : Word64) (d : Device) : Device :=
  let v := mergePart part v d.cores[c].postImage[i]
  match part with
  | .hi => d.updCore c fun k => { k with postImage := Bank.upd k.postImage i fun _ => v }
  | .lo => if i.val = 7 then d.evrPost c v else d.updCore c fun k => k.post i v
  | .full => if i.val = 7 then d.evrPost c v else d.updCore c fun k => k.post i v

/-- EVR (R470). -/
def Device.writeEvr (off : Nat) (part : RegPart) (v : Word64) (d : Device) : Device :=
  let w := lowHalf v
  let e := d.evr
  if off = 0x08 then
    { d with evr := { e with
        minSeverity := w.getLsbD 0, notify := #v[w.extractLsb' 4 3, w.extractLsb' 8 3], repeatWindowMs := w.extractLsb' 16 16 } }
  else if off = 0x38 then { d with evr := { e with vec := #v[w.extractLsb' 0 8, w.extractLsb' 8 8] } }
  else if 0x100 ≤ off then d.postWrite (clampFin 3 ((off - 0x100) / 0x40)) (clampFin 7 (off % 0x40 / 8)) part v
  else d

/-- INTEGRITY (R412, R413). -/
def Device.writeIntegrity (off : Nat) (w : Word32) (d : Device) : Device :=
  if off = 0x00 then
    let d := d.updInteg fun i => { i with waEn := w.getLsbD 17, rotEn := w.getLsbD 16 }
    (whenBit w 8 (fun d => d.updInteg Integrity.clearCounts) d).setQuarantine (w.extractLsb' 0 8)
  else if off = 0x10 then d.setRotPeriod w
  else d

/-- One doubleword of an MSI-X table entry written: address, or data and vector control (R503). -/
def Device.writeMsix (p : Fin 2) (at' : Nat) (part : RegPart) (v : Word64) (d : Device) : Device :=
  let i := clampFin 255 (at' / 16)
  let e := d.ports[p].msix[i]
  let put (f : MsixEntry → MsixEntry) : Device := d.updPort p fun q => { q with msix := Bank.upd q.msix i f }
  if at' % 16 = 0 then put fun e => { e with addr := mergePart part v e.addr &&& 0xFFFFFFFFFFFFFFFC }
  else
    let old : Word64 := BitVec.ofNat 64 (e.data.toNat + if e.masked then 2 ^ 32 else 0)
    let new := mergePart part v old
    let d := put fun e => { e with data := lowHalf new, masked := new.getLsbD 32 }
    if e.masked && !new.getLsbD 32 then d.clearMask p i else d

/-- PORTCFG (R515). The PBA, the other registers and the port-relative window of a core take no value. -/
def Device.writePortcfg (req : Requester) (off : Nat) (part : RegPart) (v : Word64) (d : Device) : Device :=
  let base : Nat := 0x02E00000
  if off < 0x10 then
    let p := clampFin 1 (off / 8)
    d.writeStaged req (base + off) part v d.ports[p].acctEn fun v d => d.updPort p fun q => { q with acctEn := v }
  else if 0x8000 ≤ off ∧ off < 0x9000 then
    match req with
    | .port p => d.writeMsix p (off - 0x8000) part v
    | _ => d
  else if 0xA000 ≤ off ∧ off < 0xB000 then d.writeMsix 0 (off - 0xA000) part v
  else if 0xC000 ≤ off ∧ off < 0xD000 then d.writeMsix 1 (off - 0xC000) part v
  else d

/-- TIMEBASE (R40). -/
def Device.writeTimebase (off : Nat) (w : Word32) (d : Device) : Device :=
  if off = 0x08 then
    let t := d.tb
    { d with tb := { t with syncInEn := w.getLsbD 0, syncOutEn := w.getLsbD 1, syncOutPeriod := w.extractLsb' 8 5 } }
  else if off = 0x10 then d.setCorr w
  else if off = 0x18 then d.clearTbStatus w
  else d

/-- What a write of a register's part does; a register without a writable field ignores it (R18). -/
def Device.writeReg (req : Requester) (off : Nat) (part : RegPart) (v : Word64) (d : Device) : Device :=
  let w := lowHalf v
  if off < 0x00100000 then d
  else if off < 0x00200000 then d.writeIntake req (clampFin 1 (off % 0x00100000 / 0x1000)) (off % 0x1000) part v
  else if off < 0x01000000 then if off = offAdmission then whenBit w 0 Device.clearAdmCounts d else d
  else if off < 0x02000000 then d.writeArray (clampFin 7 ((off - 0x01000000) / 0x00100000)) (off % 0x00100000) w
  else if off < 0x02100000 then d.writeTundish (off - offTundish) w
  else if off < 0x02200000 then d.writeAster (off - offAster) w
  else if off < 0x02400000 then
    if off % 0x00020000 = 8 then d.setPart (clampFin 7 ((off - 0x02200000) / 0x00020000)) (w.extractLsb' 0 10) else d
  else if off < 0x02800000 then d.writeStack (clampFin 19 ((off - 0x02400000) / 0x00010000)) (off % 0x00010000) w
  else if off < 0x02900000 then if off = offOcting + 8 then whenBit w 0 (fun d => d.updFab Fabric.countClear) d else d
  else if off < 0x02A00000 then d.writeBellows (off - offBellows) w
  else if off < 0x02B00000 then d.writeIntc req (off - offIntc) part v
  else if off < 0x02C00000 then d.writeEvr (off - 0x02B00000) part v
  else if off < 0x02D00000 then d
  else if off < 0x02E00000 then d.writeIntegrity (off - offInteg) w
  else if off < 0x02F00000 then d.writePortcfg req (off - 0x02E00000) part v
  else d.writeTimebase (off - offTimebase) w

/-- The port that may write a register whatever its role: its own INTAKE page, its own MSI-X table and PBA (R507). -/
def ownPage (req : Requester) (off : Nat) : Option (Fin 2) :=
  if 0x00100000 ≤ off ∧ off < 0x00200000 then some (clampFin 1 (off % 0x00100000 / 0x1000))
  else if 0x02E08000 ≤ off ∧ off < 0x02E0A000 then
    match req with
    | .port p => some p
    | _ => none
  else none

/-- A write to a reserved location (R444, R464). -/
def Device.writeReserved (d : Device) (req : Requester) (off : Nat) : Device :=
  match req with
  | .port p => (d.emit (.aerCompleterAbort p)).logEvent 0x0A03 .warn off p.val srcEvr
  | .core c => d.coreFault c .store off
  | .smbus => d
  | .jtag => d

/-- REG_WRITE (R466, R507). -/
def Device.regWrite (req : Requester) (off : Nat) (part : RegPart) (v : Word64) (d : Device) : Device :=
  if !d.hears req then d
  else match d.accessAt req off part with
    | none => d.writeReserved req off
    | some (reg, _, part) => d.writeBy req off (ownPage req off) (Device.writeReg req reg part v)

def execRegWrite (req : Requester) (offset : BitVec 26) (part : RegPart) (value : Word64) (s : State) : Answer :=
  s.act (Device.regWrite req offset.toNat part value)

/-- RESERVED_ACCESS: a PCIe access to a reserved location (R464). -/
def Device.reservedAccess (p : Fin 2) (off : Nat) (write : Bool) (d : Device) : Device :=
  if !d.linkUp p then d else if write then d.writeReserved (.port p) off else d.readReserved (.port p) off

def execReservedAccess (port : Fin 2) (offset : BitVec 26) (write : Bool) (s : State) : Answer :=
  s.act (Device.reservedAccess port offset.toNat write)

/-! ### Parity (R465) -/

/-- FAULTED of a block that has it: an array, INTAKE for both ports, the Tundish, the EVR, which also stops accepting. -/
def Device.faultStatus (b : Nat) (d : Device) : Device :=
  if b = 1 then { d with ports := d.ports.map fun q => { q with faulted := true } }
  else if 3 ≤ b ∧ b < 11 then d.updArray (clampFin 7 (b - 3)) fun a => { a with faulted := true }
  else if b = 11 then { d with tun := { d.tun with faulted := true } }
  else if b = 44 then { d with evr := { d.evr with faulted := true, accepting := false } }
  else d

/-- Commands that a block is working on end with ST_FAULTED: a stack's exerciser runs and zeroing, an array's assays, Octing's
barriers and resume. -/
def Device.faultCommands (b : Nat) (d : Device) : Device :=
  if 21 ≤ b ∧ b < 41 then
    let k := clampFin 19 (b - 21)
    let s := d.mem.hbm[k]
    let stop (e : Exerciser) : Exerciser := { e with busy := false }
    let d := d.updStack k fun s => { s with runs := [], zeroing := none, exer := s.exer.map stop }
    (s.runs.map ExerRun.cmd ++ s.zeroing.toList).foldl (fun d c => d.finish c .faulted) d
  else if 3 ≤ b ∧ b < 11 then
    let mine (r : AssayRun) : Bool := r.array.val + 3 == b
    let i := d.integ
    let ended := ((i.run.toList ++ i.asked ++ i.atOnce).filter mine).filterMap AssayRun.cmd
    let d := d.updInteg fun i =>
      { i with run := i.run.filter fun r => !mine r, asked := i.asked.filter fun r => !mine r,
               atOnce := i.atOnce.filter fun r => !mine r }
    ended.foldl (fun d c => d.finish c .faulted) d
  else if b = 41 then
    let resume := d.fab.resume
    let d := (d.updFab fun f => { f with resume := none }).endBarriers .faulted
    match resume with
    | some (c, _) => d.finish c .faulted
    | none => d
  else d

/-- PARITY_FAULT: the block faults, every step and command that needs it ends with ST_FAULTED, and the fault is recorded; the
EVR's own record is not written. -/
def Device.parityFault (b : Nat) (d : Device) : Device :=
  if 49 ≤ b then d
  else
    let d := d.updIntc fun i => { i with parity := i.parity ||| (1#49 <<< b), faultParity := true }
    let d := if b = 44 then d else d.logEvent 0x0A02 .error b 0 (blockSource b)
    let d := d.faultStatus b
    (d.faultAll fun p => !p.steps.isEmpty && d.needsBlock p b).faultCommands b

def execParityFault (block : BitVec 6) (s : State) : Answer := s.act (Device.parityFault block.toNat)

end Sys2Proof.Machine
end

