-- ==== Sys2Proof/Machine/Sideband.lean ====
section
/-! DEFINITION. The SMBus board port and the JTAG port: SMB_DEVICE_INFO to JTAG_DEBUG_RESUME (R511, R512, R529, R530). -/

namespace Sys2Proof.Machine

/-! ### SMBus (R511, R512) -/

/-- The packet error code of SMBus: the CRC of a message's bytes by x^8 + x^2 + x + 1. -/
def smbPec (bs : List Byte) : Byte :=
  let bit (c : Byte) (_ : Nat) : Byte := if c.getLsbD 7 then (c <<< 1) ^^^ 0x07 else c <<< 1
  bs.foldl (fun c b => (List.range 8).foldl bit (c ^^^ b)) 0

/-- The SMBus address of the port, and its address byte for a write; a read has its lowest bit set. -/
def smbAddress : Nat := 0x5A
def smbWriteByte : Byte := BitVec.ofNat 8 (2 * smbAddress)

/-- The data that a read of a command code returns, fields with the least significant byte first; none for a code that is no read of
*SMBus commands*. -/
def Device.smbData (d : Device) (code : Nat) : Option (List Byte) :=
  let data (fields : List (Nat × Nat)) : Option (List Byte) := some (fields.flatMap fun f => bytesOf f.1 f.2)
  let b := d.bel
  match code with
  | 0x00 => data [(8, fieldsOf
      [(0, 8, 8), (8, 8, Config.ctrlStepping.toNat), (16, 2, d.sec.state.code), (18, 1, d.sec.ready.toNat),
       (19, 1, d.admin.port.val), (20, 1, (d.linkUp 0).toNat), (21, 1, (d.linkUp 1).toNat)])]
  | 0x01 => data [(2, b.estimate.toNat), (2, b.target.toNat), (2, b.measured.toNat), (2, min b.supply.toNat b.converterW)]
  | 0x02 => data [(8, d.belThermal.value)]
  | 0x03 => data [(4, d.belSupply.value)]
  | 0x04 => data [(8, d.evr.countsReg.value), (8, d.evr.dropsReg.value), (8, d.evr.summaryReg.value)]
  | 0x05 => data [(4, d.smb.alert.toNat)]
  | 0x11 => data [(8, ((d.regAt .smbus d.smb.regOffset.toNat).map Reg.value).getD 0)]
  | _ => none

/-- A block read of a command code: its data, with a PEC over the whole message; a code without one is answered NACK. Reading ALERT_CAUSE
clears the latched causes; one still present latches again at once (`Device.settle`). -/
def Device.smbRead (code : Nat) (d : Device) : Device :=
  match d.smbData code with
  | none => d.emit .smbNack
  | some bs =>
    let msg := [smbWriteByte, BitVec.ofNat 8 code, smbWriteByte ||| 1, BitVec.ofNat 8 bs.length] ++ bs
    let d := d.emit (.smb bs (smbPec msg))
    if code = 0x05 then { d with smb := { d.smb with alert := 0 } } else d

def execSmbDeviceInfo (s : State) : Answer := s.act (Device.smbRead 0x00)

def execSmbPower (s : State) : Answer := s.act fun d => d.smbRead 0x01

def execSmbThermal (s : State) : Answer := s.act fun d => Device.smbRead 0x02 d

def execSmbSupply (s : State) : Answer := s.act fun d => d.smbRead 0x03

def execSmbEventSummary (s : State) : Answer := s.act fun d => d.smbRead 0x04

def execSmbAlertCause (s : State) : Answer := s.act fun d => d.smbRead 0x05

/-- A block write of a command code: REG_OFFSET alone takes one, and any other code is answered NACK; a write whose PEC, when the
controller supplies one, is not that of the message is discarded. -/
def Device.smbWrite (code : Nat) (v : Word32) (pec : Option Byte) (d : Device) : Device :=
  let msg := [smbWriteByte, BitVec.ofNat 8 code, 4] ++ bytesOf 4 v.toNat
  if code ≠ 0x10 then d.emit .smbNack
  else if pec.all (· == smbPec msg) then { d with smb := { d.smb with regOffset := v } }
  else d

def execSmbRegOffset (value : Word32) (pec : Option Byte) (s : State) : Answer := s.act (Device.smbWrite 0x10 value pec)

def execSmbRegRead (s : State) : Answer := s.act fun d => d.smbRead 0x11

/-- SMB_ALERT_RESPONSE: the port answers with its own address while it asserts SMB_ALERT_N. -/
def Device.alertResponse (d : Device) : Device :=
  if d.smb.alert = 0 then d.emit .smbNack
  else
    let a : Byte := BitVec.ofNat 8 smbAddress
    d.emit (.smb [a] (smbPec [0x19, a]))

def execSmbAlertResponse (s : State) : Answer := s.act Device.alertResponse

/-! ### JTAG (R483, R529, R530) -/

/-- The next state of a TAP controller under TMS (IEEE 1149.1). -/
def TapState.next : TapState → Bool → TapState
  | .testLogicReset, tms => if tms then .testLogicReset else .runTestIdle
  | .runTestIdle, tms => if tms then .selectDr else .runTestIdle
  | .selectDr, tms => if tms then .selectIr else .captureDr
  | .captureDr, tms => if tms then .exit1Dr else .shiftDr
  | .shiftDr, tms => if tms then .exit1Dr else .shiftDr
  | .exit1Dr, tms => if tms then .updateDr else .pauseDr
  | .pauseDr, tms => if tms then .exit2Dr else .pauseDr
  | .exit2Dr, tms => if tms then .updateDr else .shiftDr
  | .updateDr, tms => if tms then .selectDr else .runTestIdle
  | .selectIr, tms => if tms then .testLogicReset else .captureIr
  | .captureIr, tms => if tms then .exit1Ir else .shiftIr
  | .shiftIr, tms => if tms then .exit1Ir else .shiftIr
  | .exit1Ir, tms => if tms then .updateIr else .pauseIr
  | .pauseIr, tms => if tms then .exit2Ir else .pauseIr
  | .exit2Ir, tms => if tms then .updateIr else .shiftIr
  | .updateIr, tms => if tms then .selectDr else .runTestIdle

/-- IDCODE: 0x5A08_08C7 with the control-die stepping in bits [31:28] (R529). -/
def idcode : Word32 := Config.ctrlStepping ++ (0xA0808C7 : BitVec 28)

/-- Bits of a register, the lowest first. -/
def bitsOf {w : Nat} (v : BitVec w) : List Bool := (List.range w).map v.getLsbD

/-- What a data register captures: IDCODE, the one 0 of BYPASS, or cells the spec does not give. -/
def tapCaptured (free : Nat) : TapInstr → List Bool
  | .idcode => bitsOf idcode
  | .bypass => [false]
  | .boundary => Config.scanCells free
  | .debug => Config.scanCells free

/-- The instruction a code names: all ones is BYPASS; without debug its instructions are not reached (R483). -/
def tapInstrOf (debug : Bool) (code : List Bool) : TapInstr :=
  if code.all id then .bypass
  else
    let i := Config.tapCode code
    if i = .debug ∧ debug = false then .bypass else i

/-- A cycle of TCK: what the state does with its registers, the bit that TDO drives, and the next state; with TRST_N low the TAP stays in
Test-Logic-Reset, where IDCODE is in force. -/
def Tap.clock (debug : Bool) (free : Nat) (t : Tap) (p : TapPins) : Tap × Option Bool :=
  if !p.trstN then ({}, none)
  else
    let moved := { t with trstN := true, state := t.state.next p.tms }
    let out := t.shift.head?
    let shifted := { moved with shift := t.shift.drop 1 ++ [p.tdi] }
    let (x, tdo) : Tap × Option Bool := match t.state with
      | .testLogicReset => ({ moved with instr := .idcode }, none)
      | .captureDr => ({ moved with shift := tapCaptured free t.instr }, none)
      | .captureIr => ({ moved with shift := true :: List.replicate (Config.irLength - 1) false }, none)
      | .shiftDr => (shifted, out)
      | .shiftIr => (shifted, out)
      | .updateIr => ({ moved with instr := tapInstrOf debug t.shift }, none)
      | .runTestIdle => (moved, none)
      | .selectDr => (moved, none)
      | .exit1Dr => (moved, none)
      | .pauseDr => (moved, none)
      | .exit2Dr => (moved, none)
      | .updateDr => (moved, none)
      | .selectIr => (moved, none)
      | .exit1Ir => (moved, none)
      | .pauseIr => (moved, none)
      | .exit2Ir => (moved, none)
    (if x.state = .testLogicReset then { x with instr := .idcode } else x, tdo)

/-- A scan: TCK cycles one after the other, and the bits TDO drives. -/
def Device.tapScan (scan : List TapPins) (d : Device) : Device :=
  if scan.isEmpty then d else
  let (t, bits) := scan.foldl (fun acc p =>
    let (t, b) := Tap.clock (!d.seed.debugDisabled) d.free acc.1 p
    (t, acc.2 ++ b.toList)) (d.pins.tap, [])
  let d := { d with pins := { d.pins with tap := t }, free := d.free + 1 }
  if bits.isEmpty then d else d.emit (.tdo bits)

/-- A debug halt or its end, possible while debug is enabled and the TAP is out of Test-Logic-Reset. -/
def Device.debugSet (target : DebugTarget) (halt : Bool) (d : Device) : Device :=
  if d.seed.debugDisabled || d.pins.tap.state == .testLogicReset then d
  else match target with
    | .core c => d.updCore c fun k => { k with debugHalted := halt }
    | .array n => d.updArray n fun a => { a with debugFrozen := halt }

/-- JTAG_DEBUG_HALT: the scan that asks for it, then the halt. -/
def execJtagDebugHalt (target : DebugTarget) (scan : List TapPins) (s : State) : Answer :=
  s.act fun d => (d.tapScan scan).debugSet target true

def execJtagDebugResume (target : DebugTarget) (scan : List TapPins) (s : State) : Answer :=
  s.act fun d => (d.tapScan scan).debugSet target false

end Sys2Proof.Machine
end

