-- ==== Sys2Proof/Machine/Packet.lean ====
section
/-! DEFINITION. PACKET_CONSUME: the intake ring, the packet header, and the parameter tables of every host command (R323-R333,
R147, R212, R237, R268, R297, R319, R344, R381, R410, R436, R467, R491). -/

namespace Sys2Proof.Machine

/-! ### Parameters -/

/-- Little-endian fields of a parameter area, by byte offset. -/
def par8 (ps : List Byte) (o : Nat) : BitVec 8 := BitVec.ofNat 8 (fieldAt ps o 1)
def par16 (ps : List Byte) (o : Nat) : Word16 := BitVec.ofNat 16 (fieldAt ps o 2)
def par32 (ps : List Byte) (o : Nat) : Word32 := BitVec.ofNat 32 (fieldAt ps o 4)
def par48 (ps : List Byte) (o : Nat) : BitVec 48 := BitVec.ofNat 48 (fieldAt ps o 6)
def par64 (ps : List Byte) (o : Nat) : Word64 := BitVec.ofNat 64 (fieldAt ps o 8)

/-- A STACK_MASK in bits [19:0] of three bytes. -/
def parMask (ps : List Byte) (o : Nat) : BitVec 20 := BitVec.ofNat 20 (fieldAt ps o 3)

/-- A flag in bit 0 of a byte. -/
def parFlag (ps : List Byte) (o : Nat) : Bool := (par8 ps o).getLsbD 0

/-- Reserved bits: a byte offset and the bits of that byte that must be zero. -/
abbrev Spare := Nat × Nat

/-- `n` reserved bytes from an offset. -/
def spare (o n : Nat) : List Spare := (List.range n).map fun i => (o + i, 255)

/-- Bits [7:1] of a FLAGS byte. -/
def spareFlag (o : Nat) : List Spare := [(o, 254)]

/-- Bits [23:20] of a STACK_MASK. -/
def spareMask (o : Nat) : List Spare := [(o + 2, 240)]

/-- One opcode of *Opcode index*: its parameter bytes, whether it is admin-only, its reserved parameter bits, and what it does with
its parameters. -/
structure HostCommand where
  op : Nat
  size : Nat
  /-- The admin port alone may send it (*Opcode index*). -/
  admin : CmdHdr → List Byte → Bool
  spares : List Byte → List Spare
  run : CmdHdr → List Byte → Device → Device

/-- A command any port may send, with fixed reserved bits. -/
def hostCmd (op size : Nat) (ss : List Spare) (run : CmdHdr → List Byte → Device → Device) : HostCommand :=
  { op := op, size := size, admin := fun _ _ => false, spares := fun _ => ss, run := run }

/-- An admin-only command, with fixed reserved bits. -/
def adminCmd (op size : Nat) (ss : List Spare) (run : CmdHdr → List Byte → Device → Device) : HostCommand :=
  { op := op, size := size, admin := fun _ _ => true, spares := fun _ => ss, run := run }

/-! ### The opcode index (R345-R347) -/

/-- *Device and session commands* (R344). -/
def sessionCommands : List HostCommand :=
  [hostCmd 0x0001 0 [] fun h _ => Device.identify h,
   hostCmd 0x0002 0 [] fun h _ => Device.getState h,
   hostCmd 0x0003 0 [] fun h _ => Device.nop h,
   adminCmd 0x0008 0 [] fun h _ => Device.adminHandover h,
   hostCmd 0x0009 0 [] fun h _ => Device.adminAdopt h,
   hostCmd 0x0010 20 [] fun h ps => Device.fwLoad h (par64 ps 0) (par32 ps 8) (par32 ps 12) (par32 ps 16),
   hostCmd 0x0011 4 [] fun h ps => Device.fwStart h (par32 ps 0),
   adminCmd 0x0018 8 (spare 1 7) fun h ps => Device.reset h (par8 ps 0)]

/-- *Memory commands* (R297). -/
def memoryCommands : List HostCommand :=
  [hostCmd 0x0101 24 (spareMask 12 ++ spare 15 1) fun h ps =>
     Device.objCreate h (par32 ps 0) (par48 ps 4) (par8 ps 10) (par8 ps 11) (parMask ps 12) (par64 ps 16),
   hostCmd 0x0102 4 [] fun h ps => Device.objDestroy h (par32 ps 0),
   hostCmd 0x0103 28 (spareFlag 4 ++ spare 7 1 ++ spare 14 2 ++ spare 22 2 ++ spareMask 24 ++ spare 27 1) fun h ps =>
     Device.objPlace h (par32 ps 0) (parFlag ps 4) (par8 ps 5) (par8 ps 6) (par48 ps 8) (par48 ps 16) (parMask ps 24),
   hostCmd 0x0104 5 (spareFlag 4) fun h ps => Device.objPin h (par32 ps 0) (parFlag ps 4),
   hostCmd 0x0105 16 (spare 4 4) fun h ps => Device.objShare h (par32 ps 0) (par64 ps 8),
   hostCmd 0x0106 32 (spareFlag 4 ++ spare 6 2 ++ spare 14 2 ++ spare 20 4) fun h ps =>
     Device.objWrite h (par32 ps 0) (parFlag ps 4) (par8 ps 5) (par48 ps 8) (par32 ps 16) (par64 ps 24),
   hostCmd 0x0107 32 (spare 4 1 ++ spare 6 2 ++ spare 14 2 ++ spare 20 4) fun h ps =>
     Device.objRead h (par32 ps 0) (par8 ps 5) (par48 ps 8) (par32 ps 16) (par64 ps 24) [],
   hostCmd 0x0108 8 (spare 5 3) fun h ps => Device.objQuery h (par32 ps 0) (par8 ps 4),
   hostCmd 0x0109 5 (spareFlag 4) fun h ps => Device.objMap h (par32 ps 0) (parFlag ps 4),
   adminCmd 0x010A 8 (spare 3 1) fun h ps => Device.quotaSet h (par8 ps 0) (par8 ps 1) (par8 ps 2) (par32 ps 4),
   { op := 0x010B, size := 4, admin := fun h ps => (par8 ps 0).toNat != h.account.toNat, spares := fun _ => spare 3 1
     run := fun h ps => Device.quotaQuery h (par8 ps 0) (par8 ps 1) (par8 ps 2) },
   adminCmd 0x010C 8 (spare 3 5) fun h ps => Device.memArbSet h (par8 ps 0) (par8 ps 1) (par8 ps 2)]

/-- *Program commands* (R147). -/
def programCommands : List HostCommand :=
  [hostCmd 0x0201 32 (spare 10 2 ++ spare 20 4) fun h ps =>
     Device.progLoad h (par32 ps 0) (par48 ps 4) (par32 ps 12) (par32 ps 16) (par64 ps 24),
   hostCmd 0x0202 8 (spare 1 7) fun h ps => Device.progUnload h (par8 ps 0),
   hostCmd 0x0203 8 (spare 1 3) fun h ps => Device.stepLaunch h (par8 ps 0) (par32 ps 4),
   hostCmd 0x0204 8 (spare 1 3) fun h ps => Device.stepAbort h (par8 ps 0) (par32 ps 4),
   hostCmd 0x0205 8 (spare 1 3) fun h ps => Device.progRewind h (par8 ps 0) (par32 ps 4),
   hostCmd 0x0206 16 (spare 1 1 ++ spare 14 2) fun h ps =>
     Device.descWrite h (par8 ps 0) (par16 ps 2) (par32 ps 4) (par48 ps 8),
   hostCmd 0x0207 4 (spare 3 1) fun h ps => Device.progQuery h (par8 ps 0) (par8 ps 1) (par8 ps 2),
   hostCmd 0x0208 8 [] fun h ps => Device.semSignal h (par8 ps 0) (par8 ps 1) (par16 ps 2) (par32 ps 4)]

/-- *Gradient exchange commands* (R212). -/
def gradientCommands : List HostCommand :=
  [adminCmd 0x0301 24 (spare 10 2) fun h ps =>
     Device.jobJoin h (par64 ps 0) (par16 ps 8) (par32 ps 12) (par48 ps 16) (par16 ps 22),
   adminCmd 0x0302 8 [] fun h ps => Device.jobLeave h (par64 ps 0),
   hostCmd 0x0303 24 (spare 6 2 ++ spare 18 6) fun h ps =>
     Device.gxConfig h (par8 ps 0) (par8 ps 1) (par8 ps 2) (par8 ps 3) (par16 ps 4) (par32 ps 8) (par32 ps 12) (par16 ps 16),
   hostCmd 0x0304 8 (spare 1 3) fun h ps => Device.gxQuery h (par8 ps 0) (par32 ps 4).toNat,
   hostCmd 0x0305 18 (spare 1 3) fun h ps =>
     Device.gxScaleSave h (par8 ps 0) (par32 ps 4).toNat (par32 ps 8) (par48 ps 12).toNat,
   hostCmd 0x0306 18 (spare 1 3) fun h ps => Device.gxScaleLoad h (par8 ps 0) (par32 ps 4) (par32 ps 8) (par48 ps 12)]

/-- *Update commands* (R237). FLAGS is checked by the command itself. -/
def updateCommands : List HostCommand :=
  [hostCmd 0x0401 36 (spare 3 1 ++ spare 14 2 ++ spare 30 2) fun h ps =>
     Device.ruleSet h (par8 ps 0) (par8 ps 1) (par8 ps 2) (par16 ps 4) (par16 ps 6) (par16 ps 8) (par16 ps 10) (par16 ps 12)
       (par32 ps 16) (par32 ps 20) (par32 ps 24) (par16 ps 28) (par32 ps 32),
   hostCmd 0x0402 8 (spare 1 3) fun h ps => Device.ruleQuery h (par8 ps 0) (par32 ps 4),
   hostCmd 0x0403 32 (spare 28 4) fun h ps =>
     Device.almanacSet h (par8 ps 0) (par8 ps 1) (par8 ps 2) (par8 ps 3) (par32 ps 4) (par32 ps 8) (par32 ps 12) (par32 ps 16)
       (par32 ps 20) (par32 ps 24),
   hostCmd 0x0404 8 (spare 1 3) fun h ps => Device.almanacQuery h (par8 ps 0) (par32 ps 4).toNat,
   hostCmd 0x0405 8 (spare 1 7) fun h ps => Device.preRefresh h (par8 ps 0)]

/-- *KV commands* (R268). -/
def kvCommands : List HostCommand :=
  [hostCmd 0x0501 32 (spare 1 1 ++ spare 6 2) fun h ps =>
     Device.kvCreate h (par8 ps 0) (par16 ps 2) (par16 ps 4) (par32 ps 8) (par32 ps 12) (par32 ps 16) (par32 ps 20) (par64 ps 24),
   hostCmd 0x0502 8 (spare 1 7) fun h ps => Device.kvDestroy h (par8 ps 0),
   hostCmd 0x0503 24 (spareFlag 1 ++ spare 2 2 ++ spare 18 2) fun h ps =>
     Device.kvSeqOpen h (par8 ps 0) (parFlag ps 1) (par32 ps 4) (par32 ps 8) (par48 ps 12).toNat (par32 ps 20).toNat,
   hostCmd 0x0504 8 (spareFlag 1 ++ spare 2 2) fun h ps => Device.kvSeqClose h (par8 ps 0) (parFlag ps 1) (par32 ps 4),
   hostCmd 0x0505 16 (spareFlag 1 ++ spare 2 2) fun h ps =>
     Device.kvSeqFork h (par8 ps 0) (parFlag ps 1) (par32 ps 4) (par32 ps 8) (par32 ps 12),
   hostCmd 0x0506 12 (spareFlag 1 ++ spare 2 2) fun h ps =>
     Device.kvTruncate h (par8 ps 0) (parFlag ps 1) (par32 ps 4) (par32 ps 8),
   hostCmd 0x0507 8 (spareFlag 1 ++ spare 2 2) fun h ps => Device.kvPin h (par8 ps 0) (parFlag ps 1) (par32 ps 4),
   hostCmd 0x0508 68 [] fun h ps =>
     Device.kvConfig h (par8 ps 0) (par8 ps 1) (par16 ps 2) (par32 ps 4) ((List.range 15).map fun i => par32 ps (8 + 4 * i)),
   hostCmd 0x0509 8 (spare 1 3) fun h ps => Device.kvQuery h (par8 ps 0) (par32 ps 4)]

/-- *Stack commands* (R319). -/
def stackCommands : List HostCommand :=
  [hostCmd 0x0601 8 (spare 1 7) fun h ps => Device.stkQuery h (par8 ps 0),
   adminCmd 0x0602 8 (spare 2 6) fun h ps => Device.stkScrubSet h (par8 ps 0) (par8 ps 1),
   adminCmd 0x0603 8 (spare 1 7) fun h ps => Device.stkDiagEnter h (par8 ps 0),
   adminCmd 0x0604 8 (spare 1 7) fun h ps => Device.stkDiagExit h (par8 ps 0),
   adminCmd 0x0605 16 [] fun h ps =>
     Device.exerRun h (par8 ps 0) (par8 ps 1) (par8 ps 2) (par8 ps 3) (par32 ps 4) (par32 ps 8) (par32 ps 12)]

/-- Reserved bits of FAB_PORT_SET, by KIND: bits 3 and 7 beside the two priorities, and bytes 14-15, of KIND 0; bytes 1-3 of
KIND 1. -/
def fabSpares (ps : List Byte) : List Spare :=
  if fieldAt ps 0 1 = 0 then (3, 0x88) :: spare 14 2 else if fieldAt ps 0 1 = 1 then spare 1 3 else []

/-- Reserved bits of MCAST_SET, by KIND: KIND 0 uses bytes 4-11 alone. -/
def mcastSpares (ps : List Byte) : List Spare :=
  if fieldAt ps 1 1 = 0 then spare 2 2 ++ spare 12 24 else (3, 254) :: (spare 7 1 ++ spare 30 2)

/-- FAB_PORT_SET's operands of a KIND: the port fields of KIND 0, the route fields of any other. -/
def runFabPortSet (h : CmdHdr) (ps : List Byte) (d : Device) : Device :=
  if fieldAt ps 0 1 = 0 then
    d.fabPortSet h (par8 ps 0) (par8 ps 1) (par8 ps 2) (par8 ps 3) (par48 ps 4) (par16 ps 10) (par16 ps 12) 0 0 0
  else d.fabPortSet h (par8 ps 0) 0 0 0 0 0 0 (par32 ps 4) (par48 ps 8) (par16 ps 14)

/-- MCAST_SET's operands of a KIND: lag and window of KIND 0, the channel fields of any other. -/
def runMcastSet (h : CmdHdr) (ps : List Byte) (d : Device) : Device :=
  let fields : BindOperands :=
    { channel := par8 ps 2, stream := par8 ps 3, trigger := par8 ps 4, destSem := par8 ps 5, destProg := par8 ps 6
      srcObject := par32 ps 8, srcOffset := par48 ps 12, destRank := par16 ps 18, destObject := par32 ps 20
      destOffset := par48 ps 24, bytes := par32 ps 32 }
  let none' : BindOperands :=
    { channel := 0, stream := 0, trigger := 0, destSem := 0, destProg := 0, srcObject := 0, srcOffset := 0, destRank := 0
      destObject := 0, destOffset := 0, bytes := 0 }
  if fieldAt ps 1 1 = 0 then d.mcastSet h (par8 ps 0) (par8 ps 1) (par32 ps 4) (par32 ps 8) none'
  else d.mcastSet h (par8 ps 0) (par8 ps 1) 0 0 fields

/-- *Fabric commands* (R381). -/
def fabricCommands : List HostCommand :=
  [{ op := 0x0701, size := 16, admin := fun _ _ => true, spares := fabSpares, run := runFabPortSet },
   hostCmd 0x0702 8 (spare 1 7) fun h ps => Device.fabQuery h (par8 ps 0),
   adminCmd 0x0703 8 (spare 5 1) fun h ps => Device.fabTimeoutSet h (par32 ps 0) (par8 ps 4) (par16 ps 6),
   hostCmd 0x0704 8 (spare 5 3) fun h ps => Device.fabBarrier h (par32 ps 0) (par8 ps 4),
   adminCmd 0x0705 12 [] fun h ps => Device.jobResume h (par64 ps 0) (par32 ps 8),
   { op := 0x0706, size := 36, admin := fun _ _ => false, spares := mcastSpares, run := runMcastSet },
   hostCmd 0x0707 8 (spare 2 6) fun h ps => Device.fabPeerQuery h (par16 ps 0)]

/-- *Integrity commands* (R410). -/
def integrityCommands : List HostCommand :=
  [adminCmd 0x0801 8 (spare 1 7) fun h ps => Device.twinSet h (par8 ps 0),
   hostCmd 0x0802 4 (spare 1 1) fun h ps => Device.replaySet h (par8 ps 0) (par16 ps 2),
   hostCmd 0x0803 4 (spare 1 1) fun h ps => Device.hallmarkSet h (par8 ps 0) (par16 ps 2),
   adminCmd 0x0804 12 [] fun h ps => Device.assayLoad h (par64 ps 0) (par32 ps 8),
   hostCmd 0x0805 8 (spare 2 6) fun h ps => Device.assayRun h (par8 ps 0) (par8 ps 1),
   adminCmd 0x0806 8 (spare 2 6) fun h ps => Device.repairCommit h (par8 ps 0) (par8 ps 1),
   hostCmd 0x0807 8 (spare 2 6) fun h ps => Device.integQuery h (par8 ps 0) (par8 ps 1)]

/-- *Power commands* (R436). -/
def powerCommands : List HostCommand :=
  [adminCmd 0x0901 8 (spare 2 6) fun h ps => Device.capSet h (par16 ps 0),
   hostCmd 0x0902 8 (spare 0 8) fun h _ => Device.pwrQuery h,
   adminCmd 0x0903 8 (spare 1 7) fun h ps => Device.rampSet h (par8 ps 0),
   adminCmd 0x0904 8 (spare 1 1 ++ spare 4 4) fun h ps => Device.ballastSet h (par8 ps 0) (par16 ps 2),
   hostCmd 0x0905 8 (spare 1 7) fun h ps => Device.profileClear h (par8 ps 0)]

/-- *Event commands* (R467). -/
def eventCommands : List HostCommand :=
  [hostCmd 0x0A01 24 (spare 17 7) fun h ps => Device.evtRead h (par64 ps 0) (par48 ps 8) (par16 ps 14) (par8 ps 16),
   hostCmd 0x0A02 0 [] fun h _ => Device.evtSummary h,
   adminCmd 0x0A03 8 (spare 5 1) fun h ps =>
     Device.evtFilterSet h (par8 ps 0) (par8 ps 1) (par8 ps 2) (par8 ps 3) (par8 ps 4) (par16 ps 6),
   adminCmd 0x0A04 0 [] fun h _ => Device.evtDropsClear h]

/-- *Security commands* (R491). -/
def securityCommands : List HostCommand :=
  [hostCmd 0x0B01 40 [] fun h ps => Device.attest h (par64 ps 0) ((ps.drop 8).take 32),
   adminCmd 0x0B02 8 (spare 0 8) fun h _ => Device.svnIncrement h,
   adminCmd 0x0B03 8 (spare 0 8) fun h _ => Device.identityGenerate h,
   adminCmd 0x0B04 8 (spare 4 4) fun h ps => Device.debugDisable h (par32 ps 0),
   adminCmd 0x0B05 8 (spare 4 4) fun h ps => Device.holdupSet h (par32 ps 0),
   adminCmd 0x0B06 8 (spare 2 6) fun h ps => Device.ceilingSet h (par16 ps 0),
   hostCmd 0x0B07 8 (spare 1 7) fun h ps => Device.seedbankRead h (par8 ps 0),
   hostCmd 0x0B08 16 (spare 12 4) fun h ps => Device.lastwordsRead h (par64 ps 0) (par16 ps 8) (par16 ps 10)]

/-- *Opcode index* (R346). -/
def hostCommands : List HostCommand :=
  sessionCommands ++ memoryCommands ++ programCommands ++ gradientCommands ++ updateCommands ++ kvCommands ++ stackCommands
    ++ fabricCommands ++ integrityCommands ++ powerCommands ++ eventCommands ++ securityCommands

/-! ### The packet (R324-R326) -/

/-- Bytes of a packet of a command: header, parameters rounded up to a multiple of 8, mark (R324). -/
def HostCommand.length (c : HostCommand) : Nat := 40 + roundUp c.size 8

/-- Some of the bits listed are set. -/
def anySpare (bs : List Byte) (ss : List Spare) : Bool := ss.any fun s => (fieldAt bs s.1 1).land s.2 != 0

/-- The header of a packet as its port received it. -/
def packetHdr (p : Fin 2) (bs : List Byte) : CmdHdr :=
  let b4 := fieldAt bs 4 1
  { port := p, tag := BitVec.ofNat 64 (fieldAt bs 8 8), account := BitVec.ofNat 6 (fieldAt bs 5 1), cls := BitVec.ofNat 2 b4
    powerClass := BitVec.ofNat 4 (b4 / 16), deadline := BitVec.ofNat 64 (fieldAt bs 16 8), noIrq := (fieldAt bs 6 1).testBit 1 }

/-- Reserved bits of the header. -/
def headerSpares : List Spare := [(4, 0x0C), (5, 0xC0), (6, 0xFC), (7, 0xFF)] ++ spare 24 8

/-- What a whole packet fails of checks 2 to 4 by its own bytes: an opcode, its length, reserved header, padding or mark bits. -/
def rawFault (bs : List Byte) : Option HostCommand → Option Status
  | none => some .badOpcode
  | some c =>
    if bs.length ≠ c.length then some .badLength
    else if anySpare bs (headerSpares ++ spare (32 + c.size) (roundUp c.size 8 - c.size)) || (fieldAt bs (bs.length - 2) 2) % 2 ^ 15 ≠ 0
    then some .badParam else none

/-- A consumed packet dispatched (R328, R332). -/
def Device.dispatchPacket (d : Device) (p : Fin 2) (bs : List Byte) : Device :=
  let op := fieldAt bs 2 2
  let h := packetHdr p bs
  let cmd := hostCommands.find? fun c => c.op == op
  let ps := (bs.drop 32).take (bs.length - 40)
  match cmd, rawFault bs cmd with
  | some c, none =>
    if anySpare ps (c.spares ps) then d.dispatch (BitVec.ofNat 16 op) h none (c.admin h ps) fun c d => d.finish c .badParam
    else c.run h ps d
  | _, raw => d.dispatch (BitVec.ofNat 16 op) h raw false fun _ d => d

/-- Bytes of a port's window from an offset on, round the ring (R323). -/
def HostPort.ringBytes (q : HostPort) (off n : Nat) : List Byte :=
  (List.range n).map fun i => Cells.get q.window ((off + i) % 65536)

/-- The expected phase of an offset that many bytes beyond the read offset (R325). -/
def HostPort.phaseAt (q : HostPort) (n : Nat) : Bool := if q.readOffset.toNat + n < 65536 then q.expectPhase else !q.expectPhase

/-- The LENGTH of a header is one a packet can have (R324, R326). -/
def lengthOk (n : Nat) : Bool := n % 8 == 0 && decide (40 ≤ n ∧ n ≤ 4096)

/-- The mark at the end of the packet that the read offset's header begins stands (R325). -/
def HostPort.markStands (q : HostPort) (bs : List Byte) : Bool :=
  let n := bs.length
  (fieldAt bs (n - 1) 1).testBit 7 == q.phaseAt (n - 8) && fieldAt bs (n - 4) 2 * 8 == n && fieldAt bs (n - 8) 4 == fieldAt bs 8 4

/-- A packet's bytes consumed: the read offset, the phase and the credit move on (R325, R327). -/
def HostPort.consume (q : HostPort) (n : Nat) : HostPort :=
  { q with
    readOffset := q.readOffset + BitVec.ofNat 16 n, expectPhase := q.phaseAt n, consumed := q.consumed + BitVec.ofNat 16 (n / 8)
    countPackets := bump q.countPackets }

/-- A header with the expected phase whose LENGTH no packet can have: one ST_BAD_LENGTH, and the port stalls (R326). -/
def Device.stallPort (d : Device) (p : Fin 2) (bs : List Byte) : Device :=
  let h := packetHdr p bs
  let d := d.writeReply p h.noIrq { tag := h.tag, status := .badLength, opcode := BitVec.ofNat 16 (fieldAt bs 2 2) }
  (d.updPort p fun q => { q with stalled := true }).logEvent 0x0001 .error p.val 0 (srcIntake p)

/-- The packet at the read offset of a port, once it is whole and its reply ring has room (R325-R330). -/
def Device.takePacket (d : Device) (p : Fin 2) : Device :=
  let q := d.ports[p]
  let off := q.readOffset.toNat
  let hdr := q.ringBytes off 32
  let n := fieldAt hdr 0 2
  if (fieldAt hdr 6 1).testBit 0 != q.expectPhase || d.dispatchWaits then d
  else
    let bs := q.ringBytes off n
    if lengthOk n && !q.markStands bs then d
    else if !d.replyRoom p then d
    else if !lengthOk n then d.stallPort p hdr
    else (d.updPort p fun q => q.consume n).dispatchPacket p bs

/-- Bytes a host has posted into its intake window. -/
def HostPort.post (q : HostPort) (bs : List (Word16 × Byte)) : HostPort :=
  { q with window := bs.foldl (fun m b => Cells.put m b.1.toNat b.2) q.window }

/-- PACKET_CONSUME: what the host has posted stands in the window, and the port consumes the next packet if it may. -/
def Device.packetConsume (p : Fin 2) (posted : List (Word16 × Byte)) (d : Device) : Device :=
  if !d.linkUp p then d
  else
    let d := d.updPort p fun q => q.post posted
    let q := d.ports[p]
    if q.enabled && !q.faulted && !q.stalled && !q.clearing then d.takePacket p else d

def execPacketConsume (port : Fin 2) (posted : List (Word16 × Byte)) (s : State) : Answer := s.act (Device.packetConsume port posted)

end Sys2Proof.Machine
end

