-- ==== Sys2Proof/Machine/Dispatch.lean ====
section
/-! DEFINITION. The dispatch of a command to its meaning: one arm per row of spec/opcode_table.json. -/

namespace Sys2Proof.Machine

def exec (i : Instr) (s : State) : Host.Outcome State Fault Refusal :=
  match i with
  | .powerOnReset => Sys2Proof.Machine.execPowerOnReset s
  | .powerLoss => Sys2Proof.Machine.execPowerLoss s
  | .pllLock => Sys2Proof.Machine.execPllLock s
  | .refExcursion ppm => Sys2Proof.Machine.execRefExcursion ppm s
  | .refRelock => Sys2Proof.Machine.execRefRelock s
  | .tbCorrWrite req value => Sys2Proof.Machine.execTbCorrWrite req value s
  | .slewStep => Sys2Proof.Machine.execSlewStep s
  | .tbStatusClear req value => Sys2Proof.Machine.execTbStatusClear req value s
  | .syncOutPulse => Sys2Proof.Machine.execSyncOutPulse s
  | .syncInCapture => Sys2Proof.Machine.execSyncInCapture s
  | .runnerFlitReceive block codeword => Sys2Proof.Machine.execRunnerFlitReceive block codeword s
  | .stepRetire slot step => Sys2Proof.Machine.execStepRetire slot step s
  | .sigmaChoose slot => Sys2Proof.Machine.execSigmaChoose slot s
  | .tmm slot step lane errs => Sys2Proof.Machine.execTmm slot step lane errs s
  | .tew slot step lane errs => Sys2Proof.Machine.execTew slot step lane errs s
  | .tnorm slot step lane errs => Sys2Proof.Machine.execTnorm slot step lane errs s
  | .tnormb slot step lane errs => Sys2Proof.Machine.execTnormb slot step lane errs s
  | .tsmax slot step lane errs => Sys2Proof.Machine.execTsmax slot step lane errs s
  | .tsmaxb slot step lane errs => Sys2Proof.Machine.execTsmaxb slot step lane errs s
  | .tred slot step lane errs => Sys2Proof.Machine.execTred slot step lane errs s
  | .tredGrad slot step errs lockstep => Sys2Proof.Machine.execTredGrad slot step errs lockstep s
  | .ttie slot step errs lockstep => Sys2Proof.Machine.execTtie slot step errs lockstep s
  | .tstash slot step lane errs => Sys2Proof.Machine.execTstash slot step lane errs s
  | .tunstash slot step lane errs => Sys2Proof.Machine.execTunstash slot step lane errs s
  | .tattn slot step lane errs => Sys2Proof.Machine.execTattn slot step lane errs s
  | .tmov slot step lane errs => Sys2Proof.Machine.execTmov slot step lane errs s
  | .tsig slot step lane => Sys2Proof.Machine.execTsig slot step lane s
  | .twait slot step lane => Sys2Proof.Machine.execTwait slot step lane s
  | .twaitRelease slot step lane => Sys2Proof.Machine.execTwaitRelease slot step lane s
  | .tfenceStream slot step lane => Sys2Proof.Machine.execTfenceStream slot step lane s
  | .tfenceVersion slot step lane => Sys2Proof.Machine.execTfenceVersion slot step lane s
  | .tfencePmode slot step lane => Sys2Proof.Machine.execTfencePmode slot step lane s
  | .thint slot step lane => Sys2Proof.Machine.execThint slot step lane s
  | .tend slot step lane => Sys2Proof.Machine.execTend slot step lane s
  | .instructionRetire slot step lane n => Sys2Proof.Machine.execInstructionRetire slot step lane n s
  | .slotRelease slot step => Sys2Proof.Machine.execSlotRelease slot step s
  | .versionFenceRelease slot step lane errs => Sys2Proof.Machine.execVersionFenceRelease slot step lane errs s
  | .crucibleInterlockRelease slot step lane errs => Sys2Proof.Machine.execCrucibleInterlockRelease slot step lane errs s
  | .pmodeChange array => Sys2Proof.Machine.execPmodeChange array s
  | .progLoad h image offset length firstStep seed => Sys2Proof.Machine.execProgLoad h image offset length firstStep seed s
  | .progUnload h prog => Sys2Proof.Machine.execProgUnload h prog s
  | .stepLaunch h prog step => Sys2Proof.Machine.execStepLaunch h prog step s
  | .stepAbort h prog step => Sys2Proof.Machine.execStepAbort h prog step s
  | .progRewind h prog next => Sys2Proof.Machine.execProgRewind h prog next s
  | .descWrite h prog handle object offset => Sys2Proof.Machine.execDescWrite h prog handle object offset s
  | .progQuery h prog sem bank => Sys2Proof.Machine.execProgQuery h prog sem bank s
  | .semSignal h prog sem inc step => Sys2Proof.Machine.execSemSignal h prog sem inc step s
  | .arrQuiesceWrite req array value => Sys2Proof.Machine.execArrQuiesceWrite req array value s
  | .arrayQuiesced array => Sys2Proof.Machine.execArrayQuiesced array s
  | .arrCountClr req array => Sys2Proof.Machine.execArrCountClr req array s
  | .arrSpareWrite req array value => Sys2Proof.Machine.execArrSpareWrite req array value s
  | .spareSwapDone array => Sys2Proof.Machine.execSpareSwapDone array s
  | .rotationSwapDue array => Sys2Proof.Machine.execRotationSwapDue array s
  | .columnTestComplete array pass => Sys2Proof.Machine.execColumnTestComplete array pass s
  | .overflowAdd stack errs lockstep => Sys2Proof.Machine.execOverflowAdd stack errs lockstep s
  | .adderQueueRoom stack => Sys2Proof.Machine.execAdderQueueRoom stack s
  | .regionFinalRelease slot step errs lockstep => Sys2Proof.Machine.execRegionFinalRelease slot step errs lockstep s
  | .heldWriteApply object => Sys2Proof.Machine.execHeldWriteApply object s
  | .bucketReduceStart slot step bucket lockstep => Sys2Proof.Machine.execBucketReduceStart slot step bucket lockstep s
  | .hopReceive msg lockstep => Sys2Proof.Machine.execHopReceive msg lockstep s
  | .heldHopProcess n lockstep => Sys2Proof.Machine.execHeldHopProcess n lockstep s
  | .scaleReportReceive step src entries hists => Sys2Proof.Machine.execScaleReportReceive step src entries hists s
  | .scaleTableReceive step src entries hists late => Sys2Proof.Machine.execScaleTableReceive step src entries hists late s
  | .normPartialReceive step src partialSum saturations => Sys2Proof.Machine.execNormPartialReceive step src partialSum saturations s
  | .clipFactorReceive step src n2 clip saturations late => Sys2Proof.Machine.execClipFactorReceive step src n2 clip saturations late s
  | .jobJoin h job rank table offset count => Sys2Proof.Machine.execJobJoin h job rank table offset count s
  | .jobLeave h job => Sys2Proof.Machine.execJobLeave h job s
  | .gxConfig h prog wire bucketMib normMode clipNorm errmem overrideObject overrideCount => Sys2Proof.Machine.execGxConfig h prog wire bucketMib normMode clipNorm errmem overrideObject overrideCount s
  | .gxQuery h prog step => Sys2Proof.Machine.execGxQuery h prog step s
  | .gxScaleSave h prog step object offset => Sys2Proof.Machine.execGxScaleSave h prog step object offset s
  | .gxScaleLoad h prog step object offset => Sys2Proof.Machine.execGxScaleLoad h prog step object offset s
  | .gxQuiesceWrite req value => Sys2Proof.Machine.execGxQuiesceWrite req value s
  | .gxQuiesced => Sys2Proof.Machine.execGxQuiesced s
  | .gxRxbufWrite req value => Sys2Proof.Machine.execGxRxbufWrite req value s
  | .gxCountClr req => Sys2Proof.Machine.execGxCountClr req s
  | .handoffReceive msg => Sys2Proof.Machine.execHandoffReceive msg s
  | .pass1Run slot step n errs lockstep => Sys2Proof.Machine.execPass1Run slot step n errs lockstep s
  | .pass2Run slot step n errs lockstep => Sys2Proof.Machine.execPass2Run slot step n errs lockstep s
  | .singlePassRun slot step n errs lockstep => Sys2Proof.Machine.execSinglePassRun slot step n errs lockstep s
  | .mcastRangeReceive msg => Sys2Proof.Machine.execMcastRangeReceive msg s
  | .mcastRangeApply n => Sys2Proof.Machine.execMcastRangeApply n s
  | .rootRefresh slot step errs lockstep => Sys2Proof.Machine.execRootRefresh slot step errs lockstep s
  | .ruleSet h prog defaultRule flags beta1 beta2 eps weightDecay prePeriod stateObject gradObject overrideObject overrideCount ruleStart => Sys2Proof.Machine.execRuleSet h prog defaultRule flags beta1 beta2 eps weightDecay prePeriod stateObject gradObject overrideObject overrideCount ruleStart s
  | .ruleQuery h prog tensor => Sys2Proof.Machine.execRuleQuery h prog tensor s
  | .almanacSet h prog warmupKind decayKind tMult baseLr minLr warmupSteps decaySteps gamma schedStart => Sys2Proof.Machine.execAlmanacSet h prog warmupKind decayKind tMult baseLr minLr warmupSteps decaySteps gamma schedStart s
  | .almanacQuery h prog step => Sys2Proof.Machine.execAlmanacQuery h prog step s
  | .preRefresh h prog => Sys2Proof.Machine.execPreRefresh h prog s
  | .updCountClr req => Sys2Proof.Machine.execUpdCountClr req s
  | .pageAllocResume n => Sys2Proof.Machine.execPageAllocResume n s
  | .pageReclaim space => Sys2Proof.Machine.execPageReclaim space s
  | .reprefillResume n => Sys2Proof.Machine.execReprefillResume n s
  | .gatherDeadline n => Sys2Proof.Machine.execGatherDeadline n s
  | .heldKvEditApply space n => Sys2Proof.Machine.execHeldKvEditApply space n s
  | .kvCreate h space rank layers pool pages tablePages maxSeqs salt => Sys2Proof.Machine.execKvCreate h space rank layers pool pages tablePages maxSeqs salt s
  | .kvDestroy h space => Sys2Proof.Machine.execKvDestroy h space s
  | .kvSeqOpen h space lookup seq tokenObject tokenOffset tokenCount => Sys2Proof.Machine.execKvSeqOpen h space lookup seq tokenObject tokenOffset tokenCount s
  | .kvSeqClose h space nowait seq => Sys2Proof.Machine.execKvSeqClose h space nowait seq s
  | .kvSeqFork h space nowait src dst length => Sys2Proof.Machine.execKvSeqFork h space nowait src dst length s
  | .kvTruncate h space nowait seq length => Sys2Proof.Machine.execKvTruncate h space nowait seq length s
  | .kvPin h space unpin seq => Sys2Proof.Machine.execKvPin h space unpin seq s
  | .kvConfig h space recompProg recompHandle gatherHold bounds => Sys2Proof.Machine.execKvConfig h space recompProg recompHandle gatherHold bounds s
  | .kvQuery h space seq => Sys2Proof.Machine.execKvQuery h space seq s
  | .astQuiesceWrite req value => Sys2Proof.Machine.execAstQuiesceWrite req value s
  | .astQuiesced => Sys2Proof.Machine.execAstQuiesced s
  | .astCountClr req => Sys2Proof.Machine.execAstCountClr req s
  | .objCreate h id size home index mask hostAddr => Sys2Proof.Machine.execObjCreate h id size home index mask hostAddr s
  | .objDestroy h id => Sys2Proof.Machine.execObjDestroy h id s
  | .objPlace h id nowait target index offset length mask => Sys2Proof.Machine.execObjPlace h id nowait target index offset length mask s
  | .moveStart object => Sys2Proof.Machine.execMoveStart object s
  | .movePinRelease object => Sys2Proof.Machine.execMovePinRelease object s
  | .movePieceSwitch object errs => Sys2Proof.Machine.execMovePieceSwitch object errs s
  | .objPin h id unpin => Sys2Proof.Machine.execObjPin h id unpin s
  | .objShare h id readers => Sys2Proof.Machine.execObjShare h id readers s
  | .objWrite h id nowait convert offset length hostAddr => Sys2Proof.Machine.execObjWrite h id nowait convert offset length hostAddr s
  | .objRead h id convert offset length hostAddr errs => Sys2Proof.Machine.execObjRead h id convert offset length hostAddr errs s
  | .objQuery h id tier => Sys2Proof.Machine.execObjQuery h id tier s
  | .objMap h id unmap => Sys2Proof.Machine.execObjMap h id unmap s
  | .quotaSet h account tier array limit => Sys2Proof.Machine.execQuotaSet h account tier array limit s
  | .quotaQuery h account tier array => Sys2Proof.Machine.execQuotaQuery h account tier array s
  | .memArbSet h read write remote => Sys2Proof.Machine.execMemArbSet h read write remote s
  | .arbWindow stack requests => Sys2Proof.Machine.execArbWindow stack requests s
  | .streamDataArrive array lateTicks stallCycles => Sys2Proof.Machine.execStreamDataArrive array lateTicks stallCycles s
  | .hrtPartWrite req hearth value => Sys2Proof.Machine.execHrtPartWrite req hearth value s
  | .apertureRead port offset length errs => Sys2Proof.Machine.execApertureRead port offset length errs s
  | .apertureWrite port offset bytes => Sys2Proof.Machine.execApertureWrite port offset bytes s
  | .bar4Resize port sizeLog2 => Sys2Proof.Machine.execBar4Resize port sizeLog2 s
  | .stackInitComplete stack trained lanesRepaired => Sys2Proof.Machine.execStackInitComplete stack trained lanesRepaired s
  | .stackTempRead stack celsius => Sys2Proof.Machine.execStackTempRead stack celsius s
  | .cattripIndication stack => Sys2Proof.Machine.execCattripIndication stack s
  | .scrubUnit stack codewords onDie => Sys2Proof.Machine.execScrubUnit stack codewords onDie s
  | .writeBack stack errs => Sys2Proof.Machine.execWriteBack stack errs s
  | .stkCountClr req stack => Sys2Proof.Machine.execStkCountClr req stack s
  | .stkQuery h stack => Sys2Proof.Machine.execStkQuery h stack s
  | .stkScrubSet h stack hours => Sys2Proof.Machine.execStkScrubSet h stack hours s
  | .stkDiagEnter h stack => Sys2Proof.Machine.execStkDiagEnter h stack s
  | .stkDiagExit h stack => Sys2Proof.Machine.execStkDiagExit h stack s
  | .diagZeroComplete stack => Sys2Proof.Machine.execDiagZeroComplete stack s
  | .exerRun h stack pattern mode inject channels seed words => Sys2Proof.Machine.execExerRun h stack pattern mode inject channels seed words s
  | .exerComplete stack reads => Sys2Proof.Machine.execExerComplete stack reads s
  | .packetConsume port posted => Sys2Proof.Machine.execPacketConsume port posted s
  | .replyCoalesceTimer port => Sys2Proof.Machine.execReplyCoalesceTimer port s
  | .intEnableWrite req port value => Sys2Proof.Machine.execIntEnableWrite req port value s
  | .ringReset req port => Sys2Proof.Machine.execRingReset req port s
  | .ringResetDone port => Sys2Proof.Machine.execRingResetDone port s
  | .intCountClr req port => Sys2Proof.Machine.execIntCountClr req port s
  | .intReplyBaseWrite req port part value => Sys2Proof.Machine.execIntReplyBaseWrite req port part value s
  | .intReplyCfgWrite req port value => Sys2Proof.Machine.execIntReplyCfgWrite req port value s
  | .intReplyHeadWrite req port value => Sys2Proof.Machine.execIntReplyHeadWrite req port value s
  | .intakeQuiesced port => Sys2Proof.Machine.execIntakeQuiesced port s
  | .admCountClr req => Sys2Proof.Machine.execAdmCountClr req s
  | .identify h => Sys2Proof.Machine.execIdentify h s
  | .getState h => Sys2Proof.Machine.execGetState h s
  | .nop h => Sys2Proof.Machine.execNop h s
  | .adminHandover h => Sys2Proof.Machine.execAdminHandover h s
  | .adminAdopt h => Sys2Proof.Machine.execAdminAdopt h s
  | .fwLoad h hostAddr offset length imageLength => Sys2Proof.Machine.execFwLoad h hostAddr offset length imageLength s
  | .fwStart h imageLength => Sys2Proof.Machine.execFwStart h imageLength s
  | .reset h kind => Sys2Proof.Machine.execReset h kind s
  | .frameReceive port frame fcsOk lockstep => Sys2Proof.Machine.execFrameReceive port frame fcsOk lockstep s
  | .ackReceive src msgId credit => Sys2Proof.Machine.execAckReceive src msgId credit s
  | .linkAckReceive port acked => Sys2Proof.Machine.execLinkAckReceive port acked s
  | .linkNakReceive port lsn resync => Sys2Proof.Machine.execLinkNakReceive port lsn resync s
  | .linkAckTimer port => Sys2Proof.Machine.execLinkAckTimer port s
  | .linkReplayTimer port => Sys2Proof.Machine.execLinkReplayTimer port s
  | .linkAbandonTimer port => Sys2Proof.Machine.execLinkAbandonTimer port s
  | .e2eTimeout dst msgId => Sys2Proof.Machine.execE2eTimeout dst msgId s
  | .octPortDown port => Sys2Proof.Machine.execOctPortDown port s
  | .octPortUp port => Sys2Proof.Machine.execOctPortUp port s
  | .heartbeatTimer => Sys2Proof.Machine.execHeartbeatTimer s
  | .heartbeatReceive src state oldest t1 t2 t3 => Sys2Proof.Machine.execHeartbeatReceive src state oldest t1 t2 t3 s
  | .heartbeatTimeout rank => Sys2Proof.Machine.execHeartbeatTimeout rank s
  | .managerSilenceTimeout => Sys2Proof.Machine.execManagerSilenceTimeout s
  | .lossNoticeReceive src rank => Sys2Proof.Machine.execLossNoticeReceive src rank s
  | .resumeReadyReceive rank step => Sys2Proof.Machine.execResumeReadyReceive rank step s
  | .resumeReleaseReceive tick => Sys2Proof.Machine.execResumeReleaseReceive tick s
  | .barrierEntryReceive id scope src group => Sys2Proof.Machine.execBarrierEntryReceive id scope src group s
  | .barrierReleaseReceive id scope group tick => Sys2Proof.Machine.execBarrierReleaseReceive id scope group tick s
  | .mcastLagTimeout n receiver => Sys2Proof.Machine.execMcastLagTimeout n receiver s
  | .pruneReceive src tensor version first count => Sys2Proof.Machine.execPruneReceive src tensor version first count s
  | .pullReceive src tensor version first count => Sys2Proof.Machine.execPullReceive src tensor version first count s
  | .fabPortSet h kind port mode pcps mac vlan ethertype routeObject routeOffset routeCount => Sys2Proof.Machine.execFabPortSet h kind port mode pcps mac vlan ethertype routeObject routeOffset routeCount s
  | .fabQuery h port => Sys2Proof.Machine.execFabQuery h port s
  | .fabTimeoutSet h e2eUs maxTries transitUs => Sys2Proof.Machine.execFabTimeoutSet h e2eUs maxTries transitUs s
  | .fabBarrier h id scope => Sys2Proof.Machine.execFabBarrier h id scope s
  | .jobResume h job step => Sys2Proof.Machine.execJobResume h job step s
  | .mcastSet h prog kind lagUs windowKib channel stream trigger destSem destProg srcObject srcOffset destRank destObject destOffset bytes => Sys2Proof.Machine.execMcastSet h prog kind lagUs windowKib channel stream trigger destSem destProg srcObject srcOffset destRank destObject destOffset bytes s
  | .fabPeerQuery h rank => Sys2Proof.Machine.execFabPeerQuery h rank s
  | .octCountClr req => Sys2Proof.Machine.execOctCountClr req s
  | .twinUnitCompare pair primary shadow => Sys2Proof.Machine.execTwinUnitCompare pair primary shadow s
  | .assayComplete pair primary shadow => Sys2Proof.Machine.execAssayComplete pair primary shadow s
  | .replayCompare n source replay sourceAssay replayAssay beyond => Sys2Proof.Machine.execReplayCompare n source replay sourceAssay replayAssay beyond s
  | .hallmarkReportReceive group rank version k value => Sys2Proof.Machine.execHallmarkReportReceive group rank version k value s
  | .hallmarkVerdictReceive version verdict => Sys2Proof.Machine.execHallmarkVerdictReceive version verdict s
  | .waSegmentRun array finished => Sys2Proof.Machine.execWaSegmentRun array finished s
  | .waSegmentAbandon => Sys2Proof.Machine.execWaSegmentAbandon s
  | .quarantineWrite req mask => Sys2Proof.Machine.execQuarantineWrite req mask s
  | .integCountClr req => Sys2Proof.Machine.execIntegCountClr req s
  | .rotPeriodWrite req value => Sys2Proof.Machine.execRotPeriodWrite req value s
  | .twinSet h enable => Sys2Proof.Machine.execTwinSet h enable s
  | .replaySet h prog interval => Sys2Proof.Machine.execReplaySet h prog interval s
  | .hallmarkSet h prog k => Sys2Proof.Machine.execHallmarkSet h prog k s
  | .assayLoad h hostAddr length => Sys2Proof.Machine.execAssayLoad h hostAddr length s
  | .assayRun h array mode => Sys2Proof.Machine.execAssayRun h array mode s
  | .repairCommit h array column => Sys2Proof.Machine.execRepairCommit h array column s
  | .integQuery h array prog => Sys2Proof.Machine.execIntegQuery h array prog s
  | .bellowsInterval estimate activity => Sys2Proof.Machine.execBellowsInterval estimate activity s
  | .trimUpdate voltage current => Sys2Proof.Machine.execTrimUpdate voltage current s
  | .converterIsolate converter => Sys2Proof.Machine.execConverterIsolate converter s
  | .brakeAssert => Sys2Proof.Machine.execBrakeAssert s
  | .brakeRelease => Sys2Proof.Machine.execBrakeRelease s
  | .brakeLevelWrite req value => Sys2Proof.Machine.execBrakeLevelWrite req value s
  | .pwrfailAssert => Sys2Proof.Machine.execPwrfailAssert s
  | .pwrfailRelease => Sys2Proof.Machine.execPwrfailRelease s
  | .v72RangeChange voltage => Sys2Proof.Machine.execV72RangeChange voltage s
  | .coolantRead inlet outlet => Sys2Proof.Machine.execCoolantRead inlet outlet s
  | .junctionRead readings => Sys2Proof.Machine.execJunctionRead readings s
  | .thermtrip => Sys2Proof.Machine.execThermtrip s
  | .belCountClr req => Sys2Proof.Machine.execBelCountClr req s
  | .capSet h watts => Sys2Proof.Machine.execCapSet h watts s
  | .pwrQuery h => Sys2Proof.Machine.execPwrQuery h s
  | .rampSet h slope => Sys2Proof.Machine.execRampSet h slope s
  | .ballastSet h enable floor => Sys2Proof.Machine.execBallastSet h enable floor s
  | .profileClear h prog => Sys2Proof.Machine.execProfileClear h prog s
  | .sourceSenseChange source asserted => Sys2Proof.Machine.execSourceSenseChange source asserted s
  | .interruptRoute => Sys2Proof.Machine.execInterruptRoute s
  | .intcEoiWrite core value => Sys2Proof.Machine.execIntcEoiWrite core value s
  | .faultInterruptDeliver => Sys2Proof.Machine.execFaultInterruptDeliver s
  | .intcFaultClear req value => Sys2Proof.Machine.execIntcFaultClear req value s
  | .intcSwsetWrite req value => Sys2Proof.Machine.execIntcSwsetWrite req value s
  | .ccRunWrite req value => Sys2Proof.Machine.execCcRunWrite req value s
  | .mtimerInterrupt core => Sys2Proof.Machine.execMtimerInterrupt core s
  | .msipWrite core value => Sys2Proof.Machine.execMsipWrite core value s
  | .coreAccessFault core kind addr => Sys2Proof.Machine.execCoreAccessFault core kind addr s
  | .evrAccept => Sys2Proof.Machine.execEvrAccept s
  | .evrPostSubmit core value => Sys2Proof.Machine.execEvrPostSubmit core value s
  | .lastwordsCopy => Sys2Proof.Machine.execLastwordsCopy s
  | .parityFault block => Sys2Proof.Machine.execParityFault block s
  | .reservedAccess port offset write => Sys2Proof.Machine.execReservedAccess port offset write s
  | .regWrite req offset part value => Sys2Proof.Machine.execRegWrite req offset part value s
  | .evtRead h hostAddr start max minSeverity => Sys2Proof.Machine.execEvtRead h hostAddr start max minSeverity s
  | .evtSummary h => Sys2Proof.Machine.execEvtSummary h s
  | .evtFilterSet h minSeverity notify0 notify1 vector0 vector1 repeatMs => Sys2Proof.Machine.execEvtFilterSet h minSeverity notify0 notify1 vector0 vector1 repeatMs s
  | .evtDropsClear h => Sys2Proof.Machine.execEvtDropsClear h s
  | .sysrstAssert => Sys2Proof.Machine.execSysrstAssert s
  | .sysrstRelease => Sys2Proof.Machine.execSysrstRelease s
  | .containmentReset => Sys2Proof.Machine.execContainmentReset s
  | .bootReady dieFail => Sys2Proof.Machine.execBootReady dieFail s
  | .attest h hostAddr nonce => Sys2Proof.Machine.execAttest h hostAddr nonce s
  | .svnIncrement h => Sys2Proof.Machine.execSvnIncrement h s
  | .identityGenerate h => Sys2Proof.Machine.execIdentityGenerate h s
  | .debugDisable h confirm => Sys2Proof.Machine.execDebugDisable h confirm s
  | .holdupSet h uf => Sys2Proof.Machine.execHoldupSet h uf s
  | .ceilingSet h watts => Sys2Proof.Machine.execCeilingSet h watts s
  | .seedbankRead h item => Sys2Proof.Machine.execSeedbankRead h item s
  | .lastwordsRead h hostAddr start max => Sys2Proof.Machine.execLastwordsRead h hostAddr start max s
  | .seedbankCommit => Sys2Proof.Machine.execSeedbankCommit s
  | .perstAssert port => Sys2Proof.Machine.execPerstAssert port s
  | .pcieHotReset port => Sys2Proof.Machine.execPcieHotReset port s
  | .pcieLinkDown port d3hot => Sys2Proof.Machine.execPcieLinkDown port d3hot s
  | .pcieLinkUp port width speed msixEnable msixMask => Sys2Proof.Machine.execPcieLinkUp port width speed msixEnable msixMask s
  | .poisonedTlpReceive port => Sys2Proof.Machine.execPoisonedTlpReceive port s
  | .dmaCompletionError id => Sys2Proof.Machine.execDmaCompletionError id s
  | .dmaCompletionTimeout id => Sys2Proof.Machine.execDmaCompletionTimeout id s
  | .msixUnmask req port vector => Sys2Proof.Machine.execMsixUnmask req port vector s
  | .smbDeviceInfo => Sys2Proof.Machine.execSmbDeviceInfo s
  | .smbPower => Sys2Proof.Machine.execSmbPower s
  | .smbThermal => Sys2Proof.Machine.execSmbThermal s
  | .smbSupply => Sys2Proof.Machine.execSmbSupply s
  | .smbEventSummary => Sys2Proof.Machine.execSmbEventSummary s
  | .smbAlertCause => Sys2Proof.Machine.execSmbAlertCause s
  | .smbRegOffset value pec => Sys2Proof.Machine.execSmbRegOffset value pec s
  | .smbRegRead => Sys2Proof.Machine.execSmbRegRead s
  | .smbAlertResponse => Sys2Proof.Machine.execSmbAlertResponse s
  | .jtagDebugHalt target scan => Sys2Proof.Machine.execJtagDebugHalt target scan s
  | .jtagDebugResume target scan => Sys2Proof.Machine.execJtagDebugResume target scan s
  | .dmaReadCompletion id data => Sys2Proof.Machine.execDmaReadCompletion id data s
  | .pfcFrameReceive port ctrl pause => Sys2Proof.Machine.execPfcFrameReceive port ctrl pause s
  | .perstRelease port => Sys2Proof.Machine.execPerstRelease port s
  | .registerRead req offset part => Sys2Proof.Machine.execRegisterRead req offset part s

end Sys2Proof.Machine
end

