-- ==== Sys2Proof/Machine/Idle.lean ====
section
/-! DEFINITION. One tick of the time base when no command waits, and the counters that count ticks: wait counters of the
arrays and the Tundish, and the delay counters of unretired promises (R37, R39, R181, R214, R341; log entry 7). -/

namespace Sys2Proof.Machine

/-! ### Wait counters -/

/-- Ticks in which the released slot of an array waits on a version check (SEQ_VERSION_WAIT). -/
def Device.countVersionWaits (n : Nat) (d : Device) : Device :=
  { d with arrays := Vector.ofFn fun i =>
      if d.seqWait i = 2 then { d.arrays[i] with versionWait := satAdd d.arrays[i].versionWait n } else d.arrays[i] }

/-- Ticks with SCALE_WAIT set and ticks with the receive buffer full (GX_WAIT_TICKS). -/
def Device.countTundishWaits (n : Nat) (d : Device) : Device :=
  { d with tun := { d.tun with
      waitScale := if d.scaleWaits then satAdd d.tun.waitScale n else d.tun.waitScale
      waitRxFull := if d.rxFull then satAdd d.tun.waitRxFull n else d.tun.waitRxFull } }

/-! ### Delay counters (R341) -/

/-- The pair an array belongs to repeats a unit or runs its assays (R390). -/
def Device.pairRetries (d : Device) (n : Fin 8) : Bool :=
  d.integ.twin && (match d.integ.pairs[n.val / 2]? with
    | some .retry | some .assay | some .retry2 => true
    | _ => false)

/-- A resource a promise names is quiesced, an array's quiesce for a swap the cycle table charges apart (R115, R271). -/
def Device.quiescedOf (d : Device) (p : Promise) : Bool :=
  ((Bank.indices 8).any fun n => p.names n.val && d.arrays[n].quiesce && !d.arrays[n].charged) || (p.names 8 && d.tun.quiesce)
    || (p.names 9 && d.aster.quiesce)

/-- A debug halt stops an array a promise names (R530). -/
def Device.debugStops (d : Device) (p : Promise) : Bool :=
  (Bank.indices 8).any fun n => p.names n.val && d.arrays[n].debugFrozen

/-- A retry delays an array a promise names (R390). -/
def Device.retryDelays (d : Device) (p : Promise) : Bool :=
  (Bank.indices 8).any fun n => p.names n.val && d.pairRetries n

/-- A lane of a promise's step waits on a check that a held host write stands in (R180). -/
def Device.writeDelays (d : Device) (p : Promise) : Bool :=
  p.step.any fun (k, s) => d.allLanes.any fun (k', s', lane, l) =>
    k'.val == k && s' == s && l.active && l.wait == .version && (match d.programs.find? fun x => x.1 == k' with
      | some (_, q) => (match q.stepAt s, q.current lane l with
        | some st, some c => (c.weights st.descs).any (d.writeStands k' s)
        | _, _ => false)
      | none => false)

/-- The causes that act by themselves as time passes, each counted once a tick. -/
def Device.countDelays (n : Nat) (d : Device) : Device :=
  let d := d.addDelay .hostQuiesce n d.quiescedOf
  let d := d.addDelay .hostWrite n d.writeDelays
  let d := d.addDelay .integrityRetry n d.retryDelays
  (d.addDelay .debugHalt n d.debugStops).powerDelays n

/-! ### The step with no command -/

/-- The block runs for one control-clock cycle; what counts ticks counts those that pass in it, and the fabric moves what waited. -/
def Device.idle (d : Device) : Device :=
  let t := d.tick
  let n := (t.tb.now - d.tb.now).toNat
  if n = 0 then t.fabricTick else (((t.countVersionWaits n).countTundishWaits n).countDelays n).fabricTick

/-- The meaning of a step with an empty queue (log entry 7); held in reset, only the time base runs (R38). -/
def idleStep (s : State) : Answer := s.actTime Device.idle Device.tick

end Sys2Proof.Machine
end

