-- ==== Sys2Proof/Safety.lean ====
section
/-! DEFINITION. The words the statements are written in: how a command runs, which packets and register writes are accepted, and
what a good state is. -/

namespace Sys2Proof.Machine

/-! ### How a command runs -/

/-- The state once a command has left the device as `d` is, with what follows every command (R445, R512); the queue stays as it is. -/
def State.after (s : State) (d : Device) : State := { s with dev := s.dev.settle d }

/-- The command answers a next state: the queue stays as it is, and the device is what `f` makes of it with the messages of the
previous command forgotten, followed by what follows every command at once (R445, R512). -/
def Runs (c : Instr) (s : State) (f : Device → Device) : Prop :=
  exec c s = .next (s.after (f s.dev.fresh))

/-- The command answers a next state in which nothing but the messages of the previous command and what follows every command has
changed. -/
def Idles (c : Instr) (s : State) : Prop := Runs c s fun d => d

/-- A power or reset row answers a next state, on a device that runs or does not. -/
def RunsAlways (c : Instr) (s : State) (f : Device → Device) : Prop :=
  exec c s = .next { s with dev := (f s.dev.fresh).latchAlerts }

/-! ### Host commands (R332, R333) -/

/-- A packet is dispatched at once, is not in its port's replay window, and the block that its command needs has not faulted (R328, R333,
R465). -/
structure Device.dispatches (d : Device) (op : Word16) (h : CmdHdr) : Prop where
  now : d.dispatchWaits = false
  new : ∀ r ∈ d.ports[h.port].replay, r.tag ≠ h.tag
  works : d.opFaulted op = false

/-- A BEST_EFFORT packet that is dispatched and passes the checks of *Header checks*. -/
def Device.passes (d : Device) (op : Word16) (h : CmdHdr) : Prop :=
  d.dispatches op h ∧ h.cls = 0 ∧ h.powerClass = 0
    ∧ (sessionOpcode op = true ∨ (d.sec.state = .running ∧ d.accountEnabled h.port h.account = true))

/-- The same, from the admin port. -/
def Device.passesAdmin (d : Device) (op : Word16) (h : CmdHdr) : Prop := d.passes op h ∧ d.admin.port = h.port

/-- A PROMISED packet that is dispatched and passes the same checks (R332, R334). -/
def Device.passesPromised (d : Device) (op : Word16) (h : CmdHdr) : Prop :=
  d.dispatches op h ∧ h.cls = 1 ∧ d.sec.state = .running
    ∧ d.accountEnabled h.port h.account = true

/-- A host command takes effect by `f` and is answered ST_OK with a result. -/
def Answers (c : Instr) (op : Word16) (h : CmdHdr) (s : State) (f : Device → Device) (result : Nat) : Prop :=
  Runs c s fun d => (f (d.openCommand op h)).ok ⟨h, op⟩ result

/-- A host command is answered with a status and changes nothing else. -/
def Rejects (c : Instr) (op : Word16) (h : CmdHdr) (s : State) (st : Status) : Prop :=
  Runs c s fun d => (d.openCommand op h).finish ⟨h, op⟩ st

/-! ### Register writes (R507) -/

/-- A requester may write a register: the admin port and the control cores any, another port its own pages, the SMBus port and JTAG
none; a port's accesses arrive while its link is up. -/
def Device.mayWrite (d : Device) (req : Requester) (own : Option (Fin 2)) : Bool :=
  match req with
  | .port p => d.linkUp p && (d.isAdmin p || own == some p)
  | .core _ => true
  | .smbus => false
  | .jtag => false

/-- The register a row of a register write names: its requester, its BAR0 offset, and the port whose page holds it, if one does. -/
def writtenRegister : Instr → Option (Requester × Nat × Option (Fin 2))
  | .tbCorrWrite r _ => some (r, offTimebase + 0x10, none)
  | .tbStatusClear r _ => some (r, offTimebase + 0x18, none)
  | .arrQuiesceWrite r n _ => some (r, offArray n + 8, none)
  | .arrCountClr r n => some (r, offArray n + 8, none)
  | .arrSpareWrite r n _ => some (r, offArray n + 0x18, none)
  | .gxQuiesceWrite r _ => some (r, offTundish + 8, none)
  | .gxRxbufWrite r _ => some (r, offTundish + 8, none)
  | .gxCountClr r => some (r, offTundish + 8, none)
  | .updCountClr r => some (r, offTundish + 0x1000, none)
  | .astQuiesceWrite r _ => some (r, offAster + 8, none)
  | .astCountClr r => some (r, offAster + 8, none)
  | .hrtPartWrite r h _ => some (r, offHearth h + 8, none)
  | .stkCountClr r k => some (r, offStack k + 8, none)
  | .intEnableWrite r p _ => some (r, offIntake p, some p)
  | .ringReset r p => some (r, offIntake p, some p)
  | .intCountClr r p => some (r, offIntake p, some p)
  | .intReplyBaseWrite r p _ _ => some (r, offIntake p + 0x18, some p)
  | .intReplyCfgWrite r p _ => some (r, offIntake p + 0x20, some p)
  | .intReplyHeadWrite r p _ => some (r, offIntake p + 0x28, some p)
  | .admCountClr r => some (r, offAdmission, none)
  | .octCountClr r => some (r, offOcting + 8, none)
  | .quarantineWrite r _ => some (r, offInteg, none)
  | .integCountClr r => some (r, offInteg, none)
  | .rotPeriodWrite r _ => some (r, offInteg + 0x10, none)
  | .brakeLevelWrite r _ => some (r, offBellows + 0x28, none)
  | .belCountClr r => some (r, offBellows + 0x08, none)
  | .intcFaultClear r _ => some (r, offIntc + 0x28, none)
  | .intcSwsetWrite r _ => some (r, offIntc + 0x38, none)
  | .ccRunWrite r _ => some (r, offIntc + 0x10, none)
  | _ => none

/-! ### Stream instructions (R118, R129, R337) -/

/-- A lane of a step in flight stands at an instruction, and the lane and its arrays are free to issue it. -/
structure Device.Stands (d : Device) (k : Fin 16) (n : Nat) (lane : Fin 17) (p : Program) (st : StepState) (c : Current) : Prop where
  prog : d.progs[k] = some p
  step : p.stepAt n = some st
  current : p.current lane (st.lane lane) = some c
  ready : d.laneReady p st lane = true
  free : d.resourcesFree k st (d.laneResources lane.val c.instr.instr) = true

/-- Nothing an instruction that works on data must wait for stands in its way: no hazard in its lane, no message being sent from where
it writes, its partition mode in force, its region free, the weight versions an F or B lane reads there, no byte of its operands in T3. -/
def Device.clearFor (d : Device) (k : Fin 16) (lane : Fin 17) (p : Program) (st : StepState) (c : Current) : Prop :=
  (st.lane lane).hazard st.descs c = false ∧ anyOverlap (c.footprint st.descs).2 d.sendingRanges = false
    ∧ d.modeHolds lane (st.lane lane) = true ∧ p.regionHeld st.step c.instr.instr = false
    ∧ (lane.val = 16 ∨ d.versionsOk k p st c = true)
    ∧ d.t3Wanted st (c.footprint st.descs).1 = []

/-- A lane of a step in flight waits for a reason at an instruction. -/
structure Device.Waits (d : Device) (k : Fin 16) (n : Nat) (lane : Fin 17) (w : LaneWait) (p : Program) (st : StepState) (c : Current) :
    Prop where
  prog : d.progs[k] = some p
  step : p.stepAt n = some st
  current : p.current lane (st.lane lane) = some c
  running : p.state = .running
  active : (st.lane lane).active = true
  waits : (st.lane lane).wait = w

/-! ### Rows that act on a device that does not run -/

/-- A row of power or of SYSRST_N, which acts whether or not the device runs (log entry 3). -/
def powerRow : Instr → Bool
  | .powerOnReset => true
  | .powerLoss => true
  | .sysrstAssert => true
  | .sysrstRelease => true
  | _ => false

/-- A row of the time base's own or of an input pin, which a device held in reset or without power still takes note of. -/
def boardRow : Instr → Bool
  | .pllLock => true
  | .refExcursion _ => true
  | .refRelock => true
  | .slewStep => true
  | .syncOutPulse => true
  | .brakeAssert => true
  | .brakeRelease => true
  | .pwrfailAssert => true
  | .pwrfailRelease => true
  | .perstAssert _ => true
  | .perstRelease _ => true
  | _ => false

/-! ### The alert latch (R512) -/

/-- Every level cause of SMB_ALERT_N that is present is latched (R512). -/
def Device.alertsLatched (d : Device) : Bool := d.smb.alert &&& d.alertLevels == d.alertLevels

/-- The alert invariant: on a running device whose time base has left 0 (R512: a cause present latches in the next
control-clock cycle), every level cause present is latched. -/
def State.AlertInv (s : State) : Prop := s.dev.live = true → s.dev.tb.now ≠ 0 → s.dev.alertsLatched = true

end Sys2Proof.Machine
end

