-- ==== Sys2Proof/Certificates/Slice0/Obligations.lean ====
section
/-! DEFINITION. The statements for the provers. -/

open Sys2Proof Sys2Proof.Machine

/-! ### Time base, reference and runner network -/

/-- PLL_LOCK, REF_EXCURSION, REF_RELOCK, TB_CORR_WRITE, SLEW_STEP, TB_STATUS_CLEAR, SYNC_OUT_PULSE and SYNC_IN_CAPTURE complete on a
running device (R36, R39, R40, R41, R533): a slew step falls in its own cycle of 16, a SYNC_OUT pulse begins once at a boundary that was
passed while SYNC_OUT_EN was 1, and an offset is saturated. -/
def Obligations.TimeBaseCommandsComplete : Prop :=
  ∀ s : State, s.dev.live = true →
    (s.dev.tb.excursion = false → Runs .pllLock s fun d => { d with tb := { d.tb with locked := true } })
    ∧ (∀ ppm, s.dev.tb.excursion = false → Runs (.refExcursion ppm) s fun d =>
        { d with tb := { d.tb with locked := false, refLost := true, excursion := true, excursionSince := d.tb.now,
                                   ppm := satPpm ppm } }.logEvent
          0x000B .warn 0 (satPpm ppm).toNat srcTimebase)
    ∧ (s.dev.tb.excursion = true →
        Idles .pllLock s ∧ (∀ ppm, Idles (.refExcursion ppm) s)
        ∧ Runs .refRelock s fun d =>
          { d with tb := { d.tb with locked := true, excursion := false } }.logEvent 0x000C .info 0
            (d.tb.now - d.tb.excursionSince).toNat srcTimebase)
    ∧ (∀ req v, s.dev.mayWrite req none = true →
        (Runs (.tbCorrWrite req v) s fun d => { d with tb := { d.tb with corr := v, slewPhase := 0 } })
        ∧ Runs (.tbStatusClear req v) s fun d =>
          { d with tb := { d.tb with refLost := d.tb.refLost && !v.getLsbD 3, syncSeen := d.tb.syncSeen && !v.getLsbD 2 } })
    ∧ (s.dev.tb.corr = 0 ∨ s.dev.tb.slewPhase ≠ 0 → Idles .slewStep s)
    ∧ (s.dev.tb.corr ≠ 0 → s.dev.tb.corr.msb = false → s.dev.tb.slewPhase = 0 → Runs .slewStep s fun d =>
        let d := d.advance 2
        { d with tb := { d.tb with corr := d.tb.corr - 1, slewPhase := 15 } })
    ∧ (s.dev.tb.corr.msb = true → s.dev.tb.slewPhase = 0 → Runs .slewStep s fun d =>
        let d := d.advance 0
        { d with tb := { d.tb with corr := d.tb.corr + 1, slewPhase := 15 } })
    ∧ (s.dev.tb.syncDue = true → Runs .syncOutPulse s fun d =>
        { d with tb := { d.tb with syncOutLeft := 64, syncDue := false }, out := [Output.syncOut] })
    ∧ (s.dev.tb.syncDue = false → Idles .syncOutPulse s)
    ∧ (s.dev.tb.syncInEn = true → Runs .syncInCapture s fun d =>
        { d with tb := { d.tb with lastSync := d.tb.now, syncSeen := true } })
    ∧ (s.dev.tb.syncInEn = false → Idles .syncInCapture s)

/-- The time base counts from 0 at power-on reset and keeps counting through the resets of kind 1 to 3: they keep TB_NOW, TB_LAST_SYNC,
TB_CTRL and TB_CORR, and a cycle with no command moves TB_NOW on a device that runs and on one held in reset alike, by 1, or in the cycle
of a slew step by 2 or 0 (R38, R39; log entry 7 for what a step with an empty queue stands for). -/
def Obligations.TimeBaseKeepsCounting : Prop :=
  (∀ d : Device, d.startUp.tb.now = 0)
  ∧ (∀ (d : Device) (kind : BitVec 2),
      (d.resetTo kind).tb.now = d.tb.now ∧ (d.resetTo kind).tb.lastSync = d.tb.lastSync ∧ (d.resetTo kind).tb.corr = d.tb.corr
      ∧ (d.resetTo kind).tb.syncOutPeriod = d.tb.syncOutPeriod ∧ (d.resetTo kind).tb.syncOutEn = d.tb.syncOutEn
      ∧ (d.resetTo kind).tb.syncInEn = d.tb.syncInEn)
  ∧ ∀ s : State, s.pending = [] → s.dev.live = true ∨ s.dev.held = true →
      ∃ t, step s = .next t ∧ t.pending = [] ∧ t.dev.tb.now = s.dev.tb.now + (if s.dev.tb.corr ≠ 0 ∧ s.dev.tb.slewPhase = 0 then (if s.dev.tb.corr.msb then 0 else 2) else 1)

/-- Training, temperature, scrubbing and adders: STACK_INIT_COMPLETE, STACK_TEMP_READ, CATTRIP_INDICATION, SCRUB_UNIT, WRITE_BACK,
OVERFLOW_ADD, ADDER_QUEUE_ROOM and STK_COUNT_CLR (R302, R303, R305, R307-R311, R322): a write-back is made while the word it corrects
still stands and dropped otherwise, an adder makes its additions or the read-and-zero of the Tundish, and one whose two copies differ
delivers nothing (R394). RUNNER_FLIT_RECEIVE: a clean flit changes nothing, a corrected one is counted in the receiving die's block, and
an uncorrectable one logs the FATAL event with its location and begins a containment reset (R30, R314, R316). -/
def Obligations.StackRowsComplete : Prop :=
  (∀ (s : State) (k : Fin 20), s.dev.live = true →
       (∀ lanes, s.dev.mem.hbm[k].trained = false → s.dev.sec.stackFail.getLsbD k.val = false →
           (Runs (.stackInitComplete k true lanes) s fun d => d.updStack k fun x =>
               { x with trained := true, lanesRepaired := lanes, scrubDue := d.tb.now.toNat + scrubPace x.scrubHours })
           ∧ Runs (.stackInitComplete k false lanes) s fun d =>
             let d := d.updStack k fun x => { x with trained := false, lanesRepaired := lanes }
             { d with sec := { d.sec with stackFail := d.sec.stackFail ||| (1 <<< k.val) } })
       ∧ (∀ ok lanes, s.dev.mem.hbm[k].trained = true → Idles (.stackInitComplete k ok lanes) s)
       ∧ (∀ c : BitVec 8,
           let x := s.dev.mem.hbm[k]
           let top : BitVec 8 := if x.maxTemp.toNat < c.toNat then c else x.maxTemp
           (82 ≤ c.toNat → c.toNat < 85 → Runs (.stackTempRead k c) s fun d => d.updStack k fun y =>
               { y with temp := c, maxTemp := top, hot := false })
           ∧ (c.toNat < 82 → x.ref2x = false → Runs (.stackTempRead k c) s fun d => d.updStack k fun y =>
               { y with temp := c, maxTemp := top, hot := false })
           ∧ (c.toNat < 82 → x.ref2x = true → Runs (.stackTempRead k c) s fun d =>
               (d.updStack k fun y => { y with temp := c, maxTemp := top, ref2x := false, hot := false }).logEvent 0x0603 .info k.val
                 0 (srcStack k.val))
           ∧ (85 ≤ c.toNat → c.toNat < 95 → x.ref2x = false → Runs (.stackTempRead k c) s fun d =>
               (d.updStack k fun y => { y with temp := c, maxTemp := top, ref2x := true, hot := false }).logEvent 0x0603 .info k.val
                 0 (srcStack k.val))
           ∧ (85 ≤ c.toNat → c.toNat < 95 → x.ref2x = true → Runs (.stackTempRead k c) s fun d => d.updStack k fun y =>
               { y with temp := c, maxTemp := top, hot := false })
           ∧ (95 ≤ c.toNat → x.ref2x = true → x.hot = false → Runs (.stackTempRead k c) s fun d =>
               (d.updStack k fun y => { y with temp := c, maxTemp := top, hot := true }).logEvent 0x0602 .warn k.val
                 0 (srcStack k.val))
           ∧ (95 ≤ c.toNat → x.ref2x = false → x.hot = false → Runs (.stackTempRead k c) s fun d =>
               ((d.updStack k fun y => { y with temp := c, maxTemp := top, ref2x := true, hot := true }).logEvent 0x0603 .info k.val
                 0 (srcStack k.val)).logEvent 0x0602 .warn k.val 0 (srcStack k.val))
           ∧ (95 ≤ c.toNat → x.ref2x = true → x.hot = true → Runs (.stackTempRead k c) s fun d => d.updStack k fun y =>
               { y with temp := c, maxTemp := top }))
       ∧ (Runs (.cattripIndication k) s fun d =>
           (d.updStack k fun x => { x with cattrip := true }).losePower { d.pins with tripped := true, thermtrip := true })
       ∧ (∀ cws od, s.dev.mem.hbm[k].diag = true ∨ s.dev.mem.hbm[k].scrubHours = 0 → Idles (.scrubUnit k cws od) s)
       ∧ (∀ od, s.dev.mem.hbm[k].diag = false → s.dev.mem.hbm[k].scrubHours ≠ 0 →
           (s.dev.mem.hbm[k].scrubPos.toNat < 33554431 → Runs (.scrubUnit k [] od) s fun d => d.updStack k fun x =>
               { x with ondie := satAdd x.ondie od, scrubPos := x.scrubPos + 1, scrubDue := x.scrubDue + scrubPace x.scrubHours
                        scrubServed := 0 })
           ∧ (33554431 ≤ s.dev.mem.hbm[k].scrubPos.toNat → Runs (.scrubUnit k [] od) s fun d =>
               (d.updStack k fun x =>
                 { x with ondie := satAdd x.ondie od, scrubPos := 0, scrubPasses := bump x.scrubPasses
                          scrubDue := x.scrubDue + scrubPace x.scrubHours, scrubServed := 0 }).logEvent
                 0x0605 .info k.val 0 (srcStack k.val)))
       ∧ (∀ w cw, s.dev.mem.hbm[k].diag = false → s.dev.mem.hbm[k].scrubHours ≠ 0 → s.dev.mem.hbm[k].scrubPos.toNat < 33554431 →
           (ingotDecode s.dev.mem.dec cw = .clean →
             Runs (.scrubUnit k [(w, cw)] 0) s fun d => d.updStack k fun x =>
               { x with scrubPos := x.scrubPos + 1, scrubDue := x.scrubDue + scrubPace x.scrubHours, scrubServed := 0 })
           ∧ (∀ v, ingotDecode s.dev.mem.dec cw = .corrected v → s.dev.mem.hbm[k].correctedLogged = true → s.dev.mem.hbm[k].weak = [] →
             Runs (.scrubUnit k [(w, cw)] 0) s fun d => (d.repeatEvent 0x0601 .info k.val (srcStack k.val)).updStack k fun x =>
               { x with
                 corr := bump x.corr, scrubPos := x.scrubPos + 1, scrubDue := x.scrubDue + scrubPace x.scrubHours, scrubServed := 0
                 weak := [{ unit := x.scrubPos.toNat, word := w, passes := 1, lastPass := x.scrubPasses.toNat }]
                 writeBacks := x.writeBacks ++ [{ unit := x.scrubPos.toNat, word := w, codeword := v }] })
           ∧ (ingotDecode s.dev.mem.dec cw = .uncorrectable →
             Runs (.scrubUnit k [(w, cw)] 0) s fun d =>
               (d.uncorrectable (21 + k.val)
                 (evData [(1, s.dev.mem.hbm[k].scrubPos.toNat % 32), (1, w % 2), (4, s.dev.mem.hbm[k].scrubPos.toNat)])
                 (srcStack k.val)).updStack k fun x =>
                   { x with scrubPos := x.scrubPos + 1, scrubDue := x.scrubDue + scrubPace x.scrubHours, scrubServed := 0 }))
       ∧ (s.dev.mem.hbm[k].writeBacks = [] → ∀ errs, Idles (.writeBack k errs) s)
       ∧ (∀ w r errs, s.dev.mem.hbm[k].writeBacks = w :: r → w.addr = none →
           Runs (.writeBack k errs) s fun d => (d.updStack k fun x => { x with writeBacks := r }).consume errs fun d => d)
       ∧ (∀ w r a, s.dev.mem.hbm[k].writeBacks = w :: r → w.addr = some a →
           (s.dev.writeBackStands w = true → Runs (.writeBack k []) s fun d =>
             (d.updStack k fun x => { x with writeBacks := r }).updMem fun m => m.store (a / 32 * 32) (w.codeword.take 32))
           ∧ (s.dev.writeBackStands w = false → Runs (.writeBack k []) s fun d => d.updStack k fun x => { x with writeBacks := r }))
       ∧ (s.dev.mem.hbm[k].adderQueue = [] → ∀ errs differ, Idles (.overflowAdd k errs differ) s)
       ∧ (∀ g r errs, s.dev.mem.hbm[k].adderQueue = g :: r →
           (g.zero = 0 → Runs (.overflowAdd k errs false) s fun d => d.consume errs fun d =>
             (d.updMem fun m => addWords m g.addr g.addends).updStack k fun x =>
               { x with adderQueue := r, adderGroups := bump x.adderGroups })
           ∧ (g.zero ≠ 0 → Runs (.overflowAdd k errs false) s fun d => d.consume errs fun d =>
             (d.updMem fun m => m.zero g.addr g.zero).updStack k fun x => { x with adderQueue := r })
           ∧ Runs (.overflowAdd k errs true) s fun d => d.consume errs fun d => (d.logEvent 0x080A .fatal 0 0 srcIntegrity).contain)
       ∧ (∀ n g r, s.dev.mem.hbm[k].adderWaiting = (n, g) :: r →
           (4096 ≤ s.dev.mem.hbm[k].adderQueue.length → Idles (.adderQueueRoom k) s)
           ∧ (s.dev.mem.hbm[k].adderQueue.length < 4096 → n = none ∨ (∃ x ∈ r, x.1 = n) → Runs (.adderQueueRoom k) s fun d =>
               d.updStack k fun x => { x.settle d.tb.now with adderWaiting := r }.takeGroup g)
           ∧ (∀ a : Fin 8, n = some a → s.dev.mem.hbm[k].adderQueue.length < 4096 → (∀ x ∈ r, x.1 ≠ n) →
               (∀ j : Fin 20, j ≠ k → ∀ x ∈ s.dev.mem.hbm[j].adderWaiting, x.1 ≠ n) → Runs (.adderQueueRoom k) s fun d =>
               (d.updStack k fun x => { x.settle d.tb.now with adderWaiting := r }.takeGroup g).updArray a
                 fun a => { a with frozenAdder := false }))
       ∧ ∀ req, s.dev.mayWrite req none = true → Runs (.stkCountClr req k) s fun d => d.updStack k fun x =>
           { x with ondie := 0, corr := 0, adderStall := 0, stallSince := d.tb.now, adderGroups := 0
                    exer := x.exer.map fun e => { e with words := 0, mismatch := 0, uncorr := 0, corr2 := 0, corr1 := 0 } })
  ∧ (∀ (s : State) (b : BitVec 6) (cw : List Byte), s.dev.live = true →
       (ingotDecode s.dev.mem.dec cw = .clean → Idles (.runnerFlitReceive b cw) s)
       ∧ (∀ w, ingotDecode s.dev.mem.dec cw = .corrected w → ∀ n : Fin 8, b.toNat = 3 + n.val →
           Runs (.runnerFlitReceive b cw) s fun d => d.updArray n fun a => { a with sprueCorr := bump a.sprueCorr })
       ∧ (∀ w, ingotDecode s.dev.mem.dec cw = .corrected w → ∀ n : Fin 8, b.toNat = 13 + n.val →
           Runs (.runnerFlitReceive b cw) s fun d => d.updHearth n fun a => { a with corr := bump a.corr })
       ∧ (∀ w, ingotDecode s.dev.mem.dec cw = .corrected w → ∀ n : Fin 20, b.toNat = 21 + n.val →
           Runs (.runnerFlitReceive b cw) s fun d => d.updStack n fun a => { a with corr := bump a.corr })
       ∧ (∀ w, ingotDecode s.dev.mem.dec cw = .corrected w → b.toNat = 41 →
           Runs (.runnerFlitReceive b cw) s fun d => { d with fab := { d.fab with corr := bump d.fab.corr } })
       ∧ (ingotDecode s.dev.mem.dec cw = .uncorrectable → Runs (.runnerFlitReceive b cw) s fun d =>
           let d := d.logEvent 0x0607 .fatal b.toNat 0 (blockSource b.toNat)
           if d.sec.containmentPending then d
           else { d with sec := { d.sec with containmentPending := true, containmentSince := d.tb.now } }))

/-! ### Power and resets -/

/-- POWER_ON_RESET and POWER_LOSS: a device without power starts up with everything but fuses and Seedbank at its reset value and
RESET_KIND logged; one that loses power keeps only fuses and Seedbank, a started Seedbank write committed (R472, R488, R490).
SYSRST_ASSERT, SYSRST_RELEASE, CONTAINMENT_RESET and BOOT_READY (R472, R474, R488, R489, R526, R528): a containment reset waits for the
last words, for as long as its rule lets it. -/
def Obligations.PowerAndResetCommandsComplete : Prop :=
  (∀ s : State,
       (s.dev.pins.powered = false →
         RunsAlways .powerOnReset s Device.startUp
         ∧ s.dev.startUp.seed = s.dev.seed ∧ s.dev.startUp.tb = {} ∧ s.dev.startUp.bel.board = s.dev.seed.ceiling
         ∧ s.dev.startUp.mem = resetMem ∧ s.dev.startUp.progs = Vector.replicate 16 none ∧ s.dev.startUp.cores = resetCores
         ∧ s.dev.startUp.sec = {} ∧ s.dev.startUp.admin = {} ∧ s.dev.startUp.pins.powered = true)
       ∧ (s.dev.pins.powered = true →
         RunsAlways .powerLoss s (fun d => d.losePower (d.pins.afterPower false))
         ∧ ∀ pins, (s.dev.losePower pins).seed = s.dev.seedCommit.seed ∧ (s.dev.losePower pins).evr.records = []
           ∧ (s.dev.losePower pins).tb = {} ∧ (s.dev.losePower pins).mem = resetMem ∧ (s.dev.losePower pins).pins = pins)
       ∧ (s.dev.pins.powered = true → RunsAlways .powerOnReset s fun d => d)
       ∧ (s.dev.pins.powered = false → RunsAlways .powerLoss s fun d => d))
  ∧ (∀ s : State,
       (s.dev.pins.powered = true → s.dev.pins.tripped = false → s.dev.pins.sysrstLow = false →
         RunsAlways .sysrstAssert s (fun d => Device.resetTo 1 { d with pins := { d.pins with sysrstLow := true } })
         ∧ ∀ d : Device, (Device.resetTo 1 { d with pins := { d.pins with sysrstLow := true } }).pins.inReset = true)
       ∧ (s.dev.pins.powered = false ∨ s.dev.pins.tripped = true →
         RunsAlways .sysrstAssert s fun d => { d with pins := { d.pins with sysrstLow := true } })
       ∧ (s.dev.held = false → RunsAlways .sysrstRelease s fun d => { d with pins := { d.pins with sysrstLow := false, inReset := false } })
       ∧ (s.dev.held = true → RunsAlways .sysrstRelease s fun d =>
           Device.leaveReset { d with pins := { d.pins with sysrstLow := false, inReset := false } })
       ∧ (∀ d : Device, d.pins.inReset = false → d.tb.excursion = false → d.pins.pwrbrakeLow = false → d.pins.pwrfailLow = false →
           d.leaveReset =
             { d.logEvent 0x0B04 .info 0 0 srcSecurity with
               bel := { d.bel with brake := false, powerFail := false }
               out := d.out ++ (([0, 1] : List (Fin 2)).filter fun p => !d.ports[p].perst).map .pcieTraining })
       ∧ (s.dev.live = true → s.dev.sec.containmentPending = true →
           s.dev.lastWordsOver = true ∨ lastWordsWait ≤ (s.dev.tb.now - s.dev.sec.containmentSince).toNat →
           Runs .containmentReset s fun d => d.resetTo 3)
       ∧ (s.dev.live = true → s.dev.lastWordsOver = false →
           (s.dev.tb.now - s.dev.sec.containmentSince).toNat < lastWordsWait → Idles .containmentReset s)
       ∧ (s.dev.live = true → s.dev.sec.containmentPending = false → Idles .containmentReset s)
       ∧ (s.dev.live = true → s.dev.sec.ready = false → s.dev.pins.startFail = false → s.dev.sec.stackFail = 0 →
           (∀ k : Fin 20, s.dev.mem.hbm[k].trained = true) →
           Runs (.bootReady 0) s fun d => { d with sec := { d.sec with ready := true } })
       ∧ (∀ dies, s.dev.live = true → s.dev.sec.ready = false → s.dev.pins.startFail = false → dies ≠ 0 ∨ s.dev.sec.stackFail ≠ 0 →
           Runs (.bootReady dies) s fun d =>
             { d with sec := { d.sec with dieFail := dies }, pins := { d.pins with startFail := true } }.logEvent 0x0B03 .fatal 0
               (dies.toNat + 2 ^ 26 * d.sec.stackFail.toNat) srcSecurity))

/-- What a reset of kind 1-3 keeps and what it empties (R38, R323, R459, R463, R489): the time base keeps counting, the event records
stay and RESET_EPOCH advances, the Seedbank stays but for a started write's commit, the converter fault bits stay; programs, KV
spaces, objects, intake windows, shadows and open commands go. -/
def Obligations.ResetKeepsAndEmpties : Prop :=
  ∀ (d : Device) (kind : BitVec 2),
    (d.resetTo kind).tb.now = d.tb.now ∧ (d.resetTo kind).tb.corr = d.tb.corr ∧ (d.resetTo kind).tb.lastSync = d.tb.lastSync
    ∧ (d.resetTo kind).seed = d.seedCommit.seed ∧ (d.resetTo kind).bel.convOk = d.seedCommit.evrDrain.bel.convOk
    ∧ (d.resetTo kind).evr.records = d.seedCommit.evrDrain.evr.records
    ∧ (d.resetTo kind).evr.epoch = d.seedCommit.evrDrain.evr.epoch + 1
    ∧ (d.resetTo kind).sec.kind = kind ∧ (d.resetTo kind).sec.ready = false ∧ (d.resetTo kind).sec.state = .bootRom
    ∧ (∀ k : Fin 16, (d.resetTo kind).progs[k] = none) ∧ (∀ k : Fin 16, (d.resetTo kind).aster.spaces[k] = none)
    ∧ (d.resetTo kind).mem.objects = [] ∧ (d.resetTo kind).mem.mem = [] ∧ (d.resetTo kind).mem.quotas = Vector.replicate 64 {}
    ∧ (∀ p : Fin 2, (d.resetTo kind).ports[p].window = [] ∧ (d.resetTo kind).ports[p].replay = []
        ∧ (d.resetTo kind).ports[p].hostMem = d.ports[p].hostMem ∧ (d.resetTo kind).ports[p].dlUp = false)
    ∧ (∀ r : Fin 8, (d.resetTo kind).readShadow[r] = none ∧ (d.resetTo kind).writeShadow[r] = none)
    ∧ (d.resetTo kind).opens = [] ∧ (d.resetTo kind).admin.port = 0 ∧ (d.resetTo kind).fab.job = .none

/-! ### Stream instructions -/

/-- TMM, TEW, TNORM, TNORMB, TSMAX, TSMAXB, TRED and TMOV: a lane that stands at the instruction, with nothing in its way, issues it (R96,
R123, R126, R127, R129, R165-R168). What an issued instruction leaves: its lane goes on to the next instruction and holds the record of
what its retirement will write; no byte of memory has changed, and no other step (R64, R76, R129). An instruction that finds something in
its way does not issue: a region whose sums the Tundish has not read, or a version not yet made, makes its lane wait, and nothing else
changes (R144, R178); the U lane alone makes no version check. A word that no decoder can correct never reaches its consumer: the FATAL
event is logged and a containment reset begun instead of the work (R9, R316). -/
def Obligations.DataInstructionsIssueOrWait : Prop :=
  (∀ (s : State) (k : Fin 16) (n : Word32) (lane : Fin 17) (errs : List WordError) (p : Program) (st : StepState) (c : Current),
       s.dev.live = true → s.dev.Stands k n.toNat lane p st c → s.dev.clearFor k lane p st c →
       (c.instr.instr.isTmm = true → Runs (.tmm k n lane errs) s fun d => d.consume errs fun d => d.issueData k p st lane c)
       ∧ (c.instr.instr.isTew = true → Runs (.tew k n lane errs) s fun d => d.consume errs fun d => d.issueData k p st lane c)
       ∧ (c.instr.instr.isTnorm = true → Runs (.tnorm k n lane errs) s fun d => d.consume errs fun d => d.issueData k p st lane c)
       ∧ (c.instr.instr.isTnormb = true → Runs (.tnormb k n lane errs) s fun d => d.consume errs fun d => d.issueData k p st lane c)
       ∧ (c.instr.instr.isTsmax = true → Runs (.tsmax k n lane errs) s fun d => d.consume errs fun d => d.issueData k p st lane c)
       ∧ (c.instr.instr.isTsmaxb = true → Runs (.tsmaxb k n lane errs) s fun d => d.consume errs fun d => d.issueData k p st lane c)
       ∧ (c.instr.instr.isTred = true → Runs (.tred k n lane errs) s fun d => d.consume errs fun d => d.issueData k p st lane c)
       ∧ (c.instr.instr.isTmov = true → Runs (.tmov k n lane errs) s fun d => d.consume errs fun d => d.issueData k p st lane c))
  ∧ (∀ (d : Device) (k : Fin 16) (lane : Fin 17) (p : Program) (st : StepState) (c : Current) (e : Effect),
       d.progs[k] = some p → p.stepAt st.step = some st →
       (∃ units n terms, ((d.enterFlight k p st lane c e).stepOf k st.step).map (fun t => t.lane lane)
           = some { (st.lane lane).advance with
               inflight := (st.lane lane).inflight ++ [p.flightOf st lane c e units n], chain := e.chain.flatten, chainTerms := terms })
       ∧ (∀ j : Fin 17, j ≠ lane → ((d.enterFlight k p st lane c e).stepOf k st.step).map (fun t => t.lane j) = some (st.lane j))
       ∧ (d.enterFlight k p st lane c e).mem.mem = d.mem.mem ∧ (d.enterFlight k p st lane c e).mem.objects = d.mem.objects
       ∧ ∀ j : Fin 16, j ≠ k → (d.enterFlight k p st lane c e).progs[j] = d.progs[j])
  ∧ (∀ (s : State) (k : Fin 16) (n : Word32) (lane : Fin 17) (errs : List WordError) (p : Program) (st : StepState) (c : Current),
       s.dev.live = true → s.dev.Stands k n.toNat lane p st c → c.instr.instr.isTmm = true →
       (st.lane lane).hazard st.descs c = false → anyOverlap (c.footprint st.descs).2 s.dev.sendingRanges = false →
       s.dev.modeHolds lane (st.lane lane) = true →
       (p.regionHeld st.step c.instr.instr = true → Runs (.tmm k n lane errs) s fun d => d.setWait k st.step lane .crucible)
       ∧ (lane.val ≠ 16 → p.regionHeld st.step c.instr.instr = false → s.dev.versionsOk k p st c = false →
           Runs (.tmm k n lane errs) s fun d => d.setWait k st.step lane .version))
  ∧ (∀ (d : Device) (e : WordError) (errs : List WordError) (f : Device → Device),
       d.consume [] f = f d
       ∧ (errorFate d.mem.dec e.pattern = none →
           d.consume (e :: errs) f = d.uncorrectable e.place.location.1 e.place.location.2.1 e.place.location.2.2))

/-- TSTASH, TUNSTASH and TATTN issue, once the words they read are delivered (R157-R161, R248, R253, R316): a TATTN issues its rows as its
list says, a paged one whose space is missing with every entry INVALID. -/
def Obligations.StashAndAttentionIssue : Prop :=
  ∀ (s : State) (k : Fin 16) (n : Word32) (lane : Fin 17) (errs : List WordError) (p : Program) (st : StepState) (c : Current),
    s.dev.live = true → s.dev.Stands k n.toNat lane p st c → s.dev.clearFor k lane p st c →
    (∀ seg x y ha hd, c.instr.instr = .tstash seg x y ha hd →
        Runs (.tstash k n lane errs) s fun d => d.consume errs fun d => d.issueStash k p st lane c seg.toNat ha hd)
    ∧ (∀ seg x y ha hd, c.instr.instr = .tunstash seg x y ha hd →
        Runs (.tunstash k n lane errs) s fun d => d.consume errs fun d => d.issueUnstash k p st lane c seg.toNat ha hd)
    ∧ (∀ a, c.instr.instr.attn = some a → s.dev.aster.quiesce = false ∨ st.reprefill = true →
        s.dev.walkWaits k.val n.toNat lane.val c.instr.word (st.lane lane).mb = false →
        (Runs (.tattn k n lane errs) s fun d => d.consume errs fun d => d.issueRows k p st lane c a none)
        ∧ ∀ (d : Device) x l, d.attnList st.descs a = some (x, l) →
          (a.paged = false → d.issueRows k p st lane c a none = d.issueTrain k p st lane c a x l)
          ∧ (a.paged = true → d.spaceAt l.space = none → d.issueRows k p st lane c a none = d.issueNoSpace k p st lane c a x l)
          ∧ ∀ sp sc, a.paged = true → d.spaceAt l.space = some (sp, sc) → d.issueRows k p st lane c a none =
            d.issuePaged
              { k := k, p := p, st := st, lane := lane, c := c, a := a, x := x, l := l, sp := sp, sc := sc
                ok := l.entries.filter (sc.entryOk p.account a l st.reprefill)
                refilled := [], held := none, arrival := d.aster.arrivals })

/-- Semaphores, fences, hints and the end of a body: TSIG, TWAIT, TFENCE_STREAM, TFENCE_VERSION, TFENCE_PMODE, THINT and TEND (R105,
R119, R132-R137, R376). -/
def Obligations.ControlInstructionsComplete : Prop :=
  ∀ (s : State) (k : Fin 16) (n : Word32) (lane : Fin 17) (p : Program) (st : StepState) (c : Current),
    s.dev.live = true → s.dev.Stands k n.toNat lane p st c →
    (∀ sem inc, c.instr.instr = .tsig sem inc → (st.lane lane).inflight = [] → s.dev.triggered k st lane sem (st.lane lane).mb = [] →
        Runs (.tsig k n lane) s fun d => (d.addSem k n.toNat sem.toNat inc).passBy k n.toNat lane)
    ∧ (∀ sem target stride, c.instr.instr = .twait sem target stride →
        Runs (.twait k n lane) s fun d =>
          if target + stride * (st.lane lane).mb ≤ p.semAt (n.toNat % 2) sem.toNat then d.passBy k n.toNat lane
          else d.setWait k n.toNat lane .semaphore)
    ∧ (c.instr.instr = .tfenceStream → Runs (.tfenceStream k n lane) s fun d =>
          if (st.lane lane).inflight.isEmpty then d.passBy k n.toNat lane else d.setWait k n.toNat lane .stream)
    ∧ (∀ ha x, c.instr.instr = .tfenceVersion ha → descAt st.descs ha = some x →
        Runs (.tfenceVersion k n lane) s fun d =>
          if s.dev.versionOk k p n.toNat x then d.passBy k n.toNat lane else d.setWait k n.toNat lane .version)
    ∧ (∀ m, c.instr.instr = .tfencePmode m →
        Runs (.tfencePmode k n lane) s fun d =>
          if (s.dev.laneArrays lane.val).all fun a => s.dev.arrays[a].pmode == m then
            (d.passBy k n.toNat lane).updLane k n.toNat lane fun l => { l with pmode := m }
          else (d.passBy k n.toNat lane).askMode k n.toNat lane m)
    ∧ (∀ tag lead x, c.instr.instr = .thint tag lead x →
        Runs (.thint k n lane) s fun d =>
          ((s.dev.laneArrays lane.val).foldl (fun d a =>
            d.updBel fun b => b.hint d.tb.now.toNat k.val lane.val a tag lead) d).passBy k n.toNat lane)
    ∧ (lane = 16 → c.instr.instr = .tend → (st.lane lane).inflight = [] → (st.lane lane).recomp = none →
        Runs (.tend k n lane) s fun d =>
          (d.updLane k n.toNat lane fun l => { l with active := false, pc := 0 }).updStep k n.toNat fun st => { st with uDone := true })
    ∧ (lane ≠ 16 → c.instr.instr = .tend → (st.lane lane).inflight = [] → (st.lane lane).recomp = none →
        Runs (.tend k n lane) s fun d =>
          let d := d.updLane k n.toNat lane fun l => { l with active := false, pc := 0 }
          let d := (s.dev.laneArrays lane.val).foldl (fun d m => d.updArray m fun a => { a with seqActive := d.slotHeld m }) d
          let d := if laneIsB lane.val then d.updStep k n.toNat fun st' => st'.release (laneIndex lane.val) (st.lane lane).mb else d
          d.updStep k n.toNat fun st => st.checkSlots p.slots.length)
    ∧ (∀ seg i, c.instr.instr = .tend → (st.lane lane).inflight = [] → (st.lane lane).recomp = some (seg, i) →
        Runs (.tend k n lane) s fun d => d.endBlock k p n.toNat lane (st.lane lane) seg)
    ∧ (c.instr.instr = .tend → (st.lane lane).inflight ≠ [] → Idles (.tend k n lane) s)

/-- The releases of lanes that wait: TWAIT_RELEASE, VERSION_FENCE_RELEASE and CRUCIBLE_INTERLOCK_RELEASE (R134, R144, R178).
INSTRUCTION_RETIRE: the writes of an instruction in flight become visible, its additions join their regions, and its record leaves the
lane; one that may not retire yet stays (R130). -/
def Obligations.WaitsAndRetirementsComplete : Prop :=
  (∀ (s : State) (k : Fin 16) (n : Word32) (lane : Fin 17) (errs : List WordError) (p : Program) (st : StepState) (c : Current), s.dev.live = true →
       (s.dev.Waits k n.toNat lane .semaphore p st c → p.waitMet n.toNat (st.lane lane).mb c.instr.instr = true →
           Runs (.twaitRelease k n lane) s fun d => d.passBy k n.toNat lane)
       ∧ (s.dev.Waits k n.toNat lane .semaphore p st c → p.waitMet n.toNat (st.lane lane).mb c.instr.instr = false →
           Idles (.twaitRelease k n lane) s)
       ∧ (s.dev.Waits k n.toNat lane .version p st c → ∀ ha x, c.instr.instr = .tfenceVersion ha → descAt st.descs ha = some x →
           s.dev.versionOk k p n.toNat x = true → Runs (.versionFenceRelease k n lane errs) s fun d => d.passBy k n.toNat lane)
       ∧ (s.dev.Waits k n.toNat lane .version p st c → (∀ ha, c.instr.instr ≠ .tfenceVersion ha) → s.dev.versionsOk k p st c = true →
           Runs (.versionFenceRelease k n lane errs) s fun d => (d.setWait k n.toNat lane .none).issueStanding k n.toNat lane c errs)
       ∧ (s.dev.Waits k n.toNat lane .crucible p st c → p.regionHeld n.toNat c.instr.instr = false →
           Runs (.crucibleInterlockRelease k n lane errs) s fun d => (d.setWait k n.toNat lane .none).issueStanding k n.toNat lane c errs)
       ∧ (s.dev.Waits k n.toNat lane .crucible p st c → p.regionHeld n.toNat c.instr.instr = true →
           Idles (.crucibleInterlockRelease k n lane errs) s))
  ∧ (∀ (s : State) (k : Fin 16) (n : Word32) (lane : Fin 17) (i : Nat) (p : Program) (st : StepState) (f : InFlight),
       s.dev.live = true → s.dev.progs[k] = some p → p.stepAt n.toNat = some st → (st.lane lane).inflight[i]? = some f →
       (s.dev.canRetire k n.toNat lane f = true → s.dev.walkOf k.val n.toNat lane.val f = none →
         Runs (.instructionRetire k n lane i) s fun d =>
           (((d.commitFlight k n.toNat lane f).updLane k n.toNat lane fun l => { l with inflight := l.inflight.eraseIdx i }).wakeStream k
             n.toNat lane).startRotations)
       ∧ (∀ w, s.dev.canRetire k n.toNat lane f = true → s.dev.walkOf k.val n.toNat lane.val f = some w →
         Runs (.instructionRetire k n lane i) s fun d =>
           ((((d.commitFlight k n.toNat lane f).updLane k n.toNat lane fun l => { l with inflight := l.inflight.eraseIdx i }).endWalk k st
             w).wakeStream k n.toNat lane).startRotations)
       ∧ (s.dev.canRetire k n.toNat lane f = false → Idles (.instructionRetire k n lane i) s))

/-- SLOT_RELEASE and STEP_RETIRE (R42, R152): the next slot's lanes begin once every lane before has ended; a step with every condition of
R42 retires, and its program takes the next step number. PMODE_CHANGE (R105): the mode asked for is in force once the array's run has
completed, and lanes that waited go on. -/
def Obligations.SlotStepAndModeRowsComplete : Prop :=
  (∀ (s : State) (k : Fin 16) (n : Word32) (p : Program) (st : StepState), s.dev.live = true → s.dev.progs[k] = some p →
       p.stepAt n.toNat = some st →
       (∀ sl, p.state = .running → st.bodyRuns = false → (∀ t ∈ p.steps, n.toNat ≤ t.step ∨ t.slotsDone = true) →
           p.slots[if st.released then st.slotIdx + 1 else st.slotIdx]? = some sl →
           Runs (.slotRelease k n) s fun d =>
             let idx := if st.released then st.slotIdx + 1 else st.slotIdx
             (p.slotLanes sl).foldl (fun d i => d.startLane k p n.toNat idx sl (clampFin 16 i))
               (d.updStep k n.toNat fun st => { st with slotIdx := idx, released := true }))
       ∧ (st.bodyRuns = true → Idles (.slotRelease k n) s)
       ∧ (s.dev.stepDone k p st = false → Idles (.stepRetire k n) s)
       ∧ (s.dev.stepDone k p st = true → st.reprefill = false → p.releasedHandles = [] → s.dev.fab.groupSize ≤ 1 →
           Runs (.stepRetire k n) s fun d =>
             ((((d.zeroOverflow p (p.regions.filter fun r => r.step == some n.toNat)).updProg k fun p => p.afterRetire st).unpinKv k.val
               n.toNat).storePyro k).endStep st .ok n.toNat))
  ∧ (∀ (s : State) (n : Fin 8) (m : BitVec 2), s.dev.live = true → s.dev.arrays[n].pmodeNext = some m →
       (s.dev.arrayBusy n = false → Runs (.pmodeChange n) s fun d =>
           (d.updArray n fun a => { a with pmode := m, pmodeNext := none }).wakeModes)
       ∧ (s.dev.arrayBusy n = true → Idles (.pmodeChange n) s))

/-! ### Programs -/

/-- PROG_LOAD, PROG_UNLOAD, STEP_ABORT and PROG_REWIND (R145, R148, R155, R429). -/
def Obligations.ProgramLifeCompletes : Prop :=
  ∀ (s : State) (h : CmdHdr) (prog : BitVec 8) (k : Fin 16) (p : Program), s.dev.live = true → prog.toNat = k.val →
    (∀ image off len first seed o img regions, s.dev.passes 0x0201 h → s.dev.obj? image = some o → o.readableBy h.account = true →
        o.anyT3 = false → s.dev.freeSlot = some k → off.toNat + len.toNat ≤ o.size →
        s.dev.checkImage h.account (fun a n => ofBytes (s.dev.objBytes o (off.toNat + a) n)) len.toNat = .ok (img, regions) →
        s.dev.chargeFits h.account (.t1 0 []) (Config.tableGranules len.toNat) = true →
        Runs (.progLoad h image off len first seed) s fun d =>
          (d.openCommand 0x0201 h).enterProgram ⟨h, 0x0201⟩ k (img.program h.account o.id len.toNat first seed regions))
    ∧ (s.dev.progs[k] = some p → p.account = h.account →
        (s.dev.passes 0x0202 h → p.state ≠ .running → Answers (.progUnload h prog) 0x0202 h s (fun d => d.leaveProgram k p) 0)
        ∧ (s.dev.passes 0x0202 h → p.state = .running → Rejects (.progUnload h prog) 0x0202 h s .busy)
        ∧ (∀ n : Word32, s.dev.passes 0x0204 h → (p.stepAt n.toNat).isSome = true →
            Answers (.stepAbort h prog n) 0x0204 h s (fun d => d.haltProgram k (some n.toNat) .aborted) 0)
        ∧ (∀ n : Word32, s.dev.passes 0x0205 h → p.state ≠ .running →
            Answers (.progRewind h prog n) 0x0205 h s (fun d => (d.zeroOverflow p p.regions).updProg k fun p => p.rewind n.toNat) 0))
    ∧ (s.dev.progs[k] = some p → p.account ≠ h.account → s.dev.passes 0x0202 h → Rejects (.progUnload h prog) 0x0202 h s .notOwner)
    ∧ (s.dev.progs[k] = none → s.dev.passes 0x0202 h → Rejects (.progUnload h prog) 0x0202 h s .badParam)

/-- DESC_WRITE, PROG_QUERY and SEM_SIGNAL (R132, R133, R140, R147). Semaphores add and saturate at 0xFFFF_FFFF (R132, R133). -/
def Obligations.ProgramSettingsComplete : Prop :=
  (∀ (s : State) (h : CmdHdr) (prog : BitVec 8) (k : Fin 16) (p : Program), s.dev.live = true → prog.toNat = k.val →
       s.dev.progs[k] = some p → p.account = h.account →
       (∀ handle object off, s.dev.passes 0x0206 h → s.dev.bindOk p handle object off.toNat = true → s.dev.mayRead object h.account = true →
           Answers (.descWrite h prog handle object off) 0x0206 h s (fun d =>
             (d.updProg k fun p =>
               { p with stagedDescs := (handle.extractLsb' 0 12, object, off.toNat)
                   :: p.stagedDescs.filter fun y => y.1 != handle.extractLsb' 0 12 }).logEvent 0x0204 .info k.val 0
               srcAdmission) 0)
       ∧ (∀ sem bank, s.dev.passes 0x0207 h → bank.toNat ≤ 1 →
           Answers (.progQuery h prog sem bank) 0x0207 h s (fun d => d)
             (p.state.code + p.steps.length * 2 ^ 8 + p.semAt bank.toNat sem.toNat * 2 ^ 32))
       ∧ (∀ sem bank, s.dev.passes 0x0207 h → 1 < bank.toNat → Rejects (.progQuery h prog sem bank) 0x0207 h s .badParam)
       ∧ (∀ sem inc n, s.dev.passes 0x0208 h → inc ≠ 0 → (p.stepAt n.toNat).isSome = true → (p.hostSem.any fun x => x.1 == sem.toNat) = true →
           Answers (.semSignal h prog sem inc n) 0x0208 h s (fun d => d.addSem k n.toNat sem.toNat inc.toNat) 0))
  ∧ (∀ (d : Device) (k : Fin 16) (p : Program) (n sem inc : Nat), d.progs[k] = some p →
       ∃ q, (d.addSem k n sem inc).progs[k] = some q ∧ q.semAt (n % 2) sem = min (p.semAt (n % 2) sem + inc) 0xFFFFFFFF
         ∧ (∀ b x, (b, x) ≠ (n % 2, sem) → q.semAt b x = p.semAt b x) ∧ q.steps = p.steps ∧ q.state = p.state
         ∧ ∀ j : Fin 16, j ≠ k → (d.addSem k n sem inc).progs[j] = d.progs[j])

/-- STEP_LAUNCH (R145, R334, R336): a BEST_EFFORT launch of the next step number starts the step; a PROMISED one starts it when the
admission procedure admits it. What a launch leaves of a program (R119, R132, R140, R145, R236): it is RUNNING, the step is the last
in flight with none of its slots released, staged settings are in force, and the step's semaphore bank is zero. -/
def Obligations.StepLaunchCompletes : Prop :=
  (∀ (s : State) (h : CmdHdr) (prog : BitVec 8) (n : Word32) (k : Fin 16) (p : Program), s.dev.live = true → prog.toNat = k.val →
       s.dev.progs[k] = some p →
       (s.dev.passes 0x0203 h → p.account = h.account → s.dev.launchBad n.toNat p = false → s.dev.launchBusy p = false →
           s.dev.boundQuarantined p = false → s.dev.parityHits p = false →
           Runs (.stepLaunch h prog n) s fun d => (d.openCommand 0x0203 h).launchStep k n.toNat (some ⟨h, 0x0203⟩) false false)
       ∧ (s.dev.passesPromised 0x0203 h → p.account = h.account → s.dev.launchBad n.toNat p = false → s.dev.launchBusy p = false →
           s.dev.boundQuarantined p = false → s.dev.parityHits p = false →
           Runs (.stepLaunch h prog n) s fun d =>
             let r := (d.openCommand 0x0203 h).admitStep ⟨h, 0x0203⟩ k p n.toNat
             if r.2 then r.1.launchStep k n.toNat (some ⟨h, 0x0203⟩) true false else r.1)
       ∧ (s.dev.passes 0x0203 h → s.dev.launchBad n.toNat p = true → Rejects (.stepLaunch h prog n) 0x0203 h s .badParam)
       ∧ (s.dev.passes 0x0203 h → s.dev.launchBad n.toNat p = false → p.account ≠ h.account →
           Rejects (.stepLaunch h prog n) 0x0203 h s .notOwner))
  ∧ (∀ (d : Device) (k : Fin 16) (p : Program) (n : Nat) (c : Option OpenCmd) (promised reprefill : Bool), d.progs[k] = some p →
       d.fab.heldTransfers = [] → d.fab.isTop = false →
       ∃ q st, (d.launchStep k n c promised reprefill).progs[k] = some q ∧ q.state = .running ∧ q.steps = p.steps ++ [st] ∧ st.step = n
         ∧ st.cmd = c ∧ st.promised = promised ∧ st.released = false ∧ st.slotsDone = false ∧ q.stagedDescs = [] ∧ q.stagedSchedule = none
         ∧ q.descs = p.boundDescs ∧ (∀ sem, q.semAt (n % 2) sem = 0)
         ∧ (∀ sem b, b ≠ n % 2 → q.semAt b sem = p.semAt b sem) ∧ q.account = p.account ∧ q.versions = p.versions)

/-! ### KV spaces and Aster -/

/-- KV_CREATE, KV_DESTROY, KV_PIN, KV_CONFIG and KV_QUERY (R250, R259, R266, R268). -/
def Obligations.KvSpaceCommandsComplete : Prop :=
  ∀ (s : State) (h : CmdHdr) (space : BitVec 8) (sp : Fin 16), s.dev.live = true → space.toNat = sp.val →
    (∀ rank layers pool pages tables seqs salt o, s.dev.passes 0x0501 h → s.dev.obj? pool = some o → o.allT2 = true →
        o.owner = h.account → s.dev.aster.spaces[sp] = none → 64 ≤ rank.toNat → rank.toNat ≤ 1024 → rank.toNat % 16 = 0 →
        1 ≤ layers.toNat → layers.toNat ≤ 4096 → 1 ≤ pages.toNat → 2 ≤ tables.toNat → 1 ≤ seqs.toNat → seqs.toNat ≤ 65536 →
        poolBytes rank.toNat layers.toNat pages.toNat tables.toNat seqs.toNat ≤ o.size → s.dev.seqTotal + seqs.toNat ≤ 65536 →
        Answers (.kvCreate h space rank layers pool pages tables seqs salt) 0x0501 h s (fun d =>
          (d.setSpace sp (some
            { owner := h.account, rank := rank.toNat, layers := layers.toNat, pool := pool, pages := pages.toNat
              tablePages := tables.toNat, maxSeqs := seqs.toNat, salt := salt, bounds := (List.range 15).map fun i => 128 * 2 ^ i })).progPin
            [pool]) (poolBytes rank.toNat layers.toNat pages.toNat tables.toNat seqs.toNat % 2 ^ 48))
    ∧ ∀ sc, s.dev.aster.spaces[sp] = some sc → sc.owner = h.account →
        (s.dev.passes 0x0502 h → s.dev.spaceNamed sp = false → (∀ q ∈ sc.seqs, q.isPinned = false) → sc.heldEdits = [] →
          Answers (.kvDestroy h space) 0x0502 h s (fun d =>
            ({ d with aster := { d.aster with
                spaces := Bank.upd d.aster.spaces sp fun _ => none
                walks := d.aster.walks.filter fun w => w.space != sp
                queues := d.aster.queues.filter fun q => q.space != sp } }.clearGathering).progUnpin [sc.pool]) 0)
        ∧ (∀ seq q unpin, s.dev.passes 0x0507 h → sc.seq? seq = some q →
          Answers (.kvPin h space unpin seq) 0x0507 h s (fun d => d.updSpace sp fun sc =>
            { sc with seqs := updFirst (fun q => q.id == seq) (fun q => { q with pinned := !unpin }) sc.seqs }) 0)
        ∧ (∀ handle hold bounds, s.dev.passes 0x0508 h → bounds.length = 15 → rising (bounds.map BitVec.toNat) = true →
          Answers (.kvConfig h space 0xFF handle hold bounds) 0x0508 h s (fun d => d.updSpace sp fun sc =>
            { sc with recompProg := none, recompHandle := handle.extractLsb' 0 12, gatherHold := hold.toNat,
                      bounds := bounds.map BitVec.toNat }) 0)
        ∧ (∀ (prog : BitVec 8) handle hold bounds, s.dev.passes 0x0508 h → prog ≠ 0xFF → s.dev.recompOk h.account prog handle = true →
          bounds.length = 15 → rising (bounds.map BitVec.toNat) = true →
          Answers (.kvConfig h space prog handle hold bounds) 0x0508 h s (fun d => d.updSpace sp fun sc =>
            { sc with recompProg := some prog.toNat, recompHandle := handle.extractLsb' 0 12, gatherHold := hold.toNat,
                      bounds := bounds.map BitVec.toNat }) 0)
        ∧ (∀ seq q, s.dev.passes 0x0509 h → sc.seq? seq = some q → Runs (.kvQuery h space seq) s fun d =>
          (d.openCommand 0x0509 h).finish ⟨h, 0x0509⟩ (if sc.anyDropped q then .pagesDropped else .ok)
            (q.length % 2 ^ 32 + min (sc.pagesOf q).length (2 ^ 31 - 1) * 2 ^ 32 + (if q.isPinned then 2 ^ 63 else 0)))

/-- KV_SEQ_OPEN, KV_SEQ_CLOSE, KV_SEQ_FORK, KV_TRUNCATE and HELD_KV_EDIT_APPLY (R255-R257, R260, R264, R265, R268): an edit is made when
nothing holds it and its pages and table pages can be taken, is held while they only await reclamation, and a held one is made once it is
free. Closing, forking and truncating publish in one epoch: a sequence closed is open no more, and every other one stays as it was (R255,
R268). -/
def Obligations.KvSequenceCommandsComplete : Prop :=
  (∀ (s : State) (h : CmdHdr) (space : BitVec 8) (sp : Fin 16) (sc : Space), s.dev.live = true → space.toNat = sp.val →
       s.dev.aster.spaces[sp] = some sc → sc.owner = h.account →
       (∀ seq obj off n, s.dev.passes 0x0503 h → sc.seq? seq = none → sc.seqs.length < sc.maxSeqs → sc.tablesAvailable 16 0 ≠ 0 →
           Runs (.kvSeqOpen h space false seq obj off n) s fun d => (d.openCommand 0x0503 h).openSeq sp sc ⟨h, 0x0503⟩ seq [])
       ∧ (∀ seq obj off n toks, s.dev.passes 0x0503 h → sc.seq? seq = none → s.dev.tokenList obj off.toNat n.toNat = some toks →
           s.dev.mayRead obj h.account = true → sc.seqs.length < sc.maxSeqs → sc.tablesAvailable 16 0 ≠ 0 →
           (∀ o, s.dev.obj? obj = some o → o.t3Segments off.toNat (4 * n.toNat) = []) →
           Runs (.kvSeqOpen h space true seq obj off n) s fun d => (d.openCommand 0x0503 h).openSeq sp sc ⟨h, 0x0503⟩ seq toks)
       ∧ (∀ seq q nowait, s.dev.passes 0x0503 h → sc.seq? seq = some q → Rejects (.kvSeqOpen h space nowait seq 0 0 0) 0x0503 h s .badParam)
       ∧ (∀ seq q nowait, s.dev.passes 0x0504 h → sc.seq? seq = some q → q.pinned = false → s.dev.mustHold sp sc seq = false →
           Answers (.kvSeqClose h space nowait seq) 0x0504 h s (fun d => d.edit sp seq fun _ => none) 0)
       ∧ (∀ seq q nowait, s.dev.passes 0x0504 h → sc.seq? seq = some q → q.pinned = true →
           Rejects (.kvSeqClose h space nowait seq) 0x0504 h s .busy)
       ∧ (∀ seq q, s.dev.passes 0x0504 h → sc.seq? seq = some q → q.pinned = false → s.dev.mustHold sp sc seq = true →
           Runs (.kvSeqClose h space false seq) s (fun d => (d.openCommand 0x0504 h).holdEdit sp ⟨h, 0x0504⟩ (.close seq))
           ∧ Rejects (.kvSeqClose h space true seq) 0x0504 h s .busy)
       ∧ (∀ src dst len q nowait, s.dev.passes 0x0505 h → sc.seq? src = some q → len.toNat ≤ q.length → sc.seq? dst = none →
           sc.seqs.length < sc.maxSeqs → s.dev.mustHold sp sc src = false →
           s.dev.kvRoom sp sc 16 0 (sc.editAsk (.fork src dst len.toNat)) = .ready →
           Runs (.kvSeqFork h space nowait src dst len) s fun d => (d.openCommand 0x0505 h).forkSeq sp ⟨h, 0x0505⟩ src dst len.toNat)
       ∧ (∀ seq len q nowait, s.dev.passes 0x0506 h → sc.seq? seq = some q → len.toNat ≤ q.length → q.pinned = false →
           s.dev.mustHold sp sc seq = false → s.dev.kvRoom sp sc 16 0 (sc.editAsk (.truncate seq len.toNat)) = .ready →
           Runs (.kvTruncate h space nowait seq len) s fun d => (d.openCommand 0x0506 h).truncateSeq sp ⟨h, 0x0506⟩ seq len.toNat)
       ∧ (∀ seq len q nowait, s.dev.passes 0x0506 h → sc.seq? seq = some q → len.toNat ≤ q.length → q.pinned = false →
           s.dev.mustHold sp sc seq = false → s.dev.kvRoom sp sc 16 0 (sc.editAsk (.truncate seq len.toNat)) = .wait →
           Runs (.kvTruncate h space nowait seq len) s fun d =>
             (d.openCommand 0x0506 h).holdEdit sp ⟨h, 0x0506⟩ (.truncate seq len.toNat) true)
       ∧ (∀ n e, sc.heldEdits[n]? = some e → s.dev.editFree sp sc n e = true →
           s.dev.kvRoom sp { sc with heldEdits := sc.heldEdits.eraseIdx n } 16 0
             (Space.editAsk { sc with heldEdits := sc.heldEdits.eraseIdx n } e.edit) = .ready →
           Runs (.heldKvEditApply sp n) s fun d =>
             (d.updSpace sp fun sc => { sc with heldEdits := sc.heldEdits.eraseIdx n }).applyEdit sp e.cmd e.edit)
       ∧ (∀ n e, sc.heldEdits[n]? = some e → s.dev.editFree sp sc n e = false → Idles (.heldKvEditApply sp n) s))
  ∧ (∀ (d : Device) (sp : Fin 16) (sc : Space) (c : OpenCmd) (id : Word32) (q : Sequence), d.aster.spaces[sp] = some sc →
       sc.seq? id = some q → q.pinned = false →
       ∃ t, (d.closeSeq sp c id).aster.spaces[sp] = some t ∧ t.seq? id = none ∧ (∀ j, j ≠ id → t.seq? j = sc.seq? j)
         ∧ ∀ j : Fin 16, j ≠ sp → (d.closeSeq sp c id).aster.spaces[j] = d.aster.spaces[j])

/-- The rows by which Aster goes on: PAGE_ALLOC_RESUME, PAGE_RECLAIM, REPREFILL_RESUME, GATHER_DEADLINE, AST_QUIESCE_WRITE,
AST_QUIESCED and AST_COUNT_CLR (R252, R256, R259, R262, R267, R270, R271). -/
def Obligations.AsterRowsComplete : Prop :=
  ∀ s : State, s.dev.live = true →
    (∀ n w, s.dev.aster.walks[n]? = some w → w.waitPage = true → Runs (.pageAllocResume n) s fun d => d.retryWalk w)
    ∧ (∀ n w, s.dev.aster.walks[n]? = some w → w.waitPage = false → Idles (.pageAllocResume n) s)
    ∧ (∀ sp sc, s.dev.aster.spaces[sp] = some sc → (∀ r ∈ sc.reclaim, sc.genOf r.page ≠ 0xFFFFFFFF) →
        Runs (.pageReclaim sp) s fun d => d.updSpace sp fun sc =>
          { sc with
            reclaim := sc.reclaim.filter fun r => s.dev.snapshotBelow sp r.epoch
            tableReclaim := sc.tableReclaim.filter fun r => s.dev.snapshotBelow sp r.epoch
            freeTables := sc.freeTables ++ (sc.tableReclaim.filter fun r => !s.dev.snapshotBelow sp r.epoch).map Reclaim.page
            freeList := sc.freeList ++ (sc.reclaim.filter fun r => !s.dev.snapshotBelow sp r.epoch).map Reclaim.page })
    ∧ (∀ n w k, s.dev.aster.walks[n]? = some w → w.paused = some (k, none) → Runs (.reprefillResume n) s fun d => d.retryWalk w)
    ∧ (∀ n w j k i, s.dev.aster.walks[n]? = some w → w.paused = some (j, some i) → (asFin 16 j).bind (s.dev.stepOf · i) = none →
        asFin 16 w.program = some k →
        Runs (.reprefillResume n) s fun d => (d.kvEvent w.space (some (k, w.step)) 0x0502 .info 0).retryWalk w)
    ∧ (∀ n w, s.dev.aster.walks[n]? = some w → w.paused = none → Idles (.reprefillResume n) s)
    ∧ (∀ n, Runs (.gatherDeadline n) s fun d => d.runQueues (some n))
    ∧ (s.dev.aster.quiesce = true → (∀ w ∈ s.dev.aster.walks, w.inFlight = false) →
        Runs .astQuiesced s fun d => { d with aster := { d.aster with quiesced := true } })
    ∧ (s.dev.aster.quiesce = false → Idles .astQuiesced s)
    ∧ ∀ req, s.dev.mayWrite req none = true →
        (∀ v, Runs (.astQuiesceWrite req v) s fun d =>
          { d with aster := { d.aster with quiesce := v, quiesced := d.aster.quiesced && v } })
        ∧ Runs (.astCountClr req) s fun d =>
          { d with aster := { d.aster with
              retired := 0, reprefills := 0, dropped := 0, hits := 0, collisions := 0, products := 0, short := 0 } }

/-! ### Gradient exchange -/

/-- TRED_GRAD, TTIE and REGION_FINAL_RELEASE (R127, R171-R174, R183): on final regions with none waiting before it the U lane's
instruction does the Tundish's work and the lane goes on; otherwise it waits, and REGION_FINAL_RELEASE does the work once the regions are
final. BUCKET_REDUCE_START, HOP_RECEIVE, HANDOFF_RECEIVE and HELD_HOP_PROCESS (R186, R191, R192, R207, R208, R218): a hop whose turn has
come is taken, one whose turn has not is held while the receive buffer has room, one that fits no plan is a mismatch, and in HOLD none is
taken (R185, R371); a lockstep mismatch delivers nothing (R394). -/
def Obligations.ReductionRowsComplete : Prop :=
  (∀ (s : State) (k : Fin 16) (n : Word32) (errs : List WordError) (lockstep : Bool) (p : Program) (st : StepState), s.dev.live = true →
       (∀ c, s.dev.Stands k n.toNat 16 p st c → (st.lane 16).hazard st.descs c = false → p.sigmaStands st.step = true →
         (∀ x m w ha rop, c.instr.instr = .tred 7 x m w ha rop →
           (p.readsFinal st.step c.instr.instr = true → ((st.lane 16).inflight.any InFlight.early) = false →
             Runs (.tredGrad k n errs lockstep) s fun d => d.consume errs fun d => d.inLockstep lockstep fun d =>
               (d.readRegions k p st.step c.instr.instr).passBy k st.step 16)
           ∧ (p.readsFinal st.step c.instr.instr = false → Runs (.tredGrad k n errs lockstep) s fun d =>
             (d.updLane k st.step 16 fun l => { l.advance with inflight := l.inflight
               ++ [{ word := c.instr.word, instr := c.instr.instr, mb := (st.lane 16).mb, early := true }] }).raiseOnce k st.step 0x0208 16
               .warn k.val 0 srcGx))
         ∧ (∀ g x, c.instr.instr = .ttie g x → p.readsFinal st.step c.instr.instr = true →
             ((st.lane 16).inflight.any InFlight.early) = false →
             Runs (.ttie k n errs lockstep) s fun d => d.consume errs fun d => d.inLockstep lockstep fun d =>
               (d.tieRegions k p st.step g).passBy k st.step 16))
       ∧ (∀ fl, s.dev.progs[k] = some p → p.stepAt n.toNat = some st → (st.lane 16).inflight.find? InFlight.early = some fl →
         (p.state = .running → s.dev.tun.faulted = false → s.dev.sec.hold = false → p.readsFinal n.toNat fl.instr = true →
           Runs (.regionFinalRelease k n errs lockstep) s fun d => d.consume errs fun d => d.inLockstep lockstep fun d =>
             ((d.updLane k n.toNat 16 fun l => { l with inflight := l.inflight.erase fl }).readRegions k p n.toNat fl.instr).wakeStream k
               n.toNat 16)
         ∧ (p.readsFinal n.toNat fl.instr = false → Idles (.regionFinalRelease k n errs lockstep) s)))
  ∧ (∀ (s : State) (k : Fin 16) (p : Program) (lockstep : Bool), s.dev.live = true → s.dev.progs[k] = some p →
       (∀ (n : Word32) st id b t, p.stepAt n.toNat = some st → st.bucket id = some b → st.table = some t → b.state = .full →
           s.dev.tun.faulted = false → s.dev.resourcesFree k st [8] = true →
           Runs (.bucketReduceStart k n id lockstep) s fun d => d.inLockstep lockstep fun d => d.startBucket k p st b t)
       ∧ (∀ (n : Word32) st id, p.stepAt n.toNat = some st → st.table = none → Idles (.bucketReduceStart k n id lockstep) s)
       ∧ (∀ m : HopMsg, s.dev.jobProgram = some (k, p) → s.dev.fab.job ≠ .none → s.dev.fab.job ≠ .hold →
           s.dev.hopFits p (heldHop m k.val) m.blockCount.toNat = true →
           (∀ st, p.stepAt m.step.toNat = some st → s.dev.hopReady k p st (heldHop m k.val) = true → m.late = false →
             Runs (.hopReceive m lockstep) s fun d =>
               { d with tun := { d.tun with rxBytes := satAdd d.tun.rxBytes (32 + m.payload.length) } }.inLockstep lockstep fun d =>
                 d.takeHop k p st (heldHop m k.val))
           ∧ ((∀ st, p.stepAt m.step.toNat = some st → s.dev.hopReady k p st (heldHop m k.val) = false) →
               (p.stepAt m.step.toNat = none → p.nextStep ≤ m.step.toNat) → s.dev.rxFull = false →
             Runs (.hopReceive m lockstep) s fun d =>
               { d with tun := { d.tun with
                   rxBytes := satAdd d.tun.rxBytes (32 + m.payload.length), held := d.tun.held ++ [heldHop m k.val] } })
           ∧ (∀ st, p.stepAt m.step.toNat = some st → s.dev.hopReady k p st (heldHop m k.val) = false → s.dev.rxFull = true →
             Idles (.hopReceive m lockstep) s))
       ∧ (∀ m : HopMsg, s.dev.jobProgram = some (k, p) → s.dev.fab.job ≠ .none → s.dev.fab.job ≠ .hold →
           s.dev.hopFits p (heldHop m k.val) m.blockCount.toNat = false →
           Runs (.hopReceive m lockstep) s fun d => d.planMismatch m.step.toNat)
       ∧ (∀ (m : HopMsg) st, s.dev.jobProgram = some (k, p) → s.dev.fab.job ≠ .none → s.dev.fab.job ≠ .hold →
           s.dev.handoffFits p (heldHop m k.val) m.blockCount.toNat = true → p.stepAt m.step.toNat = some st →
           handoffReady p st (heldHop m k.val) = true → m.late = false →
           Runs (.handoffReceive m) s fun d =>
             { d with tun := { d.tun with rxBytes := satAdd d.tun.rxBytes (32 + m.payload.length) } }.takeHandoff k p st.step
               (heldHop m k.val))
       ∧ (∀ i h st, s.dev.tun.held[i]? = some h → h.program = k.val → p.stepAt h.step = some st →
           (h.hop ≠ 512 → s.dev.hopReady k p st h = true → Runs (.heldHopProcess i lockstep) s fun d =>
             { d with tun := { d.tun with held := d.tun.held.eraseIdx i } }.inLockstep lockstep fun d => d.takeHop k p st h)
           ∧ (h.hop = 512 → handoffReady p st h = true → Runs (.heldHopProcess i lockstep) s fun d =>
             { d with tun := { d.tun with held := d.tun.held.eraseIdx i } }.takeHandoff k p st.step h)))

/-- SCALE_REPORT_RECEIVE, SCALE_TABLE_RECEIVE, NORM_PARTIAL_RECEIVE, CLIP_FACTOR_RECEIVE and SIGMA_CHOOSE (R73, R79, R199, R202, R203,
R206): a choice that keeps sigma clears no accumulated histogram. -/
def Obligations.ScaleAndNormRowsComplete : Prop :=
  ∀ s : State, s.dev.live = true →
    (∀ n src es hs, s.dev.fab.job ≠ .none → (∀ e ∈ es, e.extractLsb' 9 5 = 0) →
        (s.dev.memberLevel src.toNat = true → Runs (.scaleReportReceive n src es hs) s fun d => d.reportMember n.toNat src.toNat es hs)
        ∧ (s.dev.memberLevel src.toNat = false → s.dev.fab.isTop = true →
            Runs (.scaleReportReceive n src es hs) s fun d => d.reportDomain n.toNat src.toNat es hs))
    ∧ (∀ n src es hs e, s.dev.fab.job ≠ .none → e ∈ es → e.extractLsb' 9 5 ≠ 0 →
        Runs (.scaleReportReceive n src es hs) s fun d => d.planMismatch n.toNat)
    ∧ (∀ k p n src es hs, s.dev.jobProgram = some (k, p) → s.dev.fab.job ≠ .none → p.nextStep ≤ n.toNat →
        Runs (.scaleTableReceive n src es hs false) s fun d => d.takeTable k { step := n.toNat, entries := es } hs)
    ∧ (∀ n src v sats, s.dev.fab.job ≠ .none →
        (s.dev.memberLevel src.toNat = true → Runs (.normPartialReceive n src v sats) s fun d => d.normMember n.toNat src.toNat v sats.toNat)
        ∧ (s.dev.memberLevel src.toNat = false → s.dev.fab.isTop = true →
            Runs (.normPartialReceive n src v sats) s fun d => d.normDomain n.toNat src.toNat v sats.toNat))
    ∧ (∀ k p n src n2 f sats, s.dev.jobProgram = some (k, p) → s.dev.fab.job ≠ .none →
        Runs (.clipFactorReceive n src n2 f sats false) s fun d => d.setClip k n.toNat n2 f sats.toNat)
    ∧ (∀ k p i, s.dev.progs[k] = some p → p.sigmaDue = some i → s.dev.sigmaReady p i = true → p.sigmaTensors = [] →
        Runs (.sigmaChoose k) s fun d => (d.updProg k fun p => { p with sigmaDue := none, merged := [] }).storePyro k)
    ∧ (∀ k p i x ch, s.dev.progs[k] = some p → p.sigmaDue = some i → s.dev.sigmaReady p i = true → p.sigmaTensors = [x] →
        p.choiceOf x = some ch → Runs (.sigmaChoose k) s fun d =>
          ((d.applySigma k i x ch).updProg k fun p =>
            { p with sigmaDue := none, merged := []
                     accumulated := p.accumulated.filter fun h => !(x.tensor == h.tensor && ch.2.1 != 0) }).storePyro k)
    ∧ (∀ k p, s.dev.progs[k] = some p → p.sigmaDue = none → Idles (.sigmaChoose k) s)

/-- GX_CONFIG, GX_QUERY, GX_SCALE_SAVE and GX_SCALE_LOAD (R200, R204, R212, R213). -/
def Obligations.GradientCommandsComplete : Prop :=
  ∀ (s : State) (h : CmdHdr) (prog : BitVec 8) (k : Fin 16) (p : Program), s.dev.live = true → prog.toNat = k.val →
    s.dev.progs[k] = some p → p.account = h.account →
    (∀ wire mib norm clip err ovr cfg, s.dev.passes 0x0303 h → s.dev.gxAsked p wire mib norm clip err ovr 0 = some cfg →
        (err ≠ 0 → s.dev.owns h.account err = true) → p.state ≠ .running → cfg.bucketMib = p.gx.bucketMib →
        Answers (.gxConfig h prog wire mib norm clip err ovr 0) 0x0303 h s (fun d =>
          ((d.progUnpin ([p.gx.errmem].filter (· != 0))).progPin ([err].filter (· != 0))).updProg k fun p => { p with gx := cfg }) 0)
    ∧ (∀ wire mib norm clip err ovr, s.dev.passes 0x0303 h → s.dev.gxAsked p wire mib norm clip err ovr 0 = none →
        Rejects (.gxConfig h prog wire mib norm clip err ovr 0) 0x0303 h s .badParam)
    ∧ (∀ n a b, s.dev.passes 0x0304 h → p.gxCounts n.toNat = some (a, b) →
        Answers (.gxQuery h prog n) 0x0304 h s (fun d => d) (a % 2 ^ 32 + b % 2 ^ 32 * 2 ^ 32))
    ∧ (∀ n obj off t o, s.dev.passes 0x0305 h → p.tableFor n.toNat = some t → s.dev.obj? obj = some o → o.owner = h.account →
        off.toNat + t.image.length ≤ o.size →
        Answers (.gxScaleSave h prog n obj off) 0x0305 h s (fun d => d.objStore obj off.toNat t.image) (t.entries.length % 2 ^ 16))
    ∧ (∀ n obj off bs t o, s.dev.passes 0x0306 h → (s.dev.fab.job = .none ∨ s.dev.fab.isTop = true) → n.toNat = p.nextStep →
        s.dev.tableBytes obj off.toNat (16 + 2 * p.releasedDescs.length) = some bs → tableOf n.toNat p.releasedDescs.length bs = some t →
        s.dev.obj? obj = some o → o.t3Segments off.toNat (16 + 2 * p.releasedDescs.length) = [] → s.dev.mayRead obj h.account = true →
        p.state ≠ .running →
        Answers (.gxScaleLoad h prog n obj off) 0x0306 h s (fun d => d.updProg k fun q => { q with installedTable := some t }) 0)

/-- The register rows of the Tundish: GX_QUIESCE_WRITE, GX_QUIESCED, GX_RXBUF_WRITE, GX_COUNT_CLR and UPD_COUNT_CLR (R214, R215,
R241). -/
def Obligations.TundishRegisterRowsComplete : Prop :=
  ∀ s : State, s.dev.live = true →
    (∀ req, s.dev.mayWrite req none = true →
      (∀ v, Runs (.gxQuiesceWrite req v) s fun d => { d with tun := { d.tun with quiesce := v, quiesced := d.tun.quiesced && v } })
      ∧ (∀ v, s.dev.tun.quiesced = true → v ≠ s.dev.tun.rxbufMib →
          Runs (.gxRxbufWrite req v) s fun d => { d with tun := { d.tun with rxbufMib := v } })
      ∧ (∀ v, s.dev.tun.quiesced = false → v ≠ s.dev.tun.rxbufMib → Runs (.gxRxbufWrite req v) s fun d =>
          ({ d with tun := { d.tun with rxbufMib := v, faulted := true } }.logEvent 0x0306 .error 0 0 srcGx).faultAll
            fun p => !p.steps.isEmpty)
      ∧ Idles (.gxRxbufWrite req s.dev.tun.rxbufMib) s
      ∧ (Runs (.gxCountClr req) s fun d =>
          { d with tun := { d.tun with
              cold := 0, reduced := 0, txBytes := 0, rxBytes := 0, rxMinus128 := 0, encodeSat := 0, waitScale := 0, waitRxFull := 0 } })
      ∧ Runs (.updCountClr req) s fun d =>
          { d with tun := { d.tun with elements := 0, handoffRx := 0, handoffTx := 0, preRefreshed := 0, preKept := 0, preIdentity := 0 } })
    ∧ (s.dev.tun.quiesce = true → s.dev.anyStep = false → s.dev.tun.held = [] →
        Runs .gxQuiesced s fun d => { d with tun := { d.tun with quiesced := true } })
    ∧ (s.dev.tun.quiesce = false → Idles .gxQuiesced s)
    ∧ (s.dev.anyStep = true → Idles .gxQuiesced s)

/-! ### The update engine -/

/-- PASS1_RUN, PASS2_RUN, SINGLE_PASS_RUN and ROOT_REFRESH (R220-R222, R230, R231, R233). A ROOT_REFRESH refreshes every PRE unit of its
step once all are written; for one PRE block it computes its roots and records the outcome (R230, R231). The passes of a PRE unit wait for
the refresh of the step before, and a lockstep mismatch delivers nothing (R394; log entry 138 for the wait). -/
def Obligations.UpdatePassesComplete : Prop :=
  (∀ (s : State) (k : Fin 16) (n : Word32) (i : Nat) (errs : List WordError) (lockstep : Bool) (c : UnitCtx), s.dev.live = true →
       s.dev.unitCtx k n.toNat i = some c → c.p.state = .running → s.dev.tun.faulted = false → s.dev.resourcesFree k c.st [8] = true →
       (c.rule = .pre → c.p.rootsStand n.toNat = true) →
       (c.p.gx.normMode ≠ 0 → c.u.state = .waitGrad → c.u.complete = true → Runs (.pass1Run k n i errs lockstep) s fun d =>
           d.consume errs fun d => d.inLockstep lockstep fun d =>
             (c.firstPass k c.u.values (c.writeGrad c.u.values (d.rescale k n.toNat c.u.ord))).updUnit k n.toNat i fun u =>
               { u with state := if c.rule = .none then .done else .waitApply, grad := [] })
       ∧ (c.p.gx.normMode = 0 → Idles (.pass1Run k n i errs lockstep) s)
       ∧ (∀ n2 f sats, c.st.clip = some (n2, f, sats) → c.p.gx.normMode ≠ 0 → c.u.state = .waitApply → c.p.mayWrite c.st c.x = true →
           Runs (.pass2Run k n i errs lockstep) s fun d => d.consume errs fun d => d.inLockstep lockstep fun d =>
             let zs := d.readZ16 c.set.gradObject (c.p.gradAt c.g c.f c.u.ord c.x c.u.index) c.u.length
             let r := c.secondPass k zs f (d.noteRate c)
             c.publish k i r.2 r.1)
       ∧ (c.st.clip = none → Idles (.pass2Run k n i errs lockstep) s)
       ∧ (c.p.gx.normMode = 0 → c.u.state = .waitGrad → c.u.complete = true → c.rule = .none →
           Runs (.singlePassRun k n i errs lockstep) s fun d => d.consume errs fun d => d.inLockstep lockstep fun d =>
             (c.writeGrad c.u.values d).updUnit k n.toNat i fun u => { u with state := .done, grad := [] })
       ∧ (c.p.gx.normMode = 0 → c.u.state = .waitGrad → c.u.complete = true → c.rule ≠ .none → c.p.mayWrite c.st c.x = true →
           Runs (.singlePassRun k n i errs lockstep) s fun d => d.consume errs fun d => d.inLockstep lockstep fun d =>
             let r := c.secondPass k c.u.values w32One (c.firstPass k c.u.values ((d.rescale k n.toNat c.u.ord).noteRate c))
             c.publish k i r.2 (r.1.updUnit k n.toNat i fun u => { u with grad := [] })))
  ∧ (∀ (s : State) (k : Fin 16) (n : Word32) (errs : List WordError) (lockstep : Bool) (p : Program) (st : StepState), s.dev.live = true →
       s.dev.progs[k] = some p → p.stepAt n.toNat = some st →
       (p.state = .running → st.refreshDue = true → st.refreshed = false → st.uDone = true → s.dev.resourcesFree k st [8] = true →
           (∀ i ∈ p.preUnits st, ∃ u, st.units[i]? = some u ∧ (u.state = .sending ∨ u.state = .done)) →
           Runs (.rootRefresh k n errs lockstep) s fun d => d.consume errs fun d => d.inLockstep lockstep fun d =>
             d.refreshUnits k n.toNat (p.preUnits st))
       ∧ (st.refreshDue = false → Idles (.rootRefresh k n errs lockstep) s))
  ∧ (∀ (d : Device) (k : Fin 16) (n i : Nat) (c : UnitCtx), d.unitCtx k n i = some c →
       d.refreshUnits k n [i] =
         let r := d.refreshBlock k c {}
         let d := (r.1.updProg k fun p => { p with singular := r.2.tensors }).updStep k n fun st => { st with refreshed := true }
         if r.2.kept + r.2.identity = 0 then d
         else d.logEvent 0x0402 .warn k.val (evData [(2, min r.2.kept 65535), (2, min r.2.identity 65535)]) srcUpdate)

/-- MCAST_RANGE_RECEIVE and MCAST_RANGE_APPLY (R179, R232, R379): a range that fits is held, and is written once every read of its step
has retired; in HOLD, or with the receive buffer full, it is not taken (R208, R371). -/
def Obligations.RangeRowsComplete : Prop :=
  ∀ (s : State) (k : Fin 16) (p : Program), s.dev.live = true →
    (∀ (m : RangeMsg) ord, s.dev.releaserOf m.tensor = some (k, p) → p.ordinalOf m.tensor = some ord → s.dev.fab.job ≠ .none →
        s.dev.fab.job ≠ .hold → s.dev.rxFull = false → p.version m.tensor < m.version.toNat → m.first + m.values.length ≤ (p.released ord).elems →
        m.late = false → Runs (.mcastRangeReceive m) s fun d =>
          { d with tun := { d.tun with heldRanges := d.tun.heldRanges ++ [(k.val, m.tensor, m.version.toNat, m.first, m.values)] } })
    ∧ (∀ m : RangeMsg, s.dev.releaserOf m.tensor = some (k, p) → s.dev.rxFull = true ∨ s.dev.fab.job = .hold →
        Idles (.mcastRangeReceive m) s)
    ∧ (∀ i tensor version first zs st ord, s.dev.tun.heldRanges[i]? = some (k.val, tensor, version, first, zs) →
        s.dev.progs[k] = some p → p.stepAt (version - 1) = some st → p.ordinalOf tensor = some ord →
        (p.mayWrite st (p.released ord) = true → Runs (.mcastRangeApply i) s fun d =>
          ({ d with tun := { d.tun with heldRanges := d.tun.heldRanges.eraseIdx i } }.writeWeights p st tensor first zs).noteWritten k st.step
            ord first zs.length)
        ∧ (p.mayWrite st (p.released ord) = false → Idles (.mcastRangeApply i) s))

/-- RULE_SET, RULE_QUERY, ALMANAC_SET, ALMANAC_QUERY and PRE_REFRESH (R235-R239). -/
def Obligations.UpdateCommandsComplete : Prop :=
  ∀ (s : State) (h : CmdHdr) (prog : BitVec 8) (k : Fin 16) (p : Program), s.dev.live = true → prog.toNat = k.val →
    s.dev.progs[k] = some p → p.account = h.account →
    (∀ rule b1 b2 eps wd pre so go ovr start r o, s.dev.passes 0x0401 h →
        s.dev.rulesAsked p rule 0 b1 b2 eps wd pre so go ovr 0 start = some r →
        s.dev.owns h.account so = true → (go ≠ 0 → s.dev.owns h.account go = true) → p.state ≠ .running → s.dev.obj? so = some o →
        (s.dev.ruleSizes p r).1 ≤ o.size → (go ≠ 0 → ∃ g, s.dev.obj? go = some g ∧ (s.dev.ruleSizes p r).2 ≤ g.size) →
        Answers (.ruleSet h prog rule 0 b1 b2 eps wd pre so go ovr 0 start) 0x0401 h s (fun d =>
          (((d.progUnpin (p.ruleObjects.filter (· != 0))).progPin ([so, go].filter (· != 0))).updProg k fun p =>
            { p with rules := some r, singular := [] }).logEvent 0x0401 .info k.val (evData [(1, 0)]) srcUpdate)
          (granules2K (s.dev.ruleSizes p r).1 + granules2K (s.dev.ruleSizes p r).2 * 2 ^ 32))
    ∧ (∀ tensor r ord, s.dev.passes 0x0402 h → p.rules = some r → p.ordinalOf tensor = some ord → (r.ruleOf tensor).rule = .none →
        p.ruleOf (p.released ord) ≠ .pre → p.singular = [] → Answers (.ruleQuery h prog tensor) 0x0402 h s (fun d => d)
          Rule.none.code)
    ∧ (∀ tensor, s.dev.passes 0x0402 h → p.rules = none → Rejects (.ruleQuery h prog tensor) 0x0402 h s .badParam)
    ∧ (∀ wk dk tm base lo wu ds ga st, s.dev.passes 0x0403 h → scheduleOk wk dk tm base lo ds ga = true →
        Answers (.almanacSet h prog wk dk tm base lo wu ds ga st) 0x0403 h s (fun d =>
          (d.updProg k fun p => { p with stagedSchedule := some <|
              { warmupKind := wk.extractLsb' 0 2, decayKind := dk.extractLsb' 0 3, tMult := tm.toNat, baseLr := base, minLr := lo
                warmupSteps := wu.toNat, decaySteps := ds.toNat, gamma := ga, schedStart := st.toNat } }).logEvent 0x0403 .info k.val 0
            srcUpdate) 0)
    ∧ (∀ wk dk tm base lo wu ds ga st, s.dev.passes 0x0403 h → scheduleOk wk dk tm base lo ds ga = false →
        Rejects (.almanacSet h prog wk dk tm base lo wu ds ga st) 0x0403 h s .badParam)
    ∧ (∀ n, s.dev.passes 0x0404 h → Answers (.almanacQuery h prog n) 0x0404 h s (fun d => d) (p.nextSchedule.lr n.toNat).toNat)
    ∧ (s.dev.passes 0x0405 h → p.hasPre = true →
        Answers (.preRefresh h prog) 0x0405 h s (fun d => d.updProg k fun p => { p with preRefresh := true }) 0)
    ∧ (s.dev.passes 0x0405 h → p.hasPre = false → Rejects (.preRefresh h prog) 0x0405 h s .badParam)

/-! ### Arrays and stacks -/

/-- ARR_QUIESCE_WRITE, ARRAY_QUIESCED, ARR_COUNT_CLR, ARR_SPARE_WRITE, SPARE_SWAP_DONE, ROTATION_SWAP_DUE and COLUMN_TEST_COMPLETE
(R111-R116, R405, R406): a write of ARR_SPARE begins a swap of a quiesced array, re-steers one that is not quiesced, and is ignored for
any other column. -/
def Obligations.ArrayRowsComplete : Prop :=
  ∀ (s : State) (n : Fin 8), s.dev.live = true →
    (∀ req, s.dev.mayWrite req none = true →
      (∀ v, Runs (.arrQuiesceWrite req n v) s fun d => d.updArray n fun a =>
          { a with
            quiesce := v, quiesced := a.quiesced && (v || a.swap.isSome)
            quiesceSince := if v && !a.quiesce then s.dev.tb.now else a.quiesceSince
            charged := a.charged && !(v && !a.quiesce) })
      ∧ (Runs (.arrCountClr req n) s fun d => d.updArray n fun a =>
          { a with passes := 0, busyCycles := 0, bubbles := 0, idle := 0, tstoreCorr := 0, crucibleCorr := 0, sprueCorr := 0 })
      ∧ (∀ v : Word32, s.dev.arrays[n].spareLocked = false → s.dev.arrays[n].swap = none → s.dev.arrays[n].quiesced = true →
          v.toNat % 128 ≤ 100 →
          (v.toNat % 128 = s.dev.arrays[n].spareCol.toNat + 1 ∨ v.toNat % 128 + 1 = s.dev.arrays[n].spareCol.toNat) →
          Runs (.arrSpareWrite req n v) s fun d => d.hostSwap n (v.toNat % 128))
      ∧ (∀ v : Word32,
          (v.toNat % 128 ≠ s.dev.arrays[n].spareCol.toNat + 1 ∧ v.toNat % 128 + 1 ≠ s.dev.arrays[n].spareCol.toNat)
            ∨ 100 < v.toNat % 128 ∨ s.dev.arrays[n].spareLocked = true
            ∨ (s.dev.arrays[n].swap.isSome = true ∧ s.dev.arrays[n].quiesced = true) →
          Runs (.arrSpareWrite req n v) s fun d =>
            d.logEvent 0x020B .warn n.val (evData [(4, v.toNat), (1, s.dev.arrays[n].spareCol.toNat)]) (srcArray n.val))
      ∧ (∀ v : Word32, s.dev.arrays[n].spareLocked = false → s.dev.arrays[n].quiesced = false →
          v.toNat % 128 ≤ 100 →
          (v.toNat % 128 = s.dev.arrays[n].spareCol.toNat + 1 ∨ v.toNat % 128 + 1 = s.dev.arrays[n].spareCol.toNat) →
          (∀ x ∈ s.dev.allLanes, (s.dev.laneArrays x.2.2.1.val).contains n = false ∨ x.2.2.2.inflight = []) →
          Runs (.arrSpareWrite req n v) s fun d =>
            (d.updArray n fun a =>
              { a with spareCol := BitVec.ofNat 7 (v.toNat % 128), dirDown := dirAt a.dirDown (v.toNat % 128), swap := none, faulted := true }).logEvent
              0x020C .error n.val (evData [(4, v.toNat)]) (srcArray n.val)))
    ∧ (∀ (d : Device) (col : Nat), (d.hostSwap n col).arrays[n].swap = some { target := col, goal := col, lock := false }
        ∧ (d.hostSwap n col).arrays[n].spareCol = d.arrays[n].spareCol
        ∧ ∀ j : Fin 8, j ≠ n → (d.hostSwap n col).arrays[j] = d.arrays[j])
    ∧ (s.dev.arrays[n].quiesce = true → s.dev.arrayEmpty n = true →
        Runs (.arrayQuiesced n) s fun d => (d.updArray n fun a => { a with quiesced := true }).startRotations)
    ∧ (s.dev.arrays[n].quiesce = false ∨ s.dev.arrayEmpty n = false → Idles (.arrayQuiesced n) s)
    ∧ (∀ w, s.dev.arrays[n].swap = some w → w.target = w.goal → Runs (.spareSwapDone n) s fun d =>
        (d.updArray n fun a =>
          { a with spareCol := BitVec.ofNat 7 w.target, dirDown := dirAt a.dirDown w.target, swap := none
                   spareLocked := a.spareLocked || w.lock, quiesced := a.quiesced && a.quiesce }).startRotations)
    ∧ (∀ w, s.dev.arrays[n].swap = some w → w.target ≠ w.goal → Runs (.spareSwapDone n) s fun d =>
        (d.updArray n fun a =>
          { a with spareCol := BitVec.ofNat 7 w.target, dirDown := dirAt a.dirDown w.target
                   swap := some { w with target := towardCol w.target w.goal } }).startRotations)
    ∧ (s.dev.integ.rotEn = false → Idles (.rotationSwapDue n) s)
    ∧ (s.dev.integ.rotEn = true → s.dev.integ.twin = false → s.dev.arrays[n].spareLocked = false → s.dev.arrays[n].faulted = false →
        Runs (.rotationSwapDue n) s fun d =>
          { d with integ := { d.integ with rotDue := d.integ.rotDue ||| (1#8 <<< n.val) } }.startRotations)
    ∧ (∀ d : Device, d.arrayEmpty n = true → d.arrays[n].swap = none → d.arrays[n].spareLocked = false → d.arrays[n].faulted = false →
        (d.startRotation [n]).arrays[n].swap = some
          { target := if d.arrays[n].dirDown then d.arrays[n].spareCol.toNat - 1 else d.arrays[n].spareCol.toNat + 1
            goal := if d.arrays[n].dirDown then d.arrays[n].spareCol.toNat - 1 else d.arrays[n].spareCol.toNat + 1, lock := false })
    ∧ (∀ pass, s.dev.integ.pack = none ∨ s.dev.arrays[n].swap.isSome = true → Idles (.columnTestComplete n pass) s)
    ∧ (s.dev.integ.pack.isSome = true → s.dev.arrays[n].swap = none →
        (Runs (.columnTestComplete n true) s fun d => { d with integ := { d.integ with passes := bump d.integ.passes } })
        ∧ Runs (.columnTestComplete n false) s fun d =>
          ({ d with integ := { d.integ with fails := bump d.integ.fails, rotDue := d.integ.rotDue &&& ~~~(1#8 <<< n.val) } }.updArray n
            fun a => { a with spareLocked := true }).logEvent 0x0806 .warn n.val s.dev.arrays[n].spareCol.toNat srcIntegrity)

/-- STK_QUERY, STK_SCRUB_SET, STK_DIAG_ENTER, STK_DIAG_EXIT, DIAG_ZERO_COMPLETE, EXER_RUN and EXER_COMPLETE (R317-R319): the checker
counts the words that differ from the pattern written, as the decoder in force would deliver them. -/
def Obligations.StackCommandsComplete : Prop :=
  ∀ (s : State) (h : CmdHdr) (stack : BitVec 8) (k : Fin 20), s.dev.live = true → stack.toNat = k.val → s.dev.parityOf (21 + k.val) = false →
    (s.dev.passes 0x0601 h → Answers (.stkQuery h stack) 0x0601 h s (fun d => d) s.dev.mem.hbm[k].queryResult)
    ∧ (∀ v : BitVec 8, s.dev.passes 0x0601 h → 20 ≤ v.toNat → Rejects (.stkQuery h v) 0x0601 h s .badParam)
    ∧ (∀ hours, s.dev.passesAdmin 0x0602 h →
        Answers (.stkScrubSet h stack hours) 0x0602 h s (fun d => d.updStack k fun x =>
          { x with scrubHours := hours, scrubDue := s.dev.tb.now.toNat + scrubPace hours }) 0
        ∧ Answers (.stkScrubSet h 0xFF hours) 0x0602 h s (fun d =>
          (Bank.indices 20).foldl (fun d j => d.setScrub hours j) d) 0)
    ∧ (s.dev.passesAdmin 0x0603 h → s.dev.mem.hbm[k].diag = false →
        (s.dev.stackUsed k = 0 →
          Answers (.stkDiagEnter h stack) 0x0603 h s (fun d => d.updStack k fun x => { x with diag := true }) 0)
        ∧ (s.dev.stackUsed k ≠ 0 → Rejects (.stkDiagEnter h stack) 0x0603 h s .busy))
    ∧ (s.dev.passesAdmin 0x0603 h → s.dev.mem.hbm[k].diag = true → Rejects (.stkDiagEnter h stack) 0x0603 h s .badParam)
    ∧ (s.dev.passesAdmin 0x0604 h → s.dev.mem.hbm[k].diag = true → s.dev.mem.hbm[k].zeroing = none →
        (s.dev.mem.hbm[k].exerBusy = false → Runs (.stkDiagExit h stack) s fun d =>
          (d.openCommand 0x0604 h).updStack k fun x => { x with zeroing := some ⟨h, 0x0604⟩ })
        ∧ (s.dev.mem.hbm[k].exerBusy = true → Rejects (.stkDiagExit h stack) 0x0604 h s .busy))
    ∧ (s.dev.passesAdmin 0x0604 h → s.dev.mem.hbm[k].diag = false → Rejects (.stkDiagExit h stack) 0x0604 h s .badParam)
    ∧ (∀ c, s.dev.mem.hbm[k].zeroing = some c → Runs (.diagZeroComplete k) s fun d =>
        (d.updStack k fun x => { x with zeroing := none, diag := false }).ok c)
    ∧ (s.dev.mem.hbm[k].zeroing = none → Idles (.diagZeroComplete k) s)
    ∧ (∀ pattern mode inject channels seed words, s.dev.passesAdmin 0x0605 h → s.dev.mem.hbm[k].inDiag = true → channels ≠ 0 →
        pattern.toNat ≤ 3 → mode.toNat ≤ 1 → inject.toNat ≤ 4 → (mode = 0 → inject = 0) → words.toNat ≤ 67108864 →
        (∀ x : Fin 32, channels.getLsbD x.val = true → s.dev.mem.hbm[k].exer[x].busy = false) →
        Runs (.exerRun h stack pattern mode inject channels seed words) s fun d =>
          (d.openCommand 0x0605 h).updStack k fun x =>
            { x with
              runs := x.runs ++
                [{ cmd := ⟨h, 0x0605⟩, pattern := pattern.setWidth 2, raw := mode == 1, inject := inject.setWidth 3
                   channels := channels, seed := seed, words := if words = 0 then 67108864 else words.toNat }]
              exer := (maskChannels channels).foldl (fun v c => Bank.upd v c fun e => { e with busy := true }) x.exer })
    ∧ (∀ pattern mode inject channels seed words, s.dev.passesAdmin 0x0605 h → mode = 0 → inject ≠ 0 →
        Rejects (.exerRun h stack pattern mode inject channels seed words) 0x0605 h s .badParam)
    ∧ (∀ run rest, s.dev.mem.hbm[k].runs = run :: rest → run.inject = 0 → Runs (.exerComplete k []) s fun d =>
        (d.updStack k fun x =>
          { x with runs := rest
                   exer := (maskChannels run.channels).foldl (fun v c => Bank.upd v c fun e => e.finish run.words {}) x.exer }).ok
          run.cmd ((maskChannels run.channels).length * run.words))
    ∧ (∀ run rest reads, s.dev.mem.hbm[k].runs = run :: rest → run.lost s.dev.mem.dec reads (maskChannels run.channels) = none →
        sumOf ExerCount.mismatch ((maskChannels run.channels).map fun c => run.count s.dev.mem.dec reads c.val) ≠ 0 →
        Runs (.exerComplete k reads) s fun d =>
          let counts := (maskChannels run.channels).map fun c => (c, run.count s.dev.mem.dec reads c.val)
          ((d.updStack k fun x =>
            { x with runs := rest
                     exer := counts.foldl (fun v c => Bank.upd v c.1 fun e => e.finish run.words c.2) x.exer }).logEvent
            0x0606 .warn k.val 0 (srcStack k.val)).ok run.cmd
            ((maskChannels run.channels).length * run.words
              + 2 ^ 32 * min (sumOf ExerCount.mismatch (counts.map Prod.snd)) (2 ^ 32 - 1)))
    ∧ (∀ (run : ExerRun) dec reads c w, run.lost dec reads (maskChannels run.channels) = some (c, w) →
        run.raw = false ∧ ingotDecode dec (run.readBack reads c w) = .uncorrectable)
    ∧ (s.dev.mem.hbm[k].runs = [] → ∀ rs, Idles (.exerComplete k rs) s)

/-! ### Memory tiers -/

/-- OBJ_CREATE, OBJ_DESTROY, OBJ_PIN, OBJ_SHARE, OBJ_QUERY and OBJ_MAP answer a next state (R273-R275, R279-R281, R297, R298): a command
that passes its checks has its effect and is answered, or joins its object's queue. A destroyed object is gone (R298): an OBJ_DESTROY
that finds no pin, nothing naming the object and an empty queue leaves no object under the ID and forgets its bytes; the bytes outside
its range stay. -/
def Obligations.ObjectCommandsComplete : Prop :=
  (∀ (s : State) (h : CmdHdr) (id : Word32), s.dev.live = true →
       (∀ size home index mask addr hm taken b, s.dev.passes 0x0101 h → homeOf home index mask addr = some hm → id ≠ 0 → id ≠ 0xFFFFFFFF →
           s.dev.obj? id = none → size ≠ 0 → s.dev.takeHome h.account hm size.toNat = .ok taken → s.dev.mem.objects.length < 262144 →
           s.dev.baseFor size.toNat = some b →
           exec (.objCreate h id size home index mask addr) s = .next (s.after
             (((s.dev.fresh.openCommand 0x0101 h).addObj
               { id := id, base := b, size := size.toNat, owner := h.account, home := taken }).ok ⟨h, 0x0101⟩ b)))
       ∧ (∀ size home index mask addr, s.dev.passes 0x0101 h →
           homeOf home index mask addr = none ∨ id = 0 ∨ id = 0xFFFFFFFF ∨ size = 0 ∨ (s.dev.obj? id).isSome = true →
           Rejects (.objCreate h id size home index mask addr) 0x0101 h s .badParam)
       ∧ (∀ size home index mask addr hm, s.dev.passes 0x0101 h → homeOf home index mask addr = some hm → id ≠ 0 → id ≠ 0xFFFFFFFF →
           s.dev.obj? id = none → size ≠ 0 → s.dev.takeHome h.account hm size.toNat = .error .quota →
           Runs (.objCreate h id size home index mask addr) s fun d =>
             ((d.openCommand 0x0101 h).logQuota h.account).finish ⟨h, 0x0101⟩ .quota)
       ∧ (s.dev.passes 0x0102 h → s.dev.obj? id = none → Rejects (.objDestroy h id) 0x0102 h s .badParam)
       ∧ ∀ o, s.dev.obj? id = some o →
           (s.dev.passes 0x0102 h → o.owner = h.account →
             exec (.objDestroy h id) s = .next (s.after
               ((s.dev.fresh.openCommand 0x0102 h).enqueue id ⟨h, 0x0102⟩ .destroy)))
           ∧ (s.dev.passes 0x0102 h → o.owner ≠ h.account → Rejects (.objDestroy h id) 0x0102 h s .notOwner)
           ∧ (∀ unpin, s.dev.passes 0x0104 h → o.hostPins.getLsbD h.account.toNat = unpin → o.readableBy h.account = true →
             exec (.objPin h id unpin) s = .next (s.after
               (((s.dev.fresh.openCommand 0x0104 h).updObj id fun o =>
                 { o with hostPins := o.hostPins ^^^ (1 <<< h.account.toNat) }).ok ⟨h, 0x0104⟩ 0)))
           ∧ (∀ unpin, s.dev.passes 0x0104 h → o.hostPins.getLsbD h.account.toNat ≠ unpin → Rejects (.objPin h id unpin) 0x0104 h s .badParam)
           ∧ (∀ readers, s.dev.passes 0x0105 h → o.owner = h.account →
             exec (.objShare h id readers) s = .next (s.after
               (((s.dev.fresh.openCommand 0x0105 h).updObj id fun o => { o with readers := readers }).ok ⟨h, 0x0105⟩ 0)))
           ∧ (∀ tier : BitVec 8, s.dev.passes 0x0108 h → tier.toNat < 4 → o.readableBy h.account = true →
             exec (.objQuery h id tier) s = .next (s.after
               ((s.dev.fresh.openCommand 0x0108 h).ok ⟨h, 0x0108⟩ (o.queryResult tier.toNat h.account))))
           ∧ (∀ tier : BitVec 8, s.dev.passes 0x0108 h → 4 ≤ tier.toNat → Rejects (.objQuery h id tier) 0x0108 h s .badParam)
           ∧ (∀ unmap, s.dev.passes 0x0109 h → o.owner = h.account →
             exec (.objMap h id unmap) s = .next (s.after
               ((s.dev.fresh.openCommand 0x0109 h).enqueue id ⟨h, 0x0109⟩ (.map unmap)))))
  ∧ (∀ (s : State) (h : CmdHdr) (id : Word32) (o : Obj), s.dev.live = true → s.dev.passes 0x0102 h → s.dev.obj? id = some o →
       o.owner = h.account → o.hardPinned = false → o.stepPins = 0 → s.dev.objectNamed id = false → o.queue = [] →
       ∃ t, exec (.objDestroy h id) s = .next t ∧ t.dev.obj? id = none ∧ (∀ j, j ≠ id → t.dev.obj? j = s.dev.obj? j)
         ∧ t.dev.mem.mem = Cells.erase s.dev.mem.mem o.base o.size
         ∧ ∀ a, (a < o.base ∨ o.base + o.size ≤ a) → t.dev.mem.byteAt a = s.dev.mem.byteAt a)

/-- OBJ_PLACE, MOVE_START, MOVE_PIN_RELEASE and MOVE_PIECE_SWITCH (R277, R282-R284, R288, R298, R339): a piece switches once no unit reads
the object, a move to a home whose link is down ends ST_ABORTED, and the last piece ends the move. -/
def Obligations.MovesComplete : Prop :=
  ∀ (s : State) (id : Word32) (o : Obj), s.dev.live = true → s.dev.obj? id = some o →
    (∀ h nowait target index off len mask t, s.dev.passes 0x0103 h → targetOf o target index mask = some t →
        o.rangeOk t off.toNat len.toNat = true → s.dev.shadowTarget t = false → o.readableBy h.account = true →
        (t = .home → o.owner = h.account) →
        Runs (.objPlace h id nowait target index off len mask) s fun d =>
          (d.openCommand 0x0103 h).enqueue id ⟨h, 0x0103⟩ (.place nowait t off.toNat len.toNat))
    ∧ (∀ h nowait target index off len mask t, s.dev.passesPromised 0x0103 h → targetOf o target index mask = some t →
        o.rangeOk t off.toNat len.toNat = true → s.dev.shadowTarget t = false → o.readableBy h.account = true →
        (t = .home → o.owner = h.account) →
        Runs (.objPlace h id nowait target index off len mask) s fun d =>
          let r := (d.openCommand 0x0103 h).admitMove ⟨h, 0x0103⟩ o t off.toNat len.toNat
          if r.2 then r.1.enqueue id ⟨h, 0x0103⟩ (.place nowait t off.toNat len.toNat) else r.1)
    ∧ (∀ h nowait target index off len mask, s.dev.passes 0x0103 h → targetOf o target index mask = none →
        Rejects (.objPlace h id nowait target index off len mask) 0x0103 h s .badParam)
    ∧ (o.queue = [] → Idles (.moveStart id) s ∧ Idles (.movePinRelease id) s ∧ ∀ errs, Idles (.movePieceSwitch id errs) s)
    ∧ ∀ q r nowait t off len, o.queue = q :: r → q.op = .place nowait t off len →
        (q.state = .fresh → 0 < s.dev.foreignPins o q.cmd → nowait = true →
          Runs (.moveStart id) s fun d => d.endMove o q.cmd (o.engine t off len) .busy)
        ∧ (q.state = .fresh → 0 < s.dev.foreignPins o q.cmd → nowait = false →
          Runs (.moveStart id) s fun d => d.updObj id (·.setHead (.move .pinWait 0 [])))
        ∧ (∀ parts, s.dev.foreignPins o q.cmd = 0 → o.rangeOk t off len = true → o.hardPinned = false → s.dev.moveCharge o t off len = true →
          s.dev.space o t off len = some parts → s.dev.movesOn (o.engine t off len) < 64 →
          s.dev.engineHeld q.cmd (o.engine t off len) = false → s.dev.sec.hold = false → (∀ p a, o.home ≠ .t3 p a) →
          (q.state = .fresh → Runs (.moveStart id) s fun d => d.updObj id (·.setHead (.move .moving 0 parts)))
          ∧ ∀ k ps, q.state = .move .pinWait k ps →
            Runs (.movePinRelease id) s fun d => d.updObj id (·.setHead (.move .moving 0 parts)))
        ∧ (s.dev.foreignPins o q.cmd = 0 → o.rangeOk t off len = true → o.hardPinned = true →
          (q.state = .fresh → Runs (.moveStart id) s fun d => d.endMove o q.cmd (o.engine t off len) .busy)
          ∧ ∀ k ps, q.state = .move .pinWait k ps → Runs (.movePinRelease id) s fun d =>
            d.endMove o q.cmd (o.engine t off len) .busy)
        ∧ (∀ k ps, q.state = .move .pinWait k ps → 0 < s.dev.foreignPins o q.cmd → Idles (.movePinRelease id) s)
        ∧ ∀ k parts errs, q.state = .move .moving k parts →
          (s.dev.objReads id = true ∨ s.dev.sec.hold = true → Idles (.movePieceSwitch id errs) s)
          ∧ (s.dev.objReads id = false → s.dev.sec.hold = false →
            let p := o.pieceSize t off len
            (s.dev.homeBarred o t (off + k * p) (min p (len - k * p)) = true →
              Runs (.movePieceSwitch id errs) s fun d => d.abortMove o q.cmd t off len)
            ∧ (s.dev.homeBarred o t (off + k * p) (min p (len - k * p)) = false →
              Runs (.movePieceSwitch id errs) s fun d => d.consume errs fun d =>
                d.pieceSwitched o q.cmd t off len k parts q.heldWrites))
          ∧ ∀ (d : Device) held,
            (len ≤ (k + 1) * o.pieceSize t off len → d.pieceSwitched o q.cmd t off len k parts held =
              ((d.switchPiece o t off len k parts held).updObj o.id fun x =>
                { x with extents := o.extentsAfter t off len parts }).endMove o q.cmd (o.engine t off len) .ok (o.bytesMoved t off len))
            ∧ ((k + 1) * o.pieceSize t off len < len → t = .home →
              d.pieceSwitched o q.cmd t off len k parts held = d.switchPiece o t off len k parts held)

/-- OBJ_WRITE, HELD_WRITE_APPLY and OBJ_READ (R180, R240, R297): a valid transfer joins the queue of its object, one that covers a frozen
range is refused, and a held write goes on. -/
def Obligations.TransfersComplete : Prop :=
  ∀ (s : State) (h : CmdHdr) (id : Word32) (o : Obj), s.dev.live = true → s.dev.obj? id = some o →
    (∀ nowait convert off len host, s.dev.passes 0x0106 h → o.xferOk convert off.toNat len.toNat = true → o.owner = h.account →
        (s.dev.coversFrozen { object := id, lo := off.toNat, hi := off.toNat + len.toNat } = true →
          Rejects (.objWrite h id nowait convert off len host) 0x0106 h s .frozen)
        ∧ (s.dev.coversFrozen { object := id, lo := off.toNat, hi := off.toNat + len.toNat } = false → s.dev.coversPool id = false →
          (nowait = true → s.dev.writeWaits { object := id, lo := off.toNat, hi := off.toNat + len.toNat } = [] ∧ s.dev.writeIdle id = []) →
          Runs (.objWrite h id nowait convert off len host) s fun d =>
            (d.openCommand 0x0106 h).enqueue id ⟨h, 0x0106⟩
              (.write nowait (convert == 1) off.toNat len.toNat host
                (s.dev.writeWaits { object := id, lo := off.toNat, hi := off.toNat + len.toNat }) (s.dev.writeIdle id))))
    ∧ (∀ nowait convert off len host, s.dev.passes 0x0106 h → o.xferOk convert off.toNat len.toNat = true → o.owner ≠ h.account →
        Rejects (.objWrite h id nowait convert off len host) 0x0106 h s .notOwner)
    ∧ (∀ q r nowait conv off len host waits idle data, o.queue = q :: r → q.op = .write nowait conv off len host waits idle →
        q.state = .held data → Runs (.heldWriteApply id) s fun d =>
          (d.writeHead o q.cmd conv off len waits idle data).runQueue id)
    ∧ (o.queue = [] → Idles (.heldWriteApply id) s)
    ∧ (∀ convert off len host errs, s.dev.passes 0x0107 h → o.xferOk convert off.toNat len.toNat = true → o.readableBy h.account = true →
        Runs (.objRead h id convert off len host errs) s fun d =>
          (d.openCommand 0x0107 h).enqueue id ⟨h, 0x0107⟩ (.read (convert == 1) off.toNat len.toNat host errs))
    ∧ (∀ convert off len host errs, s.dev.passes 0x0107 h → o.xferOk convert off.toNat len.toNat = true → o.readableBy h.account = false →
        Rejects (.objRead h id convert off len host errs) 0x0107 h s .notOwner)

/-- QUOTA_SET, QUOTA_QUERY, MEM_ARB_SET, STREAM_DATA_ARRIVE, HRT_PART_WRITE, APERTURE_READ, APERTURE_WRITE and BAR4_RESIZE (R280, R281,
R287, R289-R291, R297, R498, R500, R501). ARB_WINDOW (R291): in a window of 512 ticks a stack serves at most its bandwidth, and every byte
asked for is served or still waits, some of it at the limit of outstanding reads (R293). A late stream is counted, its event raised once a
step and array and later occurrences folded (R290). -/
def Obligations.QuotaAndApertureRowsComplete : Prop :=
  (∀ s : State, s.dev.live = true →
       (∀ h account tier array limit, s.dev.passesAdmin 0x010A h → quotaFields account tier array = true →
           limit.toNat ≤ quotaMax tier.toNat →
           Answers (.quotaSet h account tier array limit) 0x010A h s (fun d => d.updMem fun m =>
             { m with quotas := Bank.upd m.quotas (clampFin 63 account.toNat) fun q => q.put tier.toNat array.toNat limit }) 0)
       ∧ (∀ h account tier array limit, s.dev.passesAdmin 0x010A h →
           quotaFields account tier array = false ∨ quotaMax tier.toNat < limit.toNat →
           Rejects (.quotaSet h account tier array limit) 0x010A h s .badParam)
       ∧ (∀ h account tier array, s.dev.passes 0x010B h → quotaFields account tier array = true →
           account.toNat = h.account.toNat ∨ s.dev.admin.port = h.port →
           Answers (.quotaQuery h account tier array) 0x010B h s (fun d => d)
             ((s.dev.mem.quotas[clampFin 63 account.toNat].get tier.toNat array.toNat).toNat
               + 2 ^ 32 * s.dev.used (account.setWidth 6) tier.toNat array.toNat))
       ∧ (∀ h r w m, s.dev.passesAdmin 0x010C h → r.toNat + w.toNat + m.toNat ≤ 90 →
           (s.dev.adm.promises = [] → Answers (.memArbSet h r w m) 0x010C h s
             (fun d => d.updMem fun t => { t with floors := { read := r, write := w, remote := m } }) 0)
           ∧ (s.dev.adm.promises ≠ [] → Rejects (.memArbSet h r w m) 0x010C h s .busy))
       ∧ (∀ n, Idles (.streamDataArrive n 0 0) s)
       ∧ (∀ n late stall, 0 < late ∨ 0 < stall → s.dev.stepOnArray n = none ∨ s.dev.arrays[n].lateLogged ≠ s.dev.stepOnArray n →
           Runs (.streamDataArrive n late stall) s fun d =>
             ((d.updHearth n fun x => { x with late := bump x.late, stall := satAdd x.stall stall }).updArray n fun a =>
               { a with lateLogged := s.dev.stepOnArray n }).logEvent 0x0101 .info n.val (evData [(8, late)]) (srcHearth n.val))
       ∧ (∀ n late stall, 0 < late ∨ 0 < stall → (s.dev.stepOnArray n).isSome = true → s.dev.arrays[n].lateLogged = s.dev.stepOnArray n →
           Runs (.streamDataArrive n late stall) s fun d =>
             (d.updHearth n fun x => { x with late := bump x.late, stall := satAdd x.stall stall }).repeatEvent 0x0101 .info n.val
               (srcHearth n.val))
       ∧ (∀ req n v, s.dev.mayWrite req none = true →
           (s.dev.blockedParts n (v.extractLsb' 0 10 &&& ~~~systemMask n) = 0 → Runs (.hrtPartWrite req n v) s fun d =>
             d.updHearth n fun x =>
               { x with cache := v.extractLsb' 0 10 &&& ~~~systemMask n
                        lines := x.lines.filter fun l => (v.extractLsb' 0 10 &&& ~~~systemMask n).getLsbD l.1.val })
           ∧ ∀ b, s.dev.blockedParts n (v.extractLsb' 0 10 &&& ~~~systemMask n) = b → b ≠ 0 → Runs (.hrtPartWrite req n v) s fun d =>
             (d.updHearth n fun x =>
               { x with cache := v.extractLsb' 0 10 &&& ~~~systemMask n &&& ~~~b
                        lines := x.lines.filter fun l => (v.extractLsb' 0 10 &&& ~~~systemMask n &&& ~~~b).getLsbD l.1.val }).logEvent 0x0102
               .warn n.val 0 (srcHearth n.val))
       ∧ (∀ p off len errs, s.dev.linkUp p = true →
           (∀ o a, s.dev.mappedAt p off.toNat len = some (o, a) → Runs (.apertureRead p off len errs) s fun d =>
             d.consume errs fun d => d.emit (.apertureData p (d.objBytes o a len)))
           ∧ (s.dev.mappedAt p off.toNat len = none → Runs (.apertureRead p off len errs) s fun d => d.emit (.apertureAbort p)))
       ∧ (∀ p off bs, s.dev.linkUp p = true →
           (∀ o a, s.dev.mappedAt p off.toNat bs.length = some (o, a) → s.dev.objectNamed o.id = false →
             Runs (.apertureWrite p off bs) s fun d => d.objStore o.id a bs)
           ∧ (∀ o a, s.dev.mappedAt p off.toNat bs.length = some (o, a) → s.dev.objectNamed o.id = true →
             Runs (.apertureWrite p off bs) s fun d => d.logEvent 0x0103 .warn p.val 0 (srcIntake p))
           ∧ (s.dev.mappedAt p off.toNat bs.length = none → Runs (.apertureWrite p off bs) s fun d =>
             (d.emit (.aerCompleterAbort p)).logEvent 0x0103 .warn p.val 0 (srcIntake p)))
       ∧ (∀ p n, n.toNat < 30 ∨ 40 < n.toNat → Idles (.bar4Resize p n) s)
       ∧ ∀ p n, 30 ≤ n.toNat → n.toNat ≤ 40 → s.dev.ports[p].mappings = [] →
           Runs (.bar4Resize p n) s fun d => d.updPort p fun q => { q with bar4Log2 := n })
  ∧ (∀ (s : State) (k : Fin 20) (reqs : List MemRequest), s.dev.live = true →
       s.dev.mem.floors.read.toNat + s.dev.mem.floors.write.toNat + s.dev.mem.floors.remote.toNat ≤ 90 →
       (∀ x ∈ s.dev.mem.hbm[k].requests ++ s.dev.mem.hbm[k].stalled ++ reqs, x.cls.isSome = true ∧ x.requester ≠ scrubRequester) →
       ∃ t, exec (.arbWindow k reqs) s = .next t ∧ sumOf Prod.snd t.dev.mem.hbm[k].served ≤ 838860
         ∧ sumOf MemRequest.bytes t.dev.mem.hbm[k].requests + sumOf MemRequest.bytes t.dev.mem.hbm[k].stalled
             + sumOf Prod.snd t.dev.mem.hbm[k].served + s.dev.mem.hbm[k].scrubServed
           = sumOf MemRequest.bytes s.dev.mem.hbm[k].requests + sumOf MemRequest.bytes s.dev.mem.hbm[k].stalled
             + sumOf MemRequest.bytes reqs + t.dev.mem.hbm[k].scrubServed
         ∧ t.dev.mem.mem = s.dev.mem.mem ∧ t.dev.mem.objects = s.dev.mem.objects
         ∧ ∀ j : Fin 20, j ≠ k → t.dev.mem.hbm[j] = s.dev.mem.hbm[j])

/-! ### Intake, session and firmware -/

/-- PACKET_CONSUME (R323-R330): what the host posted stands in the window; the packet at the read offset is consumed once its header and
mark stand and the reply ring has room, a header whose LENGTH no packet can have stalls the port, and a full reply ring holds the packet,
as does a command dispatched before whose data is still being read (log entry 163). -/
def Obligations.PacketConsumeCompletes : Prop :=
  ∀ (s : State) (p : Fin 2) (posted : List (Word16 × Byte)), s.dev.live = true →
    let q := s.dev.ports[p].post posted
    let hdr := q.ringBytes q.readOffset.toNat 32
    let n := fieldAt hdr 0 2
    let bs := q.ringBytes q.readOffset.toNat n
    (s.dev.linkUp p = false → Idles (.packetConsume p posted) s)
    ∧ (s.dev.linkUp p = true → (q.enabled && !q.faulted && !q.stalled && !q.clearing) = false →
        Runs (.packetConsume p posted) s fun d => d.updPort p fun x => x.post posted)
    ∧ (s.dev.linkUp p = true → q.enabled = true → q.faulted = false → q.stalled = false → q.clearing = false →
        ((fieldAt hdr 6 1).testBit 0 ≠ q.expectPhase → Runs (.packetConsume p posted) s fun d => d.updPort p fun x => x.post posted)
        ∧ (s.dev.dispatchWaits = true → Runs (.packetConsume p posted) s fun d => d.updPort p fun x => x.post posted)
        ∧ ((fieldAt hdr 6 1).testBit 0 = q.expectPhase → s.dev.dispatchWaits = false →
          (lengthOk n = true → q.markStands bs = false → Runs (.packetConsume p posted) s fun d => d.updPort p fun x => x.post posted)
          ∧ (lengthOk n = true → q.markStands bs = true → s.dev.replyRoom p = false → Runs (.packetConsume p posted) s fun d =>
            d.updPort p fun x => x.post posted)
          ∧ (lengthOk n = true → q.markStands bs = true → s.dev.replyRoom p = true → Runs (.packetConsume p posted) s fun d =>
            (d.updPort p fun x => (x.post posted).consume n).dispatchPacket p bs)
          ∧ (lengthOk n = false → s.dev.replyRoom p = true → Runs (.packetConsume p posted) s fun d =>
            (d.updPort p fun x => x.post posted).stallPort p hdr)))

/-- REPLY_COALESCE_TIMER, INT_ENABLE_WRITE, RING_RESET, RING_RESET_DONE, INT_COUNT_CLR, INT_REPLY_BASE_WRITE, INT_REPLY_CFG_WRITE,
INT_REPLY_HEAD_WRITE, INTAKE_QUIESCED and ADM_COUNT_CLR (R323, R330, R331, R349-R351, R473). -/
def Obligations.IntakeRegisterRowsComplete : Prop :=
  ∀ (s : State) (p : Fin 2), s.dev.live = true →
    (∀ since, s.dev.ports[p].coalesceUs ≠ 0 → s.dev.ports[p].coalesceSince = some since → Runs (.replyCoalesceTimer p) s fun d =>
        (d.updPort p fun q => { q with coalesced := 0, coalesceSince := none }).msix p s.dev.ports[p].vector)
    ∧ (s.dev.ports[p].coalesceUs = 0 ∨ s.dev.ports[p].coalesceSince = none → Idles (.replyCoalesceTimer p) s)
    ∧ (∀ req, s.dev.mayWrite req (some p) = true →
        (s.dev.outstanding p = 0 → Runs (.intEnableWrite req p false) s fun d => d.updPort p fun q =>
          { q with enabled := false, enablePending := false, quiesced := true })
        ∧ (s.dev.outstanding p ≠ 0 → Runs (.intEnableWrite req p false) s fun d => d.updPort p fun q =>
          { q with enabled := false, enablePending := false })
        ∧ (s.dev.sec.ready = false → Idles (.intEnableWrite req p true) s)
        ∧ (s.dev.sec.ready = true → s.dev.ports[p].clearing = false → Runs (.intEnableWrite req p true) s fun d =>
          d.updPort p fun q => { q with enabled := true, enablePending := false, quiesced := false })
        ∧ (s.dev.sec.ready = true → s.dev.ports[p].clearing = true → Runs (.intEnableWrite req p true) s fun d =>
          d.updPort p fun q => { q with enablePending := true })
        ∧ (s.dev.ports[p].enabled = true → Runs (.ringReset req p) s fun d => d.logEvent 0x0006 .warn p.val 0 (srcIntake p))
        ∧ (s.dev.ports[p].enabled = false → s.dev.ports[p].enablePending = false → Runs (.ringReset req p) s fun d =>
          d.updPort p fun q => { q with readOffset := 0, consumed := 0, expectPhase := true, stalled := false, clearing := true })
        ∧ (Runs (.intCountClr req p) s fun d => d.updPort p fun q => { q with countDuplicates := 0, countPackets := 0 })
        ∧ (∀ v, s.dev.ports[p].quiesced = true → Runs (.intReplyBaseWrite req p .full v) s fun d =>
          (d.setWriteShadow req none).updPort p fun q => { q with replyBase := v &&& 0xFFFFFFFFFFFFF000 })
        ∧ (∀ v, s.dev.ports[p].quiesced = false → Runs (.intReplyBaseWrite req p .full v) s fun d =>
          ((d.setWriteShadow req none).updPort p fun q => { q with replyBase := v &&& 0xFFFFFFFFFFFFF000, faulted := true }).logEvent 0x0005 .error p.val
            0 (srcIntake p))
        ∧ (∀ v, Runs (.intReplyBaseWrite req p .hi v) s fun d =>
          d.setWriteShadow req (some { reg := offIntake p + 0x18, value := lowHalf v }))
        ∧ (∀ v, s.dev.ports[p].quiesced = true ∨ v.extractLsb' 11 5 = s.dev.ports[p].sizeLog2 → Runs (.intReplyCfgWrite req p v) s fun d =>
          d.updPort p fun q =>
            { q with vector := v.extractLsb' 24 8, coalesceN := v.extractLsb' 16 8, sizeLog2 := v.extractLsb' 11 5
                     coalesceUs := v.extractLsb' 0 11 })
        ∧ (∀ v, s.dev.ports[p].quiesced = false → v.extractLsb' 11 5 ≠ s.dev.ports[p].sizeLog2 →
          Runs (.intReplyCfgWrite req p v) s fun d =>
          (d.updPort p fun q =>
            { q with vector := v.extractLsb' 24 8, coalesceN := v.extractLsb' 16 8, sizeLog2 := v.extractLsb' 11 5
                     coalesceUs := v.extractLsb' 0 11, faulted := true }).logEvent 0x0005 .error p.val 0 (srcIntake p))
        ∧ (∀ v, Runs (.intReplyHeadWrite req p v) s fun d => d.updPort p fun q => { q with head := v }))
    ∧ (s.dev.ports[p].clearing = false → Idles (.ringResetDone p) s)
    ∧ (s.dev.ports[p].clearing = true → s.dev.ports[p].enablePending = false → Runs (.ringResetDone p) s fun d =>
        d.updPort p fun q => { q with window := [], clearing := false })
    ∧ (s.dev.ports[p].clearing = true → s.dev.ports[p].enablePending = true → Runs (.ringResetDone p) s fun d =>
        d.updPort p fun q => { q with window := [], clearing := false, enabled := true, enablePending := false, quiesced := false })
    ∧ (s.dev.ports[p].enabled = false → s.dev.outstanding p = 0 → Runs (.intakeQuiesced p) s fun d =>
        d.updPort p fun q => { q with quiesced := true })
    ∧ (s.dev.ports[p].enabled = true ∨ s.dev.outstanding p ≠ 0 → Idles (.intakeQuiesced p) s)
    ∧ ∀ req, s.dev.mayWrite req none = true → Runs (.admCountClr req) s fun d =>
        { d with adm := { d.adm with
            accepted := 0, refused := 0, kept := 0, broken := 0, lateMax := 0, causes := Vector.replicate 10 0 } }

/-- IDENTIFY, GET_STATE, NOP, ADMIN_HANDOVER, ADMIN_ADOPT, FW_LOAD, FW_START and RESET answer a next state: each command that passes
its checks has its effect and is answered (R344-R346, R352, R475, R476, R505). What a firmware image must be to run (R476): every check
from 2 on passes exactly when the image has the magic, the format, a legal size and entry, a version not rolled back, and both
signatures. -/
def Obligations.SessionCommandsComplete : Prop :=
  (∀ (s : State) (h : CmdHdr), s.dev.live = true →
       (s.dev.passes 0x0001 h → exec (.identify h) s = .next (s.after
         ((s.dev.fresh.openCommand 0x0001 h).ok ⟨h, 0x0001⟩ (s.dev.identity h.port))))
       ∧ (s.dev.passes 0x0002 h → exec (.getState h) s = .next (s.after ((s.dev.fresh.openCommand 0x0002 h).ok ⟨h, 0x0002⟩ s.dev.stateWord)))
       ∧ (s.dev.passes 0x0003 h → exec (.nop h) s = .next (s.after ((s.dev.fresh.openCommand 0x0003 h).ok ⟨h, 0x0003⟩ s.dev.tb.now.toNat)))
       ∧ (s.dev.passesAdmin 0x0008 h → s.dev.linkUp (otherPort h.port) = true →
           exec (.adminHandover h) s = .next (s.after
             (({ s.dev.fresh.openCommand 0x0008 h with
                 admin := { port := otherPort h.port, changes := bump s.dev.admin.changes, lastByAdopt := false } }.logEvent 0x0007 .info
               (otherPort h.port).val 0 (srcIntake (otherPort h.port))).ok ⟨h, 0x0008⟩ 0)))
       ∧ (s.dev.passesAdmin 0x0008 h → s.dev.linkUp (otherPort h.port) = false → Rejects (.adminHandover h) 0x0008 h s .busy)
       ∧ (s.dev.passes 0x0009 h → s.dev.admin.port ≠ h.port → s.dev.linkUp s.dev.admin.port = false →
           1000000000 < (s.dev.tb.now - s.dev.ports[s.dev.admin.port].downSince).toNat →
           exec (.adminAdopt h) s = .next (s.after
             (({ s.dev.fresh.openCommand 0x0009 h with
                 admin := { port := h.port, changes := bump s.dev.admin.changes, lastByAdopt := true } }.logEvent 0x0007 .info h.port.val 0
               (srcIntake h.port)).ok ⟨h, 0x0009⟩ 0)))
       ∧ (s.dev.passes 0x0009 h → s.dev.admin.port ≠ h.port → s.dev.linkUp s.dev.admin.port = true →
           Rejects (.adminAdopt h) 0x0009 h s .busy)
       ∧ (s.dev.passes 0x0009 h → s.dev.admin.port = h.port → Rejects (.adminAdopt h) 0x0009 h s .badParam)
       ∧ (∀ addr off len total, s.dev.passes 0x0010 h → s.dev.chunkOk off.toNat len.toNat total.toNat = true → s.dev.sec.state ≠ .running →
           s.dev.linkUp h.port = true →
           exec (.fwLoad h addr off len total) s = .next (s.after
             ({ s.dev.fresh.openCommand 0x0010 h with
                sec := { s.dev.sec with state := .loading, imageLength := some total.toNat } }.dmaIssue h.port addr len.toNat
               (.fwChunk off.toNat) ⟨h, 0x0010⟩)))
       ∧ (∀ addr off len total, s.dev.passes 0x0010 h → s.dev.chunkOk off.toNat len.toNat total.toNat = true → s.dev.sec.state = .running →
           Rejects (.fwLoad h addr off len total) 0x0010 h s .busy)
       ∧ (∀ addr off len total, s.dev.passes 0x0010 h → s.dev.chunkOk off.toNat len.toNat total.toNat = false →
           Rejects (.fwLoad h addr off len total) 0x0010 h s .badParam)
       ∧ (∀ total : Word32, s.dev.passes 0x0011 h → s.dev.sec.state ≠ .running → s.dev.sec.imageLength = some total.toNat →
           s.dev.sec.image.length = total.toNat →
           exec (.fwStart h total) s = .next (s.after
             (match s.dev.imageFault (s.dev.sec.image.map Prod.snd) with
             | none =>
               (((s.dev.fresh.openCommand 0x0011 h).runImage (s.dev.sec.image.map Prod.snd)).logEvent 0x0B01 .info 0
                 (fieldAt (s.dev.sec.image.map Prod.snd) 8 4) srcSecurity).ok ⟨h, 0x0011⟩ 0
             | some k =>
               ({ s.dev.fresh.openCommand 0x0011 h with
                 sec := { s.dev.sec with state := .bootRom, image := [], imageLength := none } }.logEvent 0x0B02 .warn 0 k
                 srcSecurity).finish ⟨h, 0x0011⟩ .authFail)))
       ∧ (∀ total, s.dev.passes 0x0011 h → s.dev.sec.state = .running → s.dev.sec.imageLength = some total.toNat →
           s.dev.sec.image.length = total.toNat → Rejects (.fwStart h total) 0x0011 h s .busy)
       ∧ (∀ total, s.dev.passes 0x0011 h → s.dev.sec.image.length ≠ total.toNat → Rejects (.fwStart h total) 0x0011 h s .badParam)
       ∧ (s.dev.passesAdmin 0x0018 h → exec (.reset h 0) s = .next (s.after
           (let d := (s.dev.fresh.openCommand 0x0018 h).ok ⟨h, 0x0018⟩
            (d.opens.foldl (fun d o => d.finish o .reset) d).resetTo 2)))
       ∧ (∀ kind, s.dev.passesAdmin 0x0018 h → kind ≠ 0 → Rejects (.reset h kind) 0x0018 h s .badParam))
  ∧ (∀ (d : Device) (img : List Byte),
       let code := fieldAt img 16 4
       d.imageFault img = none ↔
         fieldAt img 0 4 = 0x5A384657 ∧ fieldAt img 4 4 = 8 ∧ (∀ b ∈ (img.drop 20).take 44, b = 0)
         ∧ img.length = 64 + code + 384 + 16224 ∧ fieldAt img 12 4 % 4 = 0 ∧ 64 ≤ fieldAt img 12 4 ∧ fieldAt img 12 4 ≤ 60 + code
         ∧ fieldAt img 8 4 ≤ 64 ∧ d.seed.svn ≤ fieldAt img 8 4
         ∧ Config.verifyFirst (img.take (64 + code)) ((img.drop (64 + code)).take 384) = true
         ∧ Config.verifySecond (img.take (64 + code)) ((img.drop (64 + code + 384)).take 16224) = true)

/-! ### Octing fabric and job -/

/-- FRAME_RECEIVE (R355-R358, R362): on a port that is down nothing arrives; a bad FCS is counted, and answered with a LINK_NAK on a
DIRECT port; a frame of another EtherType or another job is discarded and counted; a DIRECT port takes frames in LSN order; a delivered
frame that is out of hops is dropped, one for another rank is forwarded, and one for this device is taken by its type. -/
def Obligations.FrameReceiveCompletes : Prop :=
  (∀ (s : State) (p : Fin 8) (f : Frame) (lockstep : Bool), s.dev.live = true →
       (∀ ok, s.dev.fab.ports[p].up = false → Idles (.frameReceive p f ok lockstep) s)
       ∧ (s.dev.fab.ports[p].up = true → s.dev.fab.ports[p].mode ≠ .direct → Runs (.frameReceive p f false lockstep) s fun d =>
           d.updFab fun x => { x with dropped := bump x.dropped })
       ∧ (s.dev.fab.ports[p].up = true → s.dev.fab.ports[p].mode = .direct → Runs (.frameReceive p f false lockstep) s fun d =>
           (d.updFab fun x => { x with dropped := bump x.dropped }).emitLink p .linkNak false)
       ∧ (s.dev.fab.ports[p].up = true → f.ethertype ≠ s.dev.fab.ports[p].ethertype ∨ s.dev.joined = false ∨ f.jobTag ≠ s.dev.fab.jobTag →
           Runs (.frameReceive p f true lockstep) s fun d => d.updFab fun x => { x with dropped := bump x.dropped })
       ∧ (s.dev.fab.ports[p].up = true → f.ethertype = s.dev.fab.ports[p].ethertype → s.dev.joined = true → f.jobTag = s.dev.fab.jobTag →
           (f.version ≠ 1 → Idles (.frameReceive p f true lockstep) s)
           ∧ (f.version = 1 → s.dev.fab.ports[p].mode ≠ .direct →
             Runs (.frameReceive p f true lockstep) s fun d => d.routeFrame p f lockstep)
           ∧ (f.version = 1 → s.dev.fab.ports[p].mode = .direct →
             Runs (.frameReceive p f true lockstep) s fun d => d.linkFrame p f lockstep)))
  ∧ (∀ (d : Device) (p : Fin 8) (f : Frame) (lockstep : Bool),
       (d.fab.ports[p].mode = .direct → d.fab.ports[p].replay = [] → f.type ≠ .linkAck → f.type ≠ .linkNak →
         (f.lsn = d.fab.ports[p].rxLsn → d.linkFrame p f lockstep
             = (d.updOct p fun q => { q with rxLsn := q.rxLsn + 1, ackDue := true }).routeFrame p f lockstep)
         ∧ (f.lsn ≠ d.fab.ports[p].rxLsn → (f.lsn - d.fab.ports[p].rxLsn).toNat < 32768 →
           d.linkFrame p f lockstep = d.emitLink p .linkNak false)
         ∧ (f.lsn ≠ d.fab.ports[p].rxLsn → 32768 ≤ (f.lsn - d.fab.ports[p].rxLsn).toNat → d.linkFrame p f lockstep = d))
       ∧ (f.hopsLeft = 0 → d.routeFrame p f lockstep = d.updFab fun x => { x with dropped := bump x.dropped })
       ∧ (f.hopsLeft ≠ 0 → f.dst ≠ d.fab.rank → d.routeFrame p f lockstep
           = d.sendFrame (f.pcp == d.fab.ports[p].ctrlPcp) { f with hopsLeft := f.hopsLeft - 1 })
       ∧ (f.hopsLeft ≠ 0 → f.dst = d.fab.rank →
         (f.type = .ack → d.routeFrame p f lockstep = d.ackReceive f.src f.msgId f.msgLength.toNat)
         ∧ (f.type = .heartbeat → d.routeFrame p f lockstep = d.decoded p.val f.payload fun bs d => d.takeHeartbeat f.src bs)
         ∧ (f.type = .data ∨ f.type = .control ∨ f.type = .pull ∨ f.type = .prune → d.routeFrame p f lockstep = d.acceptFrame p f lockstep)
         ∧ (∀ n, f.type = .reserved n → d.routeFrame p f lockstep = d)))

/-- LINK_ACK_RECEIVE, LINK_NAK_RECEIVE, LINK_ACK_TIMER, LINK_REPLAY_TIMER, LINK_ABANDON_TIMER, OCT_PORT_DOWN, OCT_PORT_UP,
PFC_FRAME_RECEIVE, ACK_RECEIVE and E2E_TIMEOUT (R354, R358, R361-R363, R365): the replay, abandon and end-to-end timers act once their
ticks have passed, and an ACK carries the grant of its sender (log entry 102). -/
def Obligations.LinkRowsComplete : Prop :=
  ∀ (s : State) (p : Fin 8), s.dev.live = true →
    (∀ lsn, s.dev.fab.ports[p].mode = .direct → Runs (.linkAckReceive p lsn) s fun d => d.updOct p fun q => q.release d.tb.now lsn)
    ∧ (∀ lsn, s.dev.fab.ports[p].mode ≠ .direct → Idles (.linkAckReceive p lsn) s)
    ∧ (∀ lsn, s.dev.fab.ports[p].mode = .direct → Runs (.linkNakReceive p lsn true) s fun d => d.updOct p fun q => { q with rxLsn := 0 })
    ∧ (∀ lsn, s.dev.fab.ports[p].mode = .direct → Runs (.linkNakReceive p lsn false) s fun d =>
        (d.updOct p fun q => q.release d.tb.now (lsn - 1)).replayFrom p lsn)
    ∧ (s.dev.fab.ports[p].mode = .direct → s.dev.fab.ports[p].ackDue = true → Runs (.linkAckTimer p) s fun d =>
        (d.updOct p fun q => { q with ackDue := false }).emitLink p .linkAck false)
    ∧ (s.dev.fab.ports[p].ackDue = false → Idles (.linkAckTimer p) s)
    ∧ (∀ f r, s.dev.fab.ports[p].mode = .direct → s.dev.fab.ports[p].replay = f :: r →
        (1000 ≤ s.dev.ticksSince s.dev.fab.ports[p].progress → Runs (.linkReplayTimer p) s fun d => d.replayFrom p f.frame.lsn)
        ∧ (s.dev.ticksSince s.dev.fab.ports[p].progress < 1000 → Idles (.linkReplayTimer p) s)
        ∧ (8000 ≤ s.dev.ticksSince f.firstSent → Runs (.linkAbandonTimer p) s fun d =>
          ((d.updOct p fun q => { q with abandoned := satAdd q.abandoned q.replay.length, replay := [], txLsn := 0 }).emitLink p .linkNak
            true).logEvent 0x0702 .info p.val 0 (srcOct p.val))
        ∧ (s.dev.ticksSince f.firstSent < 8000 → Idles (.linkAbandonTimer p) s))
    ∧ (s.dev.fab.ports[p].replay = [] → Idles (.linkReplayTimer p) s ∧ Idles (.linkAbandonTimer p) s)
    ∧ (s.dev.fab.ports[p].aligned = true → Runs (.octPortDown p) s fun d =>
        (((d.updOct p fun q => { q with aligned := false, retrains := bump q.retrains }).logEvent 0x0701 .warn p.val 0 (srcOct p.val)).emit
          (.octRetrain p)).flushPort p)
    ∧ (s.dev.fab.ports[p].aligned = false → Idles (.octPortDown p) s)
    ∧ (s.dev.fab.ports[p].mode ≠ .off → Runs (.octPortUp p) s fun d => (d.updOct p fun q => { q with aligned := true }).flushAll)
    ∧ (s.dev.fab.ports[p].mode = .off → Idles (.octPortUp p) s)
    ∧ (s.dev.fab.ports[p].mode = .switched →
        (Runs (.pfcFrameReceive p true true) s fun d => d.updOct p fun q => { q with pausedCtrl := true })
        ∧ (Runs (.pfcFrameReceive p false true) s fun d => d.updOct p fun q => { q with pausedData := true })
        ∧ (Runs (.pfcFrameReceive p true false) s fun d => (d.updOct p fun q => { q with pausedCtrl := false }).flushPort p)
        ∧ Runs (.pfcFrameReceive p false false) s fun d => (d.updOct p fun q => { q with pausedData := false }).flushPort p)
    ∧ (∀ c b, s.dev.fab.ports[p].mode ≠ .switched → Idles (.pfcFrameReceive p c b) s)
    ∧ ∀ r id (c : Word32),
        (s.dev.fab.out.find? (fun m => m.dst == r && m.msgId == id && m.tries != 0) = none →
          Idles (.e2eTimeout r id) s
          ∧ Runs (.ackReceive r id c) s fun d => (d.updFab fun f => f.updPeer r fun x => { x with credit := some c.toNat }).sendWaiting)
        ∧ ∀ m, s.dev.fab.out.find? (fun m => m.dst == r && m.msgId == id && m.tries != 0) = some m →
          (∀ n, m.kind = .control n → Runs (.ackReceive r id c) s fun d =>
            (d.updFab fun f => { f.updPeer r fun x => { x with credit := some c.toNat } with
              out := f.out.filter fun x => !(x.dst == r && x.msgId == id) }).sendWaiting)
          ∧ (∀ k n b, m.kind = .hop (Fin.val (n := 16) k) n b → Runs (.ackReceive r id c) s fun d =>
            (((d.updFab fun f => { f.updPeer r fun x => { x with credit := some c.toNat } with
              out := f.out.filter fun x => !(x.dst == r && x.msgId == id) }).updStep k n
              (updBucket b fun x => { x with unacked := x.unacked - 1 })).bucketCheck k n b).sendWaiting)
          ∧ (s.dev.ticksSince m.lastSent < 1000 * s.dev.fab.e2eUs → Idles (.e2eTimeout r id) s)
          ∧ (1000 * s.dev.fab.e2eUs ≤ s.dev.ticksSince m.lastSent → m.tries < s.dev.fab.maxTries → Runs (.e2eTimeout r id) s fun d =>
            ((d.updFab fun f =>
              { f with
                out := updFirst (fun x => x.dst == r && x.msgId == id) (fun _ => { m with tries := m.tries + 1, lastSent := d.tb.now }) f.out
                retransmits := bump f.retransmits }).logEvent 0x0703 .info 0 0
              srcJob).sendFrames { m with tries := m.tries + 1, lastSent := d.tb.now })
          ∧ (1000 * s.dev.fab.e2eUs ≤ s.dev.ticksSince m.lastSent → s.dev.fab.maxTries ≤ m.tries → Runs (.e2eTimeout r id) s fun d =>
            (d.updFab fun f => { f with out := f.out.filter fun x => !(x.dst == r && x.msgId == id) }).loseRank r.toNat d.fab.rank.toNat)

/-- HEARTBEAT_TIMER, HEARTBEAT_RECEIVE, HEARTBEAT_TIMEOUT, MANAGER_SILENCE_TIMEOUT, LOSS_NOTICE_RECEIVE, RESUME_READY_RECEIVE,
RESUME_RELEASE_RECEIVE, BARRIER_ENTRY_RECEIVE, BARRIER_RELEASE_RECEIVE, MCAST_LAG_TIMEOUT, PRUNE_RECEIVE and PULL_RECEIVE on a running
device that is a member of a job (R367-R375, R379, R380), and on one that is a member of none, where every one of them changes nothing
but MCAST_LAG_TIMEOUT, whose multicasts a membership has. What a top manager does on the first heartbeat of a domain manager in HOLD is
the model's (log entry 167), and so are the record that stands for a refused resume (log entry 38) and the layout of a PULL (log entry
17). -/
def Obligations.JobRowsComplete : Prop :=
  (∀ s : State, s.dev.live = true → s.dev.fab.job = .none →
    Idles .heartbeatTimer s ∧ (∀ src st o t1 t2 t3, Idles (.heartbeatReceive src st o t1 t2 t3) s) ∧ (∀ r, Idles (.heartbeatTimeout r) s)
    ∧ Idles .managerSilenceTimeout s ∧ (∀ src r, Idles (.lossNoticeReceive src r) s) ∧ (∀ r n, Idles (.resumeReadyReceive r n) s)
    ∧ (∀ id scope src g, Idles (.barrierEntryReceive id scope src g) s)
    ∧ (∀ id scope g tick, Idles (.barrierReleaseReceive id scope g tick) s)
    ∧ (∀ src tensor v first count, Idles (.pruneReceive src tensor v first count) s)
    ∧ ∀ src tensor v first count, Idles (.pullReceive src tensor v first count) s)
  ∧ ∀ s : State, s.dev.live = true → s.dev.fab.job ≠ .none →
    exec .heartbeatTimer s = .next (s.after (s.dev.fab.beatTargets.foldl (fun d r => d.sendHeartbeat r) s.dev.fresh))
    ∧ (∀ src st o t1 t2 t3, (s.dev.fab.peer src).lost = true → st ≠ .joining → Idles (.heartbeatReceive src st o t1 t2 t3) s)
    ∧ (∀ src st o t1 t2 t3, (s.dev.fab.peer src).lost = false ∨ st = .joining → s.dev.fab.joinedIntoHold src st = false →
        s.dev.fab.manager ≠ some src.toNat → exec (.heartbeatReceive src st o t1 t2 t3) s = .next (s.after
          (s.dev.fresh.updFab fun f => f.hear src (st == .joining) s.dev.tb.now t1 s.dev.jobTime)))
    ∧ (∀ src st o t1 t2 t3, (s.dev.fab.peer src).lost = false → s.dev.fab.joinedIntoHold src st = true →
        exec (.heartbeatReceive src st o t1 t2 t3) s = .next (s.after
          ((s.dev.fresh.updFab fun f => f.hear src false s.dev.tb.now t1 s.dev.jobTime).enterHold s.dev.fab.rank.toNat)))
    ∧ (∀ src st o t1 t3, (s.dev.fab.peer src).lost = false → s.dev.fab.isTop = false → s.dev.fab.manager = some src.toNat →
        (st ≠ .hold ∨ s.dev.fab.job ≠ .active → exec (.heartbeatReceive src st o t1 0 t3) s = .next (s.after
          (s.dev.fresh.updFab fun f =>
            { f.hear src (st == .joining) s.dev.tb.now t1 s.dev.jobTime with lastManagerBeat := s.dev.tb.now })))
        ∧ (st = .hold → s.dev.fab.job = .active → exec (.heartbeatReceive src st o t1 0 t3) s = .next (s.after
          ((s.dev.fresh.updFab fun f =>
            { f.hear src false s.dev.tb.now t1 s.dev.jobTime with lastManagerBeat := s.dev.tb.now }).enterHold src.toNat)))
        ∧ ∀ t2, t2 ≠ 0 → st ≠ .hold → exec (.heartbeatReceive src st o t1 t2 t3) s = .next (s.after
          ((s.dev.fresh.updFab fun f =>
            { f.hear src (st == .joining) s.dev.tb.now t1 s.dev.jobTime with lastManagerBeat := s.dev.tb.now }).exchange t1 t2 t3)))
    ∧ (∀ r t, r.toNat ∈ s.dev.fab.supervised → (s.dev.fab.peer r).lastHeartbeat = some t →
        (300000 ≤ s.dev.ticksSince t → exec (.heartbeatTimeout r) s = .next (s.after
          (s.dev.fresh.loseRank r.toNat s.dev.fab.rank.toNat)))
        ∧ (s.dev.ticksSince t < 300000 → Idles (.heartbeatTimeout r) s))
    ∧ (∀ r, r.toNat ∉ s.dev.fab.supervised ∨ (s.dev.fab.peer r).lastHeartbeat = none → Idles (.heartbeatTimeout r) s)
    ∧ (∀ m, s.dev.fab.manager = some m →
        (s.dev.fab.job = .active ∨ s.dev.fab.job = .resuming → 300000 ≤ s.dev.ticksSince s.dev.fab.lastManagerBeat →
          exec .managerSilenceTimeout s = .next (s.after (s.dev.fresh.enterHold m)))
        ∧ (s.dev.fab.job = .joining ∨ s.dev.fab.job = .hold ∨ s.dev.ticksSince s.dev.fab.lastManagerBeat < 300000 →
          Idles .managerSilenceTimeout s))
    ∧ (s.dev.fab.manager = none → Idles .managerSilenceTimeout s)
    ∧ (∀ src r, exec (.lossNoticeReceive src r) s = .next (s.after (s.dev.fresh.loseRank r.toNat src.toNat)))
    ∧ (∀ r n, (s.dev.fab.isTop = true → exec (.resumeReadyReceive r n) s = .next (s.after
          (s.dev.fresh.updFab fun f => f.updPeer r fun p => { p with ready := some n }).checkResume))
        ∧ (∀ t, s.dev.fab.isTop = false → s.dev.fab.isDomainManager = true → s.dev.fab.topManager = some t →
          exec (.resumeReadyReceive r n) s = .next (s.after
            (s.dev.fresh.sendRecord t .ready (bytesOf 2 r.toNat ++ bytesOf 4 n.toNat))))
        ∧ (s.dev.fab.isTop = false → s.dev.fab.isDomainManager = false → Idles (.resumeReadyReceive r n) s))
    ∧ (∀ tick c n, s.dev.fab.job = .resuming → s.dev.fab.isDomainManager = false → s.dev.fab.resume = some (c, n) →
        (tick ≠ resumeRefused → exec (.resumeReleaseReceive tick) s = .next (s.after
          (((s.dev.fresh.updFab fun f => { f.clearReady.clearLost with resume := none, job := .active }).ok c tick.toNat).logEvent 0x0705
            .info 0 0 srcJob)))
        ∧ exec (.resumeReleaseReceive resumeRefused) s = .next (s.after
          ((s.dev.fresh.updFab fun f => { f.clearReady with resume := none, job := .hold }).finish c .badParam)))
    ∧ (∀ tick, s.dev.fab.job ≠ .resuming → s.dev.fab.isDomainManager = false → tick ≠ resumeRefused →
        exec (.resumeReleaseReceive tick) s = .next (s.after (s.dev.fresh.updFab fun f => f.clearReady.clearLost)))
    ∧ (∀ id scope src g, s.dev.fab.job = .hold → Idles (.barrierEntryReceive id scope src g) s)
    ∧ (∀ id scope src g, s.dev.fab.job ≠ .hold →
        (s.dev.memberLevel src.toNat = true → exec (.barrierEntryReceive id scope src g) s = .next (s.after
          (s.dev.fresh.barrierMember id scope g.toNat src.toNat)))
        ∧ (s.dev.memberLevel src.toNat = false → s.dev.fab.isTop = true → scope ≠ 1 →
          exec (.barrierEntryReceive id scope src g) s = .next (s.after
            (s.dev.fresh.barrierDomain id scope (if scope = 2 then g.toNat else 0) (s.dev.fab.domainOf src.toNat))))
        ∧ (s.dev.memberLevel src.toNat = false → s.dev.fab.isTop = false ∨ scope = 1 → Idles (.barrierEntryReceive id scope src g) s))
    ∧ (∀ id scope g tick, s.dev.fab.isDomainManager = false →
        (∀ b, s.dev.fab.barriers.find? (s.dev.fab.released id scope g.toNat) = some b →
          exec (.barrierReleaseReceive id scope g tick) s = .next (s.after
            ((s.dev.fresh.updFab fun f => { f with barriers := f.barriers.filter fun x => x.id != id }).ok b.cmd tick.toNat)))
        ∧ (s.dev.fab.barriers.find? (s.dev.fab.released id scope g.toNat) = none → Idles (.barrierReleaseReceive id scope g tick) s))
    ∧ (∀ n r m a, s.dev.fab.mcasts[n]? = some m → (s.dev.fab.progress m).receivers.find? (fun x => x.1 == r && !x.2.2) = some (r, a, false) →
        (s.dev.lagsBy (s.dev.fab.progress m) r a = true → (∃ x ∈ (s.dev.fab.progress m).receivers, x.1 ≠ r ∧ a < x.2.1) →
          exec (.mcastLagTimeout n r) s = .next (s.after (s.dev.fresh.prune (s.dev.fab.progress m) r a)))
        ∧ (s.dev.lagsBy (s.dev.fab.progress m) r a = false ∨ (∀ x ∈ (s.dev.fab.progress m).receivers, x.1 = r ∨ x.2.1 ≤ a) →
          Idles (.mcastLagTimeout n r) s))
    ∧ (∀ src tensor v first count, s.dev.fab.job = .hold →
        Idles (.pruneReceive src tensor v first count) s ∧ Idles (.pullReceive src tensor v first count) s)
    ∧ (∀ src tensor v first count k p, s.dev.fab.job ≠ .hold → s.dev.releaserOf tensor = some (k, p) →
        exec (.pruneReceive src tensor v first count) s = .next (s.after
          ((s.dev.fresh.updFab fun f => f.updPeer src fun x => { x with prunedIn := some (k.val, v.toNat - 1) }).sendMsg src.toNat .pull
            (rangeFields tensor v.toNat first count) (s.dev.stepLate k (v.toNat - 1)) false .pull)))
    ∧ (∀ src tensor v first count k p ord st, s.dev.fab.job ≠ .hold → s.dev.releaserOf tensor = some (k, p) →
        p.ordinalOf tensor = some ord → p.version tensor = v.toNat → first + count ≤ (p.released ord).elems →
        p.stepAt (v.toNat - 1) = some st →
        let bs := (s.dev.readWeights st tensor first count).flatMap fun w => bytesOf 2 (w32ToZ16 .rne w).1.toNat
        exec (.pullReceive src tensor v first count) s = .next (s.after
          ((s.dev.fresh.updFab fun f => { f with pulled := satAdd f.pulled (ceilDiv bs.length 1024) }).sendMsg src.toNat
            (.mcast k.val (v.toNat - 1) ord first) (rangeHeader tensor.toNat v.toNat first ++ bs) (s.dev.stepLate k (v.toNat - 1)) false)))
    ∧ ∀ src tensor v first count, s.dev.releaserOf tensor = none → Idles (.pullReceive src tensor v first count) s

/-- JOB_JOIN, JOB_LEAVE, FAB_PORT_SET, FAB_QUERY, FAB_TIMEOUT_SET, FAB_BARRIER, JOB_RESUME, MCAST_SET, FAB_PEER_QUERY and OCT_COUNT_CLR
(R188, R237, R358, R373-R376, R381, R383). -/
def Obligations.FabricCommandsComplete : Prop :=
  ∀ (s : State) (h : CmdHdr), s.dev.live = true →
    (∀ job rank table off count o bs t, s.dev.passesAdmin 0x0301 h → s.dev.obj? table = some o →
        o.t3Segments off.toNat (8 * count.toNat) = [] → s.dev.tableBytes table off.toNat (8 * count.toNat) = some bs →
        membersOf bs = some t → count ≠ 0 → count.toNat ≤ 16384 → rank.toNat < count.toNat → s.dev.mayRead table h.account = true →
        (s.dev.fab.job ≠ .none → Rejects (.jobJoin h job rank table off count) 0x0301 h s .busy)
        ∧ (s.dev.fab.job = .none → Runs (.jobJoin h job rank table off count) s fun d =>
          let d := (d.openCommand 0x0301 h).joinJob job rank.toNat t
          d.ok ⟨h, 0x0301⟩ (d.fab.groupSize + 2 ^ 16 * d.fab.flatIndex + 2 ^ 32 * d.fab.myGroup)))
    ∧ (∀ job, s.dev.passesAdmin 0x0302 h →
        (s.dev.fab.job ≠ .none → s.dev.fab.jobId = job → s.dev.anyRunning = false →
          Answers (.jobLeave h job) 0x0302 h s (fun d => d.leaveJob) 0)
        ∧ (s.dev.fab.job ≠ .none → s.dev.fab.jobId = job → s.dev.anyRunning = true → Rejects (.jobLeave h job) 0x0302 h s .busy)
        ∧ (s.dev.fab.job = .none ∨ s.dev.fab.jobId ≠ job → Rejects (.jobLeave h job) 0x0302 h s .badParam))
    ∧ (∀ (port mode pcps : BitVec 8) mac vlan ethertype routes off count (p : Fin 8) m, s.dev.passesAdmin 0x0701 h → port.toNat = p.val →
        octModeOf mode.toNat = some m → pcps &&& 0x88 = 0 → pcps.extractLsb' 0 3 ≠ pcps.extractLsb' 4 3 → vlan.toNat ≤ 0xFFF →
        (s.dev.anyRunning = false →
          Answers (.fabPortSet h 0 port mode pcps mac vlan ethertype routes off count) 0x0701 h s (fun d =>
            (d.updOct p fun q => q.configure m pcps mac (vlan.extractLsb' 0 12) ethertype).flushPort p) 0)
        ∧ (s.dev.anyRunning = true → Rejects (.fabPortSet h 0 port mode pcps mac vlan ethertype routes off count) 0x0701 h s .busy))
    ∧ (∀ kind port mode pcps mac vlan ethertype routes off count, s.dev.passesAdmin 0x0701 h → kind.toNat ≥ 2 →
        Rejects (.fabPortSet h kind port mode pcps mac vlan ethertype routes off count) 0x0701 h s .badParam)
    ∧ (∀ (port : BitVec 8) (p : Fin 8), s.dev.passes 0x0702 h → port.toNat = p.val →
        Answers (.fabQuery h port) 0x0702 h s (fun d => d) s.dev.fab.ports[p].queryResult)
    ∧ (∀ e2e tries transit, s.dev.passesAdmin 0x0703 h → 200 ≤ e2e.toNat → e2e.toNat ≤ 100000 → tries ≠ 0 → transit ≠ 0 →
        (s.dev.anyRunning = false → Answers (.fabTimeoutSet h e2e tries transit) 0x0703 h s (fun d =>
          d.updFab fun f => { f with e2eUs := e2e.toNat, maxTries := tries.toNat, transitUs := transit.toNat }) 0)
        ∧ (s.dev.anyRunning = true → Rejects (.fabTimeoutSet h e2e tries transit) 0x0703 h s .busy))
    ∧ (∀ e2e tries transit, s.dev.passesAdmin 0x0703 h → e2e.toNat < 200 ∨ 100000 < e2e.toNat ∨ tries = 0 ∨ transit = 0 →
        Rejects (.fabTimeoutSet h e2e tries transit) 0x0703 h s .badParam)
    ∧ (∀ id scope m, s.dev.passes 0x0704 h → scope.toNat ≤ 2 → s.dev.fab.job = .active →
        (∀ b ∈ s.dev.fab.barriers, b.id ≠ id) → s.dev.fab.barriers.length < 16 → s.dev.fab.isDomainManager = false →
        s.dev.fab.domainManager s.dev.fab.myDomain = some m → Runs (.fabBarrier h id scope) s fun d =>
          ((d.openCommand 0x0704 h).updFab fun f =>
            { f with barriers := f.barriers ++ [{ id := id, scope := scope.extractLsb' 0 2, cmd := ⟨h, 0x0704⟩ }] }).sendRecord m
            .barrierEntry (bytesOf 4 id.toNat ++ bytesOf 1 (scope.extractLsb' 0 2).toNat ++ bytesOf 2 s.dev.fab.myGroup))
    ∧ (∀ id scope, s.dev.passes 0x0704 h → scope.toNat ≤ 2 → s.dev.fab.job ≠ .active → Rejects (.fabBarrier h id scope) 0x0704 h s .busy)
    ∧ (∀ job n m, s.dev.passesAdmin 0x0705 h → s.dev.fab.job = .hold → s.dev.fab.jobId = job → s.dev.fab.isTop = false →
        s.dev.fab.manager = some m → Runs (.jobResume h job n) s fun d =>
          ((d.openCommand 0x0705 h).updFab fun f => { f with job := .resuming, resume := some (⟨h, 0x0705⟩, n) }).sendRecord m .ready
            (bytesOf 2 s.dev.fab.rank.toNat ++ bytesOf 4 n.toNat))
    ∧ (∀ job n, s.dev.passesAdmin 0x0705 h → s.dev.fab.job ≠ .hold → Rejects (.jobResume h job n) 0x0705 h s .badParam)
    ∧ (∀ (prog : BitVec 8) lag window a b c e f g i j o m n (k : Fin 16) p, s.dev.passes 0x0706 h → prog.toNat = k.val →
        s.dev.progs[k] = some p → p.account = h.account → 1 ≤ lag.toNat → lag.toNat ≤ 10000 → 64 ≤ window.toNat → window.toNat ≤ 65536 →
        (p.state ≠ .running → Answers (.mcastSet h prog 0 lag window a b c e f g i j o m n) 0x0706 h s (fun d =>
          d.updFab fun x => x.updFabProgram k.val fun y => { y with lagUs := lag.toNat, windowKib := window.toNat }) 0)
        ∧ (p.state = .running → Rejects (.mcastSet h prog 0 lag window a b c e f g i j o m n) 0x0706 h s .busy))
    ∧ (∀ rank t, s.dev.passes 0x0707 h → rank.toNat ≤ 16383 → (s.dev.fab.peer (rank.extractLsb' 0 14)).lastHeartbeat = some t →
        s.dev.prunedBy (s.dev.fab.peer (rank.extractLsb' 0 14)) = false →
        Answers (.fabPeerQuery h rank) 0x0707 h s (fun d => d)
          ((s.dev.fab.peer (rank.extractLsb' 0 14)).standing + 2 ^ 16 * min 65535 ((s.dev.tb.now - t).toNat / 100000)))
    ∧ ∀ req, s.dev.mayWrite req none = true → Runs (.octCountClr req) s fun d => d.updFab fun f =>
        { f with
          retransmits := 0, duplicates := 0, prunes := 0, pulled := 0, dropped := 0, corr := 0
          ports := f.ports.map fun q => { q with abandoned := 0, replays := 0, retrains := 0 } }

/-! ### Integrity -/

/-- TWIN_UNIT_COMPARE, ASSAY_COMPLETE and REPLAY_COMPARE (R385, R386, R389, R390, R393): a unit whose pass digests agree commits; a pair
that differs retries, then is assayed, then repaired or quarantined; a replay whose result digests agree is counted, one that differs is
decided by two assays. HALLMARK_REPORT_RECEIVE, HALLMARK_VERDICT_RECEIVE, WA_SEGMENT_RUN, WA_SEGMENT_ABANDON, QUARANTINE_WRITE,
INTEG_COUNT_CLR and ROT_PERIOD_WRITE (R399, R400, R407, R408, R412, R413). -/
def Obligations.IntegrityRowsComplete : Prop :=
  (∀ (s : State) (p : Fin 4), s.dev.live = true →
       (∀ a b, s.dev.integ.twin = false ∨ s.dev.twinUnit p = none → Idles (.twinUnitCompare p a b) s)
       ∧ (∀ u a b, s.dev.integ.twin = true → s.dev.twinUnit p = some u →
           passDigests (s.dev.unitAt u) a = passDigests (s.dev.unitAt u) b →
           (s.dev.integ.pairs[p] = .run → Runs (.twinUnitCompare p a b) s fun d => d.commitUnit u)
           ∧ (s.dev.integ.pairs[p] = .retry → Runs (.twinUnitCompare p a b) s fun d =>
               ((d.commitUnit u).setPair p .run).updInteg fun i => { i with retryEqual := bump i.retryEqual })
           ∧ (s.dev.integ.pairs[p] = .retry2 → Runs (.twinUnitCompare p a b) s fun d => (d.commitUnit u).setPair p .run))
       ∧ (∀ u a b, s.dev.integ.twin = true → s.dev.twinUnit p = some u →
           passDigests (s.dev.unitAt u) a ≠ passDigests (s.dev.unitAt u) b →
           (s.dev.integ.pairs[p] = .run → Runs (.twinUnitCompare p a b) s fun d =>
               ((d.setPair p .retry).updInteg fun i => { i with twinMismatches := bump i.twinMismatches }).logEvent 0x0801 .warn p.val 0
                 srcIntegrity)
           ∧ (s.dev.integ.pairs[p] = .retry → Runs (.twinUnitCompare p a b) s fun d =>
               (d.setPair p .assay).updInteg fun i => { i with escalations := bump i.escalations })
           ∧ (s.dev.integ.pairs[p] = .retry2 → Runs (.twinUnitCompare p a b) s fun d => d.escalate p [primaryOf p, shadowOf p]))
       ∧ (∀ a b, s.dev.integ.pairs[p] = .assay ∨ s.dev.integ.pairs[p] = .quarantined → Idles (.twinUnitCompare p a b) s)
       ∧ (∀ a b, s.dev.integ.pairs[p] ≠ .assay → Idles (.assayComplete p a b) s)
       ∧ (∀ a b, s.dev.integ.pairs[p] = .assay → s.dev.integ.pack = none → Runs (.assayComplete p a b) s fun d =>
           d.escalate p [primaryOf p, shadowOf p])
       ∧ (∀ c : BitVec 7, s.dev.integ.pairs[p] = .assay → s.dev.integ.pack.isSome = true → s.dev.arrays[primaryOf p].spareLocked = false →
           Runs (.assayComplete p (.column c) .pass) s fun d =>
             ((d.updInteg fun i => { i with fails := bump i.fails, passes := bump i.passes }).steerTo (primaryOf p) c.toNat).setPair p .retry2)
       ∧ (∀ c : BitVec 7, s.dev.integ.pairs[p] = .assay → s.dev.integ.pack.isSome = true → s.dev.arrays[shadowOf p].spareLocked = false →
           Runs (.assayComplete p .pass (.column c)) s fun d =>
             ((d.updInteg fun i => { i with passes := bump i.passes, fails := bump i.fails }).steerTo (shadowOf p) c.toNat).setPair p .retry2)
       ∧ (s.dev.integ.pairs[p] = .assay → s.dev.integ.pack.isSome = true → Runs (.assayComplete p .pass .notLocalised) s fun d =>
           (d.updInteg fun i => { i with passes := bump i.passes, fails := bump i.fails }).escalate p [shadowOf p])
       ∧ (∀ n x y a b t, s.dev.integ.replays[n]? = none → Idles (.replayCompare n x y a b t) s)
       ∧ (∀ n r x y a b (t : Word32), s.dev.integ.replays[n]? = some r →
           (s.dev.replayDone r = false → Idles (.replayCompare n x y a b t) s)
           ∧ (s.dev.replayDone r = true → digest (upsetTerms r.terms x) = digest (upsetTerms r.terms y) →
             Runs (.replayCompare n x y a b t) s fun d =>
               (d.updInteg fun t => { t with replays := t.replays.eraseIdx n, replayed := bump t.replayed }).addDelay .integrityRetry t.toNat
                 fun p => p.names r.array.val || p.names (r.array.val ^^^ 1))
           ∧ (s.dev.replayDone r = true → digest (upsetTerms r.terms x) ≠ digest (upsetTerms r.terms y) →
             Runs (.replayCompare n x y a b t) s fun d =>
               ((d.updInteg fun t => { t with replays := t.replays.eraseIdx n, replayed := bump t.replayed }).addDelay .integrityRetry t.toNat
                 fun p => p.names r.array.val || p.names (r.array.val ^^^ 1)).replayDiffers r a b)))
  ∧ (∀ s : State, s.dev.live = true →
       (∀ g r v k x, s.dev.fab.isTop = true → Runs (.hallmarkReportReceive g r v k x) s fun d =>
           { d with integ := { d.integ with
               reports := (d.integ.reports.filter fun y : HallmarkReport => !(y.group == g.toNat && y.version == v.toNat && y.rank == r)) ++
                 [({ group := g.toNat, rank := r, version := v.toNat, k := k.toNat, value := x } : HallmarkReport)] } }.decideHallmark g.toNat v.toNat)
       ∧ (∀ g r v k x t, s.dev.fab.isTop = false → s.dev.fab.topManager = some t → s.dev.fab.isDomainManager = true →
           Runs (.hallmarkReportReceive g r v k x) s fun d => d.sendRecord t .hallmarkReport
             (bytesOf 2 g.toNat ++ bytesOf 2 r.toNat ++ bytesOf 4 v.toNat ++ bytesOf 2 k.toNat ++ bytesOf 16 x.toNat))
       ∧ (∀ v x, s.dev.fab.job = .none ∨ s.dev.fab.job = .hold → Idles (.hallmarkVerdictReceive v x) s)
       ∧ (∀ v, s.dev.fab.job ≠ .none → s.dev.fab.job ≠ .hold → s.dev.jobProgram = none → s.dev.integ.hmVersion = v →
           Runs (.hallmarkVerdictReceive v 0) s fun d => { d with integ := { d.integ with hmAgreed := true } })
       ∧ (∀ v, s.dev.fab.job ≠ .none → s.dev.fab.job ≠ .hold → s.dev.jobProgram = none → s.dev.integ.hmVersion = v →
           Runs (.hallmarkVerdictReceive v 1) s fun d =>
             (({ d with integ := { d.integ with hmAgreed := false } }.logEvent 0x0805 .error 0 (evData [(4, v.toNat)])
               srcIntegrity).haltAll .expelled).loseRank s.dev.fab.rank.toNat s.dev.fab.rank.toNat)
       ∧ (∀ n res, s.dev.integ.pack = none → Idles (.waSegmentRun n res) s)
       ∧ (∀ n r, s.dev.integ.pack.isSome = true → s.dev.integ.atOnce.find? (fun x => x.array == n) = some r →
           (Runs (.waSegmentRun n none) s fun d => d.updInteg fun i =>
             { i with atOnce := updFirst (fun x => x.array == n) (fun _ => { r with segments := r.segments + 1, active := true }) i.atOnce })
           ∧ ∀ res, Runs (.waSegmentRun n (some res)) s fun d => d.endRun { r with segments := r.segments + 1, active := true } res)
       ∧ (∀ n r, s.dev.integ.pack.isSome = true → s.dev.integ.atOnce.find? (fun x => x.array == n) = none → s.dev.idleSlot n = true →
           s.dev.integ.run = some r → r.array = n → s.dev.integ.waEn = true ∨ r.cmd.isSome = true →
           (Runs (.waSegmentRun n none) s fun d => d.updInteg fun i =>
             { i with run := some { r with segments := r.segments + 1, active := true } })
           ∧ ∀ res, Runs (.waSegmentRun n (some res)) s fun d => d.endRun { r with segments := r.segments + 1, active := true } res)
       ∧ (∀ n r rest, s.dev.integ.pack.isSome = true → s.dev.integ.atOnce.find? (fun x => x.array == n) = none → s.dev.idleSlot n = true →
           s.dev.integ.run = none → s.dev.integ.asked = r :: rest → r.array = n → r.cmd.isSome = true →
           Runs (.waSegmentRun n none) s fun d => d.updInteg fun i =>
             { i with run := some { r with segments := r.segments + 1, active := true }, asked := rest })
       ∧ (Runs .waSegmentAbandon s fun d =>
           (d.updInteg fun i => { i with run := i.run.map fun r => { r with active := false } }).startRotations)
       ∧ ∀ req, s.dev.mayWrite req none = true →
           (∀ mask, mask &&& ~~~s.dev.integ.quarantine = 0 → Runs (.quarantineWrite req mask) s fun d =>
             d.updInteg fun i => { i with quarantine := i.quarantine &&& mask })
           ∧ (∀ n : Fin 8, s.dev.integ.quarantine.getLsbD n.val = false →
             Runs (.quarantineWrite req (s.dev.integ.quarantine ||| (1#8 <<< n.val))) s fun d =>
               (((d.updInteg fun i => { i with quarantine := i.quarantine ||| (1#8 <<< n.val) }).dropAssays n).logEvent 0x0808 .error n.val 0
                 srcIntegrity).faultBound n)
           ∧ (Runs (.integCountClr req) s fun d => d.updInteg fun i =>
             { i with
               twinMismatches := 0, retryEqual := 0, escalations := 0, replayed := 0, replayMismatches := 0, sourceFaults := 0
               passes := 0, fails := 0 })
           ∧ ∀ v : Word32, s.dev.adm.promises = [] → Runs (.rotPeriodWrite req v) s fun d =>
             d.updInteg fun i => { i with rotPeriod := v.extractLsb' 0 20 })

/-- TWIN_SET, REPLAY_SET, HALLMARK_SET, ASSAY_LOAD, ASSAY_RUN, REPAIR_COMMIT and INTEG_QUERY (R387, R404, R407, R409-R411). -/
def Obligations.IntegrityCommandsComplete : Prop :=
  ∀ (s : State) (h : CmdHdr), s.dev.live = true →
    (∀ en : BitVec 8, s.dev.passesAdmin 0x0801 h → en.toNat ≤ 1 →
        (s.dev.twinFree (en == 1) = true → Answers (.twinSet h en) 0x0801 h s (fun d => d.updInteg fun i =>
          { i with twin := en == 1, pairs := Vector.replicate 4 .run }) 0)
        ∧ (s.dev.twinFree (en == 1) = false → Rejects (.twinSet h en) 0x0801 h s .busy))
    ∧ (∀ en : BitVec 8, s.dev.passesAdmin 0x0801 h → 1 < en.toNat → Rejects (.twinSet h en) 0x0801 h s .badParam)
    ∧ (∀ (prog : BitVec 8) (k : Fin 16) p, prog.toNat = k.val → s.dev.progs[k] = some p → p.account = h.account →
        (∀ q, s.dev.passes 0x0802 h → q.toNat ≤ 1024 →
          (p.state ≠ .running →
            Answers (.replaySet h prog q) 0x0802 h s (fun d => d.updProg k fun p => { p with replayQ := q.toNat }) 0)
          ∧ (p.state = .running → Rejects (.replaySet h prog q) 0x0802 h s .busy))
        ∧ (∀ q, s.dev.passes 0x0802 h → 1024 < q.toNat → Rejects (.replaySet h prog q) 0x0802 h s .badParam)
        ∧ (∀ v, s.dev.passes 0x0803 h → p.state ≠ .running →
          Answers (.hallmarkSet h prog v) 0x0803 h s (fun d => d.updProg k fun p => { p with hallmarkK := v.toNat }) 0)
        ∧ (∀ v, s.dev.passes 0x0803 h → p.state = .running → Rejects (.hallmarkSet h prog v) 0x0803 h s .busy)
        ∧ ∀ (array : BitVec 8) (n : Fin 8), s.dev.passes 0x0807 h → array.toNat = n.val →
          Answers (.integQuery h array prog) 0x0807 h s (fun d => d) (s.dev.integWord n p.replayQ p.hallmarkK))
    ∧ (∀ (array : BitVec 8) (n : Fin 8), s.dev.passes 0x0807 h → array.toNat = n.val →
        Answers (.integQuery h array 0xFF) 0x0807 h s (fun d => d) (s.dev.integWord n 0 0))
    ∧ (∀ addr len, s.dev.passesAdmin 0x0804 h → len.toNat % 8 = 0 → 16672 ≤ len.toNat → len.toNat ≤ 16777216 →
        (s.dev.integ.running = true → Rejects (.assayLoad h addr len) 0x0804 h s .busy)
        ∧ (s.dev.integ.running = false → s.dev.linkUp h.port = true → Runs (.assayLoad h addr len) s fun d =>
          (d.openCommand 0x0804 h).dmaIssue h.port addr len.toNat .assay ⟨h, 0x0804⟩))
    ∧ (∀ addr len, s.dev.passesAdmin 0x0804 h → len.toNat % 8 ≠ 0 ∨ len.toNat < 16672 ∨ 16777216 < len.toNat →
        Rejects (.assayLoad h addr len) 0x0804 h s .badParam)
    ∧ (∀ (array : BitVec 8) (n : Fin 8), s.dev.passes 0x0805 h → array.toNat = n.val → s.dev.integ.pack.isSome = true →
        (s.dev.integ.quarantine.getLsbD n.val = true → Rejects (.assayRun h array 0) 0x0805 h s .busy)
        ∧ (s.dev.integ.quarantine.getLsbD n.val = false →
          (Runs (.assayRun h array 0) s fun d => (d.openCommand 0x0805 h).updInteg fun i =>
            { i with asked := i.asked ++ [{ array := n, cmd := some ⟨h, 0x0805⟩ }] })
          ∧ (s.dev.arrays[n].quiesced = true → Runs (.assayRun h array 1) s fun d => (d.openCommand 0x0805 h).updInteg fun i =>
            { i with atOnce := i.atOnce ++ [{ array := n, cmd := some ⟨h, 0x0805⟩ }] })
          ∧ (s.dev.arrays[n].quiesced = false → Rejects (.assayRun h array 1) 0x0805 h s .busy)))
    ∧ (∀ (array : BitVec 8), s.dev.passes 0x0805 h → array.toNat < 8 → s.dev.integ.pack = none →
        Rejects (.assayRun h array 0) 0x0805 h s .badParam)
    ∧ (∀ (array col : BitVec 8) (n : Fin 8), s.dev.passesAdmin 0x0806 h → array.toNat = n.val →
        (col.toNat ≤ 100 ∨ col = 0x7F → Runs (.repairCommit h array col) s fun d =>
          (d.openCommand 0x0806 h).seedCommand ⟨h, 0x0806⟩ (.repair n (col.extractLsb' 0 7)))
        ∧ (100 < col.toNat → col ≠ 0x7F → Rejects (.repairCommit h array col) 0x0806 h s .badParam))

/-! ### Bellows -/

/-- TRIM_UPDATE, CONVERTER_ISOLATE, V72_RANGE_CHANGE, BRAKE_ASSERT, BRAKE_RELEASE, BRAKE_LEVEL_WRITE, PWRFAIL_ASSERT, PWRFAIL_RELEASE and
BEL_COUNT_CLR (R417-R419, R426, R427), and COOLANT_READ, JUNCTION_READ and THERMTRIP (R431-R433), answer a next state on a running device,
whatever the voltage, current, temperature or level they bring. -/
def Obligations.SupplyAndTemperatureRowsComplete : Prop :=
  (∀ s : State, s.dev.live = true →
       (∀ v c : Word16,
           let w := v.toNat * c.toNat / 10000
           let mean := s.dev.bel.estSum / s.dev.bel.estCount
           (mean = 0 → Runs (.trimUpdate v c) s fun d => d.updBel fun b =>
             { b with voltage := v, current := c, measured := satOf 16 w, estSum := 0, estCount := 0
                      supply := BitVec.ofNat 16 (min 5400 (75 * v.toNat / 100)) })
           ∧ ∀ g clamped, mean ≠ 0 → trimGain w mean = (g, clamped) →
             (clamped = false → Runs (.trimUpdate v c) s fun d => d.updBel fun b =>
               { b with voltage := v, current := c, measured := satOf 16 w, estSum := 0, estCount := 0
                        supply := BitVec.ofNat 16 (min 5400 (75 * v.toNat / 100)), trim := g })
             ∧ (clamped = true → Runs (.trimUpdate v c) s fun d =>
               (d.updBel fun b =>
                 { b with voltage := v, current := c, measured := satOf 16 w, estSum := 0, estCount := 0
                          supply := BitVec.ofNat 16 (min 5400 (75 * v.toNat / 100)), trim := g }).logEvent 0x0908 .warn 0 0 srcBellows))
       ∧ (∀ k, s.dev.bel.convOk.getLsbD k.val = false → Idles (.converterIsolate k) s)
       ∧ (∀ k, s.dev.bel.convOk.getLsbD k.val = true → s.dev.bel.convOk &&& ~~~(1#4 <<< k.val) ≠ 0 → Runs (.converterIsolate k) s fun d =>
           (d.updBel fun b => { b with convOk := b.convOk &&& ~~~(1#4 <<< k.val) }).logEvent 0x0907 .error k.val 0 srcBellows)
       ∧ (∀ k, s.dev.bel.convOk = 1#4 <<< k.val → Runs (.converterIsolate k) s fun d =>
           let d := (d.updBel fun b => { b with convOk := 0 }).logEvent 0x0907 .error k.val 0 srcBellows
           d.losePower { d.pins with tripped := true })
       ∧ (∀ v : Word16, 6000 ≤ v.toNat → v.toNat ≤ 8000 → Runs (.v72RangeChange v) s fun d =>
           let d := d.updBel fun b =>
             { b with voltage := v, supply := BitVec.ofNat 16 (min 5400 (75 * v.toNat / 100)), supplyRange := false }
           { d with pins := { d.pins with v72OutOfRange := false } })
       ∧ (∀ v : Word16, v.toNat < 6000 ∨ 8000 < v.toNat → s.dev.bel.supplyRange = false → Runs (.v72RangeChange v) s fun d =>
           let d := d.updBel fun b =>
             { b with voltage := v, supply := BitVec.ofNat 16 (min 5400 (75 * v.toNat / 100)), supplyRange := true }
           { d with pins := { d.pins with v72OutOfRange := true } }.logEvent 0x0906 .warn 0 0 srcBellows)
       ∧ (∀ v : Word16, v.toNat < 6000 ∨ 8000 < v.toNat → s.dev.bel.supplyRange = true → Runs (.v72RangeChange v) s fun d =>
           let d := d.updBel fun b => { b with voltage := v, supply := BitVec.ofNat 16 (min 5400 (75 * v.toNat / 100)) }
           { d with pins := { d.pins with v72OutOfRange := true } })
       ∧ (s.dev.bel.brake = true → Idles .brakeAssert s)
       ∧ (s.dev.bel.brake = false → Runs .brakeAssert s fun d =>
           (({ d with pins := { d.pins with pwrbrakeLow := true } }.updBel fun b => { b with brake := true }).dropTarget).logEvent 0x0902 .warn
             0 s.dev.bel.brakeLevel.toNat srcBellows)
       ∧ (s.dev.bel.brake = false → ∃ t, exec .brakeAssert s = .next t ∧ t.dev.bel.target.toNat ≤ s.dev.bel.brakeLevel.toNat
           ∧ t.dev.bel.governed ≤ 5 * s.dev.bel.brakeLevel.toNat)
       ∧ (s.dev.bel.brake = true → Runs .brakeRelease s fun d =>
           { d with pins := { d.pins with pwrbrakeLow := false } }.updBel fun b => { b with brake := false, rising := some .hardBrake })
       ∧ (s.dev.bel.brake = false → Runs .brakeRelease s fun d => { d with pins := { d.pins with pwrbrakeLow := false } })
       ∧ (Runs .pwrfailAssert s fun d =>
           { d with pins := { d.pins with pwrfailLow := true } }.updBel fun b =>
             { b with powerFail := true, density := 0, ballastActive := false })
       ∧ (s.dev.bel.powerFail = true → Runs .pwrfailRelease s fun d =>
           { d with pins := { d.pins with pwrfailLow := false } }.updBel fun b => { b with powerFail := false, rising := some .supply })
       ∧ (s.dev.bel.powerFail = false → Runs .pwrfailRelease s fun d => { d with pins := { d.pins with pwrfailLow := false } })
       ∧ ∀ req, s.dev.mayWrite req none = true →
           (∀ v : Word32, s.dev.bel.brake = false → Runs (.brakeLevelWrite req v) s fun d =>
             d.updBel fun b => { b with brakeLevel := v.extractLsb' 0 16 })
           ∧ (∀ v : Word32, s.dev.bel.brake = true → Runs (.brakeLevelWrite req v) s fun d =>
             (d.updBel fun b => { b with brakeLevel := v.extractLsb' 0 16 }).dropTarget)
           ∧ Runs (.belCountClr req) s fun d => d.updBel fun b =>
             { b with bubbleCycles := 0, beyondBrake := 0, beyondThermal := 0, beyondSupply := 0 })
  ∧ (∀ s : State, s.dev.live = true →
       (∀ inlet outlet : BitVec 8,
           let out : Bool := decide (inlet.toNat < 20 ∨ 60 < inlet.toNat)
           let run := if inlet.toNat + 12 < outlet.toNat then s.dev.bel.flowBad + 1 else 0
           let moved := if s.dev.bel.firstCoolant then coolantW inlet else approach s.dev.bel.thermal.toNat (coolantW inlet) 160
           let d := s.dev.fresh.updBel fun b =>
             { b with
               inlet := inlet, outlet := outlet, firstCoolant := false, coolantRange := out, flowBad := run, flowAlert := decide (100 < run)
               thermal := BitVec.ofNat 16 (if s.dev.bel.thermalExcursion then min moved s.dev.bel.thermal.toNat else moved) }
           let d := if out = true ∧ s.dev.bel.coolantRange = false then d.logEvent 0x0904 .warn 0 0 srcBellows else d
           exec (.coolantRead inlet outlet) s = .next (s.after
             (if 100 < run ∧ s.dev.bel.flowAlert = false then d.logEvent 0x0905 .warn 0 0 srcBellows else d)))
       ∧ (∀ rs, (s.dev.bel.noteJunctions rs).junctionMax < 104 → s.dev.anyHot = false → s.dev.bel.thermalExcursion = false →
           Runs (.junctionRead rs) s fun d => d.updBel fun b => b.noteJunctions rs)
       ∧ (∀ rs, (s.dev.bel.noteJunctions rs).junctionMax < 104 → s.dev.anyHot = false →
           101 < (s.dev.bel.noteJunctions rs).junctionMax ∨ 93 < s.dev.stackMax →
           Runs (.junctionRead rs) s fun d => d.updBel fun b => b.noteJunctions rs)
       ∧ (∀ rs, 104 ≤ (s.dev.bel.noteJunctions rs).junctionMax ∨ s.dev.anyHot = true → s.dev.bel.thermalExcursion = true →
           Runs (.junctionRead rs) s fun d => d.updBel fun b =>
             { b.noteJunctions rs with thermal := BitVec.ofNat 16 (b.thermal.toNat - 100), thermalExcursion := true })
       ∧ (∀ rs, 104 ≤ (s.dev.bel.noteJunctions rs).junctionMax ∨ s.dev.anyHot = true → s.dev.bel.thermalExcursion = false →
           Runs (.junctionRead rs) s fun d =>
             (d.updBel fun b =>
               { b.noteJunctions rs with thermal := BitVec.ofNat 16 (b.thermal.toNat - 100), thermalExcursion := true }).logEvent 0x0903 .warn
               (d.updBel fun b => b.noteJunctions rs).hotPlace 0 srcBellows)
       ∧ (∀ rs, (s.dev.bel.noteJunctions rs).junctionMax ≤ 101 → s.dev.anyHot = false → s.dev.stackMax ≤ 93 →
           s.dev.bel.thermalExcursion = true → Runs (.junctionRead rs) s fun d => d.updBel fun b =>
             { b.noteJunctions rs with
               thermal := BitVec.ofNat 16 (min (coolantW b.inlet) (b.thermal.toNat + 100))
               thermalExcursion := decide (min (coolantW b.inlet) (b.thermal.toNat + 100) < coolantW b.inlet) })
       ∧ Runs .thermtrip s fun d => d.losePower { d.pins with tripped := true, thermtrip := true })

/-- BELLOWS_INTERVAL (R418-R420, R428): the estimate is the trimmed one, the target is T, the governed level moves toward what the work
and the ballast ask for, never above T, by at most SLOPE unless a brake, a halt or a Seedbank hold lets it fall, and an array that holds a
grant gets no bubble beyond its class unless C_hard sets T or a governed rise requires it. CAP_SET, PWR_QUERY, RAMP_SET, BALLAST_SET and
PROFILE_CLEAR (R423, R430, R436, R437). -/
def Obligations.BellowsIntervalAndSettingsComplete : Prop :=
  (∀ (s : State) (raw : Word16) (activity : List Nat), s.dev.live = true →
       ∃ t, exec (.bellowsInterval raw activity) s = .next t ∧ t.dev.bel.estimate = s.dev.bel.trimmed raw.toNat
         ∧ t.dev.bel.target = satOf 16 s.dev.targetW ∧ t.dev.bel.governed = s.dev.bel.governNext s.dev.arraysHalted (5 * s.dev.goalW (s.dev.bel.trimmed raw.toNat).toNat activity)
         ∧ t.dev.bel.governed ≤ s.dev.bel.governed + s.dev.bel.slope.toNat
         ∧ (s.dev.bel.brake = false → s.dev.arraysHalted = false → s.dev.bel.governed ≤ t.dev.bel.governed + s.dev.bel.slope.toNat)
         ∧ (s.dev.bel.brake = true → t.dev.bel.governed ≤ 5 * s.dev.targetW)
         ∧ (s.dev.targetW < s.dev.bel.hardW → 5 * s.dev.targetW ≤ t.dev.bel.governed → ∀ n pc, s.dev.grantedClass n = some pc →
             t.dev.bel.bubbles[n].toNat ≤ max s.dev.bel.bubbles[n].toNat pc)
         ∧ t.dev.mem.mem = s.dev.mem.mem ∧ t.dev.mem.objects = s.dev.mem.objects ∧ t.dev.seed = s.dev.seed
         ∧ ∀ k : Fin 16, t.dev.progs[k] = s.dev.progs[k])
  ∧ (∀ (s : State) (h : CmdHdr), s.dev.live = true →
       (∀ w : Word16, s.dev.passesAdmin 0x0901 h →
           (5400 < w.toNat → Rejects (.capSet h w) 0x0901 h s .badParam)
           ∧ (w = 0 → Answers (.capSet h w) 0x0901 h s (fun d => d.updBel fun b => { b with soft := 5400 }) 5400)
           ∧ (w ≠ 0 → w.toNat ≤ 5400 → Config.floorCalW ≤ w.toNat →
             Answers (.capSet h w) 0x0901 h s (fun d => d.updBel fun b => { b with soft := w }) w.toNat)
           ∧ (w ≠ 0 → w.toNat ≤ 5400 → w.toNat < Config.floorCalW → Runs (.capSet h w) s fun d =>
             (((d.openCommand 0x0901 h).updBel fun b => { b with soft := BitVec.ofNat 16 Config.floorCalW }).finish ⟨h, 0x0901⟩ .capBelowFloor
               Config.floorCalW).logEvent 0x0901 .info 0 0 srcBellows))
       ∧ (s.dev.passes 0x0902 h → Answers (.pwrQuery h) 0x0902 h s (fun d => d)
           (s.dev.bel.estimate.toNat + 2 ^ 16 * s.dev.bel.target.toNat + 2 ^ 32 * s.dev.bel.hardW + 2 ^ 48 * s.dev.bel.inlet.toNat
             + 2 ^ 56 * s.dev.bel.junctionMax))
       ∧ (∀ slope : BitVec 8, s.dev.passesAdmin 0x0903 h → slope ≠ 0 → slope.toNat ≤ 200 →
           (s.dev.adm.promises = [] → Answers (.rampSet h slope) 0x0903 h s (fun d => d.updBel fun b => { b with slope := slope }) 0)
           ∧ (s.dev.adm.promises ≠ [] → Rejects (.rampSet h slope) 0x0903 h s .busy))
       ∧ (∀ slope : BitVec 8, s.dev.passesAdmin 0x0903 h → slope = 0 ∨ 200 < slope.toNat → Rejects (.rampSet h slope) 0x0903 h s .badParam)
       ∧ (∀ (en : BitVec 8) (floor : Word16), s.dev.passesAdmin 0x0904 h → en.toNat ≤ 1 → floor.toNat ≤ 5400 →
           (s.dev.adm.promises = [] → Answers (.ballastSet h en floor) 0x0904 h s
             (fun d => d.updBel fun b => { b with ballastEn := en = 1, ballastFloor := floor }) 0)
           ∧ (s.dev.adm.promises ≠ [] → Rejects (.ballastSet h en floor) 0x0904 h s .busy))
       ∧ (∀ (prog : BitVec 8) (k : Fin 16) p, s.dev.passes 0x0905 h → prog.toNat = k.val → s.dev.progs[k] = some p → p.account = h.account →
           (p.state ≠ .running → Answers (.profileClear h prog) 0x0905 h s (fun d =>
             (d.updBel fun b => { b with profiles := b.profiles.filter fun x => x.slot != k.val
                                         phases := b.phases.filter fun x => x.slot != k.val }).logEvent 0x0909 .info 0 0 srcBellows) 0)
           ∧ (p.state = .running → Rejects (.profileClear h prog) 0x0905 h s .busy))
       ∧ (s.dev.passes 0x0905 h → (∀ k : Fin 16, ∀ p, s.dev.progs[k] = some p → p.state ≠ .running) →
           Answers (.profileClear h 0xFF) 0x0905 h s (fun d =>
             (d.updBel fun b => { b with profiles := [], phases := [] }).logEvent 0x0909 .info 0 0 srcBellows) 0))

/-! ### Interrupts, cores and events -/

/-- SOURCE_SENSE_CHANGE, INTERRUPT_ROUTE, INTC_EOI_WRITE, FAULT_INTERRUPT_DELIVER, INTC_FAULT_CLEAR, INTC_SWSET_WRITE, MTIMER_INTERRUPT,
MSIP_WRITE and CORE_ACCESS_FAULT (R441-R444, R446, R448-R451, R465, R469). Which source is delivered, and to which core (R447, R448):
a pending source with a core eligible for it, no other such source ranking before it, and of the eligible cores one with the lowest
running priority. The address map of R441 grants fetches from the boot ROM and the control SRAM alone, no store where it grants no load, and
nothing in the register space whatever the access (log entry 171). -/
def Obligations.InterruptRowsComplete : Prop :=
  (∀ s : State, s.dev.live = true →
       (∀ a, Idles (.sourceSenseChange 0 a) s)
       ∧ (∀ (n : BitVec 9) (a : Bool), n ≠ 0 → s.dev.intc.isLevel ⟨n.toNat, n.isLt⟩ = false → Runs (.sourceSenseChange n a) s fun d =>
           d.updIntc fun i => { i with src := Bank.upd i.src ⟨n.toNat, n.isLt⟩ fun x =>
             { x with sensed := a, pend := x.pend || (a && !x.sensed) } })
       ∧ (∀ (n : BitVec 9) (a : Bool), n ≠ 0 → s.dev.intc.isLevel ⟨n.toNat, n.isLt⟩ = true → Runs (.sourceSenseChange n a) s fun d =>
           d.updIntc fun i => { i with src := Bank.upd i.src ⟨n.toNat, n.isLt⟩ fun x => { x with sensed := a } })
       ∧ (s.dev.intc.parity.getLsbD 43 = true → Idles .interruptRoute s)
       ∧ (s.dev.intc.parity.getLsbD 43 = false → s.dev.topSource (Bank.indices 4) = none → Idles .interruptRoute s)
       ∧ (∀ n c, s.dev.intc.parity.getLsbD 43 = false → s.dev.topSource (Bank.indices 4) = some (n, c, false) →
           Runs .interruptRoute s fun d =>
             (d.deliver n s.dev.intc.src[n].priority.toNat c).routeCycle 3 ((Bank.indices 4).filter (· != c)))
       ∧ (∀ (c : Fin 4) (v : Word32) e, s.dev.cores[c].stack.getLast? = some e →
           (e.source = v.extractLsb' 0 9 → Runs (.intcEoiWrite c v) s fun d => d.updCore c fun k => { k with stack := k.stack.dropLast })
           ∧ (e.source ≠ v.extractLsb' 0 9 → Runs (.intcEoiWrite c v) s fun d =>
             (d.updIntc fun i => { i with faultOrder := true, orderCore := c }).logEvent 0x0A01 .error c.val
               (evData [(2, v.toNat % 512), (2, e.source.toNat + 2 ^ 11 * e.level.toNat)]) srcEvr))
       ∧ (∀ (c : Fin 4) (v : Word32), s.dev.cores[c].stack = [] → Runs (.intcEoiWrite c v) s fun d =>
           (d.updIntc fun i => { i with faultOrder := true, orderCore := c }).logEvent 0x0A01 .error c.val
             (evData [(2, v.toNat % 512), (2, 0)]) srcEvr)
       ∧ (∀ c, s.dev.faultCore = c →
           ((s.dev.intc.faultOrder || s.dev.intc.faultParity || s.dev.intc.faultPost) = true → s.dev.cores[c].running = true →
             s.dev.cores[c].debugHalted = false → (∀ e ∈ s.dev.cores[c].stack, e.level ≠ 16) →
             Runs .faultInterruptDeliver s fun d => d.deliver 0 16 c)
           ∧ ((s.dev.intc.faultOrder || s.dev.intc.faultParity || s.dev.intc.faultPost) = false → Idles .faultInterruptDeliver s)
           ∧ ((∃ e ∈ s.dev.cores[c].stack, e.level = 16) → Idles .faultInterruptDeliver s))
       ∧ (∀ req, s.dev.mayWrite req none = true →
           (∀ v, Runs (.intcFaultClear req v) s fun d => d.updIntc fun i =>
             { i with faultOrder := i.faultOrder && !v.getLsbD 0, faultParity := i.faultParity && !v.getLsbD 1
                      faultPost := i.faultPost && !v.getLsbD 2 })
           ∧ (∀ v : Word32, v.toNat % 512 < 256 → Idles (.intcSwsetWrite req v) s)
           ∧ (∀ (v : Word32) (n : Fin 512), v.toNat % 512 = n.val → 256 ≤ n.val → Runs (.intcSwsetWrite req v) s fun d =>
             d.updIntc fun i => { i with src := Bank.upd i.src n fun x => { x with pend := true } }))
       ∧ ∀ c : Fin 4,
           (s.dev.tb.now.toNat < s.dev.cores[c].mtimecmp.toNat → Runs (.mtimerInterrupt c) s fun d => d.updCore c fun k => { k with mtip := false })
           ∧ (s.dev.cores[c].mtimecmp.toNat ≤ s.dev.tb.now.toNat → (s.dev.cores[c].mtie && s.dev.cores[c].takes) = false →
             Runs (.mtimerInterrupt c) s fun d => d.updCore c fun k => { k with mtip := true })
           ∧ (s.dev.cores[c].mtimecmp.toNat ≤ s.dev.tb.now.toNat → s.dev.cores[c].mtie = true → s.dev.cores[c].takes = true →
             Runs (.mtimerInterrupt c) s fun d => d.updCore c fun k =>
               { k with
                 mtip := true, mepc := k.pc, mcause := 0x8000000000000007, mtval := 0, mstatusMPIE := k.mstatusMIE, mstatusMIE := false
                 mstatusMPP := k.mode, mode := .machine, pc := mtvecTarget k.mtvec true 7 })
           ∧ (∀ v, (v && s.dev.cores[c].msie && s.dev.cores[c].takes) = false →
             Runs (.msipWrite c v) s fun d => d.updCore c fun k => { k with msip := v })
           ∧ (s.dev.cores[c].msie = true → s.dev.cores[c].takes = true → Runs (.msipWrite c true) s fun d => d.updCore c fun k =>
               { k with
                 msip := true, mepc := k.pc, mcause := 0x8000000000000003, mtval := 0, mstatusMPIE := k.mstatusMIE, mstatusMIE := false
                 mstatusMPP := k.mode, mode := .machine, pc := mtvecTarget k.mtvec true 3 })
           ∧ (∀ kind a, coreGrants kind a.toNat = false → s.dev.cores[c].running = true → s.dev.cores[c].debugHalted = false →
             Runs (.coreAccessFault c kind a) s fun d => d.updCore c fun k =>
               { k with
                 mepc := k.pc, mcause := BitVec.ofNat 64 (coreCause kind), mtval := a, mstatusMPIE := k.mstatusMIE, mstatusMIE := false
                 mstatusMPP := k.mode, mode := .machine, pc := mtvecTarget k.mtvec false (coreCause kind) })
           ∧ ∀ kind a, coreGrants kind a.toNat = true ∨ s.dev.cores[c].running = false → Idles (.coreAccessFault c kind a) s)
  ∧ (∀ a : Nat, (coreGrants .fetch a = true ↔ a < 0x10000 ∨ (0x10000000 ≤ a ∧ a < 0x14000000))
       ∧ (coreGrants .store a = true → coreGrants .load a = true)
       ∧ (a < 0x10000 ∨ (0x20000000 ≤ a ∧ a < 0x20100000) → coreGrants .load a = true ∧ coreGrants .store a = false)
       ∧ ((0x40000000 ≤ a ∧ a < 0x44000000) → ∀ kind, coreGrants kind a = false))
  ∧ (∀ (d : Device) (free : List (Fin 4)) (n : Fin 512) (c : Fin 4) (tie : Bool), d.topSource free = some (n, c, tie) →
       n ≠ 0 ∧ d.pendingSource n = true ∧ c ∈ free ∧ d.eligible n c = true
       ∧ d.cores[c].runPriority < d.intc.src[n].priority.toNat
       ∧ (∀ e ∈ free, d.eligible n e = true → d.cores[c].runPriority ≤ d.cores[e].runPriority)
       ∧ ∀ m : Fin 512, m ≠ 0 → d.pendingSource m = true → (∃ e ∈ free, d.eligible m e = true) →
           d.intc.src[m].priority.toNat < d.intc.src[n].priority.toNat
           ∨ (d.intc.src[m].priority = d.intc.src[n].priority ∧ n.val ≤ m.val))

/-- EVR_ACCEPT, EVR_POST_SUBMIT, LASTWORDS_COPY, EVT_READ, EVT_SUMMARY, EVT_FILTER_SET and EVT_DROPS_CLEAR (R456-R461, R467, R468). A new
record (R454, R456, R461): while a slot is free it is appended with the next SEQ; with every slot taken it replaces the record of the
lowest SEQ among those of equal or lower severity, and is dropped and counted when there is none; FATAL and ERROR records latch their
alert cause. -/
def Obligations.EventRowsComplete : Prop :=
  (∀ s : State, s.dev.live = true →
       (s.dev.evr.queue = [] → Idles .evrAccept s)
       ∧ (∀ o rest, s.dev.evr.queue = o :: rest →
           (s.dev.evr.minSeverity = true → o.severity = .info → Runs .evrAccept s fun d =>
             { d with evr := { d.evr with queue := rest, dropFiltered := bump d.evr.dropFiltered } })
           ∧ (s.dev.evr.minSeverity = false ∨ o.severity ≠ .info →
             (s.dev.evr.records = [] → Runs .evrAccept s fun d => { d with evr := { d.evr with queue := rest } }.recordNew o)
             ∧ ∀ i r, s.dev.evr.latest = some i → s.dev.evr.records[i]? = some r →
               (r.folds o s.dev.evr.windowTicks = true → Runs .evrAccept s fun d =>
                 { d with evr := { d.evr with
                     queue := rest, records := d.evr.records.set i { r with repeats := r.repeats + 1, lastTick := o.tick } } })
               ∧ (r.folds o s.dev.evr.windowTicks = false → Runs .evrAccept s fun d =>
                 { d with evr := { d.evr with queue := rest } }.recordNew o)))
       ∧ (∀ (c : Fin 4) v, s.dev.cores[c].postWritten ||| 0x80 = 0xFF → imageOk (s.dev.cores[c].post 7 v).image = true →
           Runs (.evrPostSubmit c v) s fun d =>
             let d := d.updCore c fun k => { k.post 7 v with postWritten := 0 }
             { d with evr := d.evr.enqueue (imageOccurrence c (s.dev.cores[c].post 7 v).image d.tb.now) })
       ∧ (∀ (c : Fin 4) v, s.dev.cores[c].postWritten ||| 0x80 ≠ 0xFF ∨ imageOk (s.dev.cores[c].post 7 v).image = false →
           Runs (.evrPostSubmit c v) s fun d =>
             ((d.updCore c fun k => { k.post 7 v with postWritten := 0 }).updIntc fun i => { i with faultPost := true }).logEvent 0x0A04 .warn
               c.val 0 srcEvr)
       ∧ (s.dev.evr.untried = none → Idles .lastwordsCopy s)
       ∧ (∀ r, s.dev.evr.untried = some r →
           ((∀ o ∈ s.dev.sec.writes, o.write ≠ .lastWords r.seq) → Runs .lastwordsCopy s fun d => d.seedAsk (.lastWords r.seq) none)
           ∧ ((∃ o ∈ s.dev.sec.writes, o.write = .lastWords r.seq) → Idles .lastwordsCopy s))
       ∧ ∀ h : CmdHdr,
           (∀ addr start max sev, s.dev.passes 0x0A01 h → addr.toNat % 64 = 0 → max ≠ 0 → max.toNat ≤ 16384 → sev.toNat ≤ 3 →
             (s.dev.evr.faulted = true → Rejects (.evtRead h addr start max sev) 0x0A01 h s .faulted)
             ∧ (s.dev.evr.faulted = false → s.dev.evr.readFrom start max.toNat sev.toNat = [] →
               Answers (.evtRead h addr start max sev) 0x0A01 h s (fun d => d) 0)
             ∧ (s.dev.evr.faulted = false → s.dev.evr.readFrom start max.toNat sev.toNat ≠ [] →
               Answers (.evtRead h addr start max sev) 0x0A01 h s
                 (fun d => d.hostWrite h.port addr ((s.dev.evr.readFrom start max.toNat sev.toNat).flatMap EventRecord.bytes))
                 (s.dev.evr.readFrom start max.toNat sev.toNat).length))
           ∧ (∀ addr start max sev, s.dev.passes 0x0A01 h → addr.toNat % 64 ≠ 0 ∨ max = 0 ∨ 16384 < max.toNat ∨ 3 < sev.toNat →
             Rejects (.evtRead h addr start max sev) 0x0A01 h s .badParam)
           ∧ (s.dev.passes 0x0A02 h → Answers (.evtSummary h) 0x0A02 h s (fun d => d)
             (s.dev.evr.nextSeq.toNat + 2 ^ 48 * s.dev.evr.lastFatalCode.toNat))
           ∧ (∀ sev n0 n1 v0 v1 : BitVec 8, ∀ ms : Word16, s.dev.passesAdmin 0x0A03 h → sev.toNat ≤ 1 → n0.toNat ≤ 4 → n1.toNat ≤ 4 → ms ≠ 0 →
             Answers (.evtFilterSet h sev n0 n1 v0 v1 ms) 0x0A03 h s (fun d =>
               { d with evr := { d.evr with
                   minSeverity := sev == 1, notify := #v[n0.extractLsb' 0 3, n1.extractLsb' 0 3], vec := #v[v0, v1]
                   repeatWindowMs := ms } }) 0)
           ∧ (∀ sev n0 n1 v0 v1 : BitVec 8, ∀ ms : Word16, s.dev.passesAdmin 0x0A03 h →
             1 < sev.toNat ∨ 4 < n0.toNat ∨ 4 < n1.toNat ∨ ms = 0 → Rejects (.evtFilterSet h sev n0 n1 v0 v1 ms) 0x0A03 h s .badParam)
           ∧ (s.dev.passesAdmin 0x0A04 h → Answers (.evtDropsClear h) 0x0A04 h s (fun d =>
             { d with evr := { d.evr with dropFiltered := 0, dropError := 0, dropWarn := 0, dropInfo := 0 } }) 0))
  ∧ (∀ (d : Device) (o : Occurrence),
       let r : EventRecord :=
         { code := o.code, severity := o.severity, epoch := d.evr.epoch, source := o.source, firstTick := o.tick, lastTick := o.tick
           data := o.data, seq := d.evr.nextSeq }
       (d.evr.records.length < 16384 → (d.recordNew o).evr.records = d.evr.records ++ [r] ∧ (d.recordNew o).evr.nextSeq = d.evr.nextSeq + 1)
       ∧ (16384 ≤ d.evr.records.length → (∀ x ∈ d.evr.records, o.severity.code.toNat < x.severity.code.toNat) →
           (d.recordNew o).evr = d.evr.countDrop o.severity ∧ (d.recordNew o).smb = d.smb)
       ∧ (∀ i x, 16384 ≤ d.evr.records.length → d.evr.records[i]? = some x → x.severity.code.toNat ≤ o.severity.code.toNat →
           (∀ (j : Nat) y, d.evr.records[j]? = some y → y.severity.code.toNat ≤ o.severity.code.toNat → j ≠ i → x.seq.toNat < y.seq.toNat) →
           (d.recordNew o).evr.records = d.evr.records.set i r ∧ (d.recordNew o).evr.nextSeq = d.evr.nextSeq + 1)
       ∧ (d.evr.records.length < 16384 →
           (o.severity = .fatal → (d.recordNew o).smb.alert = d.smb.alert ||| 2 ∧ (d.recordNew o).evr.lastFatalCode = o.code
             ∧ (d.recordNew o).evr.lastFatalSeq = d.evr.nextSeq)
           ∧ (o.severity = .error → (d.recordNew o).smb.alert = d.smb.alert ||| 4)
           ∧ (o.severity = .info ∨ o.severity = .warn → (d.recordNew o).smb.alert = d.smb.alert))
       ∧ (d.recordNew o).mem = d.mem ∧ (d.recordNew o).progs = d.progs ∧ (d.recordNew o).seed = d.seed ∧ (d.recordNew o).tb = d.tb)

/-! ### Registers -/

/-- REGISTER_READ, REG_WRITE, RESERVED_ACCESS and PARITY_FAULT (R444, R462-R466, R507). -/
def Obligations.RegisterRowsComplete : Prop :=
  ∀ s : State, s.dev.live = true →
    (∀ req off part v, s.dev.hears req = false → Idles (.registerRead req off part) s ∧ Idles (.regWrite req off part v) s)
    ∧ (∀ req (off : BitVec 26) part reg r p, s.dev.hears req = true → s.dev.accessAt req off.toNat part = some (reg, r, p) →
        (r.wide = false → Runs (.registerRead req off part) s fun d => d.emit (.readDone req (.value (BitVec.ofNat 64 r.value))))
        ∧ (r.wide = true → p = .full → Runs (.registerRead req off part) s fun d =>
          d.emit (.readDone req (.value (BitVec.ofNat 64 r.value))))
        ∧ (r.wide = true → p = .lo → Runs (.registerRead req off part) s fun d =>
          (d.setReadShadow req (some { reg := reg, value := highHalf (BitVec.ofNat 64 r.value) })).emit
            (.readDone req (.value ((lowHalf (BitVec.ofNat 64 r.value)).setWidth 64))))
        ∧ (∀ sh, r.wide = true → p = .hi → s.dev.readShadow[req.index] = some sh → sh.reg = reg →
          Runs (.registerRead req off part) s fun d => d.emit (.readDone req (.value (sh.value.setWidth 64)))))
    ∧ (∀ req (off : BitVec 26) part v reg r p, s.dev.mayWrite req (ownPage req off.toNat) = true →
        s.dev.accessAt req off.toNat part = some (reg, r, p) → Runs (.regWrite req off part v) s fun d => d.writeReg req reg p v)
    ∧ (∀ (p : Fin 2) (off : BitVec 26) part v reg r q, s.dev.linkUp p = true → s.dev.admin.port ≠ p → ownPage (.port p) off.toNat ≠ some p →
        s.dev.accessAt (.port p) off.toNat part = some (reg, r, q) → Runs (.regWrite (.port p) off part v) s fun d =>
          (d.emit (.aerCompleterAbort p)).logEvent 0x0A05 .warn off.toNat p.val (srcIntake p))
    ∧ (∀ (p : Fin 2) (off : BitVec 26), s.dev.linkUp p = true →
        (Runs (.reservedAccess p off true) s fun d =>
          (d.emit (.aerCompleterAbort p)).logEvent 0x0A03 .warn off.toNat p.val srcEvr)
        ∧ (Runs (.reservedAccess p off false) s fun d => d.emit (.readDone (.port p) .completerAbort))
        ∧ ∀ part v, s.dev.accessAt (.port p) off.toNat part = none →
          (Runs (.registerRead (.port p) off part) s fun d => d.emit (.readDone (.port p) .completerAbort))
          ∧ Runs (.regWrite (.port p) off part v) s fun d =>
            (d.emit (.aerCompleterAbort p)).logEvent 0x0A03 .warn off.toNat p.val srcEvr)
    ∧ (∀ (p : Fin 2) off w, s.dev.linkUp p = false → Idles (.reservedAccess p off w) s)
    ∧ (∀ (c : Fin 4) (off : BitVec 26) part v, s.dev.accessAt (.core c) off.toNat part = none →
        (Runs (.registerRead (.core c) off part) s fun d => d.accessFault c .load (BitVec.ofNat 64 (0x40000000 + off.toNat)))
        ∧ Runs (.regWrite (.core c) off part v) s fun d => d.accessFault c .store (BitVec.ofNat 64 (0x40000000 + off.toNat)))
    ∧ (∀ b : BitVec 6, 49 ≤ b.toNat → Idles (.parityFault b) s)
    ∧ (∀ b : BitVec 6, b.toNat < 49 → b.toNat ≠ 44 → Runs (.parityFault b) s fun d =>
        ((((d.updIntc fun i => { i with parity := i.parity ||| (1#49 <<< b.toNat), faultParity := true }).logEvent 0x0A02 .error b.toNat 0
          (blockSource b.toNat)).faultStatus b.toNat).faultAll fun p => !p.steps.isEmpty && s.dev.needsBlock p b.toNat).faultCommands b.toNat)
    ∧ Runs (.parityFault 44) s fun d =>
        let d := d.updIntc fun i => { i with parity := i.parity ||| (1#49 <<< 44), faultParity := true }
        let d := { d with evr := { d.evr with faulted := true, accepting := false } }
        d.faultAll fun p => !p.steps.isEmpty && s.dev.needsBlock p 44

/-! ### Security, host links and the board port -/

/-- ATTEST, IDENTITY_GENERATE, DEBUG_DISABLE, HOLDUP_SET, CEILING_SET, SEEDBANK_READ, LASTWORDS_READ and SEEDBANK_COMMIT (R479-R487, R491,
R492). A Seedbank write asked for by a command (R480, R485-R487): at its limit, or while PWRFAIL_N is asserted, it is refused and
nothing is written; with no other write waiting it starts when the hold-up energy exceeds twice what it needs, and is refused
otherwise. -/
def Obligations.SecurityRowsComplete : Prop :=
  (∀ (s : State) (h : CmdHdr), s.dev.live = true →
       (∀ addr nonce, s.dev.passes 0x0B01 h →
           (addr.toNat % 64 = 0 → s.dev.seed.identity = true → Answers (.attest h addr nonce) 0x0B01 h s
             (fun d => d.hostWrite h.port addr (s.dev.attestReport nonce)) 17312)
           ∧ (addr.toNat % 64 ≠ 0 ∨ s.dev.seed.identity = false → Rejects (.attest h addr nonce) 0x0B01 h s .badParam))
       ∧ (s.dev.passesAdmin 0x0B03 h → Runs (.identityGenerate h) s fun d => (d.openCommand 0x0B03 h).seedCommand ⟨h, 0x0B03⟩ .identity)
       ∧ (s.dev.passesAdmin 0x0B04 h → Runs (.debugDisable h 0x0D15AB1E) s fun d =>
           (d.openCommand 0x0B04 h).seedCommand ⟨h, 0x0B04⟩ .debug)
       ∧ (∀ confirm, s.dev.passesAdmin 0x0B04 h → confirm ≠ 0x0D15AB1E → Rejects (.debugDisable h confirm) 0x0B04 h s .badParam)
       ∧ (∀ uf : Word32, s.dev.passesAdmin 0x0B05 h →
           (uf ≠ 0 → uf.toNat ≤ 1000000 → Runs (.holdupSet h uf) s fun d =>
             (d.openCommand 0x0B05 h).seedCommand ⟨h, 0x0B05⟩ (.holdup uf))
           ∧ (uf = 0 ∨ 1000000 < uf.toNat → Rejects (.holdupSet h uf) 0x0B05 h s .badParam))
       ∧ (∀ w : Word16, s.dev.passesAdmin 0x0B06 h →
           (Config.floorCalW ≤ w.toNat → w.toNat ≤ 5400 → Runs (.ceilingSet h w) s fun d =>
             (d.openCommand 0x0B06 h).seedCommand ⟨h, 0x0B06⟩ (.ceiling w))
           ∧ (w.toNat < Config.floorCalW ∨ 5400 < w.toNat → Rejects (.ceilingSet h w) 0x0B06 h s .badParam))
       ∧ (∀ item : BitVec 8, s.dev.passes 0x0B07 h →
           (item.toNat ≤ 12 → Answers (.seedbankRead h item) 0x0B07 h s (fun d => d) (s.dev.seed.item item.toNat))
           ∧ (12 < item.toNat → Rejects (.seedbankRead h item) 0x0B07 h s .badParam))
       ∧ (∀ (addr : Word64) (start max : Word16), s.dev.passes 0x0B08 h → addr.toNat % 64 = 0 → start.toNat ≤ 255 → max ≠ 0 → max.toNat ≤ 256 →
           let rs := (s.dev.seed.committed.drop start.toNat).take max.toNat
           (rs = [] → Answers (.lastwordsRead h addr start max) 0x0B08 h s (fun d => d) (2 ^ 16 * s.dev.seed.committed.length))
           ∧ (rs ≠ [] → Answers (.lastwordsRead h addr start max) 0x0B08 h s
             (fun d => d.hostWrite h.port addr (rs.flatMap EventRecord.bytes)) (rs.length + 2 ^ 16 * s.dev.seed.committed.length)))
       ∧ (∀ o rest, s.dev.sec.writes = o :: rest → o.started = true → Runs .seedbankCommit s fun d => (d.seedCommitHead o rest).seedRun))
  ∧ (∀ (d : Device) (c : OpenCmd) (w : SeedWrite), w ≠ .svn → w.isLastWords = false →
       (d.seed.atLimit w = true →
           d.seedCommand c w = (d.finish c .limitReached).logEvent 0x0B07 .warn 0 0 srcSecurity)
       ∧ (d.seed.atLimit w = false → d.bel.powerFail = true →
           d.seedCommand c w
             = (d.finish c .holdup).logEvent 0x0B06 .warn 0 (evData [(4, 0), (2, d.bel.voltage.toNat)]) srcSecurity)
       ∧ (d.seed.atLimit w = false → d.bel.powerFail = false → d.sec.writes = [] →
           (2 * w.reqMj * 20000000 < d.seed.capFor w * (d.bel.voltage.toNat * d.bel.voltage.toNat - 5600 * 5600) →
             ∃ e, d.seedCommand c w
               = { d with sec := { d.sec with
                   writes := [{ write := w, cmd := some c, started := true }], hold := true, holdupOutcome := 1, lastEMj := e } })
           ∧ (d.seed.capFor w * (d.bel.voltage.toNat * d.bel.voltage.toNat - 5600 * 5600) ≤ 2 * w.reqMj * 20000000 →
             (d.seedCommand c w).seed = d.seed ∧ (d.seedCommand c w).sec.writes = [] ∧ (d.seedCommand c w).sec.holdupOutcome = 2
               ∧ (d.seedCommand c w).sec.hold = false)))

/-- PERST_ASSERT, PERST_RELEASE, PCIE_HOT_RESET, PCIE_LINK_DOWN, PCIE_LINK_UP, POISONED_TLP_RECEIVE and MSIX_UNMASK (R502, R503, R505,
R507, R509, R510, R516, R528). -/
def Obligations.HostLinkRowsComplete : Prop :=
  ∀ (s : State) (p : Fin 2), s.dev.live = true →
    (s.dev.linkUp p = false → Runs (.perstAssert p) s fun d =>
        (d.updPort p fun q =>
          { q with dlUp := false, width := 0, speed := 0, msixEnable := false, msixMask := false, bar4Log2 := 30, d3hot := false
                   perst := true }).stopPort p)
    ∧ (s.dev.linkUp p = true → Runs (.perstAssert p) s fun d =>
        ((d.updPort p fun q =>
          { q with dlUp := false, width := 0, speed := 0, msixEnable := false, msixMask := false, bar4Log2 := 30, d3hot := false
                   perst := true, downCount := bump q.downCount, downSince := d.tb.now }).logEvent 0x0008 .warn p.val 0
          (srcIntake p)).stopPort p)
    ∧ (s.dev.ports[p].perst = true → s.dev.ports[p].dlUp = false → Runs (.perstRelease p) s fun d =>
        (d.updPort p fun q => { q with perst := false }).emit (.pcieTraining p))
    ∧ (s.dev.ports[p].perst = false → Idles (.perstRelease p) s)
    ∧ (s.dev.linkUp p = true → Runs (.pcieHotReset p) s fun d =>
        ((d.updPort p fun q =>
          { q with dlUp := false, width := 0, speed := 0, msixEnable := false, msixMask := false, bar4Log2 := 30, d3hot := false
                   downCount := bump q.downCount, downSince := d.tb.now }).logEvent 0x0008 .warn p.val 0 (srcIntake p)).stopPort p)
    ∧ (s.dev.linkUp p = true →
        (Runs (.pcieLinkDown p false) s fun d =>
          (d.updPort p fun q => { q with dlUp := false, width := 0, speed := 0, downCount := bump q.downCount, downSince := d.tb.now }).logEvent
            0x0008 .warn p.val 0 (srcIntake p))
        ∧ Runs (.pcieLinkDown p true) s fun d =>
          (d.updPort p fun q => { q with d3hot := true, downCount := bump q.downCount, downSince := d.tb.now }).logEvent 0x0008 .warn p.val 0
            (srcIntake p))
    ∧ (∀ w sp en mask, s.dev.ports[p].perst = true → Idles (.pcieLinkUp p w sp en mask) s)
    ∧ (∀ w sp en, s.dev.ports[p].perst = false → s.dev.linkUp p = false → Runs (.pcieLinkUp p w sp en true) s fun d =>
        let d := d.updPort p fun q =>
          { q with dlUp := true, d3hot := false, width := w, speed := sp, msixEnable := en, msixMask := true }
        d.logEvent 0x0009 .info p.val (d.linkWord p) (srcIntake p))
    ∧ (∀ w sp, s.dev.ports[p].perst = false → s.dev.linkUp p = false → Runs (.pcieLinkUp p w sp true false) s fun d =>
        let d := d.updPort p fun q =>
          { q with dlUp := true, d3hot := false, width := w, speed := sp, msixEnable := true, msixMask := false }
        (d.logEvent 0x0009 .info p.val (d.linkWord p) (srcIntake p)).sendPending p)
    ∧ (s.dev.linkUp p = true → Runs (.poisonedTlpReceive p) s fun d => d.emit (.aerPoisoned p))
    ∧ (s.dev.linkUp p = false → Idles (.poisonedTlpReceive p) s)
    ∧ (∀ req v, reachesMsix req p = false ∨ s.dev.hears req = false → Idles (.msixUnmask req p v) s)
    ∧ ∀ req (v : BitVec 8), reachesMsix req p = true → s.dev.hears req = true →
        (s.dev.ports[p].msixEnable = true → s.dev.ports[p].msixMask = false → s.dev.linkUp p = true →
          (s.dev.ports[p].msix[v.toNat].pend = true → Runs (.msixUnmask req p v) s fun d =>
            (d.updPort p fun q => { q with msix := Bank.upd q.msix ⟨v.toNat, v.isLt⟩ fun e =>
              { e with masked := false, pend := false } }).emit (.msix p v))
          ∧ (s.dev.ports[p].msix[v.toNat].pend = false → Runs (.msixUnmask req p v) s fun d =>
            d.updPort p fun q => { q with msix := Bank.upd q.msix ⟨v.toNat, v.isLt⟩ fun e =>
              { e with masked := false, pend := false } }))
        ∧ (s.dev.ports[p].msixEnable = false ∨ s.dev.ports[p].msixMask = true ∨ s.dev.linkUp p = false →
          Runs (.msixUnmask req p v) s fun d =>
            d.updPort p fun q => { q with msix := Bank.upd q.msix ⟨v.toNat, v.isLt⟩ fun e => { e with masked := false } })

/-- DMA_COMPLETION_ERROR, DMA_COMPLETION_TIMEOUT and DMA_READ_COMPLETION (R297, R475, R502, R509, R516): a failed read, of those
whose requests have left the port, ends what waits for it with ST_ABORTED and takes the other reads of the same work with it; the bytes of
one that succeeds go where they were asked for. No read stays that has ended, and of the others only whether their requests have left
changes (R293). -/
def Obligations.DmaRowsComplete : Prop :=
  ∀ (s : State) (id : Nat), s.dev.live = true →
    (s.dev.dmaReads.find? (fun r => r.id == id && r.out) = none →
        Idles (.dmaCompletionError id) s ∧ Idles (.dmaCompletionTimeout id) s)
    ∧ (∀ bs : List Byte, s.dev.dmaReads.find? (fun r => r.id == id && r.out && r.length == bs.length) = none →
        Idles (.dmaReadCompletion id bs) s)
    ∧ (∀ r, s.dev.dmaReads.find? (fun r => r.id == id && r.out) = some r →
        ∀ c, c = Instr.dmaCompletionError id ∨ c = .dmaCompletionTimeout id →
          let lost (d : Device) : Device :=
            (((d.endReads fun x => x.id == id).dropReads r.cmd r.purpose.sameWork).updPort r.port fun q =>
              { q with lostReads := bump q.lostReads }).logEvent 0x000A .warn r.port.val
              (evData [(2, r.cmd.opcode.toNat), (8, r.cmd.hdr.tag.toNat)]) (srcIntake r.port)
          (∀ off, r.purpose = .fwChunk off ∨ r.purpose = .assay → Runs c s fun d => (lost d).finish r.cmd .aborted)
          ∧ (∀ o, r.purpose = .objWrite o ∨ r.purpose = .objT3 o → Runs c s fun d => (lost d).abortHead o)
          ∧ ∀ k n lane o off, r.purpose = .stepT3 (Fin.val (n := 16) k) n lane o off → Runs c s fun d => (lost d).failStep k n .aborted)
    ∧ (∀ (r : DmaRead) (bs : List Byte), s.dev.dmaReads.find? (fun r => r.id == id && r.out && r.length == bs.length) = some r →
        (∀ off, r.purpose = .fwChunk off → s.dev.sec.state ≠ .running → Runs (.dmaReadCompletion id bs) s fun d =>
            let d := d.endReads fun x => x.id == id
            { d with sec := { d.sec with image := Cells.noteAll d.sec.image off bs } }.ok r.cmd
              (Cells.noteAll d.sec.image off bs).length)
        ∧ (r.purpose = .assay → Runs (.dmaReadCompletion id bs) s fun d => (d.endReads fun x => x.id == id).holdPack r.cmd bs)
        ∧ (∀ o, r.purpose = .objWrite o → Runs (.dmaReadCompletion id bs) s fun d =>
            (d.endReads fun x => x.id == id).writeArrives o bs)
        ∧ ∀ k n lane o off, r.purpose = .stepT3 (Fin.val (n := 16) k) n lane o off → Runs (.dmaReadCompletion id bs) s fun d =>
            ((d.endReads fun x => x.id == id).t3Arrives o r bs).updStep k n
              (StepState.haveT3 { object := o, lo := off, hi := off + r.length }))
    ∧ ∀ (d : Device) (gone : DmaRead → Bool),
        (∀ r ∈ (d.endReads gone).dmaReads, ∃ x ∈ d.dmaReads, gone x = false ∧ (r = x ∨ r = { x with out := true }))
        ∧ (d.endReads gone).progs = d.progs ∧ (d.endReads gone).mem = d.mem ∧ (d.endReads gone).sec = d.sec

/-- SMB_DEVICE_INFO, SMB_POWER, SMB_THERMAL, SMB_SUPPLY, SMB_EVENT_SUMMARY, SMB_ALERT_CAUSE, SMB_REG_OFFSET, SMB_REG_READ,
SMB_ALERT_RESPONSE, JTAG_DEBUG_HALT and JTAG_DEBUG_RESUME (R483, R511, R512, R529, R530): a read of a command code answers its data with a
PEC over the whole message from address 0x5A, a code that is none of them is answered NACK, an offset whose PEC is wrong is discarded, and
a debug request acts while debug is enabled and its scan has left the TAP out of Test-Logic-Reset (log entry 130). -/
def Obligations.BoardPortRowsComplete : Prop :=
  ∀ s : State, s.dev.live = true →
    let answer (code : Byte) (bs : List Byte) (d : Device) : Device :=
      d.emit (.smb bs (smbPec ([0xB4, code, 0xB5, BitVec.ofNat 8 bs.length] ++ bs)))
    let offset (v : Word32) : Byte := smbPec ([0xB4, 0x10, 4] ++ bytesOf 4 v.toNat)
    (Runs .smbDeviceInfo s (answer 0x00 (bytesOf 8
        (8 + 2 ^ 8 * Config.ctrlStepping.toNat + 2 ^ 16 * s.dev.sec.state.code + 2 ^ 18 * s.dev.sec.ready.toNat
          + 2 ^ 19 * s.dev.admin.port.val + 2 ^ 20 * (s.dev.linkUp 0).toNat + 2 ^ 21 * (s.dev.linkUp 1).toNat))))
    ∧ (Runs .smbPower s (answer 0x01 (bytesOf 2 s.dev.bel.estimate.toNat ++ bytesOf 2 s.dev.bel.target.toNat
        ++ bytesOf 2 s.dev.bel.measured.toNat ++ bytesOf 2 (min s.dev.bel.supply.toNat s.dev.bel.converterW))))
    ∧ (Runs .smbThermal s (answer 0x02 (bytesOf 8 s.dev.belThermal.value)))
    ∧ (Runs .smbSupply s (answer 0x03 (bytesOf 4 s.dev.belSupply.value)))
    ∧ (Runs .smbEventSummary s
        (answer 0x04 (bytesOf 8 s.dev.evr.countsReg.value ++ bytesOf 8 s.dev.evr.dropsReg.value ++ bytesOf 8 s.dev.evr.summaryReg.value)))
    ∧ (Runs .smbAlertCause s fun d =>
        { answer 0x05 (bytesOf 4 s.dev.smb.alert.toNat) d with smb := { d.smb with alert := 0 } })
    ∧ (∀ v, (Runs (.smbRegOffset v none) s fun d => { d with smb := { d.smb with regOffset := v } })
        ∧ (Runs (.smbRegOffset v (some (offset v))) s fun d => { d with smb := { d.smb with regOffset := v } })
        ∧ ∀ c, c ≠ offset v → Idles (.smbRegOffset v (some c)) s)
    ∧ (∀ r, s.dev.regAt .smbus s.dev.smb.regOffset.toNat = some r → Runs .smbRegRead s (answer 0x11 (bytesOf 8 r.value)))
    ∧ (s.dev.regAt .smbus s.dev.smb.regOffset.toNat = none → Runs .smbRegRead s (answer 0x11 (bytesOf 8 0)))
    ∧ (∀ code d, code ∉ [0x00, 0x01, 0x02, 0x03, 0x04, 0x05, 0x11] → Device.smbRead code d = d.emit .smbNack)
    ∧ (∀ code v pec d, code ≠ 0x10 → Device.smbWrite code v pec d = d.emit .smbNack)
    ∧ (s.dev.smb.alert = 0 → Runs .smbAlertResponse s fun d => d.emit .smbNack)
    ∧ (s.dev.smb.alert ≠ 0 → Runs .smbAlertResponse s fun d => d.emit (.smb [0x5A] (smbPec [0x19, 0x5A])))
    ∧ (∀ x scan, s.dev.seed.debugDisabled = true ∨ (s.dev.fresh.tapScan scan).pins.tap.state = .testLogicReset →
        (Runs (.jtagDebugHalt x scan) s (Device.tapScan scan)) ∧ Runs (.jtagDebugResume x scan) s (Device.tapScan scan))
    ∧ (∀ scan, s.dev.seed.debugDisabled = false → (s.dev.fresh.tapScan scan).pins.tap.state ≠ .testLogicReset →
        (∀ c, (Runs (.jtagDebugHalt (.core c) scan) s fun d => (d.tapScan scan).updCore c fun k => { k with debugHalted := true })
          ∧ Runs (.jtagDebugResume (.core c) scan) s fun d => (d.tapScan scan).updCore c fun k => { k with debugHalted := false })
        ∧ ∀ n, (Runs (.jtagDebugHalt (.array n) scan) s fun d => (d.tapScan scan).updArray n fun a => { a with debugFrozen := true })
          ∧ Runs (.jtagDebugResume (.array n) scan) s fun d => (d.tapScan scan).updArray n fun a => { a with debugFrozen := false })
    ∧ ∀ (debug : Bool) (free : Nat) (t : Tap) (tms tdi : Bool),
        (Tap.clock debug free t ⟨false, tms, tdi⟩).1.state = .testLogicReset
        ∧ ((Tap.clock debug free t ⟨true, tms, tdi⟩).1.state = t.state.next tms)
        ∧ (t.instr = .idcode → t.state = .captureDr → (Tap.clock debug free t ⟨true, tms, tdi⟩).1.shift = bitsOf idcode)

/-! ### The block as a whole -/

/-- A step with a command at the front of the queue is exec of that command on the state with the queue's rest. -/
def Obligations.StepRunsFront : Prop :=
  ∀ (s : State) (c : Instr) (rest : List Instr),
    step { s with pending := c :: rest } = exec c { s with pending := rest }

/-- Every command answers a next state and leaves the queue alone, and a device that does not run does nothing in a row that is neither
of power or reset, nor of the time base or of a pin (the model's log entry 3). -/
def Obligations.EveryCommandAnswers : Prop :=
  ∀ (c : Instr) (s : State),
    (∃ t, exec c s = .next t ∧ t.pending = s.pending)
    ∧ (powerRow c = false → boardRow c = false → s.dev.live = false → exec c s = .next { s with dev := s.dev.fresh })

/-- What follows every command at once touches nothing but the pending bits of interrupt sources and the alert latch, and clears
neither (R445, R512). -/
def Obligations.WhatFollowsACommand : Prop :=
  ∀ old d : Device,
    old.settle d = { d with
      intc := { d.intc with src := (old.settle d).intc.src }
      smb := { d.smb with alert := (old.settle d).smb.alert } }
    ∧ (∀ n : Fin 512, (old.settle d).intc.src[n] = { d.intc.src[n] with pend := (old.settle d).intc.src[n].pend })
    ∧ (∀ n : Fin 512, d.intc.src[n].pend = true → (old.settle d).intc.src[n].pend = true)
    ∧ ∀ i : Nat, d.smb.alert.getLsbD i = true → (old.settle d).smb.alert.getLsbD i = true

/-- State.reset holds the values the spec gives after power-on: the queue empty, the time base at 0, CC0 running and no other core,
start-up not ended, the admin role on Port 0, every account enabled on Port 0 and none on Port 1, every limit 0, nothing stored, no event
recorded and RESET_KIND waiting for the recorder, no program loaded (R38, R280, R323, R442, R454, R469, R488, R490, R505, R508). -/
def Obligations.ResetHoldsTheSpecsValues : Prop :=
  State.reset.pending = [] ∧ State.reset.dev.live = true ∧ State.reset.AlertInv ∧ State.reset.dev.tb.now = 0
  ∧ State.reset.dev.sec.ready = false ∧ State.reset.dev.sec.state = .bootRom ∧ State.reset.dev.admin.port = 0
  ∧ (∀ c : Fin 4, State.reset.dev.cores[c].running = decide (c = 0))
  ∧ (∀ a : BitVec 6, State.reset.dev.accountEnabled 0 a = true ∧ State.reset.dev.accountEnabled 1 a = false)
  ∧ (∀ a : Fin 64, State.reset.dev.mem.quotas[a].t1 = 0 ∧ State.reset.dev.mem.quotas[a].t2 = 0
      ∧ ∀ n : Fin 8, State.reset.dev.mem.quotas[a].t0[n] = 0)
  ∧ (∀ n : Fin 512, State.reset.dev.intc.src[n].filter =
      if n.val = 2 then 100 else if n.val = 1 ∨ n.val = 3 ∨ n.val = 4 ∨ n.val = 5 then 16 else 1)
  ∧ State.reset.dev.mem.mem = [] ∧ State.reset.dev.mem.objects = [] ∧ Cells.wf State.reset.dev.mem.mem = true
  ∧ State.reset.dev.evr.records = [] ∧ State.reset.dev.evr.queue.map Occurrence.code = [0x0B04] ∧ State.reset.dev.opens = []
  ∧ (∀ k : Fin 16, State.reset.dev.progs[k] = none ∧ State.reset.dev.aster.spaces[k] = none)
  ∧ ∀ p : Fin 2, State.reset.dev.ports[p].window = [] ∧ State.reset.dev.ports[p].replay = [] ∧ State.reset.dev.ports[p].enabled = false

/-- The alert invariant holds after every step, whatever state the step began in (R512). -/
def Obligations.EveryStepLatchesItsAlerts : Prop :=
  ∀ s t : State, step s = .next t → t.AlertInv

/-- A change of IDLE, QUIESCED or FAULTED of any block instance asserts its interrupt source: after a command of a running device, other
than one of power, SYSRST_N or a reset, every source whose flags have changed and whose FILTER is at most 1 is pending (R445, R446). -/
def Obligations.FlagChangesRaiseTheirSource : Prop :=
  ∀ (c : Instr) (s t : State), s.dev.live = true → powerRow c = false → exec c s = .next t → t.dev.evr.epoch = s.dev.evr.epoch →
    ∀ (i : Nat) (a b : Nat × Bool × Bool × Bool), s.dev.flags[i]? = some a → t.dev.flags[i]? = some b → a ≠ b →
      ∀ n : Fin 512, b.1 = n.val → t.dev.intc.src[n].filter.toNat ≤ 1 → t.dev.intc.src[n].pend = true

/-! ### Host commands and register writes in general -/

/-- Every command of the opcode index meets the header checks in their order: a tag in the replay window is replayed, then a command not
available, a reserved class or a power class without a promise, an account that is not enabled, a promise of a command that cannot be
promised, and an admin-only command from the other port are each answered with their status and do nothing else (R332, R333, R334, R506,
R508). None is dispatched while a command dispatched before reads from its host (the model's log entry 163). -/
def Obligations.HeaderChecksDecide : Prop :=
  ∀ k ∈ hostCommands, ∀ (h : CmdHdr) (ps : List Byte) (d : Device),
    let op : Word16 := BitVec.ofNat 16 k.op
    let held := d.ports[h.port].replay.find? fun r => r.tag == h.tag
    let open' (st : Status) : Prop := k.run h ps d = (d.openCommand op h).finish ⟨h, op⟩ st
    (d.dispatchWaits = true → k.run h ps d = d)
    ∧ (∀ orig, d.dispatchWaits = false → held = some orig → k.run h ps d = d.replayPacket h op orig)
    ∧ (d.dispatchWaits = false → held = none →
        (sessionOpcode op = false → d.sec.state ≠ .running → open' .badOpcode)
        ∧ (sessionOpcode op = true ∨ d.sec.state = .running →
            (2 ≤ h.cls.toNat → open' .badParam)
            ∧ (h.cls = 0 → h.powerClass ≠ 0 → open' .badParam)
            ∧ (h.cls.toNat < 2 → h.cls = 1 ∨ h.powerClass = 0 → sessionOpcode op = false →
                d.accountEnabled h.port h.account = false → open' .badParam)
            ∧ (sessionOpcode op = true ∨ d.accountEnabled h.port h.account = true →
                (h.cls = 1 → promisable op = false →
                  k.run h ps d = (d.openCommand op h).refuseTime ⟨h, op⟩ .notPromisable)
                ∧ (h.cls = 0 → h.powerClass = 0 → k.admin h ps = true → d.isAdmin h.port = false → open' .notAdmin))))

/-- A register write that its requester may not make changes no register: it is discarded, and a port's is reported through AER and
logged with the BAR0 offset as source; nothing arrives over a link that is down (R507). -/
def Obligations.RefusedWritesChangeNothing : Prop :=
  ∀ (s : State) (c : Instr) (req : Requester) (off : Nat) (own : Option (Fin 2)), s.dev.live = true →
    writtenRegister c = some (req, off, own) →
    (req = .smbus ∨ req = .jtag → Idles c s)
    ∧ (∀ p, req = .port p → s.dev.linkUp p = false → Idles c s)
    ∧ ∀ p, req = .port p → s.dev.linkUp p = true → s.dev.isAdmin p = false → own ≠ some p → Runs c s fun d =>
        (d.emit (.aerCompleterAbort p)).logEvent 0x0A05 .warn off p.val (srcIntake p)

/-- A final reply: TAIL moves on by one; over a link that is up the 32 bytes of the reply stand in the entry of the ring that TAIL named,
and every other byte of that host's memory is as before; over a link that is down the reply is counted as lost and no byte changes; the
command is no longer open, and the other port is untouched (R329, R330, R509). -/
def Obligations.ReplyReachesItsRing : Prop :=
  ∀ (d : Device) (c : OpenCmd) (st : Status) (result : Nat),
    let p := c.hdr.port
    let q := d.ports[p]
    let entry := q.replyBase.toNat + 32 * (q.tail.toNat % q.ringSize)
    let r : Reply := { tag := c.hdr.tag, opcode := c.opcode, status := st, result := BitVec.ofNat 64 result }
    let bs := r.bytes q.consumed (q.replyPhase q.tail.toNat)
    let e := d.finish c st result
    bs.length = 32 ∧ e.ports[p].tail = q.tail + 1 ∧ e.opens = d.opens.erase c
    ∧ (d.linkUp p = true →
        (∀ i b, bs[i]? = some b → Cells.get e.ports[p].hostMem (entry + i) = b)
        ∧ (∀ a, a < entry ∨ entry + 32 ≤ a → Cells.get e.ports[p].hostMem a = Cells.get q.hostMem a)
        ∧ e.ports[p].lostReplies = q.lostReplies)
    ∧ (d.linkUp p = false → e.ports[p].hostMem = q.hostMem ∧ e.ports[p].lostReplies = bump q.lostReplies)
    ∧ (∀ o : Fin 2, o ≠ p → e.ports[o] = d.ports[o])
    ∧ e.mem = d.mem ∧ e.progs = d.progs ∧ e.sec = d.sec ∧ e.seed = d.seed

/-! ### Rules stated whole -/

/-- SVN_INCREMENT (R482): the counter takes one more when the write commits, the command is refused when it would exceed the running
firmware's IMAGE_SVN, and no image with a lower IMAGE_SVN starts. -/
def Obligations.SvnIncrementRaisesTheCounter : Prop :=
  (∀ (s : State) (h : CmdHdr), s.dev.live = true → s.dev.passesAdmin 0x0B02 h →
    (s.dev.seed.svn + 1 ≤ s.dev.sec.imageSvn.toNat → Runs (.svnIncrement h) s fun d =>
      (d.openCommand 0x0B02 h).seedCommand ⟨h, 0x0B02⟩ .svn)
    ∧ (s.dev.sec.imageSvn.toNat < s.dev.seed.svn + 1 → Rejects (.svnIncrement h) 0x0B02 h s .badParam))
  ∧ (∀ (d : Device) (o : SeedOp) (rest : List SeedOp), o.write = .svn → (d.seedCommitHead o rest).seed.svn = d.seed.svn + 1)
  ∧ ∀ (s t : State) (h : CmdHdr) (length : Word32), s.dev.live = true → s.dev.sec.state ≠ .running →
      exec (.fwStart h length) s = .next t → t.dev.sec.state = .running →
      s.dev.seed.svn ≤ fieldAt (s.dev.sec.image.map Prod.snd) 8 4

/-- After every reset CC0 begins in the boot ROM and the other cores are held; CC_RUN releases one at CC_ENTRY, and clearing its bit
resets it, so that nothing of its state is kept (R442; INTC_THRESH is a register of the INTC and the EVR_POST area one of the recorder, not state of
the core). -/
def Obligations.CoresStartAndStop : Prop :=
  (∀ (d : Device) (kind : BitVec 2), ((d.resetTo kind).cores[(0 : Fin 4)]).running = true ∧ ((d.resetTo kind).cores[(0 : Fin 4)]).pc = 0
    ∧ ∀ c : Fin 4, c ≠ 0 → ((d.resetTo kind).cores[c]).running = false)
  ∧ (∀ d : Device, (d.startUp.cores[(0 : Fin 4)]).running = true ∧ (d.startUp.cores[(0 : Fin 4)]).pc = 0
    ∧ ∀ c : Fin 4, c ≠ 0 → (d.startUp.cores[c]).running = false)
  ∧ ∀ (s : State) (req : Requester) (v : Word32), s.dev.live = true → s.dev.mayWrite req none = true →
      ∃ t, exec (.ccRunWrite req v) s = .next t ∧ t.dev.cores[(0 : Fin 4)] = s.dev.cores[(0 : Fin 4)]
        ∧ (∀ c : Fin 4, c ≠ 0 → v.getLsbD c.val = false → t.dev.cores[c] =
            { threshold := s.dev.cores[c].threshold, postImage := s.dev.cores[c].postImage, postWritten := s.dev.cores[c].postWritten })
        ∧ (∀ c : Fin 4, c ≠ 0 → v.getLsbD c.val = true → s.dev.cores[c].running = false →
            t.dev.cores[c] = { s.dev.cores[c] with running := true, pc := s.dev.intc.entry })
        ∧ ∀ c : Fin 4, c ≠ 0 → v.getLsbD c.val = true → s.dev.cores[c].running = true → t.dev.cores[c] = s.dev.cores[c]

/-- The shards of a bucket (R190): contiguous, in increasing index, of ⌊P/G⌋ + 1 blocks below P mod G and of ⌊P/G⌋ from there on, all
P blocks between them; shard i of bucket b belongs to the member of flat index (i + b) mod G. -/
def Obligations.ShardsTileTheBucket : Prop :=
  ∀ P G : Nat, 0 < G →
    (∀ i, shardCount P G i = if i < P % G then P / G + 1 else P / G)
    ∧ shardStart P G 0 = 0 ∧ (∀ i, i < G → shardStart P G (i + 1) = shardStart P G i + shardCount P G i) ∧ shardStart P G G = P
    ∧ ∀ i b, i < G → shardOwner G i b = (i + b) % G ∧ ownedShard G (shardOwner G i b) b = i

/-- No narrowing writes a negative zero, and a negative zero reads as zero (R46): W32 results, Z16 results under any rounding, the codes
of a Z4 block, and H16 exports of a value that rounds to zero. -/
def Obligations.NoNegativeZeroIsWritten : Prop :=
  (ofW32 0x80000000).m = 0 ∧ (ofZ16 0x8000).m = 0
  ∧ (∀ x : Dyad, toW32 x ≠ 0x80000000)
  ∧ (∀ (r : Rounding) (w : Word32), (w32ToZ16 r w).1 ≠ 0x8000)
  ∧ (∀ x : Dyad, (toH16 x).1 ≠ 0x8000)
  ∧ ∀ (c : BitVec 8) (r : Rounding) (w : Word32), (z4Encode c r w).1 ≠ 8
end

