-- ==== Sys2Proof/Laws/Cells.lean ====
section
/-! SUPPORT. The byte stores: every operation keeps the canonical form, a read after a write gives what was written, and no other byte
changes. -/

namespace Sys2Proof.Machine

/-- The canonical form of a list with a head: its byte is not zero, its address lies below all others, and the rest is canonical. -/
theorem Cells.wf_cons (a : Nat) (b : Byte) (m : List Host.Cell) :
    Cells.wf ((a, b) :: m) = true ↔ b ≠ 0 ∧ (∀ c ∈ m, a < c.1) ∧ Cells.wf m = true := by
  induction m generalizing a b with
  | nil => simp [Cells.wf]
  | cons c r ih =>
    obtain ⟨y, w⟩ := c
    simp only [Cells.wf, Bool.and_eq_true, bne_iff_ne, ne_eq, decide_eq_true_eq, ih, List.mem_cons, forall_eq_or_imp]
    constructor
    · rintro ⟨⟨hb, hxy⟩, hw, hlt, hr⟩
      exact ⟨hb, ⟨hxy, fun c hc => Nat.lt_trans hxy (hlt c hc)⟩, hw, hlt, hr⟩
    · rintro ⟨hb, ⟨hxy, _⟩, hw, hlt, hr⟩
      exact ⟨⟨hb, hxy⟩, hw, hlt, hr⟩

/-- Every address of a store after a write was there before or is the one written. -/
theorem Cells.mem_put {m : List Host.Cell} {a : Nat} {b : Byte} {c : Host.Cell} (h : c ∈ Cells.put m a b) : c ∈ m ∨ c.1 = a := by
  induction m with
  | nil => simp only [Cells.put] at h; split at h <;> simp_all
  | cons x r ih =>
    obtain ⟨y, w⟩ := x
    simp only [Cells.put] at h
    split at h
    · split at h <;> simp_all
      rcases h with rfl | h <;> simp_all
    · split at h
      · split at h <;> simp_all
        rcases h with rfl | h <;> simp_all
      · simp only [List.mem_cons] at h ⊢
        rcases h with rfl | h
        · exact .inl (.inl rfl)
        · rcases ih h with h | h
          · exact .inl (.inr h)
          · exact .inr h

/-- A write keeps the canonical form. -/
theorem Cells.wf_put {m : List Host.Cell} (a : Nat) (b : Byte) (h : Cells.wf m = true) : Cells.wf (Cells.put m a b) = true := by
  induction m with
  | nil => simp only [Cells.put]; split <;> simp_all [Cells.wf]
  | cons x r ih =>
    obtain ⟨y, w⟩ := x
    obtain ⟨hw, hlt, hr⟩ := (Cells.wf_cons y w r).1 h
    simp only [Cells.put]
    split
    · split
      · exact h
      · rename_i hay hb
        exact (Cells.wf_cons _ _ _).2
          ⟨hb, fun c hc => (List.mem_cons.1 hc).elim (fun e => e ▸ hay) fun hc => Nat.lt_trans hay (hlt c hc), h⟩
    · split
      · split
        · exact hr
        · rename_i hay hb
          exact (Cells.wf_cons _ _ _).2 ⟨hb, fun c hc => hay ▸ hlt c hc, hr⟩
      · rename_i h1 h2
        refine (Cells.wf_cons _ _ _).2 ⟨hw, fun c hc => ?_, ih hr⟩
        rcases Cells.mem_put hc with hc | hc
        · exact hlt c hc
        · omega

/-- A byte below every listed address reads zero. -/
theorem Cells.get_below {m : List Host.Cell} {a : Nat} (h : ∀ c ∈ m, a < c.1) : Cells.get m a = 0 := by
  induction m with
  | nil => rfl
  | cons x r ih =>
    obtain ⟨y, w⟩ := x
    have hy : a < y := h (y, w) List.mem_cons_self
    rw [Cells.get, if_neg (by omega)]
    exact ih fun c hc => h c (List.mem_cons_of_mem _ hc)

/-- A read after a write of one byte. -/
theorem Cells.get_put {m : List Host.Cell} (a : Nat) (b : Byte) (x : Nat) (h : Cells.wf m = true) :
    Cells.get (Cells.put m a b) x = if x = a then b else Cells.get m x := by
  induction m with
  | nil =>
    simp only [Cells.put]
    split <;> simp_all [Cells.get]
  | cons c r ih =>
    obtain ⟨y, w⟩ := c
    obtain ⟨hw, hlt, hr⟩ := (Cells.wf_cons y w r).1 h
    simp only [Cells.put]
    split
    · rename_i hay
      have hz : Cells.get ((y, w) :: r) a = 0 :=
        Cells.get_below fun c hc => (List.mem_cons.1 hc).elim (fun e => e ▸ hay) fun hc => Nat.lt_trans hay (hlt c hc)
      split
      · split <;> simp_all
      · simp [Cells.get]
    · split
      · rename_i h1 h2
        subst h2
        have hz : Cells.get r a = 0 := Cells.get_below hlt
        split
        · simp only [Cells.get]; split <;> simp_all
        · simp only [Cells.get]; split <;> rfl
      · rename_i h1 h2
        simp only [Cells.get, ih hr]
        split <;> split <;> first | rfl | omega

/-- Consecutive writes keep the canonical form. -/
theorem Cells.wf_store {m : List Host.Cell} (a : Nat) (bs : List Byte) (h : Cells.wf m = true) :
    Cells.wf (Cells.store m a bs) = true := by
  induction bs generalizing m a with
  | nil => exact h
  | cons b r ih => exact ih (a + 1) (Cells.wf_put a b h)

/-- A read after consecutive writes: the byte written where one was, and what stood there anywhere else. -/
theorem Cells.get_store {m : List Host.Cell} (a : Nat) (bs : List Byte) (x : Nat) (h : Cells.wf m = true) :
    Cells.get (Cells.store m a bs) x = if a ≤ x ∧ x < a + bs.length then bs.getD (x - a) 0 else Cells.get m x := by
  induction bs generalizing m a with
  | nil => rw [if_neg fun h => Nat.not_lt_of_le h.1 h.2]; rfl
  | cons b r ih =>
    rw [Cells.store, ih (a + 1) (Cells.wf_put a b h), Cells.get_put a b x h]
    simp only [List.length_cons]
    by_cases h1 : a + 1 ≤ x ∧ x < a + 1 + r.length
    · rw [if_pos h1, if_pos (by omega), show x - a = (x - (a + 1)) + 1 by omega, List.getD_cons_succ]
    · rw [if_neg h1]
      by_cases h2 : x = a
      · subst h2
        rw [if_pos rfl, if_pos (by omega), Nat.sub_self, List.getD_cons_zero]
      · rw [if_neg h2, if_neg (by omega)]

/-- Bytes forgotten keep the canonical form. -/
theorem Cells.wf_filter {m : List Host.Cell} (p : Host.Cell → Bool) (h : Cells.wf m = true) : Cells.wf (m.filter p) = true := by
  induction m with
  | nil => rfl
  | cons c r ih =>
    obtain ⟨y, w⟩ := c
    obtain ⟨hw, hlt, hr⟩ := (Cells.wf_cons y w r).1 h
    rw [List.filter_cons]
    split
    · exact (Cells.wf_cons _ _ _).2 ⟨hw, fun c hc => hlt c (List.mem_filter.1 hc).1, ih hr⟩
    · exact ih hr

theorem Cells.wf_erase {m : List Host.Cell} (a n : Nat) (h : Cells.wf m = true) : Cells.wf (Cells.erase m a n) = true :=
  Cells.wf_filter _ h

/-- A read after a range was forgotten: zero inside it, what stood there anywhere else. -/
theorem Cells.get_erase (m : List Host.Cell) (a n x : Nat) :
    Cells.get (Cells.erase m a n) x = if a ≤ x ∧ x < a + n then 0 else Cells.get m x := by
  induction m with
  | nil => simp [Cells.erase, Cells.get]
  | cons c r ih =>
    obtain ⟨y, w⟩ := c
    simp only [Cells.erase] at ih
    simp only [Cells.erase, List.filter_cons]
    split <;> rename_i hy
    · simp only [decide_eq_true_eq] at hy
      simp only [Cells.get, ih]
      by_cases hx : x = y
      · subst hx; rw [if_pos rfl, if_pos rfl, if_neg (by omega)]
      · rw [if_neg hx, if_neg hx]
    · simp only [decide_eq_true_eq] at hy
      simp only [Cells.get, ih]
      by_cases hx : x = y
      · subst hx; rw [if_pos rfl, if_pos (by omega), if_pos (by omega)]
      · rw [if_neg hx]

/-- A read after one noted byte: notes need no canonical form. -/
theorem Cells.get_note (m : List Host.Cell) (a : Nat) (b : Byte) (x : Nat) :
    Cells.get (Cells.note m a b) x = if x = a then b else Cells.get m x := by
  induction m with
  | nil => simp [Cells.note, Cells.get]
  | cons c r ih =>
    obtain ⟨y, w⟩ := c
    simp only [Cells.note]
    split
    · simp [Cells.get]
    · split
      · rename_i h; subst h; simp only [Cells.get]; split <;> rfl
      · simp only [Cells.get, ih]; split <;> split <;> first | rfl | omega

/-- A read after consecutive noted bytes. -/
theorem Cells.get_noteAll (m : List Host.Cell) (a : Nat) (bs : List Byte) (x : Nat) :
    Cells.get (Cells.noteAll m a bs) x = if a ≤ x ∧ x < a + bs.length then bs.getD (x - a) 0 else Cells.get m x := by
  induction bs generalizing m a with
  | nil => rw [if_neg fun h => Nat.not_lt_of_le h.1 h.2]; rfl
  | cons b r ih =>
    rw [Cells.noteAll, ih, Cells.get_note]
    simp only [List.length_cons]
    by_cases h1 : a + 1 ≤ x ∧ x < a + 1 + r.length
    · rw [if_pos h1, if_pos (by omega), show x - a = (x - (a + 1)) + 1 by omega, List.getD_cons_succ]
    · rw [if_neg h1]
      by_cases h2 : x = a
      · subst h2
        rw [if_pos rfl, if_pos (by omega), Nat.sub_self, List.getD_cons_zero]
      · rw [if_neg h2, if_neg (by omega)]

end Sys2Proof.Machine
end

