-- ==== Sys2Proof/Laws/State.lean ====
section
/-! SUPPORT. What each update of the state leaves in each field, true by unfolding: one lemma per field per update, so that no
proof unfolds a record update. -/

namespace Sys2Proof.Machine

@[simp] theorem State.withPending_dev (s : State) (q : List Instr) : (s.withPending q).dev = s.dev := rfl
@[simp] theorem State.withPending_pending (s : State) (q : List Instr) : (s.withPending q).pending = q := rfl
@[simp] theorem State.withPending_self (s : State) : s.withPending s.pending = s := rfl

section
variable (d : Device) (o : Output)
@[simp] theorem Device.emit_pins : (d.emit o).pins = d.pins := rfl
@[simp] theorem Device.emit_tb : (d.emit o).tb = d.tb := rfl
@[simp] theorem Device.emit_sec : (d.emit o).sec = d.sec := rfl
@[simp] theorem Device.emit_seed : (d.emit o).seed = d.seed := rfl
@[simp] theorem Device.emit_intc : (d.emit o).intc = d.intc := rfl
@[simp] theorem Device.emit_cores : (d.emit o).cores = d.cores := rfl
@[simp] theorem Device.emit_evr : (d.emit o).evr = d.evr := rfl
@[simp] theorem Device.emit_readShadow : (d.emit o).readShadow = d.readShadow := rfl
@[simp] theorem Device.emit_writeShadow : (d.emit o).writeShadow = d.writeShadow := rfl
@[simp] theorem Device.emit_ports : (d.emit o).ports = d.ports := rfl
@[simp] theorem Device.emit_admin : (d.emit o).admin = d.admin := rfl
@[simp] theorem Device.emit_opens : (d.emit o).opens = d.opens := rfl
@[simp] theorem Device.emit_dmaReads : (d.emit o).dmaReads = d.dmaReads := rfl
@[simp] theorem Device.emit_dmaNext : (d.emit o).dmaNext = d.dmaNext := rfl
@[simp] theorem Device.emit_lists : (d.emit o).lists = d.lists := rfl
@[simp] theorem Device.emit_adm : (d.emit o).adm = d.adm := rfl
@[simp] theorem Device.emit_smb : (d.emit o).smb = d.smb := rfl
@[simp] theorem Device.emit_mem : (d.emit o).mem = d.mem := rfl
@[simp] theorem Device.emit_progs : (d.emit o).progs = d.progs := rfl
@[simp] theorem Device.emit_arrays : (d.emit o).arrays = d.arrays := rfl
@[simp] theorem Device.emit_tun : (d.emit o).tun = d.tun := rfl
@[simp] theorem Device.emit_aster : (d.emit o).aster = d.aster := rfl
@[simp] theorem Device.emit_fab : (d.emit o).fab = d.fab := rfl
@[simp] theorem Device.emit_bel : (d.emit o).bel = d.bel := rfl
@[simp] theorem Device.emit_integ : (d.emit o).integ = d.integ := rfl
@[simp] theorem Device.emit_free : (d.emit o).free = d.free := rfl
@[simp] theorem Device.emit_out : (d.emit o).out = d.out ++ [o] := rfl
end

section
variable (d : Device)
@[simp] theorem Device.fresh_pins : d.fresh.pins = d.pins := rfl
@[simp] theorem Device.fresh_tb : d.fresh.tb = d.tb := rfl
@[simp] theorem Device.fresh_sec : d.fresh.sec = d.sec := rfl
@[simp] theorem Device.fresh_seed : d.fresh.seed = d.seed := rfl
@[simp] theorem Device.fresh_intc : d.fresh.intc = d.intc := rfl
@[simp] theorem Device.fresh_cores : d.fresh.cores = d.cores := rfl
@[simp] theorem Device.fresh_evr : d.fresh.evr = d.evr := rfl
@[simp] theorem Device.fresh_readShadow : d.fresh.readShadow = d.readShadow := rfl
@[simp] theorem Device.fresh_writeShadow : d.fresh.writeShadow = d.writeShadow := rfl
@[simp] theorem Device.fresh_ports : d.fresh.ports = d.ports := rfl
@[simp] theorem Device.fresh_admin : d.fresh.admin = d.admin := rfl
@[simp] theorem Device.fresh_opens : d.fresh.opens = d.opens := rfl
@[simp] theorem Device.fresh_dmaReads : d.fresh.dmaReads = d.dmaReads := rfl
@[simp] theorem Device.fresh_dmaNext : d.fresh.dmaNext = d.dmaNext := rfl
@[simp] theorem Device.fresh_lists : d.fresh.lists = d.lists := rfl
@[simp] theorem Device.fresh_adm : d.fresh.adm = d.adm := rfl
@[simp] theorem Device.fresh_smb : d.fresh.smb = d.smb := rfl
@[simp] theorem Device.fresh_mem : d.fresh.mem = d.mem := rfl
@[simp] theorem Device.fresh_progs : d.fresh.progs = d.progs := rfl
@[simp] theorem Device.fresh_arrays : d.fresh.arrays = d.arrays := rfl
@[simp] theorem Device.fresh_tun : d.fresh.tun = d.tun := rfl
@[simp] theorem Device.fresh_aster : d.fresh.aster = d.aster := rfl
@[simp] theorem Device.fresh_fab : d.fresh.fab = d.fab := rfl
@[simp] theorem Device.fresh_bel : d.fresh.bel = d.bel := rfl
@[simp] theorem Device.fresh_integ : d.fresh.integ = d.integ := rfl
@[simp] theorem Device.fresh_free : d.fresh.free = d.free := rfl
@[simp] theorem Device.fresh_out : d.fresh.out = [] := rfl
end

section
variable (d : Device) (p : Fin 2) (f : HostPort → HostPort)
@[simp] theorem Device.updPort_pins : (d.updPort p f).pins = d.pins := rfl
@[simp] theorem Device.updPort_tb : (d.updPort p f).tb = d.tb := rfl
@[simp] theorem Device.updPort_sec : (d.updPort p f).sec = d.sec := rfl
@[simp] theorem Device.updPort_seed : (d.updPort p f).seed = d.seed := rfl
@[simp] theorem Device.updPort_intc : (d.updPort p f).intc = d.intc := rfl
@[simp] theorem Device.updPort_cores : (d.updPort p f).cores = d.cores := rfl
@[simp] theorem Device.updPort_evr : (d.updPort p f).evr = d.evr := rfl
@[simp] theorem Device.updPort_readShadow : (d.updPort p f).readShadow = d.readShadow := rfl
@[simp] theorem Device.updPort_writeShadow : (d.updPort p f).writeShadow = d.writeShadow := rfl
@[simp] theorem Device.updPort_ports : (d.updPort p f).ports = Bank.upd d.ports p f := rfl
@[simp] theorem Device.updPort_admin : (d.updPort p f).admin = d.admin := rfl
@[simp] theorem Device.updPort_opens : (d.updPort p f).opens = d.opens := rfl
@[simp] theorem Device.updPort_dmaReads : (d.updPort p f).dmaReads = d.dmaReads := rfl
@[simp] theorem Device.updPort_dmaNext : (d.updPort p f).dmaNext = d.dmaNext := rfl
@[simp] theorem Device.updPort_lists : (d.updPort p f).lists = d.lists := rfl
@[simp] theorem Device.updPort_adm : (d.updPort p f).adm = d.adm := rfl
@[simp] theorem Device.updPort_smb : (d.updPort p f).smb = d.smb := rfl
@[simp] theorem Device.updPort_mem : (d.updPort p f).mem = d.mem := rfl
@[simp] theorem Device.updPort_progs : (d.updPort p f).progs = d.progs := rfl
@[simp] theorem Device.updPort_arrays : (d.updPort p f).arrays = d.arrays := rfl
@[simp] theorem Device.updPort_tun : (d.updPort p f).tun = d.tun := rfl
@[simp] theorem Device.updPort_aster : (d.updPort p f).aster = d.aster := rfl
@[simp] theorem Device.updPort_fab : (d.updPort p f).fab = d.fab := rfl
@[simp] theorem Device.updPort_bel : (d.updPort p f).bel = d.bel := rfl
@[simp] theorem Device.updPort_integ : (d.updPort p f).integ = d.integ := rfl
@[simp] theorem Device.updPort_free : (d.updPort p f).free = d.free := rfl
@[simp] theorem Device.updPort_out : (d.updPort p f).out = d.out := rfl
end

section
variable (d : Device) (n : Fin 8) (f : ArrayState → ArrayState)
@[simp] theorem Device.updArray_pins : (d.updArray n f).pins = d.pins := rfl
@[simp] theorem Device.updArray_tb : (d.updArray n f).tb = d.tb := rfl
@[simp] theorem Device.updArray_sec : (d.updArray n f).sec = d.sec := rfl
@[simp] theorem Device.updArray_seed : (d.updArray n f).seed = d.seed := rfl
@[simp] theorem Device.updArray_intc : (d.updArray n f).intc = d.intc := rfl
@[simp] theorem Device.updArray_cores : (d.updArray n f).cores = d.cores := rfl
@[simp] theorem Device.updArray_evr : (d.updArray n f).evr = d.evr := rfl
@[simp] theorem Device.updArray_readShadow : (d.updArray n f).readShadow = d.readShadow := rfl
@[simp] theorem Device.updArray_writeShadow : (d.updArray n f).writeShadow = d.writeShadow := rfl
@[simp] theorem Device.updArray_ports : (d.updArray n f).ports = d.ports := rfl
@[simp] theorem Device.updArray_admin : (d.updArray n f).admin = d.admin := rfl
@[simp] theorem Device.updArray_opens : (d.updArray n f).opens = d.opens := rfl
@[simp] theorem Device.updArray_dmaReads : (d.updArray n f).dmaReads = d.dmaReads := rfl
@[simp] theorem Device.updArray_dmaNext : (d.updArray n f).dmaNext = d.dmaNext := rfl
@[simp] theorem Device.updArray_lists : (d.updArray n f).lists = d.lists := rfl
@[simp] theorem Device.updArray_adm : (d.updArray n f).adm = d.adm := rfl
@[simp] theorem Device.updArray_smb : (d.updArray n f).smb = d.smb := rfl
@[simp] theorem Device.updArray_mem : (d.updArray n f).mem = d.mem := rfl
@[simp] theorem Device.updArray_progs : (d.updArray n f).progs = d.progs := rfl
@[simp] theorem Device.updArray_arrays : (d.updArray n f).arrays = Bank.upd d.arrays n f := rfl
@[simp] theorem Device.updArray_tun : (d.updArray n f).tun = d.tun := rfl
@[simp] theorem Device.updArray_aster : (d.updArray n f).aster = d.aster := rfl
@[simp] theorem Device.updArray_fab : (d.updArray n f).fab = d.fab := rfl
@[simp] theorem Device.updArray_bel : (d.updArray n f).bel = d.bel := rfl
@[simp] theorem Device.updArray_integ : (d.updArray n f).integ = d.integ := rfl
@[simp] theorem Device.updArray_free : (d.updArray n f).free = d.free := rfl
@[simp] theorem Device.updArray_out : (d.updArray n f).out = d.out := rfl
end

section
variable (d : Device) (c : Fin 4) (f : Core → Core)
@[simp] theorem Device.updCore_pins : (d.updCore c f).pins = d.pins := rfl
@[simp] theorem Device.updCore_tb : (d.updCore c f).tb = d.tb := rfl
@[simp] theorem Device.updCore_sec : (d.updCore c f).sec = d.sec := rfl
@[simp] theorem Device.updCore_seed : (d.updCore c f).seed = d.seed := rfl
@[simp] theorem Device.updCore_intc : (d.updCore c f).intc = d.intc := rfl
@[simp] theorem Device.updCore_cores : (d.updCore c f).cores = Bank.upd d.cores c f := rfl
@[simp] theorem Device.updCore_evr : (d.updCore c f).evr = d.evr := rfl
@[simp] theorem Device.updCore_readShadow : (d.updCore c f).readShadow = d.readShadow := rfl
@[simp] theorem Device.updCore_writeShadow : (d.updCore c f).writeShadow = d.writeShadow := rfl
@[simp] theorem Device.updCore_ports : (d.updCore c f).ports = d.ports := rfl
@[simp] theorem Device.updCore_admin : (d.updCore c f).admin = d.admin := rfl
@[simp] theorem Device.updCore_opens : (d.updCore c f).opens = d.opens := rfl
@[simp] theorem Device.updCore_dmaReads : (d.updCore c f).dmaReads = d.dmaReads := rfl
@[simp] theorem Device.updCore_dmaNext : (d.updCore c f).dmaNext = d.dmaNext := rfl
@[simp] theorem Device.updCore_lists : (d.updCore c f).lists = d.lists := rfl
@[simp] theorem Device.updCore_adm : (d.updCore c f).adm = d.adm := rfl
@[simp] theorem Device.updCore_smb : (d.updCore c f).smb = d.smb := rfl
@[simp] theorem Device.updCore_mem : (d.updCore c f).mem = d.mem := rfl
@[simp] theorem Device.updCore_progs : (d.updCore c f).progs = d.progs := rfl
@[simp] theorem Device.updCore_arrays : (d.updCore c f).arrays = d.arrays := rfl
@[simp] theorem Device.updCore_tun : (d.updCore c f).tun = d.tun := rfl
@[simp] theorem Device.updCore_aster : (d.updCore c f).aster = d.aster := rfl
@[simp] theorem Device.updCore_fab : (d.updCore c f).fab = d.fab := rfl
@[simp] theorem Device.updCore_bel : (d.updCore c f).bel = d.bel := rfl
@[simp] theorem Device.updCore_integ : (d.updCore c f).integ = d.integ := rfl
@[simp] theorem Device.updCore_free : (d.updCore c f).free = d.free := rfl
@[simp] theorem Device.updCore_out : (d.updCore c f).out = d.out := rfl
end

section
variable (d : Device) (k : Fin 20) (f : Stack → Stack)
@[simp] theorem Device.updStack_pins : (d.updStack k f).pins = d.pins := rfl
@[simp] theorem Device.updStack_tb : (d.updStack k f).tb = d.tb := rfl
@[simp] theorem Device.updStack_sec : (d.updStack k f).sec = d.sec := rfl
@[simp] theorem Device.updStack_seed : (d.updStack k f).seed = d.seed := rfl
@[simp] theorem Device.updStack_intc : (d.updStack k f).intc = d.intc := rfl
@[simp] theorem Device.updStack_cores : (d.updStack k f).cores = d.cores := rfl
@[simp] theorem Device.updStack_evr : (d.updStack k f).evr = d.evr := rfl
@[simp] theorem Device.updStack_readShadow : (d.updStack k f).readShadow = d.readShadow := rfl
@[simp] theorem Device.updStack_writeShadow : (d.updStack k f).writeShadow = d.writeShadow := rfl
@[simp] theorem Device.updStack_ports : (d.updStack k f).ports = d.ports := rfl
@[simp] theorem Device.updStack_admin : (d.updStack k f).admin = d.admin := rfl
@[simp] theorem Device.updStack_opens : (d.updStack k f).opens = d.opens := rfl
@[simp] theorem Device.updStack_dmaReads : (d.updStack k f).dmaReads = d.dmaReads := rfl
@[simp] theorem Device.updStack_dmaNext : (d.updStack k f).dmaNext = d.dmaNext := rfl
@[simp] theorem Device.updStack_lists : (d.updStack k f).lists = d.lists := rfl
@[simp] theorem Device.updStack_adm : (d.updStack k f).adm = d.adm := rfl
@[simp] theorem Device.updStack_smb : (d.updStack k f).smb = d.smb := rfl
@[simp] theorem Device.updStack_mem : (d.updStack k f).mem = { d.mem with hbm := Bank.upd d.mem.hbm k f } := rfl
@[simp] theorem Device.updStack_progs : (d.updStack k f).progs = d.progs := rfl
@[simp] theorem Device.updStack_arrays : (d.updStack k f).arrays = d.arrays := rfl
@[simp] theorem Device.updStack_tun : (d.updStack k f).tun = d.tun := rfl
@[simp] theorem Device.updStack_aster : (d.updStack k f).aster = d.aster := rfl
@[simp] theorem Device.updStack_fab : (d.updStack k f).fab = d.fab := rfl
@[simp] theorem Device.updStack_bel : (d.updStack k f).bel = d.bel := rfl
@[simp] theorem Device.updStack_integ : (d.updStack k f).integ = d.integ := rfl
@[simp] theorem Device.updStack_free : (d.updStack k f).free = d.free := rfl
@[simp] theorem Device.updStack_out : (d.updStack k f).out = d.out := rfl
end

section
variable (d : Device) (h : Fin 8) (f : Hearth → Hearth)
@[simp] theorem Device.updHearth_pins : (d.updHearth h f).pins = d.pins := rfl
@[simp] theorem Device.updHearth_tb : (d.updHearth h f).tb = d.tb := rfl
@[simp] theorem Device.updHearth_sec : (d.updHearth h f).sec = d.sec := rfl
@[simp] theorem Device.updHearth_seed : (d.updHearth h f).seed = d.seed := rfl
@[simp] theorem Device.updHearth_intc : (d.updHearth h f).intc = d.intc := rfl
@[simp] theorem Device.updHearth_cores : (d.updHearth h f).cores = d.cores := rfl
@[simp] theorem Device.updHearth_evr : (d.updHearth h f).evr = d.evr := rfl
@[simp] theorem Device.updHearth_readShadow : (d.updHearth h f).readShadow = d.readShadow := rfl
@[simp] theorem Device.updHearth_writeShadow : (d.updHearth h f).writeShadow = d.writeShadow := rfl
@[simp] theorem Device.updHearth_ports : (d.updHearth h f).ports = d.ports := rfl
@[simp] theorem Device.updHearth_admin : (d.updHearth h f).admin = d.admin := rfl
@[simp] theorem Device.updHearth_opens : (d.updHearth h f).opens = d.opens := rfl
@[simp] theorem Device.updHearth_dmaReads : (d.updHearth h f).dmaReads = d.dmaReads := rfl
@[simp] theorem Device.updHearth_dmaNext : (d.updHearth h f).dmaNext = d.dmaNext := rfl
@[simp] theorem Device.updHearth_lists : (d.updHearth h f).lists = d.lists := rfl
@[simp] theorem Device.updHearth_adm : (d.updHearth h f).adm = d.adm := rfl
@[simp] theorem Device.updHearth_smb : (d.updHearth h f).smb = d.smb := rfl
@[simp] theorem Device.updHearth_mem : (d.updHearth h f).mem = { d.mem with hearths := Bank.upd d.mem.hearths h f } := rfl
@[simp] theorem Device.updHearth_progs : (d.updHearth h f).progs = d.progs := rfl
@[simp] theorem Device.updHearth_arrays : (d.updHearth h f).arrays = d.arrays := rfl
@[simp] theorem Device.updHearth_tun : (d.updHearth h f).tun = d.tun := rfl
@[simp] theorem Device.updHearth_aster : (d.updHearth h f).aster = d.aster := rfl
@[simp] theorem Device.updHearth_fab : (d.updHearth h f).fab = d.fab := rfl
@[simp] theorem Device.updHearth_bel : (d.updHearth h f).bel = d.bel := rfl
@[simp] theorem Device.updHearth_integ : (d.updHearth h f).integ = d.integ := rfl
@[simp] theorem Device.updHearth_free : (d.updHearth h f).free = d.free := rfl
@[simp] theorem Device.updHearth_out : (d.updHearth h f).out = d.out := rfl
end

section
variable (d : Device) (p : Fin 8) (f : OctPort → OctPort)
@[simp] theorem Device.updOct_pins : (d.updOct p f).pins = d.pins := rfl
@[simp] theorem Device.updOct_tb : (d.updOct p f).tb = d.tb := rfl
@[simp] theorem Device.updOct_sec : (d.updOct p f).sec = d.sec := rfl
@[simp] theorem Device.updOct_seed : (d.updOct p f).seed = d.seed := rfl
@[simp] theorem Device.updOct_intc : (d.updOct p f).intc = d.intc := rfl
@[simp] theorem Device.updOct_cores : (d.updOct p f).cores = d.cores := rfl
@[simp] theorem Device.updOct_evr : (d.updOct p f).evr = d.evr := rfl
@[simp] theorem Device.updOct_readShadow : (d.updOct p f).readShadow = d.readShadow := rfl
@[simp] theorem Device.updOct_writeShadow : (d.updOct p f).writeShadow = d.writeShadow := rfl
@[simp] theorem Device.updOct_ports : (d.updOct p f).ports = d.ports := rfl
@[simp] theorem Device.updOct_admin : (d.updOct p f).admin = d.admin := rfl
@[simp] theorem Device.updOct_opens : (d.updOct p f).opens = d.opens := rfl
@[simp] theorem Device.updOct_dmaReads : (d.updOct p f).dmaReads = d.dmaReads := rfl
@[simp] theorem Device.updOct_dmaNext : (d.updOct p f).dmaNext = d.dmaNext := rfl
@[simp] theorem Device.updOct_lists : (d.updOct p f).lists = d.lists := rfl
@[simp] theorem Device.updOct_adm : (d.updOct p f).adm = d.adm := rfl
@[simp] theorem Device.updOct_smb : (d.updOct p f).smb = d.smb := rfl
@[simp] theorem Device.updOct_mem : (d.updOct p f).mem = d.mem := rfl
@[simp] theorem Device.updOct_progs : (d.updOct p f).progs = d.progs := rfl
@[simp] theorem Device.updOct_arrays : (d.updOct p f).arrays = d.arrays := rfl
@[simp] theorem Device.updOct_tun : (d.updOct p f).tun = d.tun := rfl
@[simp] theorem Device.updOct_aster : (d.updOct p f).aster = d.aster := rfl
@[simp] theorem Device.updOct_fab : (d.updOct p f).fab = { d.fab with ports := Bank.upd d.fab.ports p f } := rfl
@[simp] theorem Device.updOct_bel : (d.updOct p f).bel = d.bel := rfl
@[simp] theorem Device.updOct_integ : (d.updOct p f).integ = d.integ := rfl
@[simp] theorem Device.updOct_free : (d.updOct p f).free = d.free := rfl
@[simp] theorem Device.updOct_out : (d.updOct p f).out = d.out := rfl
end

section
variable (d : Device) (k : Fin 16) (f : Program → Program)
@[simp] theorem Device.updProg_pins : (d.updProg k f).pins = d.pins := rfl
@[simp] theorem Device.updProg_tb : (d.updProg k f).tb = d.tb := rfl
@[simp] theorem Device.updProg_sec : (d.updProg k f).sec = d.sec := rfl
@[simp] theorem Device.updProg_seed : (d.updProg k f).seed = d.seed := rfl
@[simp] theorem Device.updProg_intc : (d.updProg k f).intc = d.intc := rfl
@[simp] theorem Device.updProg_cores : (d.updProg k f).cores = d.cores := rfl
@[simp] theorem Device.updProg_evr : (d.updProg k f).evr = d.evr := rfl
@[simp] theorem Device.updProg_readShadow : (d.updProg k f).readShadow = d.readShadow := rfl
@[simp] theorem Device.updProg_writeShadow : (d.updProg k f).writeShadow = d.writeShadow := rfl
@[simp] theorem Device.updProg_ports : (d.updProg k f).ports = d.ports := rfl
@[simp] theorem Device.updProg_admin : (d.updProg k f).admin = d.admin := rfl
@[simp] theorem Device.updProg_opens : (d.updProg k f).opens = d.opens := rfl
@[simp] theorem Device.updProg_dmaReads : (d.updProg k f).dmaReads = d.dmaReads := rfl
@[simp] theorem Device.updProg_dmaNext : (d.updProg k f).dmaNext = d.dmaNext := rfl
@[simp] theorem Device.updProg_lists : (d.updProg k f).lists = d.lists := rfl
@[simp] theorem Device.updProg_adm : (d.updProg k f).adm = d.adm := rfl
@[simp] theorem Device.updProg_smb : (d.updProg k f).smb = d.smb := rfl
@[simp] theorem Device.updProg_mem : (d.updProg k f).mem = d.mem := rfl
@[simp] theorem Device.updProg_progs : (d.updProg k f).progs = Bank.upd d.progs k (Option.map f) := rfl
@[simp] theorem Device.updProg_arrays : (d.updProg k f).arrays = d.arrays := rfl
@[simp] theorem Device.updProg_tun : (d.updProg k f).tun = d.tun := rfl
@[simp] theorem Device.updProg_aster : (d.updProg k f).aster = d.aster := rfl
@[simp] theorem Device.updProg_fab : (d.updProg k f).fab = d.fab := rfl
@[simp] theorem Device.updProg_bel : (d.updProg k f).bel = d.bel := rfl
@[simp] theorem Device.updProg_integ : (d.updProg k f).integ = d.integ := rfl
@[simp] theorem Device.updProg_free : (d.updProg k f).free = d.free := rfl
@[simp] theorem Device.updProg_out : (d.updProg k f).out = d.out := rfl
end

section
variable (d : Device) (k : Fin 16) (p : Option Program)
@[simp] theorem Device.setProg_pins : (d.setProg k p).pins = d.pins := rfl
@[simp] theorem Device.setProg_tb : (d.setProg k p).tb = d.tb := rfl
@[simp] theorem Device.setProg_sec : (d.setProg k p).sec = d.sec := rfl
@[simp] theorem Device.setProg_seed : (d.setProg k p).seed = d.seed := rfl
@[simp] theorem Device.setProg_intc : (d.setProg k p).intc = d.intc := rfl
@[simp] theorem Device.setProg_cores : (d.setProg k p).cores = d.cores := rfl
@[simp] theorem Device.setProg_evr : (d.setProg k p).evr = d.evr := rfl
@[simp] theorem Device.setProg_readShadow : (d.setProg k p).readShadow = d.readShadow := rfl
@[simp] theorem Device.setProg_writeShadow : (d.setProg k p).writeShadow = d.writeShadow := rfl
@[simp] theorem Device.setProg_ports : (d.setProg k p).ports = d.ports := rfl
@[simp] theorem Device.setProg_admin : (d.setProg k p).admin = d.admin := rfl
@[simp] theorem Device.setProg_opens : (d.setProg k p).opens = d.opens := rfl
@[simp] theorem Device.setProg_dmaReads : (d.setProg k p).dmaReads = d.dmaReads := rfl
@[simp] theorem Device.setProg_dmaNext : (d.setProg k p).dmaNext = d.dmaNext := rfl
@[simp] theorem Device.setProg_lists : (d.setProg k p).lists = d.lists := rfl
@[simp] theorem Device.setProg_adm : (d.setProg k p).adm = d.adm := rfl
@[simp] theorem Device.setProg_smb : (d.setProg k p).smb = d.smb := rfl
@[simp] theorem Device.setProg_mem : (d.setProg k p).mem = d.mem := rfl
@[simp] theorem Device.setProg_progs : (d.setProg k p).progs = Bank.upd d.progs k fun _ => p := rfl
@[simp] theorem Device.setProg_arrays : (d.setProg k p).arrays = d.arrays := rfl
@[simp] theorem Device.setProg_tun : (d.setProg k p).tun = d.tun := rfl
@[simp] theorem Device.setProg_aster : (d.setProg k p).aster = d.aster := rfl
@[simp] theorem Device.setProg_fab : (d.setProg k p).fab = d.fab := rfl
@[simp] theorem Device.setProg_bel : (d.setProg k p).bel = d.bel := rfl
@[simp] theorem Device.setProg_integ : (d.setProg k p).integ = d.integ := rfl
@[simp] theorem Device.setProg_free : (d.setProg k p).free = d.free := rfl
@[simp] theorem Device.setProg_out : (d.setProg k p).out = d.out := rfl
end

section
variable (d : Device) (k : Fin 16) (f : Space → Space)
@[simp] theorem Device.updSpace_pins : (d.updSpace k f).pins = d.pins := rfl
@[simp] theorem Device.updSpace_tb : (d.updSpace k f).tb = d.tb := rfl
@[simp] theorem Device.updSpace_sec : (d.updSpace k f).sec = d.sec := rfl
@[simp] theorem Device.updSpace_seed : (d.updSpace k f).seed = d.seed := rfl
@[simp] theorem Device.updSpace_intc : (d.updSpace k f).intc = d.intc := rfl
@[simp] theorem Device.updSpace_cores : (d.updSpace k f).cores = d.cores := rfl
@[simp] theorem Device.updSpace_evr : (d.updSpace k f).evr = d.evr := rfl
@[simp] theorem Device.updSpace_readShadow : (d.updSpace k f).readShadow = d.readShadow := rfl
@[simp] theorem Device.updSpace_writeShadow : (d.updSpace k f).writeShadow = d.writeShadow := rfl
@[simp] theorem Device.updSpace_ports : (d.updSpace k f).ports = d.ports := rfl
@[simp] theorem Device.updSpace_admin : (d.updSpace k f).admin = d.admin := rfl
@[simp] theorem Device.updSpace_opens : (d.updSpace k f).opens = d.opens := rfl
@[simp] theorem Device.updSpace_dmaReads : (d.updSpace k f).dmaReads = d.dmaReads := rfl
@[simp] theorem Device.updSpace_dmaNext : (d.updSpace k f).dmaNext = d.dmaNext := rfl
@[simp] theorem Device.updSpace_lists : (d.updSpace k f).lists = d.lists := rfl
@[simp] theorem Device.updSpace_adm : (d.updSpace k f).adm = d.adm := rfl
@[simp] theorem Device.updSpace_smb : (d.updSpace k f).smb = d.smb := rfl
@[simp] theorem Device.updSpace_mem : (d.updSpace k f).mem = d.mem := rfl
@[simp] theorem Device.updSpace_progs : (d.updSpace k f).progs = d.progs := rfl
@[simp] theorem Device.updSpace_arrays : (d.updSpace k f).arrays = d.arrays := rfl
@[simp] theorem Device.updSpace_tun : (d.updSpace k f).tun = d.tun := rfl
@[simp] theorem Device.updSpace_aster : (d.updSpace k f).aster = { d.aster with spaces := Bank.upd d.aster.spaces k (Option.map f) } := rfl
@[simp] theorem Device.updSpace_fab : (d.updSpace k f).fab = d.fab := rfl
@[simp] theorem Device.updSpace_bel : (d.updSpace k f).bel = d.bel := rfl
@[simp] theorem Device.updSpace_integ : (d.updSpace k f).integ = d.integ := rfl
@[simp] theorem Device.updSpace_free : (d.updSpace k f).free = d.free := rfl
@[simp] theorem Device.updSpace_out : (d.updSpace k f).out = d.out := rfl
end

section
variable (d : Device) (k : Fin 16) (p : Option Space)
@[simp] theorem Device.setSpace_pins : (d.setSpace k p).pins = d.pins := rfl
@[simp] theorem Device.setSpace_tb : (d.setSpace k p).tb = d.tb := rfl
@[simp] theorem Device.setSpace_sec : (d.setSpace k p).sec = d.sec := rfl
@[simp] theorem Device.setSpace_seed : (d.setSpace k p).seed = d.seed := rfl
@[simp] theorem Device.setSpace_intc : (d.setSpace k p).intc = d.intc := rfl
@[simp] theorem Device.setSpace_cores : (d.setSpace k p).cores = d.cores := rfl
@[simp] theorem Device.setSpace_evr : (d.setSpace k p).evr = d.evr := rfl
@[simp] theorem Device.setSpace_readShadow : (d.setSpace k p).readShadow = d.readShadow := rfl
@[simp] theorem Device.setSpace_writeShadow : (d.setSpace k p).writeShadow = d.writeShadow := rfl
@[simp] theorem Device.setSpace_ports : (d.setSpace k p).ports = d.ports := rfl
@[simp] theorem Device.setSpace_admin : (d.setSpace k p).admin = d.admin := rfl
@[simp] theorem Device.setSpace_opens : (d.setSpace k p).opens = d.opens := rfl
@[simp] theorem Device.setSpace_dmaReads : (d.setSpace k p).dmaReads = d.dmaReads := rfl
@[simp] theorem Device.setSpace_dmaNext : (d.setSpace k p).dmaNext = d.dmaNext := rfl
@[simp] theorem Device.setSpace_lists : (d.setSpace k p).lists = d.lists := rfl
@[simp] theorem Device.setSpace_adm : (d.setSpace k p).adm = d.adm := rfl
@[simp] theorem Device.setSpace_smb : (d.setSpace k p).smb = d.smb := rfl
@[simp] theorem Device.setSpace_mem : (d.setSpace k p).mem = d.mem := rfl
@[simp] theorem Device.setSpace_progs : (d.setSpace k p).progs = d.progs := rfl
@[simp] theorem Device.setSpace_arrays : (d.setSpace k p).arrays = d.arrays := rfl
@[simp] theorem Device.setSpace_tun : (d.setSpace k p).tun = d.tun := rfl
@[simp] theorem Device.setSpace_aster : (d.setSpace k p).aster = { d.aster with spaces := Bank.upd d.aster.spaces k fun _ => p } := rfl
@[simp] theorem Device.setSpace_fab : (d.setSpace k p).fab = d.fab := rfl
@[simp] theorem Device.setSpace_bel : (d.setSpace k p).bel = d.bel := rfl
@[simp] theorem Device.setSpace_integ : (d.setSpace k p).integ = d.integ := rfl
@[simp] theorem Device.setSpace_free : (d.setSpace k p).free = d.free := rfl
@[simp] theorem Device.setSpace_out : (d.setSpace k p).out = d.out := rfl
end

section
variable (d : Device) (f : Bellows → Bellows)
@[simp] theorem Device.updBel_pins : (d.updBel f).pins = d.pins := rfl
@[simp] theorem Device.updBel_tb : (d.updBel f).tb = d.tb := rfl
@[simp] theorem Device.updBel_sec : (d.updBel f).sec = d.sec := rfl
@[simp] theorem Device.updBel_seed : (d.updBel f).seed = d.seed := rfl
@[simp] theorem Device.updBel_intc : (d.updBel f).intc = d.intc := rfl
@[simp] theorem Device.updBel_cores : (d.updBel f).cores = d.cores := rfl
@[simp] theorem Device.updBel_evr : (d.updBel f).evr = d.evr := rfl
@[simp] theorem Device.updBel_readShadow : (d.updBel f).readShadow = d.readShadow := rfl
@[simp] theorem Device.updBel_writeShadow : (d.updBel f).writeShadow = d.writeShadow := rfl
@[simp] theorem Device.updBel_ports : (d.updBel f).ports = d.ports := rfl
@[simp] theorem Device.updBel_admin : (d.updBel f).admin = d.admin := rfl
@[simp] theorem Device.updBel_opens : (d.updBel f).opens = d.opens := rfl
@[simp] theorem Device.updBel_dmaReads : (d.updBel f).dmaReads = d.dmaReads := rfl
@[simp] theorem Device.updBel_dmaNext : (d.updBel f).dmaNext = d.dmaNext := rfl
@[simp] theorem Device.updBel_lists : (d.updBel f).lists = d.lists := rfl
@[simp] theorem Device.updBel_adm : (d.updBel f).adm = d.adm := rfl
@[simp] theorem Device.updBel_smb : (d.updBel f).smb = d.smb := rfl
@[simp] theorem Device.updBel_mem : (d.updBel f).mem = d.mem := rfl
@[simp] theorem Device.updBel_progs : (d.updBel f).progs = d.progs := rfl
@[simp] theorem Device.updBel_arrays : (d.updBel f).arrays = d.arrays := rfl
@[simp] theorem Device.updBel_tun : (d.updBel f).tun = d.tun := rfl
@[simp] theorem Device.updBel_aster : (d.updBel f).aster = d.aster := rfl
@[simp] theorem Device.updBel_fab : (d.updBel f).fab = d.fab := rfl
@[simp] theorem Device.updBel_bel : (d.updBel f).bel = f d.bel := rfl
@[simp] theorem Device.updBel_integ : (d.updBel f).integ = d.integ := rfl
@[simp] theorem Device.updBel_free : (d.updBel f).free = d.free := rfl
@[simp] theorem Device.updBel_out : (d.updBel f).out = d.out := rfl
end

section
variable (d : Device) (f : Intc → Intc)
@[simp] theorem Device.updIntc_pins : (d.updIntc f).pins = d.pins := rfl
@[simp] theorem Device.updIntc_tb : (d.updIntc f).tb = d.tb := rfl
@[simp] theorem Device.updIntc_sec : (d.updIntc f).sec = d.sec := rfl
@[simp] theorem Device.updIntc_seed : (d.updIntc f).seed = d.seed := rfl
@[simp] theorem Device.updIntc_intc : (d.updIntc f).intc = f d.intc := rfl
@[simp] theorem Device.updIntc_cores : (d.updIntc f).cores = d.cores := rfl
@[simp] theorem Device.updIntc_evr : (d.updIntc f).evr = d.evr := rfl
@[simp] theorem Device.updIntc_readShadow : (d.updIntc f).readShadow = d.readShadow := rfl
@[simp] theorem Device.updIntc_writeShadow : (d.updIntc f).writeShadow = d.writeShadow := rfl
@[simp] theorem Device.updIntc_ports : (d.updIntc f).ports = d.ports := rfl
@[simp] theorem Device.updIntc_admin : (d.updIntc f).admin = d.admin := rfl
@[simp] theorem Device.updIntc_opens : (d.updIntc f).opens = d.opens := rfl
@[simp] theorem Device.updIntc_dmaReads : (d.updIntc f).dmaReads = d.dmaReads := rfl
@[simp] theorem Device.updIntc_dmaNext : (d.updIntc f).dmaNext = d.dmaNext := rfl
@[simp] theorem Device.updIntc_lists : (d.updIntc f).lists = d.lists := rfl
@[simp] theorem Device.updIntc_adm : (d.updIntc f).adm = d.adm := rfl
@[simp] theorem Device.updIntc_smb : (d.updIntc f).smb = d.smb := rfl
@[simp] theorem Device.updIntc_mem : (d.updIntc f).mem = d.mem := rfl
@[simp] theorem Device.updIntc_progs : (d.updIntc f).progs = d.progs := rfl
@[simp] theorem Device.updIntc_arrays : (d.updIntc f).arrays = d.arrays := rfl
@[simp] theorem Device.updIntc_tun : (d.updIntc f).tun = d.tun := rfl
@[simp] theorem Device.updIntc_aster : (d.updIntc f).aster = d.aster := rfl
@[simp] theorem Device.updIntc_fab : (d.updIntc f).fab = d.fab := rfl
@[simp] theorem Device.updIntc_bel : (d.updIntc f).bel = d.bel := rfl
@[simp] theorem Device.updIntc_integ : (d.updIntc f).integ = d.integ := rfl
@[simp] theorem Device.updIntc_free : (d.updIntc f).free = d.free := rfl
@[simp] theorem Device.updIntc_out : (d.updIntc f).out = d.out := rfl
end

section
variable (d : Device) (f : Fabric → Fabric)
@[simp] theorem Device.updFab_pins : (d.updFab f).pins = d.pins := rfl
@[simp] theorem Device.updFab_tb : (d.updFab f).tb = d.tb := rfl
@[simp] theorem Device.updFab_sec : (d.updFab f).sec = d.sec := rfl
@[simp] theorem Device.updFab_seed : (d.updFab f).seed = d.seed := rfl
@[simp] theorem Device.updFab_intc : (d.updFab f).intc = d.intc := rfl
@[simp] theorem Device.updFab_cores : (d.updFab f).cores = d.cores := rfl
@[simp] theorem Device.updFab_evr : (d.updFab f).evr = d.evr := rfl
@[simp] theorem Device.updFab_readShadow : (d.updFab f).readShadow = d.readShadow := rfl
@[simp] theorem Device.updFab_writeShadow : (d.updFab f).writeShadow = d.writeShadow := rfl
@[simp] theorem Device.updFab_ports : (d.updFab f).ports = d.ports := rfl
@[simp] theorem Device.updFab_admin : (d.updFab f).admin = d.admin := rfl
@[simp] theorem Device.updFab_opens : (d.updFab f).opens = d.opens := rfl
@[simp] theorem Device.updFab_dmaReads : (d.updFab f).dmaReads = d.dmaReads := rfl
@[simp] theorem Device.updFab_dmaNext : (d.updFab f).dmaNext = d.dmaNext := rfl
@[simp] theorem Device.updFab_lists : (d.updFab f).lists = d.lists := rfl
@[simp] theorem Device.updFab_adm : (d.updFab f).adm = d.adm := rfl
@[simp] theorem Device.updFab_smb : (d.updFab f).smb = d.smb := rfl
@[simp] theorem Device.updFab_mem : (d.updFab f).mem = d.mem := rfl
@[simp] theorem Device.updFab_progs : (d.updFab f).progs = d.progs := rfl
@[simp] theorem Device.updFab_arrays : (d.updFab f).arrays = d.arrays := rfl
@[simp] theorem Device.updFab_tun : (d.updFab f).tun = d.tun := rfl
@[simp] theorem Device.updFab_aster : (d.updFab f).aster = d.aster := rfl
@[simp] theorem Device.updFab_fab : (d.updFab f).fab = f d.fab := rfl
@[simp] theorem Device.updFab_bel : (d.updFab f).bel = d.bel := rfl
@[simp] theorem Device.updFab_integ : (d.updFab f).integ = d.integ := rfl
@[simp] theorem Device.updFab_free : (d.updFab f).free = d.free := rfl
@[simp] theorem Device.updFab_out : (d.updFab f).out = d.out := rfl
end

section
variable (d : Device) (f : Integrity → Integrity)
@[simp] theorem Device.updInteg_pins : (d.updInteg f).pins = d.pins := rfl
@[simp] theorem Device.updInteg_tb : (d.updInteg f).tb = d.tb := rfl
@[simp] theorem Device.updInteg_sec : (d.updInteg f).sec = d.sec := rfl
@[simp] theorem Device.updInteg_seed : (d.updInteg f).seed = d.seed := rfl
@[simp] theorem Device.updInteg_intc : (d.updInteg f).intc = d.intc := rfl
@[simp] theorem Device.updInteg_cores : (d.updInteg f).cores = d.cores := rfl
@[simp] theorem Device.updInteg_evr : (d.updInteg f).evr = d.evr := rfl
@[simp] theorem Device.updInteg_readShadow : (d.updInteg f).readShadow = d.readShadow := rfl
@[simp] theorem Device.updInteg_writeShadow : (d.updInteg f).writeShadow = d.writeShadow := rfl
@[simp] theorem Device.updInteg_ports : (d.updInteg f).ports = d.ports := rfl
@[simp] theorem Device.updInteg_admin : (d.updInteg f).admin = d.admin := rfl
@[simp] theorem Device.updInteg_opens : (d.updInteg f).opens = d.opens := rfl
@[simp] theorem Device.updInteg_dmaReads : (d.updInteg f).dmaReads = d.dmaReads := rfl
@[simp] theorem Device.updInteg_dmaNext : (d.updInteg f).dmaNext = d.dmaNext := rfl
@[simp] theorem Device.updInteg_lists : (d.updInteg f).lists = d.lists := rfl
@[simp] theorem Device.updInteg_adm : (d.updInteg f).adm = d.adm := rfl
@[simp] theorem Device.updInteg_smb : (d.updInteg f).smb = d.smb := rfl
@[simp] theorem Device.updInteg_mem : (d.updInteg f).mem = d.mem := rfl
@[simp] theorem Device.updInteg_progs : (d.updInteg f).progs = d.progs := rfl
@[simp] theorem Device.updInteg_arrays : (d.updInteg f).arrays = d.arrays := rfl
@[simp] theorem Device.updInteg_tun : (d.updInteg f).tun = d.tun := rfl
@[simp] theorem Device.updInteg_aster : (d.updInteg f).aster = d.aster := rfl
@[simp] theorem Device.updInteg_fab : (d.updInteg f).fab = d.fab := rfl
@[simp] theorem Device.updInteg_bel : (d.updInteg f).bel = d.bel := rfl
@[simp] theorem Device.updInteg_integ : (d.updInteg f).integ = f d.integ := rfl
@[simp] theorem Device.updInteg_free : (d.updInteg f).free = d.free := rfl
@[simp] theorem Device.updInteg_out : (d.updInteg f).out = d.out := rfl
end

section
variable (d : Device) (f : MemoryTiers → MemoryTiers)
@[simp] theorem Device.updMem_pins : (d.updMem f).pins = d.pins := rfl
@[simp] theorem Device.updMem_tb : (d.updMem f).tb = d.tb := rfl
@[simp] theorem Device.updMem_sec : (d.updMem f).sec = d.sec := rfl
@[simp] theorem Device.updMem_seed : (d.updMem f).seed = d.seed := rfl
@[simp] theorem Device.updMem_intc : (d.updMem f).intc = d.intc := rfl
@[simp] theorem Device.updMem_cores : (d.updMem f).cores = d.cores := rfl
@[simp] theorem Device.updMem_evr : (d.updMem f).evr = d.evr := rfl
@[simp] theorem Device.updMem_readShadow : (d.updMem f).readShadow = d.readShadow := rfl
@[simp] theorem Device.updMem_writeShadow : (d.updMem f).writeShadow = d.writeShadow := rfl
@[simp] theorem Device.updMem_ports : (d.updMem f).ports = d.ports := rfl
@[simp] theorem Device.updMem_admin : (d.updMem f).admin = d.admin := rfl
@[simp] theorem Device.updMem_opens : (d.updMem f).opens = d.opens := rfl
@[simp] theorem Device.updMem_dmaReads : (d.updMem f).dmaReads = d.dmaReads := rfl
@[simp] theorem Device.updMem_dmaNext : (d.updMem f).dmaNext = d.dmaNext := rfl
@[simp] theorem Device.updMem_lists : (d.updMem f).lists = d.lists := rfl
@[simp] theorem Device.updMem_adm : (d.updMem f).adm = d.adm := rfl
@[simp] theorem Device.updMem_smb : (d.updMem f).smb = d.smb := rfl
@[simp] theorem Device.updMem_mem : (d.updMem f).mem = f d.mem := rfl
@[simp] theorem Device.updMem_progs : (d.updMem f).progs = d.progs := rfl
@[simp] theorem Device.updMem_arrays : (d.updMem f).arrays = d.arrays := rfl
@[simp] theorem Device.updMem_tun : (d.updMem f).tun = d.tun := rfl
@[simp] theorem Device.updMem_aster : (d.updMem f).aster = d.aster := rfl
@[simp] theorem Device.updMem_fab : (d.updMem f).fab = d.fab := rfl
@[simp] theorem Device.updMem_bel : (d.updMem f).bel = d.bel := rfl
@[simp] theorem Device.updMem_integ : (d.updMem f).integ = d.integ := rfl
@[simp] theorem Device.updMem_free : (d.updMem f).free = d.free := rfl
@[simp] theorem Device.updMem_out : (d.updMem f).out = d.out := rfl
end

end Sys2Proof.Machine
end

