-- ==== Sys2Proof/Laws/Ops.lean ====
section
/-! SUPPORT. What each shared operation does, said once: banks, interrupt sources, events, what follows a command, register writes, the
header checks, replies, and how every row acts. -/

namespace Sys2Proof.Machine

/-! ### Banks -/

theorem Bank.upd_same {α : Type} {n : Nat} (v : Vector α n) (i : Fin n) (f : α → α) : (Bank.upd v i f)[i] = f v[i] := by
  simp [Bank.upd]

theorem Bank.upd_other {α : Type} {n : Nat} (v : Vector α n) (i j : Fin n) (f : α → α) (h : j ≠ i) : (Bank.upd v i f)[j] = v[j] := by
  have : i.val ≠ j.val := fun e => h (Fin.ext e.symm)
  simp [Bank.upd, this]

/-- An element of a bank after one of them changed. -/
theorem Bank.upd_get {α : Type} {n : Nat} (v : Vector α n) (i j : Fin n) (f : α → α) :
    (Bank.upd v i f)[j] = if j = i then f v[i] else v[j] := by
  split
  · rename_i h; subst h; exact Bank.upd_same v j f
  · rename_i h; exact Bank.upd_other v i j f h

/-! ### Interrupt sources and events -/

/-- Asserting a source changes the interrupt controller alone. -/
theorem Device.pulse_frame (d : Device) (s : Nat) : d.pulse s = { d with intc := { d.intc with src := (d.pulse s).intc.src } } := by
  unfold Device.pulse
  split
  · rfl
  · split <;> rfl

/-- A source after one is asserted: its pending bit, and nothing else of any source. -/
theorem Device.pulse_src (d : Device) (s : Nat) (n : Fin 512) :
    (d.pulse s).intc.src[n] =
      { d.intc.src[n] with
        pend := d.intc.src[n].pend || (s == n.val && decide (d.intc.src[n].filter.toNat ≤ 1)) } := by
  have keep : ∀ (x : IntSource) (b : Bool), b = false → x = { x with pend := x.pend || b } := by rintro ⟨⟩ b rfl; simp
  unfold Device.pulse
  split
  · rename_i h
    have hs : s ≠ n.val := fun e => by simp [asFin, e] at h
    exact keep _ _ (by simp [hs])
  · rename_i i h
    have hi : i.val = s := by
      unfold asFin at h
      split at h <;> simp at h
      rw [← h]
    split
    · rename_i hf
      simp only [Bank.upd_get]
      split
      · rename_i hn; subst hn; simp only [hi, hf, beq_self_eq_true, decide_true, Bool.and_self, Bool.or_true]
      · rename_i hn
        have : s ≠ n.val := fun e => hn (Fin.ext (by omega))
        exact keep _ _ (by simp [this])
    · rename_i hf
      refine keep _ _ ?_
      by_cases hn : s = n.val
      · have : i = n := Fin.ext (by omega)
        subst this; simp only [hf, decide_false, Bool.and_false]
      · simp [hn]

/-- Raising an event changes the recorder's queue and the interrupt controller alone. -/
theorem Device.logEvent_frame (d : Device) (code : Nat) (sev : Severity) (source data key : Nat) :
    d.logEvent code sev source data key = { d with
      evr := (d.logEvent code sev source data key).evr
      intc := { d.intc with src := (d.logEvent code sev source data key).intc.src } } := by
  unfold Device.logEvent
  rw [Device.pulse_frame]

/-! ### What follows a command -/

theorem Device.latchAlerts_frame (d : Device) : d.latchAlerts = { d with smb := { d.smb with alert := d.latchAlerts.smb.alert } } := by
  unfold Device.latchAlerts
  split <;> rfl

/-- Asserting sources one after the other changes their pending bits alone, and clears none. -/
theorem Device.pulses_frame {α : Type} (g : Device → α → Device) (hg : ∀ d a, g d a = d ∨ ∃ s, g d a = d.pulse s) (l : List α)
    (d : Device) :
    ∃ src, l.foldl g d = { d with intc := { d.intc with src := src } }
      ∧ (∀ n : Fin 512, src[n] = { d.intc.src[n] with pend := src[n].pend })
      ∧ ∀ n : Fin 512, d.intc.src[n].pend = true → src[n].pend = true := by
  induction l generalizing d with
  | nil => exact ⟨d.intc.src, rfl, fun _ => rfl, fun _ h => h⟩
  | cons a r ih =>
    obtain ⟨src, h1, h2, h3⟩ := ih (g d a)
    rcases hg d a with h | ⟨s, h⟩
    · rw [h] at h1 h2 h3
      exact ⟨src, by simpa [h] using h1, h2, h3⟩
    · rw [h] at h1 h2 h3
      refine ⟨src, ?_, fun n => ?_, fun n hn => h3 n (by rw [Device.pulse_src]; exact Bool.or_eq_true_iff.2 (.inl hn))⟩
      · rw [List.foldl_cons, h, h1, Device.pulse_frame d s]
      · rw [h2 n, Device.pulse_src]

theorem Device.pulseChanges_frame (old d : Device) :
    ∃ src, old.pulseChanges d = { d with intc := { d.intc with src := src } }
      ∧ (∀ n : Fin 512, src[n] = { d.intc.src[n] with pend := src[n].pend })
      ∧ ∀ n : Fin 512, d.intc.src[n].pend = true → src[n].pend = true := by
  unfold Device.pulseChanges
  refine Device.pulses_frame _ (fun d a => ?_) _ d
  by_cases h : a.1 = a.2
  · exact .inl (by simp [h])
  · exact .inr ⟨a.2.1, by simp [h]⟩

/-- What follows a command changes pending bits and the alert latch alone. -/
theorem Device.settle_frame (old d : Device) :
    ∃ src alert, old.settle d = { d with intc := { d.intc with src := src }, smb := { d.smb with alert := alert } }
      ∧ (∀ n : Fin 512, src[n] = { d.intc.src[n] with pend := src[n].pend })
      ∧ (∀ n : Fin 512, d.intc.src[n].pend = true → src[n].pend = true)
      ∧ ∀ i : Nat, d.smb.alert.getLsbD i = true → alert.getLsbD i = true := by
  have latch : ∀ (d : Device) (i : Nat), d.smb.alert.getLsbD i = true → d.latchAlerts.smb.alert.getLsbD i = true := by
    intro d i h
    unfold Device.latchAlerts
    split
    · simp [h]
    · exact h
  unfold Device.settle
  split
  · obtain ⟨src, h1, h2, h3⟩ := Device.pulseChanges_frame old d
    refine ⟨src, (old.pulseChanges d).latchAlerts.smb.alert, ?_, h2, h3, fun i hi => latch _ i (by rw [h1]; exact hi)⟩
    rw [Device.latchAlerts_frame, h1]
  · exact ⟨d.intc.src, d.latchAlerts.smb.alert, by rw [Device.latchAlerts_frame], fun _ => rfl, fun _ h => h, latch d⟩

/-! ### Register writes and links -/

@[simp] theorem Device.linkUp_fresh (d : Device) (p : Fin 2) : d.fresh.linkUp p = d.linkUp p := rfl
@[simp] theorem Device.isAdmin_fresh (d : Device) (p : Fin 2) : d.fresh.isAdmin p = d.isAdmin p := rfl

/-- A write its requester may make takes effect. -/
theorem Device.writeBy_of_mayWrite {d : Device} {req : Requester} {own : Option (Fin 2)} (off : Nat) (f : Device → Device)
    (h : d.mayWrite req own = true) : d.fresh.writeBy req off own f = f d.fresh := by
  unfold Device.mayWrite at h
  cases req <;> simp_all [Device.writeBy]

/-! ### Header checks -/

theorem find_replay_none {l : List ReplayRec} {t : Word64} (h : ∀ r ∈ l, r.tag ≠ t) : l.find? (fun r => r.tag == t) = none := by
  simp only [List.find?_eq_none, beq_iff_eq]; exact h

@[simp] theorem Device.openCommand_sec (d : Device) (op : Word16) (h : CmdHdr) : (d.openCommand op h).sec = d.sec := rfl
@[simp] theorem Device.openCommand_admin (d : Device) (op : Word16) (h : CmdHdr) : (d.openCommand op h).admin = d.admin := rfl

@[simp] theorem Device.openCommand_accountEnabled (d : Device) (op : Word16) (h : CmdHdr) (p : Fin 2) (a : BitVec 6) :
    (d.openCommand op h).accountEnabled p a = d.accountEnabled p a := by
  simp only [Device.accountEnabled, Device.openCommand, Device.remember, Device.updPort, Bank.upd_get]
  split <;> simp_all

/-- A BEST_EFFORT packet that passes the checks fails none of them. -/
theorem Device.passes_noFault {d : Device} {op : Word16} {h : CmdHdr} (hp : d.passes op h) :
    (d.fresh.openCommand op h).headerFault h op none = none := by
  obtain ⟨_, h2, h3, h4⟩ := hp
  unfold Device.headerFault
  rw [Device.openCommand_accountEnabled, Device.openCommand_sec]
  rcases h4 with h4 | ⟨h4, h5⟩ <;> simp_all [Device.accountEnabled]

@[simp] theorem Device.dispatchWaits_fresh (d : Device) : d.fresh.dispatchWaits = d.dispatchWaits := rfl
@[simp] theorem Device.openCommand_opFaulted (d : Device) (op op' : Word16) (h : CmdHdr) :
    (d.openCommand op h).opFaulted op' = d.opFaulted op' := rfl
@[simp] theorem Device.opFaulted_fresh (d : Device) (op : Word16) : d.fresh.opFaulted op = d.opFaulted op := rfl

/-- A command any port may send runs its body once its packet has passed the checks. -/
theorem Device.command_of_passes {d : Device} {op : Word16} {h : CmdHdr} (body : OpenCmd → Device → Device) (hp : d.passes op h) :
    d.fresh.command op h body = body ⟨h, op⟩ (d.fresh.openCommand op h) := by
  have h1 := find_replay_none hp.1.new
  have h2 := hp.2.1
  simp only [Device.command, Device.dispatch, Device.dispatchWaits_fresh, hp.1.now, Device.fresh_ports, h1, Device.passes_noFault hp]
  simp [CmdHdr.promised, h2, hp.1.works]

/-- An admin-only command runs its body once its packet, from the admin port, has passed the checks. -/
theorem Device.adminCommand_of_passes {d : Device} {op : Word16} {h : CmdHdr} (body : OpenCmd → Device → Device)
    (hp : d.passesAdmin op h) : d.fresh.adminCommand op h body = body ⟨h, op⟩ (d.fresh.openCommand op h) := by
  obtain ⟨hp, ha⟩ := hp
  have h1 := find_replay_none hp.1.new
  have h2 := hp.2.1
  simp only [Device.adminCommand, Device.dispatch, Device.dispatchWaits_fresh, hp.1.now, Device.fresh_ports, h1, Device.passes_noFault hp]
  simp [CmdHdr.promised, h2, Device.isAdmin, ha, hp.1.works]

/-! ### How every row acts -/

/-- A row that acts on a device that runs. -/
theorem State.act_live {f : Device → Device} {s : State} (h : s.dev.live = true) :
    s.act f = .next { s with dev := s.dev.settle (f s.dev.fresh) } := by
  simp [State.act, h]

theorem State.actTime_live {f g : Device → Device} {s : State} (h : s.dev.live = true) :
    s.actTime f g = .next { s with dev := s.dev.settle (f s.dev.fresh) } := by
  simp [State.actTime, h]

theorem State.actPin_live {f g : Device → Device} {s : State} (h : s.dev.live = true) :
    s.actPin f g = .next { s with dev := s.dev.settle (f s.dev.fresh) } := by
  simp [State.actPin, h]

/-- `Runs` from the function a row acts by. -/
theorem Runs.of_act {c : Instr} {s : State} {f : Device → Device} (g : Device → Device) (h : s.dev.live = true)
    (he : exec c s = s.act g) (hg : g s.dev.fresh = f s.dev.fresh) : Runs c s f := by
  rw [Runs, he, State.act_live h, hg, State.after]

/-- Every row but those of power and of SYSRST_N, the time base's own and those of pins acts by `State.act` with a function of its
operands. -/
theorem exec_acts (c : Instr) (hp : powerRow c = false) (hb : boardRow c = false) : ∃ f, ∀ s, exec c s = s.act f := by
  cases c <;> first | (cases hp; done) | (cases hb; done) | exact ⟨_, fun s => by rw [exec]; rfl⟩

/-- The rows of the time base and of pins take a running device to what a function of their operands makes of it. -/
theorem exec_board (c : Instr) (hb : boardRow c = true) :
    ∃ f : Device → Device, ∀ s, s.dev.live = true → exec c s = .next { s with dev := s.dev.settle (f s.dev.fresh) } := by
  cases c <;> first
    | (cases hb; done)
    | exact ⟨_, fun s h => State.actTime_live h⟩
    | exact ⟨_, fun s h => State.actPin_live h⟩

/-- Every row but those of power and of SYSRST_N takes a running device to what a function of its operands makes of it, and then does
what follows every command. -/
theorem exec_live (c : Instr) (hp : powerRow c = false) :
    ∃ f : Device → Device, ∀ s, s.dev.live = true → exec c s = .next { s with dev := s.dev.settle (f s.dev.fresh) } := by
  by_cases hb : boardRow c = false
  · obtain ⟨f, hf⟩ := exec_acts c hp hb
    exact ⟨f, fun s h => by rw [hf, State.act_live h]⟩
  · exact exec_board c (by simpa using hb)

end Sys2Proof.Machine
end

