-- ==== Sys2Proof/WellFormed.lean ====
section
/-! DEFINITION. Which operands a command row can carry: the parameter packets of R324 are built of fields of fixed
widths, which the types already bound; what is left are byte strings of a fixed length and lane numbers. A command that is
not well formed spells nothing a sender could send; its meaning is still total. -/

namespace Sys2Proof

open Machine

/-- A codeword of the Ingot code is 36 bytes, 288 bits (R312). -/
def codewordOk (bs : List Byte) : Bool := bs.length == 36

/-- ATTEST carries a nonce of 32 bytes (R491). -/
def nonceOk (bs : List Byte) : Bool := bs.length == 32

/-- The errors of a row are patterns of the 36 symbols of a codeword. -/
def errorsOk (es : List WordError) : Bool := es.all fun e => codewordOk e.pattern

/-- The well-formed commands. -/
def Instr.wellFormed : Instr → Bool
  | .runnerFlitReceive _ cw => codewordOk cw
  | .scrubUnit _ cws _ => cws.all fun c => codewordOk c.2
  | .attest _ _ n => nonceOk n
  | .apertureRead _ off len es => decide (off.toNat + len ≤ 2 ^ 40) && errorsOk es
  | .exerComplete _ rs => rs.all fun r => codewordOk r.codeword
  | .tmm _ _ _ es | .tew _ _ _ es | .tnorm _ _ _ es | .tnormb _ _ _ es | .tsmax _ _ _ es | .tsmaxb _ _ _ es | .tred _ _ _ es
  | .tredGrad _ _ es _ | .ttie _ _ es _ | .tstash _ _ _ es | .tunstash _ _ _ es | .tattn _ _ _ es | .tmov _ _ _ es
  | .versionFenceRelease _ _ _ es | .crucibleInterlockRelease _ _ _ es | .overflowAdd _ es _ | .regionFinalRelease _ _ es _
  | .pass1Run _ _ _ es _ | .pass2Run _ _ _ es _ | .singlePassRun _ _ _ es _ | .rootRefresh _ _ es _ | .movePieceSwitch _ es
  | .objRead _ _ _ _ _ _ es | .writeBack _ es => errorsOk es
  | .apertureWrite _ off bs => decide (off.toNat + bs.length ≤ 2 ^ 40)
  | .dmaReadCompletion _ bs => decide (bs.length ≤ 1073741824)
  | _ => true

end Sys2Proof
end

