-- ==== Sys2Proof/Tests/Slice0.lean ====
section
/-! SUPPORT. The model's own tests: an ill-formed term for each check of WellFormed, worked values of the spec, and for every statement
with hypotheses a state and operands that meet them (names that begin with witness). -/

namespace Sys2Proof.Tests

open Sys2Proof.Machine

-- one theorem at a time: theorems that wait for one another each hold a thread's stack
set_option Elab.async false

/-! ### Ill-formed commands -/

theorem test_runner_flit_length : (Instr.runnerFlitReceive 0 [0]).wellFormed = false := by decide
theorem test_scrub_codeword_length : (Instr.scrubUnit 0 [(0, [0])] 0).wellFormed = false := by decide
theorem test_nonce_length : (Instr.attest { port := 0, tag := 0, account := 0, cls := 0, powerClass := 0, deadline := 0, noIrq := false } 0
    [0]).wellFormed = false := by decide
theorem test_aperture_read_range : (Instr.apertureRead 0 0xFFFFFFFFFF 2 []).wellFormed = false := by decide
theorem test_error_pattern_length : (Instr.apertureRead 0 0 2 [{ place := .hearth 0 0, pattern := [1] }]).wellFormed = false := by decide
theorem test_aperture_write_range : (Instr.apertureWrite 0 0xFFFFFFFFFF [0, 0]).wellFormed = false := by decide

/-- No row has bits, so no word spells a command. -/
theorem test_no_word_spells_a_command : decodeTableWord 32 0 = none := rfl

/-! ### States the witnesses are built on -/

/-- A device that runs its firmware, at tick 1. -/
def dRun : Device :=
  { State.reset.dev with
    tb := { now := 1, locked := true }
    sec := { State.reset.dev.sec with state := .running, ready := true, imageSvn := 1 } }

/-- A state of a device with nothing waiting. -/
def stOf (d : Device) : State := { dev := d, pending := [] }

/-- A packet of the admin port, account 0, BEST_EFFORT. -/
def hdr0 : CmdHdr := { port := 0, tag := 1, account := 0, cls := 0, powerClass := 0, deadline := 0, noIrq := false }

/-- A command of it that is open. -/
def cmd0 (op : Word16) : OpenCmd := ⟨hdr0, op⟩

/-- A packet like `hdr0` or of another class passes the checks on every device that has dRun's ports, reads and control die. -/
theorem dispatches_like (op : Word16) (h : CmdHdr) (d : Device) (h0 : d.dispatchWaits = false) (h1 : d.ports[h.port].replay = [])
    (h2 : d.intc.parity = 0) : d.dispatches op h where
  now := h0
  new := by intro r hr; rw [h1] at hr; simp at hr
  works := by
    have g : ∀ b, d.parityOf b = false := fun b => by rw [Device.parityOf, h2]; simp
    unfold Device.opFaulted
    cases commandBlock op with
    | none => rfl
    | some b => exact g b

theorem passes_of (op : Word16) (d : Device) (h0 : d.dispatchWaits = false) (h1 : d.ports[(0 : Fin 2)].replay = [])
    (h2 : d.intc.parity = 0) (h3 : d.sec.state = .running) (h4 : d.accountEnabled 0 0 = true) : d.passes op hdr0 :=
  ⟨dispatches_like op hdr0 d h0 h1 h2, rfl, rfl, .inr ⟨h3, h4⟩⟩

/-- The same of a device that differs from dRun elsewhere. -/
theorem passes_like (op : Word16) (d : Device) (h0 : d.dmaReads = dRun.dmaReads := by rfl) (h1 : d.ports = dRun.ports := by rfl)
    (h2 : d.intc = dRun.intc := by rfl) (h3 : d.sec = dRun.sec := by rfl) : d.passes op hdr0 :=
  passes_of op d (by rw [Device.dispatchWaits, h0]; decide) (by rw [h1]; decide) (by rw [h2]; decide) (by rw [h3]; decide)
    (by rw [Device.accountEnabled, h1]; decide)

theorem dRun_passes (op : Word16) : dRun.passes op hdr0 := passes_like op dRun
theorem dRun_passesAdmin (op : Word16) : dRun.passesAdmin op hdr0 := ⟨dRun_passes op, rfl⟩

/-- A port whose link is up. -/
def linked (d : Device) : Device := d.updPort 0 fun q => { q with dlUp := true }

theorem witness_mayWrite : dRun.mayWrite (.core 0) none = true ∧ (linked dRun).mayWrite (.port 0) none = true
    ∧ (linked dRun).mayWrite (.port 0) (some 0) = true := by decide
/-! ### Time base, stacks, power and resets -/

/-- With an excursion of the reference, corrections of either sign, and both SYNC pins enabled. -/
def dExcursion : Device := { dRun with tb := { dRun.tb with excursion := true, locked := false, syncOutEn := true, syncInEn := true } }
def dSlewUp : Device := { dRun with tb := { dRun.tb with corr := 1 } }
def dSlewDown : Device := { dRun with tb := { dRun.tb with corr := 0xFFFFFFFF } }
/-- The next slew step 15 control-clock cycles away, and a SYNC_OUT pulse due. -/
def dSlewLater : Device := { dRun with tb := { dRun.tb with corr := 1, slewPhase := 15 } }
def dSyncDue : Device := { dRun with tb := { dRun.tb with syncDue := true } }

theorem witness_timeBaseCommands :
    dRun.live = true ∧ dRun.tb.excursion = false ∧ dExcursion.live = true ∧ dExcursion.tb.excursion = true
    ∧ dRun.mayWrite (.core 0) none = true ∧ dRun.tb.corr = 0 ∧ dSlewUp.tb.corr ≠ 0 ∧ dSlewUp.tb.corr.msb = false
    ∧ dSlewUp.tb.slewPhase = 0 ∧ dSlewLater.tb.slewPhase ≠ 0 ∧ dSlewDown.tb.slewPhase = 0
    ∧ dSlewDown.tb.corr.msb = true ∧ dSyncDue.tb.syncDue = true ∧ dRun.tb.syncDue = false ∧ dExcursion.tb.syncInEn = true
    ∧ dRun.tb.syncInEn = false := by decide +kernel

/-- A device held in reset by SYSRST_N. -/
def dHeld : Device := { dRun with pins := { dRun.pins with sysrstLow := true, inReset := true } }

theorem witness_timeBaseKeepsCounting :
    (stOf dRun).pending = [] ∧ dRun.live = true ∧ dHeld.held = true ∧ dSlewUp.tb.corr ≠ 0 ∧ dSlewUp.tb.slewPhase = 0 := by decide +kernel

def dStack (f : Stack → Stack) : Device := dRun.updStack 19 f
/-- A group of one addition. -/
def group1 : AdderGroup := { addr := 0, addends := [0x3F800000], slot := 0, handle := 0 }

/-- A write-back of a word outside and inside an object, and one whose word has been written since. -/
def back (addr : Option Nat) : WriteBack := { unit := 3, word := 5, codeword := List.replicate 36 0, addr := addr }
def dBack (addr : Option Nat) : Device := dStack fun x => { x with writeBacks := [back addr] }
def dNewer : Device := (dBack (some 0)).updMem fun m => m.store 0 [1]

theorem witness_stackRows :
    dRun.live = true ∧ dRun.mem.hbm[(19 : Fin 20)].trained = false ∧ dRun.sec.stackFail.getLsbD 19 = false
    ∧ (dStack fun x => { x with trained := true }).mem.hbm[(19 : Fin 20)].trained = true
    ∧ dRun.mem.hbm[(19 : Fin 20)].ref2x = false ∧ (dStack fun x => { x with ref2x := true }).mem.hbm[(19 : Fin 20)].ref2x = true
    ∧ (dStack fun x => { x with ref2x := true }).mem.hbm[(19 : Fin 20)].hot = false
    ∧ (dStack fun x => { x with ref2x := true, hot := true }).mem.hbm[(19 : Fin 20)].hot = true
    ∧ (dStack fun x => { x with diag := true }).mem.hbm[(19 : Fin 20)].diag = true
    ∧ dRun.mem.hbm[(19 : Fin 20)].diag = false ∧ dRun.mem.hbm[(19 : Fin 20)].scrubHours ≠ 0
    ∧ dRun.mem.hbm[(19 : Fin 20)].scrubPos.toNat < 33554431
    ∧ 33554431 ≤ (dStack fun x => { x with scrubPos := 33554431 }).mem.hbm[(19 : Fin 20)].scrubPos.toNat
    ∧ (dStack fun x => { x with correctedLogged := true }).mem.hbm[(19 : Fin 20)].weak = []
    ∧ dRun.mem.hbm[(19 : Fin 20)].writeBacks = [] ∧ (dBack none).mem.hbm[(19 : Fin 20)].writeBacks = [back none]
    ∧ (dBack (some 0)).mem.hbm[(19 : Fin 20)].writeBacks = [back (some 0)]
    ∧ (dBack (some 0)).writeBackStands (back (some 0)) = true ∧ (dNewer).writeBackStands (back (some 0)) = false
    ∧ dRun.mem.hbm[(19 : Fin 20)].adderQueue = []
    ∧ (dStack fun x => { x with adderQueue := [group1] }).mem.hbm[(19 : Fin 20)].adderQueue = [group1]
    ∧ (dStack fun x => { x with adderWaiting := [(some 7, group1), (some 7, group1)] }).mem.hbm[(19 : Fin 20)].adderWaiting
        = [(some 7, group1), (some 7, group1)]
    ∧ (∀ j : Fin 20, j ≠ 19 → ∀ x ∈ (dStack fun x => { x with adderWaiting := [(some 7, group1)] }).mem.hbm[j].adderWaiting, x.1 ≠ some 7)
    ∧ group1.zero = 0 ∧ { group1 with zero := 64 }.zero ≠ 0
    ∧ dRun.mayWrite (.core 0) none = true := by decide +kernel

/-- An adder queue with all its 4,096 places taken. -/
theorem witness_adderQueueFull :
    4096 ≤ (dStack fun x => { x with adderQueue := List.replicate 4096 group1 }).mem.hbm[(19 : Fin 20)].adderQueue.length := by
  decide +kernel

/-- A clean codeword, one with a wrong bit, and one with three wrong symbols. -/
def cwClean : List Byte := List.replicate 36 0
def cwOne : List Byte := 1 :: List.replicate 35 0
def cwBad : List Byte := [1, 2, 3] ++ List.replicate 33 0

theorem witness_codewords :
    ingotDecode dRun.mem.dec cwClean = .clean ∧ ingotDecode dRun.mem.dec cwOne = .corrected (List.replicate 36 0)
    ∧ ingotDecode dRun.mem.dec cwBad = .uncorrectable
    ∧ (3 : BitVec 6).toNat = 3 + (0 : Fin 8).val ∧ (20 : BitVec 6).toNat = 13 + (7 : Fin 8).val
    ∧ (40 : BitVec 6).toNat = 21 + (19 : Fin 20).val ∧ (41 : BitVec 6).toNat = 41 := by decide +kernel

/-- Without power, tripped, and with a containment reset due. -/
def dOff : Device := { dRun with pins := { dRun.pins with powered := false } }
def dTripped : Device := { dRun with pins := { dRun.pins with tripped := true } }
def dBroken : Device := { dRun with sec := { dRun.sec with containmentPending := true } }
/-- The same with a FATAL occurrence that the recorder has not taken, `n` ticks after the error. -/
def dLastWords (n : Tick) : Device :=
  let o : Occurrence := { code := 0x0607, severity := .fatal, source := 0, tick := 1, data := 0, key := 0, arrives := 1 }
  { dBroken with
    tb := { dRun.tb with now := 1 + n }, sec := { dBroken.sec with containmentSince := 1 }, evr := { dRun.evr with queue := [o] } }

/-- Every stack trained and start-up not ended. -/
def dStarting : Device := { State.reset.dev with mem := { State.reset.dev.mem with hbm := Vector.replicate 20 { trained := true } } }

theorem witness_powerAndResets :
    dOff.pins.powered = false ∧ dRun.pins.powered = true ∧ dRun.pins.tripped = false ∧ dRun.pins.sysrstLow = false
    ∧ dTripped.pins.tripped = true ∧ dRun.held = false ∧ dHeld.held = true
    ∧ dRun.pins.inReset = false ∧ dRun.tb.excursion = false ∧ dRun.pins.pwrbrakeLow = false ∧ dRun.pins.pwrfailLow = false
    ∧ dBroken.live = true ∧ dBroken.sec.containmentPending = true ∧ dRun.sec.containmentPending = false
    ∧ dBroken.lastWordsOver = true ∧ (dLastWords 7).live = true ∧ (dLastWords 7).sec.containmentPending = true
    ∧ (dLastWords 7).lastWordsOver = false ∧ ((dLastWords 7).tb.now - (dLastWords 7).sec.containmentSince).toNat < lastWordsWait
    ∧ lastWordsWait ≤ ((dLastWords 25000000).tb.now - (dLastWords 25000000).sec.containmentSince).toNat
    ∧ dStarting.live = true ∧ dStarting.sec.ready = false ∧ dStarting.pins.startFail = false ∧ dStarting.sec.stackFail = 0
    ∧ (∀ k : Fin 20, dStarting.mem.hbm[k].trained = true) ∧ (1 : BitVec 26) ≠ 0 := by decide +kernel

set_option maxRecDepth 100000 in
/-- A device that powers on is in the state that State.reset gives. -/
theorem test_power_on_is_reset :
    ({ State.reset.dev with pins := { State.reset.dev.pins with powered := false } } : Device).powerOnReset =
      { State.reset.dev with out := [.pcieTraining 0, .pcieTraining 1] } := by rfl

/-! ### Streams and programs -/

/-- An 8 by 8 tensor of Z16 in object 7. -/
def desc8 (tensor : Word32) (offset : Nat) (cls : TClass) : Desc :=
  { object := 7, offset := offset, tensor := tensor, dim0 := 8, dim1 := 8, dim2 := 1, dim3 := 1, stride1 := 0, stride2 := 0, stride3 := 0
    folded := false, format := .z16, sigmaEn := false, normInclude := false, frozen := false, rne := false, cls := cls, sigma := 0
    tierHint := 0, tieGroup := 0 }

def descs8 : List Desc := [desc8 1 0 .transient, desc8 2 128 .transient, desc8 3 256 .transient, desc8 4 384 .weight]

/-- A program of account 0 with one body. -/
def progOf (lane : Nat) (body : List Byquel) : Program :=
  { account := 0, seed := 0, firstStep := 0, nextStep := 1, fLanes := 1, bLanes := 1, uLanes := 1, policy := .fail, mbCount := 1
    stageCount := 1, stageIndex := 0, sigmaPeriod := 1, windowBase := -40, fill := #v[0, 0, 0], pyroObject := 0, descs := descs8
    lanes := Vector.ofFn fun j =>
      if j.val = lane then { present := true, words := 4 * body.length, body := body.map fun i => { word := 0, instr := i } } else {}
    recomp := [], stash := {}, cycle := none, hostSem := [(4, 1)], image := 9 }

/-- Step 0 of it, its lane released. -/
def stepOf (lane : Nat) : StepState :=
  { step := 0, cmd := none, promised := false, descs := descs8, released := true
    lanes := Vector.ofFn fun j => if j.val = lane then { active := true } else {} }

def running (p : Program) (st : StepState) : Program := { p with state := .running, steps := [st] }

def dProg (p : Program) : Device := dRun.updProg 0 fun _ => p
/-- Slot 0 holds a program. -/
def dWith (p : Program) : Device := { dRun with progs := dRun.progs.set 0 (some p) }

/-- A device on which lane `lane` of step 0 stands at an instruction. -/
def dAt (lane : Nat) (i : Byquel) : Device := dWith (running (progOf lane [i, .tend]) (stepOf lane))

def curOf (i : Byquel) : Current := { instr := { word := 0, instr := i }, chained := false, next := some { word := 0, instr := .tend }, inBlock := false }

/-- What `Stands` says, and what `clearFor` and `Waits` say, as tests. -/
def stands (d : Device) (k : Fin 16) (lane : Fin 17) (p : Program) (st : StepState) (c : Current) : Bool :=
  d.live && decide (d.progs[k] = some p) && decide (p.stepAt st.step = some st) && decide (p.current lane (st.lane lane) = some c)
    && d.laneReady p st lane && d.resourcesFree k st (d.laneResources lane.val c.instr.instr)

def clear (d : Device) (k : Fin 16) (lane : Fin 17) (p : Program) (st : StepState) (c : Current) : Bool :=
  !(st.lane lane).hazard st.descs c && !anyOverlap (c.footprint st.descs).2 d.sendingRanges && d.modeHolds lane (st.lane lane)
    && !p.regionHeld st.step c.instr.instr && (decide (lane.val = 16) || d.versionsOk k p st c) && (d.t3Wanted st (c.footprint st.descs).1).isEmpty

def waits (d : Device) (k : Fin 16) (lane : Fin 17) (w : LaneWait) (p : Program) (st : StepState) (c : Current) : Bool :=
  d.live && decide (d.progs[k] = some p) && decide (p.stepAt st.step = some st) && decide (p.current lane (st.lane lane) = some c)
    && p.state == .running && (st.lane lane).active && (st.lane lane).wait == w

theorem stands_of {d : Device} {k : Fin 16} {lane : Fin 17} {p : Program} {st : StepState} {c : Current}
    (h : stands d k lane p st c = true) : d.live = true ∧ d.Stands k st.step lane p st c := by
  simp only [stands, Bool.and_eq_true, decide_eq_true_eq] at h
  obtain ⟨⟨⟨⟨⟨h1, h2⟩, h3⟩, h4⟩, h5⟩, h6⟩ := h
  exact ⟨h1, h2, h3, h4, h5, h6⟩

theorem clear_of {d : Device} {k : Fin 16} {lane : Fin 17} {p : Program} {st : StepState} {c : Current}
    (h : clear d k lane p st c = true) : d.clearFor k lane p st c := by
  simp only [clear, Bool.and_eq_true, Bool.or_eq_true, decide_eq_true_eq, Bool.not_eq_true', List.isEmpty_iff] at h
  obtain ⟨⟨⟨⟨⟨h1, h2⟩, h3⟩, h4⟩, h5⟩, h6⟩ := h
  exact ⟨h1, h2, h3, h4, h5, h6⟩

theorem waits_of {d : Device} {k : Fin 16} {lane : Fin 17} {w : LaneWait} {p : Program} {st : StepState} {c : Current}
    (h : waits d k lane w p st c = true) : d.live = true ∧ d.Waits k st.step lane w p st c := by
  simp only [waits, Bool.and_eq_true, decide_eq_true_eq, beq_iff_eq] at h
  obtain ⟨⟨⟨⟨⟨⟨h1, h2⟩, h3⟩, h4⟩, h5⟩, h6⟩, h7⟩ := h
  exact ⟨h1, h2, h3, h4, h5, h6, h7⟩

/-- Lane `lane` of step 0 stands at the first instruction of its body; the same with a lane, a program or a device changed. -/
def standsAt (lane : Fin 17) (i : Byquel) (fl : LaneState → LaneState := id) (fp : Program → Program := id)
    (fd : Device → Device := id) : Bool :=
  let st := { stepOf lane.val with lanes := Bank.upd (stepOf lane.val).lanes lane fl }
  let p := fp (running (progOf lane.val [i, .tend]) st)
  stands (fd (dWith p)) 0 lane p st (curOf i)

def clearAt (lane : Fin 17) (i : Byquel) : Bool :=
  let p := running (progOf lane.val [i, .tend]) (stepOf lane.val)
  clear (dWith p) 0 lane p (stepOf lane.val) (curOf i)

/-- One of each data instruction, with the lane it stands in. -/
def dataInstrs : List (Fin 17 × Byquel) :=
  [(0, .tmm 0 255 0 8 8 8 0 1 2 0 0 false 0), (0, .tew false 255 0 8 8 0 0 1 2), (0, .tnorm false 255 0 8 8 0 0 1 2),
   (8, .tnormb 8 8 0 0 1 1 2), (0, .tsmax false 255 0 8 8 0 0 2), (8, .tsmaxb 0 8 8 0 0 1 2), (8, .tred 0 255 8 8 0 2),
   (0, .tmov 255 8 8 0 2)]

theorem witness_dataInstructions : ∀ x ∈ dataInstrs, standsAt x.1 x.2 = true ∧ clearAt x.1 x.2 = true := by decide +kernel

theorem witness_dataInstructionKinds :
    List.zipWith (fun f x => f x.2) [Byquel.isTmm, Byquel.isTew, Byquel.isTnorm, Byquel.isTnormb, Byquel.isTsmax, Byquel.isTsmaxb,
      Byquel.isTred, Byquel.isTmov] dataInstrs = List.replicate 8 true := by decide +kernel

/-- A region of a gradient that step 1 still accumulates, and a TMM of step 0 that adds to it; one that reads a weight whose version is
still to be made. -/
def region3 : Region :=
  { handle := 3, array := 0, rows := 8, cols := 8, foldRows := 8, foldCols := 8, places := [], namers := 1, cells := [], step := some 1 }
def tmmOs : Byquel := .tmm 2 255 0 8 8 8 0 1 3 0 0 false 0
def tmmWeight : Byquel := .tmm 0 255 0 8 8 8 0 3 2 0 0 false 0

theorem witness_dataInstructionsWait :
    standsAt 8 tmmOs id (fun p => { p with steps := p.steps ++ [{ stepOf 8 with step := 1 }], regions := [region3] }) = true
    ∧ (let p := running (progOf 8 [tmmOs, .tend]) (stepOf 8)
       tmmOs.isTmm = true ∧ ((stepOf 8).lane 8).hazard descs8 (curOf tmmOs) = false
       ∧ { p with steps := p.steps ++ [{ stepOf 8 with step := 1 }], regions := [region3] }.regionHeld 0 tmmOs = true)
    ∧ standsAt 0 tmmWeight id (fun p => { p with versions := [(4, 7)] }) = true
    ∧ (let p := { running (progOf 0 [tmmWeight, .tend]) (stepOf 0) with versions := [(4, 7)] }
       p.regionHeld 0 tmmWeight = false ∧ (dWith p).versionsOk 0 p (stepOf 0) (curOf tmmWeight) = false) := by decide +kernel

/-- Stash and attention instructions; a list of sequences in descriptor 2 names space 0. -/
def tattnOf (kind : BitVec 2) : Byquel := .tattn false kind 255 0 8 0 0 1 2 3 1 8 64 0 0 0

theorem witness_stashAndAttention :
    standsAt 0 (.tstash 0 8 8 0 2) = true ∧ clearAt 0 (.tstash 0 8 8 0 2) = true
    ∧ standsAt 8 (.tunstash 0 8 8 0 2) = true ∧ clearAt 8 (.tunstash 0 8 8 0 2) = true
    ∧ (∀ k : BitVec 2, standsAt 0 (tattnOf k) = true ∧ clearAt 0 (tattnOf k) = true ∧ (tattnOf k).attn.isSome = true)
    ∧ (dWith (running (progOf 0 [tattnOf 1, .tend]) (stepOf 0))).aster.quiesce = false
    ∧ (dWith (running (progOf 0 [tattnOf 1, .tend]) (stepOf 0))).walkWaits 0 0 0 0 0 = false
    ∧ (∀ a ∈ (tattnOf 1).attn, ((dWith (running (progOf 0 [tattnOf 1, .tend]) (stepOf 0))).attnList descs8 a).isSome = true)
    ∧ (tattnOf 2).attn.map Attn.paged = some false ∧ (tattnOf 1).attn.map Attn.paged = some true
    ∧ dRun.spaceAt 0 = none := by decide +kernel

/-! ### Control instructions, releases, slots and programs -/

/-- The state, the program and the step of a lane that has an instruction in flight, or is in a recompute block, or waits. -/
def flight1 : InFlight := { word := 0, instr := .tmov 255 8 8 0 2, mb := 0 }

theorem witness_controlInstructions :
    standsAt 0 (.tsig 1 1) = true ∧ (dWith (running (progOf 0 [.tsig 1 1, .tend]) (stepOf 0))).triggered 0 (stepOf 0) 0 1 0 = []
    ∧ standsAt 8 (.twait 255 0xFFFFFFFF 0) = true ∧ standsAt 0 .tfenceStream = true
    ∧ standsAt 0 (.tfenceVersion 3) = true ∧ (descAt descs8 3).isSome = true ∧ standsAt 0 (.tfencePmode 3) = true
    ∧ standsAt 0 (.thint 5 100 1000) = true
    ∧ standsAt 16 .tend = true ∧ ((stepOf 16).lane 16).inflight = [] ∧ ((stepOf 16).lane 16).recomp = none
    ∧ standsAt 0 .tend = true ∧ ((stepOf 0).lane 0).inflight = []
    ∧ standsAt 0 .tend (fun l => { l with inflight := [flight1] }) = true := by decide +kernel

/-- The end of a recompute block of segment 5. -/
def pBlock : Program := { running (progOf 0 [.tmov 255 8 8 0 2, .tend]) { stepOf 0 with lanes := Bank.upd (stepOf 0).lanes 0 fun l =>
  { l with recomp := some (5, 0) } } with recomp := [{ seg := 5, lane := 0, body := [{ word := 0, instr := .tend }] }] }

theorem witness_blockEnd :
    stands (dWith pBlock) 0 0 pBlock (pBlock.steps.head!) { instr := { word := 0, instr := .tend }, chained := false, next := none, inBlock := true }
      = true := by decide +kernel

def waitsAt (lane : Fin 17) (i : Byquel) (w : LaneWait) (fp : Program → Program := id) : Bool :=
  let st := { stepOf lane.val with lanes := Bank.upd (stepOf lane.val).lanes lane fun l => { l with wait := w } }
  let p := fp (running (progOf lane.val [i, .tend]) st)
  waits (dWith p) 0 lane w p st (curOf i)

theorem witness_waitsAndReleases :
    waitsAt 0 (.twait 1 0 0) .semaphore = true ∧ (progOf 0 []).waitMet 0 0 (.twait 1 0 0) = true
    ∧ waitsAt 0 (.twait 1 1 0) .semaphore = true ∧ (progOf 0 []).waitMet 0 0 (.twait 1 1 0) = false
    ∧ waitsAt 0 (.tfenceVersion 3) .version = true ∧ (∀ x ∈ descAt descs8 3, dRun.versionOk 0 (progOf 0 []) 0 x = true)
    ∧ waitsAt 0 tmmWeight .version = true ∧ dRun.versionsOk 0 (progOf 0 []) (stepOf 0) (curOf tmmWeight) = true
    ∧ (∀ ha : Handle, tmmWeight ≠ .tfenceVersion ha)
    ∧ waitsAt 8 tmmOs .crucible = true ∧ (progOf 8 []).regionHeld 0 tmmOs = false
    ∧ waitsAt 8 tmmOs .crucible
        (fun p => { p with steps := p.steps ++ [{ stepOf 8 with step := 1 }], regions := [region3] }) = true := by
  refine ⟨by decide +kernel, by decide +kernel, by decide +kernel, by decide +kernel, by decide +kernel, by decide +kernel,
    by decide +kernel, by decide +kernel, fun ha h => by simp [tmmWeight] at h, by decide +kernel, by decide +kernel, by decide +kernel⟩

/-- An instruction in flight that may retire, one with a walk, and one that waits in a gather queue. -/
def pFlight (f : InFlight) : Program :=
  running (progOf 0 [.tmov 255 8 8 0 2, .tend]) { stepOf 0 with lanes := Bank.upd (stepOf 0).lanes 0 fun l => { l with inflight := [f] } }
def walk1 : Walk := { program := 0, step := 0, lane := 0, word := 0, mb := 0, space := 0, snapshot := 0, seqs := [], appends := [] }
def dWalk (p : Program) (w : Walk) : Device := { dWith p with aster := { dRun.aster with walks := [w] } }

theorem witness_instructionRetire :
    (dWith (pFlight flight1)).live = true ∧ (pFlight flight1).stepAt 0 = (pFlight flight1).steps.head?
    ∧ (((pFlight flight1).stepAt 0).bind fun st => (st.lane 0).inflight[0]?) = some flight1
    ∧ (dWith (pFlight flight1)).canRetire 0 0 0 flight1 = true ∧ (dWith (pFlight flight1)).walkOf 0 0 0 flight1 = none
    ∧ (dWalk (pFlight flight1) walk1).canRetire 0 0 0 flight1 = true ∧ (dWalk (pFlight flight1) walk1).walkOf 0 0 0 flight1 = some walk1
    ∧ (dWith (pFlight { flight1 with gathering := true })).canRetire 0 0 0 { flight1 with gathering := true } = false := by decide +kernel

/-- A step with every condition of R42 met, and one whose first slot is to come. -/
def stDone : StepState := { stepOf 0 with lanes := Vector.replicate 17 {}, slotsDone := true, uDone := true }
def pDone : Program := { running (progOf 0 [.tend]) stDone with descs := [], versions := [] }
def stFresh : StepState := { stDone with slotsDone := false, uDone := false, released := false }

theorem witness_slotsStepsAndModes :
    (running (progOf 0 [.tend]) stFresh).slots[0]? ≠ none ∧ stFresh.bodyRuns = false ∧ (stepOf 0).bodyRuns = true
    ∧ (dWith (running (progOf 0 [.tend]) stFresh)).stepDone 0 (running (progOf 0 [.tend]) stFresh) stFresh = false
    ∧ (dWith pDone).live = true ∧ (dWith pDone).stepDone 0 pDone stDone = true ∧ stDone.reprefill = false ∧ pDone.releasedHandles = []
    ∧ (dWith pDone).fab.groupSize ≤ 1
    ∧ (dRun.updArray 7 fun a => { a with pmodeNext := some 3 }).arrays[(7 : Fin 8)].pmodeNext = some 3
    ∧ (dRun.updArray 7 fun a => { a with pmodeNext := some 3 }).arrayBusy 7 = false
    ∧ (dWith (pFlight flight1)).arrayBusy 0 = true := by decide +kernel

/-- Programs of account 0 and of account 1 in slot 0. -/
def pIdle : Program := progOf 0 [.tend]
def pRun : Program := running pIdle (stepOf 0)
def pOther : Program := { pIdle with account := 1 }
/-- Object 7, which account 0 owns, in stack 0. -/
def obj7 : Obj := { id := 7, base := 4096, size := 65536, owner := 0, home := .t2 1 }
def withObj (d : Device) : Device := { d with mem := { d.mem with objects := [obj7] } }

theorem witness_programLife :
    (dWith pIdle).live = true ∧ (dWith pIdle).progs[(0 : Fin 16)] = some pIdle ∧ pIdle.account = hdr0.account ∧ pIdle.state ≠ .running
    ∧ (dWith pIdle).passes 0x0202 hdr0 ∧ (dWith pRun).progs[(0 : Fin 16)] = some pRun ∧ pRun.state = .running
    ∧ (pRun.stepAt 0).isSome = true ∧ (dWith pRun).passes 0x0204 hdr0 ∧ (dWith pIdle).passes 0x0205 hdr0
    ∧ (dWith pOther).progs[(0 : Fin 16)] = some pOther ∧ pOther.account ≠ hdr0.account ∧ dRun.progs[(0 : Fin 16)] = none := by
  refine ⟨by decide +kernel, by decide +kernel, by decide +kernel, by decide +kernel, passes_like _ _, by decide +kernel, by decide +kernel,
    by decide +kernel, passes_like _ _, passes_like _ _, by decide +kernel, by decide +kernel, by decide +kernel⟩

theorem witness_programSettings :
    (withObj (dWith pIdle)).live = true ∧ (withObj (dWith pIdle)).bindOk pIdle 0 7 65408 = true
    ∧ (withObj (dWith pIdle)).mayRead 7 hdr0.account = true ∧ (withObj (dWith pIdle)).passes 0x0206 hdr0
    ∧ (1 : BitVec 8).toNat ≤ 1 ∧ 1 < (2 : BitVec 8).toNat
    ∧ (pRun.stepAt 0).isSome = true ∧ (pRun.hostSem.any fun x => x.1 == 4) = true := by
  refine ⟨by decide +kernel, by decide +kernel, by decide +kernel, passes_like _ _, by decide, by decide, by decide +kernel, by decide +kernel⟩

/-- A PROMISED packet. -/
def hdrP : CmdHdr := { hdr0 with cls := 1 }

theorem witness_stepLaunch :
    (dWith pIdle).live = true ∧ (dWith pIdle).launchBad 1 pIdle = false ∧ (dWith pIdle).launchBusy pIdle = false
    ∧ (dWith pIdle).boundQuarantined pIdle = false ∧ (dWith pIdle).parityHits pIdle = false ∧ (dWith pIdle).launchBad 2 pIdle = true
    ∧ (dWith pOther).launchBad 1 pOther = false ∧ pOther.account ≠ hdr0.account
    ∧ (dWith pIdle).passesPromised 0x0203 hdrP ∧ (dWith pIdle).fab.heldTransfers = [] ∧ (dWith pIdle).fab.isTop = false := by
  refine ⟨by decide +kernel, by decide +kernel, by decide +kernel, by decide +kernel, by decide +kernel, by decide +kernel, by decide +kernel,
    by decide +kernel, ⟨dispatches_like _ _ _ (by decide) (by decide) (by decide), rfl, rfl, by decide +kernel⟩, by decide +kernel, by decide +kernel⟩

/-- The bytes other than zero of an image of 640 bytes: one lane, one descriptor (R138, R141). -/
def imageCells : List Host.Cell :=
  [(0, 1), (4, 1), (6, 1), (10, 1), (12, 1), (16, 64), (18, 216), (19, 255), (32, 128), (36, 192), (53, 2), (56, 2), (128, 3), (140, 1),
   (144, 8), (148, 8), (152, 1), (156, 1), (160, 8), (165, 64), (170, 64), (192, 64), (193, 2), (196, 2), (588, 1), (590, 1), (591, 104),
   (607, 136)]

/-- Object 9 holds the image, object 3 the tensor it names; account 0 may take all of T1. -/
def obj9 : Obj := { id := 9, base := 0, size := 4096, owner := 0, home := .t2 1 }
def obj3 : Obj := { id := 3, base := 8192, size := 4096, owner := 0, home := .t2 1 }
def dLoad : Device :=
  { dRun with mem := { dRun.mem with
      objects := [obj9, obj3], mem := imageCells
      quotas := Vector.replicate 64 { t0 := Vector.replicate 8 0, t1 := 131072, t2 := 0 } } }

theorem witness_progLoad :
    dLoad.live = true ∧ dLoad.passes 0x0201 hdr0 ∧ dLoad.obj? 9 = some obj9 ∧ obj9.readableBy hdr0.account = true ∧ obj9.anyT3 = false
    ∧ dLoad.freeSlot = some 0 ∧ (0 : BitVec 48).toNat + (640 : Word32).toNat ≤ obj9.size
    ∧ (dLoad.checkImage hdr0.account (fun a n => ofBytes (dLoad.objBytes obj9 ((0 : BitVec 48).toNat + a) n)) 640).toOption.isSome = true
    ∧ dLoad.chargeFits hdr0.account (.t1 0 []) (Config.tableGranules 640) = true := by
  refine ⟨by decide +kernel, passes_like _ _, by decide +kernel, by decide +kernel, by decide +kernel, by decide +kernel, by decide +kernel,
    by decide +kernel, ?_⟩
  have h : (Config.tableCharge 640).toNat < 131072 := (Config.tableCharge 640).isLt
  have u : dLoad.usedT1 0 = 0 := by decide +kernel
  have q : (dLoad.mem.quotas[(0 : BitVec 6).toNat]'(by decide)).t1.toNat = 131072 := by decide +kernel
  refine Bool.or_eq_true_iff.2 (.inr (decide_eq_true ?_))
  show dLoad.usedT1 0 + (Config.tableCharge 640).toNat ≤ (dLoad.mem.quotas[(0 : BitVec 6).toNat]'(by decide)).t1.toNat
  rw [u, q]; omega

/-! ### KV spaces and Aster -/

def space0 : Space :=
  { owner := 0, rank := 64, layers := 1, pool := 7, pages := 4, tablePages := 8, maxSeqs := 4, salt := 0
    bounds := (List.range 15).map fun i => 128 * 2 ^ i, seqs := [{ id := 1, length := 5 }, { id := 2, pinned := true }] }
def dSpace (s : Space) : Device := { dRun with aster := { dRun.aster with spaces := dRun.aster.spaces.set 0 (some s) } }
/-- An object that holds the largest pool there could be. -/
def objPool : Obj := { id := 8, base := 0, size := 2 ^ 48, owner := 0, home := .t2 1 }
def dPool : Device := { dRun with mem := { dRun.mem with objects := [objPool] } }

theorem witness_kvCreate :
    dPool.live = true ∧ dPool.passes 0x0501 hdr0 ∧ dPool.obj? 8 = some objPool ∧ objPool.allT2 = true ∧ objPool.owner = hdr0.account
    ∧ dPool.aster.spaces[(0 : Fin 16)] = none ∧ 64 ≤ (64 : Word16).toNat ∧ (64 : Word16).toNat % 16 = 0
    ∧ dPool.seqTotal + (65536 : Word32).toNat ≤ 65536
    ∧ poolBytes (64 : Word16).toNat (1 : Word16).toNat (1 : Word32).toNat (2 : Word32).toNat (65536 : Word32).toNat ≤ objPool.size := by
  refine ⟨by decide +kernel, passes_like _ _, by decide +kernel, by decide +kernel, by decide +kernel, by decide +kernel, by decide, by decide,
    by decide +kernel, ?_⟩
  have h : (Config.metadataBytes 1 2 65536 1).toNat < 2 ^ 41 := (Config.metadataBytes 1 2 65536 1).isLt
  show 1 * (128 * 64) + 2 * 4096 + (Config.metadataBytes 1 2 65536 1).toNat ≤ 2 ^ 48
  omega

def spaceIdle : Space := { space0 with seqs := [{ id := 1, length := 5 }] }
/-- A program with a KV descriptor, for KV_CONFIG. -/
def dRecomp : Device := { dSpace space0 with progs := dRun.progs.set 0 (some { pIdle with descs := [desc8 1 0 .kv] }) }
def bounds15 : List Word32 := (List.range 15).map fun i => BitVec.ofNat 32 (i + 1)

theorem witness_kvSpaceCommands :
    (dSpace space0).live = true ∧ (dSpace space0).aster.spaces[(0 : Fin 16)] = some space0 ∧ space0.owner = hdr0.account
    ∧ (dSpace spaceIdle).spaceNamed 0 = false ∧ (∀ q ∈ spaceIdle.seqs, q.isPinned = false) ∧ spaceIdle.heldEdits = []
    ∧ space0.seq? 1 = some { id := 1, length := 5 } ∧ bounds15.length = 15 ∧ rising (bounds15.map BitVec.toNat) = true
    ∧ dRecomp.recompOk hdr0.account 0 0 = true ∧ (0 : BitVec 8) ≠ 0xFF ∧ dRecomp.aster.spaces[(0 : Fin 16)] = some space0
    ∧ (dSpace space0).passes 0x0502 hdr0 ∧ dRecomp.passes 0x0508 hdr0 := by
  refine ⟨?_, ?_, ?_, ?_, ?_, ?_, ?_, ?_, ?_, ?_, ?_, ?_, passes_like _ _, passes_like _ _⟩ <;> decide +kernel

/-- A walk that appends to sequence 1, and edits held for it. -/
def walkA : Walk := { walk1 with seqs := [1], appends := [{ seq := 1, layer := 0, qpos := 5, qlen := 1, trellis := false }] }
/-- An edit held before walk `arrival` 0 came, and one held after it. -/
def held0 : HeldEdit := { cmd := cmd0 0x0504, edit := .close 1 }
def held1 : HeldEdit := { held0 with arrival := 1 }
def spaceHeld : Space := { space0 with heldEdits := [held0] }
def spaceHeld1 : Space := { space0 with heldEdits := [held1] }
def dWalked (s : Space) (ws : List Walk) : Device := { dSpace s with aster := { (dSpace s).aster with walks := ws, arrivals := 1 } }
/-- A space with no free page, whose sequence 1 is cut within a page it shares. -/
def spaceFull : Space :=
  { space0 with
    seqs := [{ id := 1, length := 5, root := 0, subs := [(0, 1)], table := [{ vpage := 0, gen := 0, page := 0 }] },
      { id := 2, length := 5, root := 2, subs := [(0, 3)], table := [{ vpage := 0, gen := 0, page := 0 }] }]
    nextFree := 4, nextTable := 4, reclaim := [{ page := 3, epoch := 1 }] }

theorem witness_kvSequenceCommands :
    space0.seq? 9 = none ∧ space0.seqs.length < space0.maxSeqs
    ∧ (withObj (dSpace space0)).tokenList 7 0 4 = some [0, 0, 0, 0] ∧ (withObj (dSpace space0)).mayRead 7 hdr0.account = true
    ∧ (∀ o, (withObj (dSpace space0)).obj? 7 = some o → o.t3Segments 0 16 = [])
    ∧ (∀ q ∈ space0.seq? 1, q.pinned = false) ∧ (dSpace space0).mustHold 0 space0 1 = false
    ∧ (∀ q ∈ space0.seq? 2, q.pinned = true) ∧ (dWalked space0 [walkA]).mustHold 0 space0 1 = true
    ∧ (∀ q ∈ space0.seq? 1, (5 : Word32).toNat ≤ q.length)
    ∧ spaceHeld.heldEdits[0]? = some held0 ∧ (dWalked spaceHeld [walkA]).editFree 0 spaceHeld 0 held0 = true
    ∧ (dWalked spaceHeld [walkA]).kvRoom 0 space0 16 0 (space0.editAsk held0.edit) = .ready
    ∧ spaceHeld1.heldEdits[0]? = some held1 ∧ (dWalked spaceHeld1 [walkA]).editFree 0 spaceHeld1 0 held1 = false
    ∧ space0.tablesAvailable 16 0 ≠ 0
    ∧ (dSpace space0).kvRoom 0 space0 16 0 (space0.editAsk (.fork 1 9 5)) = .ready
    ∧ (dSpace space0).kvRoom 0 space0 16 0 (space0.editAsk (.truncate 1 5)) = .ready
    ∧ (dSpace spaceFull).aster.spaces[(0 : Fin 16)] = some spaceFull ∧ (dSpace spaceFull).mustHold 0 spaceFull 1 = false
    ∧ (dSpace spaceFull).kvRoom 0 spaceFull 16 0 (spaceFull.editAsk (.truncate 1 1)) = .wait ∧ (withObj (dSpace space0)).passes 0x0503 hdr0 := by
  refine ⟨?_, ?_, ?_, ?_, ?_, ?_, ?_, ?_, ?_, ?_, ?_, ?_, ?_, ?_, ?_, ?_, ?_, ?_, ?_, ?_, ?_, passes_like _ _⟩ <;> decide +kernel

/-- A page freed in epoch 1, in a space of a device with no walk. -/
def spaceFreed : Space := { space0 with reclaim := [{ page := 3, epoch := 1 }] }

theorem witness_asterRows :
    (dWalked space0 [{ walkA with waitPage := true }]).aster.walks[0]? = some { walkA with waitPage := true }
    ∧ (dWalked space0 [walkA]).aster.walks[0]? = some walkA ∧ walkA.waitPage = false ∧ walkA.paused = none
    ∧ (dSpace spaceFreed).aster.spaces[(0 : Fin 16)] = some spaceFreed ∧ (∀ r ∈ spaceFreed.reclaim, spaceFreed.genOf r.page ≠ 0xFFFFFFFF)
    ∧ { walkA with paused := some (1, none) }.paused = some (1, none)
    ∧ { walkA with paused := some (1, some 4) }.paused = some (1, some 4) ∧ (asFin 16 1).bind (dRun.stepOf · 4) = none
    ∧ asFin 16 walkA.program = some 0
    ∧ { dRun with aster := { dRun.aster with quiesce := true } }.aster.quiesce = true ∧ (∀ w ∈ dRun.aster.walks, w.inFlight = false)
    ∧ dRun.aster.quiesce = false ∧ dRun.mayWrite (.core 3) none = true := by decide +kernel


/-- A TATTN stands whose list names a space that exists. -/
def dPaged : Device :=
  let d := dWith (running (progOf 0 [tattnOf 1, .tend]) (stepOf 0))
  { d with aster := { d.aster with spaces := d.aster.spaces.set 0 (some space0) } }

theorem witness_pagedAttention :
    ∀ a ∈ (tattnOf 1).attn, a.paged = true ∧ ((dPaged.attnList descs8 a).bind fun x => dPaged.spaceAt x.2.space) = some (0, space0) := by
  decide +kernel
/-! ### Gradient exchange and the update engine -/

/-- A program that releases the weight of handle 3, at a step of the U lane. -/
def tredGrad : Byquel := .tred 7 255 8 8 3 2
def pGrad : Program := { progOf 16 [tredGrad, .tend] with versions := [(4, 0)] }
/-- Two members in one domain: this device, rank 0, both top and domain manager, and rank 1; group 1. -/
def fabJob (f : Fabric) : Fabric :=
  { f with job := .active, rank := 0, table := [{ domain := 0, role := 3, group := 1 }, { domain := 0, role := 0, group := 1 }] }
def dJob (p : Program) : Device := { dWith p with fab := fabJob dRun.fab }

/-- Bucket 0 is the whole tensor, one block. -/
def bucket0 (s : BucketState) : Bucket :=
  { id := 0, ord := 0, first := 0, length := 64, wire := .b8, state := s, own := List.replicate 256 0, shards := [{ shard := 0 }] }
def table0 : ScaleTable := { step := 0, entries := [0x0080] }
def stGrad (b : BucketState) : StepState := { stepOf 16 with table := some table0, buckets := [bucket0 b], releasedOrds := [0] }
def pGradAt (st : StepState) : Program := { pGrad with state := .running, steps := [st], rules := some rules0 }
where rules0 : RuleSet := { default := .mom, beta1 := 0x3F66, beta2 := 0x3F7F, eps := 0x322C, weightDecay := 0, prePeriod := 10, stateObject := 7, gradObject := 0, overrides := [], ruleStart := 0 }

def pFull : Program := pGradAt (stGrad .full)
def pRed : Program := pGradAt (stGrad .reducing)
/-- Hop 0 of the ring, which member 1 sends; a handoff; a hop of a bucket that the plan does not have. -/
def hop1 (step : Word32) : HopMsg :=
  { step := step, bucket := 0, hop := 0, mode := 1, segment := 0, root := 0, firstBlock := 0, blockCount := 1, sender := 1
    payload := List.replicate 256 0, late := false }
def handoff1 : HopMsg := { hop1 0 with hop := 512, mode := 3, payload := List.replicate 512 0 }
def dRed : Device := dJob pRed
/-- One with every byte of a receive buffer of 1 MiB taken. -/
def dRxFull (p : Program) : Device :=
  { dJob p with tun := { dRun.tun with rxbufMib := 1, held := [{ heldHop (hop1 0) 0 with payload := List.replicate 1048576 0 }] } }

theorem rxFull_of (d : Device) (h : HeldHop) (hl : h.payload.length = 1048576) (hh : d.tun.held = [h]) (hr : d.tun.heldRanges = [])
    (hf : d.fab.heldTransfers = []) (hx : d.tun.rxbufMib = 1) : d.rxFull = true := by
  simp [Device.rxFull, Device.rxHeld, Tundish.rxCapacity, hh, hr, hf, hx, hl, sumOf]

theorem witness_rxFull (p : Program) : (dRxFull p).rxFull = true := rxFull_of _ _ List.length_replicate rfl rfl rfl rfl

theorem witness_reductionRows :
    (dJob pFull).live = true ∧ (dJob pFull).progs[(0 : Fin 16)] = some pFull ∧ pFull.stepAt 0 = some (stGrad .full)
    ∧ (stGrad .full).bucket 0 = some (bucket0 .full) ∧ (dJob pFull).tun.faulted = false ∧ (stepOf 16).table = none
    ∧ (pGradAt (stepOf 16)).stepAt 0 = some (stepOf 16)
    ∧ dRed.jobProgram = some (0, pRed) ∧ dRed.fab.job ≠ .none ∧ dRed.hopFits pRed (heldHop (hop1 0) 0) 1 = true
    ∧ pRed.stepAt 0 = some (stGrad .reducing) ∧ dRed.hopReady 0 pRed (stGrad .reducing) (heldHop (hop1 0) 0) = true
    ∧ dRed.hopFits pRed (heldHop (hop1 5) 0) 1 = true ∧ pRed.stepAt 5 = none ∧ pRed.nextStep ≤ 5 ∧ dRed.rxFull = false
    ∧ (dJob pFull).hopReady 0 pFull (stGrad .full) (heldHop (hop1 0) 0) = false
    ∧ (dRxFull pFull).jobProgram = some (0, pFull) ∧ (dRxFull pFull).hopFits pFull (heldHop (hop1 0) 0) 1 = true
    ∧ dRed.hopFits pRed (heldHop { hop1 0 with bucket := 1 } 0) 1 = false
    ∧ dRed.handoffFits pRed (heldHop handoff1 0) 1 = true ∧ handoffReady pRed (stGrad .reducing) (heldHop handoff1 0) = true
    ∧ (heldHop handoff1 0).hop = 512 ∧ (heldHop (hop1 0) 0).hop ≠ 512
    ∧ { dRed with tun := { dRed.tun with held := [heldHop (hop1 0) 0] } }.tun.held[0]? = some (heldHop (hop1 0) 0) := by
  repeat' apply And.intro
  all_goals decide +kernel

/-- A program with a scale to choose. -/
def pSigma (descs : List Desc) (accumulated : List Hist) : Program := { pGrad with descs := descs, sigmaDue := some 0, accumulated := accumulated }
def sigmaDesc : Desc := { desc8 4 384 .weight with sigmaEn := true }
def hist4 : Hist :=
  { tensor := 4, stream := 1, bins := #v[0,0,0,0,0,7,0,0,0,0,0,0,0,0,0,0,0,0,0,0,0,0,0,0,0,0,0,0,0,0,0,0,0,0,0,0,0,0,0,0,0,0,0,0,0,0,0,0,0,0,0,0,0,0,0,0,0,0,0,0,0,0,0,0]
    eMax := some (-40), eMin := some (-40) }
/-- A device that manages domain 0 alone, and one that is the top manager of a domain that is not its own. -/
def dTop : Device := { dJob pGrad with fab := { fabJob dRun.fab with table :=
  [{ domain := 0, role := 2, group := 1 }, { domain := 1, role := 1, group := 1 }] } }

theorem witness_scaleAndNormRows :
    (dJob pGrad).live = true ∧ (dJob pGrad).fab.job ≠ .none ∧ (0x0080 : Word16).extractLsb' 9 5 = 0
    ∧ (dJob pGrad).memberLevel 1 = true ∧ dTop.memberLevel 1 = false ∧ dTop.fab.isTop = true ∧ dTop.fab.job ≠ .none
    ∧ (0x0280 : Word16).extractLsb' 9 5 ≠ 0 ∧ (dJob pGrad).jobProgram = some (0, pGrad) ∧ pGrad.nextStep ≤ 1
    ∧ (dWith (pSigma descs8 [])).progs[(0 : Fin 16)] = some (pSigma descs8 []) ∧ (pSigma descs8 []).sigmaTensors = []
    ∧ (dWith (pSigma descs8 [])).sigmaReady (pSigma descs8 []) 0 = true
    ∧ (pSigma [sigmaDesc] [hist4]).sigmaTensors = [sigmaDesc] ∧ ((pSigma [sigmaDesc] [hist4]).choiceOf sigmaDesc).isSome = true
    ∧ (dWith (pSigma [sigmaDesc] [hist4])).sigmaReady (pSigma [sigmaDesc] [hist4]) 0 = true ∧ pGrad.sigmaDue = none := by
  repeat' apply And.intro
  all_goals decide +kernel

/-- A scale table in object 7 that GX_SCALE_LOAD reads. -/
def dTable : Device :=
  { withObj (dWith pGrad) with mem := { (withObj (dWith pGrad)).mem with mem := [(4096, 1), (4100, 1), (4112, 0x80)] } }

theorem witness_gradientCommands :
    (dWith pGrad).live = true ∧ (dWith pGrad).progs[(0 : Fin 16)] = some pGrad ∧ pGrad.account = hdr0.account
    ∧ (dWith pGrad).passes 0x0303 hdr0 ∧ pGrad.state ≠ .running ∧ pGrad.gx.bucketMib = (4 : BitVec 8).toNat
    ∧ ((dWith pGrad).gxAsked pGrad 0 4 0 0 0 0 0).map GxConfig.bucketMib = some 4
    ∧ ((withObj (dWith pGrad)).gxAsked pGrad 2 4 0 0 7 0 0).map GxConfig.errmem = some 7 ∧ (withObj (dWith pGrad)).owns 0 7 = true
    ∧ (dWith pGrad).gxAsked pGrad 9 4 0 0 0 0 0 = none ∧ (dWith pRed).passes 0x0304 hdr0 ∧ (pRed.gxCounts 0).isSome = true
    ∧ (withObj (dWith pRed)).passes 0x0305 hdr0 ∧ pRed.tableFor 0 = some table0 ∧ (withObj (dWith pRed)).obj? 7 = some obj7
    ∧ obj7.owner = hdr0.account ∧ 0 + table0.image.length ≤ obj7.size
    ∧ dTable.passes 0x0306 hdr0 ∧ dTable.fab.job = .none ∧ (1 : Word32).toNat = pGrad.nextStep
    ∧ ((dTable.tableBytes 7 0 (16 + 2 * pGrad.releasedDescs.length)).bind (tableOf 1 pGrad.releasedDescs.length)).isSome = true
    ∧ dTable.obj? 7 = some obj7 ∧ obj7.t3Segments 0 (16 + 2 * pGrad.releasedDescs.length) = [] ∧ dTable.mayRead 7 hdr0.account = true := by
  repeat' first | exact passes_like _ _ | apply And.intro
  all_goals decide +kernel

theorem witness_tundishRegisterRows :
    dRun.live = true ∧ dRun.mayWrite (.core 0) none = true ∧ { dRun with tun := { dRun.tun with quiesced := true } }.tun.quiesced = true
    ∧ dRun.tun.quiesced = false ∧ (1 : BitVec 8) ≠ dRun.tun.rxbufMib ∧ dRun.anyStep = false ∧ dRun.tun.held = []
    ∧ { dRun with tun := { dRun.tun with quiesce := true } }.tun.quiesce = true ∧ dRun.tun.quiesce = false
    ∧ (dWith pRun).anyStep = true := by decide +kernel

/-- A unit of 64 elements with its gradient, under a norm mode and a default rule; the step has retired its reads. -/
def unit0 (s : UpdState) : UpdUnit :=
  { ord := 0, index := 0, first := 0, length := 64, state := s, grad := (List.range 64).map fun e => (e, 0) }
def pUnit (norm : BitVec 2) (r : Rule) (s : UpdState) (clip : Option (Word32 × Word32 × Word32)) (refresh : Bool) : Program :=
  let q := pGradAt { stGrad .done with units := [unit0 s], clip := clip, refreshDue := refresh, uDone := true }
  { q with gx := { q.gx with normMode := norm }, rules := q.rules.map fun x => { x with default := r } }
def ctxOk (norm : BitVec 2) (r : Rule) (s : UpdState) (clip : Option (Word32 × Word32 × Word32)) : Bool :=
  let p := pUnit norm r s clip false
  let d := withObj (dWith p)
  d.live && !d.tun.faulted && p.state == .running && (d.unitCtx 0 0 0).any fun c =>
    c.rule == r && c.u.complete && c.u.state == s && c.p.mayWrite c.st c.x && c.st.clip == clip && c.p.gx.normMode == norm

theorem witness_updatePasses :
    ctxOk 1 .mom .waitGrad none = true ∧ ctxOk 1 .none .waitGrad none = true ∧ ctxOk 0 .mom .waitGrad none = true
    ∧ ctxOk 0 .none .waitGrad none = true ∧ ctxOk 2 .adm .waitApply (some (0, 0x3F800000, 0)) = true
    ∧ (let p := pUnit 0 .mom .done none true
       (dWith p).progs[(0 : Fin 16)] = some p ∧ (∀ st ∈ p.stepAt 0, st.refreshDue = true ∧ st.refreshed = false ∧ st.uDone = true
         ∧ p.preUnits st = []) ∧ (p.stepAt 0).isSome = true)
    ∧ (let p := pUnit 0 .pre .done none true
       (dWith p).live = true ∧ p.state = .running ∧ (∀ st ∈ p.stepAt 0, st.refreshDue = true ∧ st.refreshed = false ∧ st.uDone = true
         ∧ p.preUnits st = [0] ∧ st.units[0]? = some (unit0 .done)) ∧ (p.stepAt 0).isSome = true ∧ ((dWith p).unitCtx 0 0 0).isSome = true) := by
  repeat' apply And.intro
  all_goals decide +kernel

/-- New weights of another owner. -/
def range1 : RangeMsg := { tensor := 4, version := 1, first := 0, values := [0x3F80, 0x3F80], src := 1, late := false }
def dRange (reads : List (Word32 × Nat)) : Device :=
  { dJob (pRange reads) with tun := { dRun.tun with heldRanges := [(0, 4, 1, 0, [0x3F80, 0x3F80])] } }
where pRange (reads : List (Word32 × Nat)) : Program := { pGradAt { stGrad .done with pendingReads := reads } with versions := [(4, 0)] }

theorem witness_rangeRows :
    (dJob pGrad).live = true ∧ (dJob pGrad).releaserOf 4 = some (0, pGrad) ∧ pGrad.ordinalOf 4 = some 0 ∧ (dJob pGrad).fab.job ≠ .none
    ∧ (dJob pGrad).rxFull = false ∧ pGrad.version 4 < range1.version.toNat ∧ range1.first + range1.values.length ≤ (pGrad.released 0).elems
    ∧ (dRxFull pGrad).releaserOf 4 = some (0, pGrad)
    ∧ (dRange []).tun.heldRanges[0]? = some (0, 4, 1, 0, [0x3F80, 0x3F80])
    ∧ (∀ st ∈ (dRange.pRange []).stepAt 0, (dRange.pRange []).mayWrite st ((dRange.pRange []).released 0) = true)
    ∧ (∀ st ∈ (dRange.pRange [(4, 2)]).stepAt 0, (dRange.pRange [(4, 2)]).mayWrite st ((dRange.pRange [(4, 2)]).released 0) = false)
    ∧ ((dRange.pRange []).stepAt 0).isSome = true ∧ ((dRange.pRange [(4, 2)]).stepAt 0).isSome = true := by
  repeat' apply And.intro
  all_goals decide +kernel

def rulesQuery (r : Rule) : Program := { pGrad with rules := some { pGradAt.rules0 with default := r } }

theorem witness_updateCommands :
    (withObj (dWith pGrad)).live = true ∧ (withObj (dWith pGrad)).progs[(0 : Fin 16)] = some pGrad ∧ pGrad.account = hdr0.account
    ∧ (withObj (dWith pGrad)).passes 0x0401 hdr0 ∧ pGrad.state ≠ .running
    ∧ (∀ r ∈ (withObj (dWith pGrad)).rulesAsked pGrad 0 0 0 0 0 0 10 7 7 0 0 0,
        ((withObj (dWith pGrad)).ruleSizes pGrad r).1 ≤ obj7.size ∧ ((withObj (dWith pGrad)).ruleSizes pGrad r).2 ≤ obj7.size)
    ∧ ((withObj (dWith pGrad)).rulesAsked pGrad 0 0 0 0 0 0 10 7 7 0 0 0).isSome = true ∧ (withObj (dWith pGrad)).owns hdr0.account 7 = true
    ∧ (dWith (rulesQuery .none)).passes 0x0402 hdr0 ∧ (rulesQuery .none).rules.isSome = true ∧ (rulesQuery .none).ordinalOf 4 = some 0
    ∧ (∀ r ∈ (rulesQuery .none).rules, (r.ruleOf 4).rule = .none) ∧ (rulesQuery .none).ruleOf ((rulesQuery .none).released 0) ≠ .pre
    ∧ (rulesQuery .none).singular = [] ∧ pGrad.rules = none
    ∧ scheduleOk 0 0 1 0x3F800000 0 1 0 = true ∧ scheduleOk 3 0 1 0 0 1 0 = false
    ∧ (dWith pGrad).passes 0x0404 hdr0 ∧ (dWith (rulesQuery .pre)).passes 0x0405 hdr0 ∧ (rulesQuery .pre).hasPre = true
    ∧ pGrad.hasPre = false := by
  repeat' first | exact passes_like _ _ | apply And.intro
  all_goals decide +kernel
/-! ### Arrays, stacks and the memory tiers -/

def dArray (f : ArrayState → ArrayState) : Device := dRun.updArray 3 f
def dPack (i : Integrity → Integrity) (f : ArrayState → ArrayState) : Device := { dArray f with integ := i dRun.integ }

theorem witness_arrayRows :
    dRun.live = true ∧ dRun.mayWrite (.core 0) none = true ∧ dRun.arrays[(3 : Fin 8)].spareLocked = false
    ∧ dRun.arrays[(3 : Fin 8)].swap = none ∧ (dArray fun a => { a with quiesced := true }).arrays[(3 : Fin 8)].quiesced = true
    ∧ (99 : Word32).toNat % 128 + 1 = dRun.arrays[(3 : Fin 8)].spareCol.toNat
    ∧ (50 : Word32).toNat % 128 = (dArray fun a => { a with spareCol := 49 }).arrays[(3 : Fin 8)].spareCol.toNat + 1
    ∧ 100 < (101 : Word32).toNat % 128 ∧ (98 : Word32).toNat % 128 + 1 ≠ dRun.arrays[(3 : Fin 8)].spareCol.toNat
    ∧ (98 : Word32).toNat % 128 ≠ dRun.arrays[(3 : Fin 8)].spareCol.toNat + 1
    ∧ (dArray fun a => { a with spareLocked := true }).arrays[(3 : Fin 8)].spareLocked = true
    ∧ dRun.arrays[(3 : Fin 8)].quiesced = false ∧ dRun.allLanes = []
    ∧ (dArray fun a => { a with quiesce := true }).arrays[(3 : Fin 8)].quiesce = true
    ∧ (dArray fun a => { a with quiesce := true }).arrayEmpty 3 = true ∧ dRun.arrays[(3 : Fin 8)].quiesce = false
    ∧ (dWith (pFlight flight1)).arrayEmpty 0 = false
    ∧ (dArray fun a => { a with swap := some { target := 99, goal := 99, lock := false } }).arrays[(3 : Fin 8)].swap
        = some { target := 99, goal := 99, lock := false }
    ∧ (dArray fun a => { a with swap := some { target := 99, goal := 90, lock := true } }).arrays[(3 : Fin 8)].swap
        = some { target := 99, goal := 90, lock := true }
    ∧ dRun.integ.rotEn = true ∧ (dPack (fun i => { i with rotEn := false }) id).integ.rotEn = false ∧ dRun.integ.twin = false
    ∧ dRun.arrays[(3 : Fin 8)].faulted = false ∧ dRun.arrayEmpty 3 = true ∧ dRun.integ.pack = none
    ∧ (dPack (fun i => { i with pack := some default }) id).integ.pack.isSome = true := by
  repeat' apply And.intro
  all_goals decide +kernel

def run0 : ExerRun := { cmd := cmd0 0x0605, pattern := 0, raw := true, inject := 0, channels := 5, seed := 1, words := 16 }
def dDiag (f : Stack → Stack) : Device := dStack fun x => f { x with diag := true }

theorem witness_stackCommands :
    dRun.live = true ∧ (19 : BitVec 8).toNat = (19 : Fin 20).val ∧ dRun.passes 0x0601 hdr0 ∧ 20 ≤ (20 : BitVec 8).toNat
    ∧ dRun.passesAdmin 0x0602 hdr0 ∧ dRun.mem.hbm[(19 : Fin 20)].diag = false ∧ dRun.stackUsed 19 = 0
    ∧ ({ withObj dRun with mem := { dRun.mem with objects := [{ obj7 with home := .t2 0x80000 }] } } : Device).stackUsed 19 ≠ 0
    ∧ (dDiag id).mem.hbm[(19 : Fin 20)].diag = true ∧ (dDiag id).passesAdmin 0x0604 hdr0 ∧ (dDiag id).mem.hbm[(19 : Fin 20)].zeroing = none
    ∧ (dDiag id).mem.hbm[(19 : Fin 20)].exerBusy = false
    ∧ (dDiag fun x => { x with runs := [run0] }).mem.hbm[(19 : Fin 20)].runs = [run0]
    ∧ (dDiag fun x => { x with exer := Bank.upd x.exer 2 fun e => { e with busy := true } }).mem.hbm[(19 : Fin 20)].exerBusy = true
    ∧ (dDiag fun x => { x with zeroing := some (cmd0 0x0604) }).mem.hbm[(19 : Fin 20)].zeroing = some (cmd0 0x0604)
    ∧ dRun.mem.hbm[(19 : Fin 20)].zeroing = none ∧ (dDiag id).mem.hbm[(19 : Fin 20)].inDiag = true ∧ (5 : Word32) ≠ 0
    ∧ (∀ x : Fin 32, (dDiag id).mem.hbm[(19 : Fin 20)].exer[x].busy = false) ∧ (16 : Word32).toNat ≤ 67108864
    ∧ run0.channels.getLsbD (2 : Fin 32).val = true ∧ dRun.mem.hbm[(19 : Fin 20)].runs = [] := by
  repeat' first | exact passes_like _ _ | apply And.intro
  all_goals decide +kernel

/-- Account 0 may take all of every tier. -/
def dQuota (os : List Obj) : Device :=
  { dRun with mem := { dRun.mem with objects := os, hearths := Vector.replicate 8 { cache := 0 }, quotas := Vector.replicate 64 { t0 := Vector.replicate 8 240000, t1 := 81920, t2 := 655360 } } }

theorem witness_objectCommands :
    (dQuota [obj7]).live = true ∧ (dQuota [obj7]).passes 0x0101 hdr0 ∧ homeOf 2 0 1 0 = some (.t2 1) ∧ homeOf 0 0 1 0 = none
    ∧ homeOf 1 3 0 0 = some (.t1 3 []) ∧ (dQuota [obj7]).obj? 8 = none
    ∧ ((dQuota [obj7]).takeHome 0 (.t2 1) 65536).toOption = some (.t2 1) ∧ ((dQuota [obj7]).takeHome 0 (.t1 3 []) 65536).toOption.isSome = true
    ∧ (dQuota [obj7]).mem.objects.length < 262144 ∧ ((dQuota [obj7]).baseFor 65536).isSome = true
    ∧ (match (withObj dRun).takeHome 0 (.t2 1) 65536 with | .error e => e == .quota | .ok _ => false) = true
    ∧ (dQuota [obj7]).obj? 7 = some obj7 ∧ obj7.owner = hdr0.account ∧ ({ obj7 with owner := 1 } : Obj).owner ≠ hdr0.account
    ∧ obj7.hostPins.getLsbD 0 = false ∧ ({ obj7 with hostPins := 1 } : Obj).hostPins.getLsbD 0 = true ∧ obj7.readableBy 0 = true
    ∧ obj7.hardPinned = false ∧ obj7.stepPins = 0 ∧ (dQuota [obj7]).objectNamed 7 = false ∧ obj7.queue = [] := by
  repeat' first | exact passes_like _ _ | apply And.intro
  all_goals decide +kernel

/-- Object 7 with a move of its first 64 KiB to the hearth 3 at the head of its queue. -/
def moveOp (nowait : Bool) (st : HeadState) : ObjOp := { cmd := cmd0 0x0103, op := .place nowait (.t1 3) 0 65536, state := st }
def objMove (nowait : Bool) (st : HeadState) : Obj := { obj7 with queue := [moveOp nowait st] }
def objBig (st : HeadState) : Obj :=
  { obj7 with size := 2 ^ 22, queue := [{ cmd := cmd0 0x0103, op := .place true (.t1 3) 0 (2 ^ 22), state := st }] }

theorem witness_moves :
    (dQuota [obj7]).live = true ∧ (dQuota [obj7]).obj? 7 = some obj7 ∧ (dQuota [obj7]).passes 0x0103 hdr0
    ∧ targetOf obj7 1 3 0 = some (.t1 3) ∧ obj7.rangeOk (.t1 3) 0 65536 = true ∧ (dQuota [obj7]).shadowTarget (.t1 3) = false
    ∧ obj7.readableBy hdr0.account = true ∧ targetOf obj7 9 0 0 = none ∧ obj7.queue = []
    ∧ (objMove true .fresh).queue = [moveOp true .fresh]
    ∧ 0 < (dQuota [{ objMove true .fresh with stepPins := 1 }]).foreignPins { objMove true .fresh with stepPins := 1 } (cmd0 0x0103)
    ∧ (dQuota [objMove true .fresh]).foreignPins (objMove true .fresh) (cmd0 0x0103) = 0
    ∧ (objMove true .fresh).rangeOk (.t1 3) 0 65536 = true ∧ (objMove true .fresh).hardPinned = false
    ∧ (dQuota [objMove true .fresh]).moveCharge (objMove true .fresh) (.t1 3) 0 65536 = true
    ∧ ((dQuota [objMove true .fresh]).space (objMove true .fresh) (.t1 3) 0 65536).isSome = true
    ∧ (dQuota [objMove true .fresh]).engineHeld (cmd0 0x0103) ((objMove true .fresh).engine (.t1 3) 0 65536) = false
    ∧ (dQuota [objMove true .fresh]).sec.hold = false
    ∧ (dQuota [objMove true (.move .moving 0 [(4, 1)])]).homeBarred (objMove true (.move .moving 0 [(4, 1)])) (.t1 3) 0 65536 = false
    ∧ (dQuota [objMove true .fresh]).movesOn ((objMove true .fresh).engine (.t1 3) 0 65536) < 64
    ∧ ({ objMove true .fresh with hostPins := 1 } : Obj).hardPinned = true
    ∧ (moveOp true (.move .pinWait 0 [])).state = .move .pinWait 0 []
    ∧ (dQuota [objMove true (.move .moving 0 [(4, 1)])]).objReads 7 = false
    ∧ 65536 ≤ (0 + 1) * (objMove true (.move .moving 0 [(4, 1)])).pieceSize (.t1 3) 0 65536
    ∧ (0 + 1) * (objBig (.move .moving 0 [])).pieceSize (.t1 3) 0 (2 ^ 22) < 2 ^ 22 := by
  repeat' first | exact passes_like _ _ | apply And.intro
  all_goals decide +kernel

/-- The object of the moves has its home in T2; a PROMISED packet. -/
theorem witness_movesAtHome : ∀ p a, (objMove true .fresh).home ≠ .t3 p a := by intro p a h; cases h

theorem witness_movesPromised :
    (dQuota [obj7]).passesPromised 0x0103 hdrP := by
  exact ⟨dispatches_like _ _ _ (by decide) (by decide) rfl, rfl, rfl, by decide +kernel⟩

def heldObj : Obj :=
  { obj7 with queue := [{ cmd := cmd0 0x0106, op := .write false false 0 4 0 [] [], state := .held [1, 2, 3, 4] }] }

theorem witness_transfers :
    (dQuota [obj7]).live = true ∧ (dQuota [obj7]).obj? 7 = some obj7 ∧ (dQuota [obj7]).passes 0x0106 hdr0 ∧ obj7.xferOk 0 0 4096 = true
    ∧ obj7.xferOk 1 2 4096 = true ∧ obj7.owner = hdr0.account ∧ (dQuota [obj7]).coversFrozen { object := 7, lo := 0, hi := 4096 } = false
    ∧ (dQuota [obj7]).coversPool 7 = false ∧ (dQuota [obj7]).writeWaits { object := 7, lo := 0, hi := 4096 } = []
    ∧ (dQuota [obj7]).writeIdle 7 = []
    ∧ (dWith { pRun with descs := [{ desc8 4 384 .weight with frozen := true }] }).coversFrozen { object := 7, lo := 0, hi := 4096 } = true
    ∧ ({ obj7 with owner := 1 } : Obj).owner ≠ hdr0.account ∧ ({ obj7 with owner := 1 } : Obj).readableBy hdr0.account = false
    ∧ (dQuota [heldObj]).obj? 7 = some heldObj ∧ obj7.queue = [] := by
  repeat' first | exact passes_like _ _ | apply And.intro
  all_goals decide +kernel

/-- Port 0 maps object 7 at offset 0 of its aperture. -/
def dMapped (d : Device) : Device :=
  (linked (withObj d)).updPort 0 fun q => { q with mappings := [{ offset := 0, span := 65536, object := 7 }] }
def promise0 : Promise := { hdr := hdr0, opcode := 0x0103, resources := 0, tick := 0 }

theorem witness_quotaAndApertureRows :
    dRun.live = true ∧ dRun.passesAdmin 0x010A hdr0 ∧ quotaFields 63 0 7 = true ∧ (240000 : Word32).toNat ≤ quotaMax 0
    ∧ quotaFields 63 1 1 = false ∧ quotaMax 2 < (655361 : Word32).toNat ∧ dRun.passes 0x010B hdr0 ∧ dRun.admin.port = hdr0.port
    ∧ dRun.passesAdmin 0x010C hdr0 ∧ (40 : BitVec 8).toNat + (25 : BitVec 8).toNat + (25 : BitVec 8).toNat ≤ 90 ∧ dRun.adm.promises = []
    ∧ { dRun with adm := { dRun.adm with promises := [promise0] } }.adm.promises ≠ []
    ∧ dRun.stepOnArray 3 = none ∧ (dWith pRun).stepOnArray 0 = some (0, 0)
    ∧ ((dWith pRun).updArray 0 fun a => { a with lateLogged := some (0, 0) }).arrays[(0 : Fin 8)].lateLogged = some (0, 0)
    ∧ dRun.mayWrite (.core 0) none = true ∧ dRun.blockedParts 0 (0x3FF &&& ~~~systemMask 0) = 0
    ∧ (dQuota [{ obj7 with home := .t1 0 [(2, 1)] }]).blockedParts 0 (0x3FF &&& ~~~systemMask 0) ≠ 0
    ∧ (linked dRun).linkUp 0 = true ∧ (dMapped dRun).mappedAt 0 4096 64 = some (obj7, 4096) ∧ (dMapped dRun).mappedAt 0 65530 64 = none
    ∧ (dMapped dRun).objectNamed 7 = false ∧ (dMapped (dWith pRun)).objectNamed 7 = true
    ∧ dRun.ports[(0 : Fin 2)].mappings = [] ∧ 30 ≤ (40 : BitVec 6).toNat
    ∧ dRun.mem.floors.read.toNat + dRun.mem.floors.write.toNat + dRun.mem.floors.remote.toNat ≤ 90 := by
  repeat' first | exact passes_like _ _ | apply And.intro
  all_goals decide +kernel
/-! ### Intake, session and fabric -/

/-- The bytes of a NOP of LENGTH 40 with tag 1, in phase 1, with its mark; without its mark; with a LENGTH no packet can have. -/
def nopBytes : List (Word16 × Byte) := [(0, 40), (2, 3), (6, 1), (8, 1), (32, 1), (36, 5), (39, 0x80)]
def nopHalf : List (Word16 × Byte) := [(0, 40), (2, 3), (6, 1), (8, 1)]
def nopBad : List (Word16 × Byte) := [(0, 9), (2, 3), (6, 1)]
def dPort (f : HostPort → HostPort) : Device := (linked dRun).updPort 0 fun q => f { q with enabled := true }
def consumeIf (d : Device) (posted : List (Word16 × Byte)) (phase len mark room : Bool) : Bool :=
  let q := d.ports[(0 : Fin 2)].post posted
  let hdr := q.ringBytes q.readOffset.toNat 32
  let n := fieldAt hdr 0 2
  d.live && d.linkUp 0 && q.enabled && !q.faulted && !q.stalled && !q.clearing
    && (((fieldAt hdr 6 1).testBit 0 == q.expectPhase) == phase) && (lengthOk n == len)
    && (q.markStands (q.ringBytes q.readOffset.toNat n) == mark) && (d.replyRoom 0 == room)

theorem witness_packetConsume :
    dRun.live = true ∧ dRun.linkUp 0 = false
    ∧ consumeIf (dPort id) nopBytes true true true true = true ∧ consumeIf (dPort id) nopHalf true true false true = true
    ∧ consumeIf (dPort id) [] false false false true = true
    ∧ consumeIf (dPort fun q => { q with tail := 1023 }) nopBytes true true true false = true
    ∧ consumeIf (dPort id) nopBad true false false true = true
    ∧ (dPort fun q => { q with stalled := true }).ports[(0 : Fin 2)].stalled = true := by
  repeat' apply And.intro
  all_goals decide +kernel

/-- A command of port 0 without its final reply. -/
def dOpen : Device := { linked dRun with opens := [cmd0 0x0103] }

theorem witness_intakeRegisterRows :
    dRun.live = true ∧ (linked dRun).mayWrite (.port 0) (some 0) = true
    ∧ (dPort fun q => { q with coalesceUs := 5, coalesceSince := some 1 }).ports[(0 : Fin 2)].coalesceUs ≠ 0
    ∧ (dPort fun q => { q with coalesceUs := 5, coalesceSince := some 1 }).ports[(0 : Fin 2)].coalesceSince = some 1
    ∧ dRun.ports[(0 : Fin 2)].coalesceSince = none ∧ (linked dRun).outstanding 0 = 0 ∧ dOpen.outstanding 0 ≠ 0
    ∧ (linked { dRun with sec := { dRun.sec with ready := false } }).sec.ready = false ∧ (linked dRun).sec.ready = true
    ∧ (linked dRun).ports[(0 : Fin 2)].clearing = false ∧ (dPort fun q => { q with clearing := true }).ports[(0 : Fin 2)].clearing = true
    ∧ (dPort id).ports[(0 : Fin 2)].enabled = true ∧ (linked dRun).ports[(0 : Fin 2)].enabled = false
    ∧ (linked dRun).ports[(0 : Fin 2)].enablePending = false
    ∧ (dPort fun q => { q with clearing := true, enablePending := true }).ports[(0 : Fin 2)].enablePending = true
    ∧ (linked dRun).ports[(0 : Fin 2)].quiesced = true ∧ (dPort fun q => { q with quiesced := false }).ports[(0 : Fin 2)].quiesced = false
    ∧ (0 : Word32).extractLsb' 11 5 ≠ (linked dRun).ports[(0 : Fin 2)].sizeLog2
    ∧ (0 : Word32) = (linked dRun).ports[(0 : Fin 2)].tail
    ∧ (linked dRun).outstanding 0 + 2 ≤ (linked dRun).ports[(0 : Fin 2)].ringSize
    ∧ (linked dRun).ports[(0 : Fin 2)].ringSize ≤ ((linked dRun).ports[(0 : Fin 2)].tail - 1).toNat
    ∧ (linked dRun).mayWrite (.core 0) none = true := by
  repeat' apply And.intro
  all_goals decide +kernel

/-- The admin port is port 1, whose link has been down for more than a second. -/
def dAdopt : Device := { dRun with admin := { port := 1 }, tb := { dRun.tb with now := 2000000000 } }
/-- The boot ROM runs, and holds an image of 8 bytes. -/
def dBoot : Device :=
  linked { dRun with sec := { dRun.sec with state := .loading, image := (List.range 8).map fun i => (i, 0), imageLength := some 8 } }

theorem witness_sessionCommands :
    dRun.live = true ∧ dRun.passes 0x0001 hdr0 ∧ dRun.passesAdmin 0x0008 hdr0 ∧ dRun.linkUp (otherPort hdr0.port) = false
    ∧ (dRun.updPort 1 fun q => { q with dlUp := true }).linkUp (otherPort hdr0.port) = true
    ∧ dAdopt.passes 0x0009 hdr0 ∧ dAdopt.admin.port ≠ hdr0.port ∧ dAdopt.linkUp dAdopt.admin.port = false
    ∧ 1000000000 < (dAdopt.tb.now - dAdopt.ports[dAdopt.admin.port].downSince).toNat
    ∧ (dAdopt.updPort 1 fun q => { q with dlUp := true }).linkUp (dAdopt.updPort 1 fun q => { q with dlUp := true }).admin.port = true
    ∧ dBoot.live = true ∧ dBoot.chunkOk 0 8 8 = true ∧ dBoot.sec.state ≠ .running ∧ dBoot.linkUp hdr0.port = true
    ∧ dRun.chunkOk 0 8 8 = true ∧ dRun.sec.state = .running ∧ dBoot.chunkOk 0 9 8 = false
    ∧ dBoot.sec.imageLength = some (8 : Word32).toNat ∧ dBoot.sec.image.length = (8 : Word32).toNat
    ∧ dBoot.imageFault (dBoot.sec.image.map Prod.snd) = some 2 ∧ dRun.passesAdmin 0x0018 hdr0 ∧ (1 : BitVec 8) ≠ 0 := by
  repeat' first | exact passes_like _ _ | apply And.intro
  all_goals decide +kernel

theorem witness_bootPasses :
    dBoot.passes 0x0010 hdr0 ∧ dBoot.passes 0x0011 hdr0 :=
  ⟨⟨dispatches_like _ _ _ (by decide) (by decide) rfl, rfl, rfl, .inl rfl⟩, ⟨dispatches_like _ _ _ (by decide) (by decide) rfl, rfl, rfl, .inl rfl⟩⟩

def frame0 : Frame := { type := .data, src := 1, dst := 0, jobTag := 0 }
def dOct (f : OctPort → OctPort) : Device := dRun.updFab fun x => { fabJob x with ports := Bank.upd x.ports 3 fun q => f { q with aligned := true } }
def dDirect : Device := dOct fun q => { q with mode := .direct }
def dSwitched : Device := dOct fun q => { q with mode := .switched }

theorem witness_frameReceive :
    dRun.live = true ∧ dRun.fab.ports[(3 : Fin 8)].up = false ∧ dDirect.live = true ∧ dDirect.fab.ports[(3 : Fin 8)].up = true
    ∧ dDirect.fab.ports[(3 : Fin 8)].mode = .direct ∧ dSwitched.fab.ports[(3 : Fin 8)].up = true
    ∧ dSwitched.fab.ports[(3 : Fin 8)].mode = .switched ∧ { frame0 with ethertype := 0x0800 }.ethertype ≠ dDirect.fab.ports[(3 : Fin 8)].ethertype
    ∧ frame0.ethertype = dDirect.fab.ports[(3 : Fin 8)].ethertype ∧ dDirect.fab.ports[(3 : Fin 8)].replay = [] ∧ frame0.type ≠ .linkAck
    ∧ frame0.type ≠ .linkNak ∧ frame0.lsn = dDirect.fab.ports[(3 : Fin 8)].rxLsn
    ∧ ((1 : Word16) - dDirect.fab.ports[(3 : Fin 8)].rxLsn).toNat < 32768
    ∧ 32768 ≤ ((0xFFFF : Word16) - dDirect.fab.ports[(3 : Fin 8)].rxLsn).toNat
    ∧ dRun.fab.job = .none ∧ dDirect.fab.job ≠ .none ∧ frame0.jobTag = dDirect.fab.jobTag ∧ frame0.dst = dDirect.fab.rank
    ∧ { frame0 with dst := 1 }.dst ≠ dDirect.fab.rank ∧ frame0.hopsLeft ≠ 0 := by
  repeat' apply And.intro
  all_goals decide +kernel

/-- A frame kept for replay, and messages sent to rank 1. -/
def replay0 : ReplayFrame := { frame := { frame0 with lsn := 5 }, firstSent := 1 }
def dReplay : Device := dOct fun q => { q with mode := .direct, replay := [replay0], ackDue := true }
def out1 (kind : MsgKind) (tries : Nat) : OutMsg :=
  { dst := 1, msgId := 9, kind := kind, bytes := [0], tries := tries, lastSent := 1, firstSent := 1 }
def dOut (m : OutMsg) : Device := dRun.updFab fun x => { fabJob x with out := [m] }

theorem witness_linkRows :
    dReplay.live = true ∧ dReplay.fab.ports[(3 : Fin 8)].mode = .direct ∧ dSwitched.fab.ports[(3 : Fin 8)].mode ≠ .direct
    ∧ dReplay.fab.ports[(3 : Fin 8)].ackDue = true ∧ dRun.fab.ports[(3 : Fin 8)].ackDue = false
    ∧ dReplay.fab.ports[(3 : Fin 8)].replay = [replay0] ∧ dRun.fab.ports[(3 : Fin 8)].replay = []
    ∧ dReplay.fab.ports[(3 : Fin 8)].aligned = true ∧ dRun.fab.ports[(3 : Fin 8)].aligned = false
    ∧ dReplay.fab.ports[(3 : Fin 8)].mode ≠ .off ∧ dRun.fab.ports[(3 : Fin 8)].mode = .off
    ∧ dSwitched.fab.ports[(3 : Fin 8)].mode = .switched
    ∧ dRun.fab.out.find? (fun m => m.dst == 1 && m.msgId == 9 && m.tries != 0) = none
    ∧ (dOut (out1 (.control 2) 1)).fab.out.find? (fun m => m.dst == 1 && m.msgId == 9 && m.tries != 0) = some (out1 (.control 2) 1)
    ∧ (out1 (.hop (Fin.val (n := 16) 0) 0 0) 1).kind = .hop (Fin.val (n := 16) 0) 0 0
    ∧ (out1 .pull 1).tries < (dOut (out1 .pull 1)).fab.maxTries ∧ (dOut (out1 .pull 4)).fab.maxTries ≤ (out1 .pull 4).tries := by
  repeat' apply And.intro
  all_goals decide +kernel

/-- This device as rank 1 of the job, whose manager is rank 0; as the manager of domain 1 below the top manager of domain 0. -/
def fabWorker (j : JobState) (f : Fabric) : Fabric := { fabJob f with job := j, rank := 1 }
def dWorker (j : JobState) : Device := dRun.updFab (fabWorker j)
def dMiddle : Device := dRun.updFab fun f =>
  { f with job := .active, rank := 1, table := [{ domain := 0, role := 3, group := 1 }, { domain := 1, role := 1, group := 1 }] }
def dHeard (g : Peer → Peer) : Device := dRun.updFab fun f => { fabJob f with peers := [g { rank := 1, lastHeartbeat := some 1 }] }
def mcast0 : Multicast := { program := 0, step := 0, ord := 0, first := 0, bytes := 128, receivers := [(1, 0, false), (2, 0, false)], sent := 128, firstSent := 1 }
/-- Rank 2 has acknowledged all of a multicast and rank 1 nothing. -/
def dMcast (out : List OutMsg) : Device := dRun.updFab fun f => { fabJob f with mcasts := [mcast0], out := out }
def outMcast (r : BitVec 14) : OutMsg := { out1 (.mcast 0 0 0 0) 1 with dst := r }

theorem witness_jobRows :
    (dJob pGrad).live = true ∧ (dJob pGrad).fab.job ≠ .none ∧ dRun.fab.job = .none
    ∧ ((dHeard fun q => { q with lost := true }).fab.peer 1).lost = true ∧ ((dHeard id).fab.peer 1).lost = false
    ∧ (dJob pGrad).fab.manager ≠ some 1 ∧ (dWorker .active).fab.manager = some 0 ∧ ((dWorker .active).fab.peer 0).lost = false
    ∧ 1 ∈ (dHeard id).fab.supervised ∧ ((dHeard id).fab.peer 1).lastHeartbeat.isSome = true ∧ 5 ∉ (dHeard id).fab.supervised
    ∧ (dWorker .active).fab.job = .active ∧ (dWorker .hold).fab.job = .hold ∧ (dWorker .hold).fab.manager = some 0
    ∧ (dJob pGrad).fab.isTop = true ∧ dMiddle.fab.isTop = false ∧ dMiddle.fab.isDomainManager = true ∧ dMiddle.fab.topManager = some 0
    ∧ (dWorker .resuming).fab.job = .resuming ∧ (dWorker .resuming).fab.isDomainManager = false
    ∧ (dRun.updFab fun f => { fabWorker .resuming f with resume := some (cmd0 0x0705, 3) }).fab.resume = some (cmd0 0x0705, 3)
    ∧ (dWorker .active).fab.job ≠ .resuming ∧ (dJob pGrad).fab.job ≠ .hold ∧ (dJob pGrad).memberLevel 1 = true
    ∧ dTop.memberLevel 1 = false ∧ dTop.fab.isTop = true
    ∧ (dRun.updFab fun f => { fabWorker .active f with barriers := [{ id := 4, scope := 0, cmd := cmd0 0x0704 }] }).fab.barriers.find?
        (fun b => b.id == 4) = some { id := 4, scope := 0, cmd := cmd0 0x0704 }
    ∧ (dMcast [outMcast 1]).fab.mcasts[0]? = some mcast0
    ∧ ((dMcast [outMcast 1]).fab.progress mcast0).receivers.find? (fun x => x.1 == 1 && !x.2.2) = some (1, 0, false)
    ∧ 0 < ((dMcast [outMcast 1]).fab.progress mcast0).sent
    ∧ (∃ x ∈ ((dMcast [outMcast 1]).fab.progress mcast0).receivers, x.1 ≠ 1 ∧ 0 < x.2.1)
    ∧ (∀ x ∈ ((dMcast [outMcast 1, outMcast 2]).fab.progress mcast0).receivers, x.1 = 1 ∨ x.2.1 ≤ 0)
    ∧ (dJob pGrad).releaserOf 4 = some (0, pGrad) ∧ (dJob pGrad).releaserOf 9 = none
    ∧ pGrad.ordinalOf 4 = some 0 ∧ ({ pRed with versions := [(4, 1)] } : Program).version 4 = (1 : Word32).toNat
    ∧ 0 + 64 ≤ (pRed.released 0).elems ∧ (pRed.stepAt 0).isSome = true := by
  repeat' apply And.intro
  all_goals decide +kernel

/-- A membership table of one rank, in object 7. -/
def dTable1 : Device := { withObj dRun with mem := { (withObj dRun).mem with mem := [(4099, 3), (4100, 1)] } }
def dActive (p : Program) : Device := (dWith p).updFab fun f => { fabWorker .active f with jobId := 6 }

theorem witness_fabricCommands :
    dTable1.live = true ∧ dTable1.passesAdmin 0x0301 hdr0 ∧ dTable1.obj? 7 = some obj7 ∧ obj7.t3Segments 0 8 = []
    ∧ ((dTable1.tableBytes 7 0 8).bind membersOf).isSome = true ∧ dTable1.mayRead 7 hdr0.account = true ∧ dTable1.fab.job = .none
    ∧ ({ dTable1 with fab := fabJob dRun.fab } : Device).fab.job ≠ .none
    ∧ (dActive pIdle).passesAdmin 0x0302 hdr0 ∧ (dActive pIdle).fab.job ≠ .none ∧ (dActive pIdle).fab.jobId = 6
    ∧ (dActive pIdle).anyRunning = false ∧ (dActive pRun).anyRunning = true ∧ (dActive pIdle).fab.jobId ≠ 7
    ∧ (3 : BitVec 8).toNat = (3 : Fin 8).val ∧ octModeOf (2 : BitVec 8).toNat = some .switched ∧ (0x30 : BitVec 8) &&& 0x88 = 0
    ∧ (0x30 : BitVec 8).extractLsb' 0 3 ≠ (0x30 : BitVec 8).extractLsb' 4 3 ∧ (0xFFF : Word16).toNat ≤ 0xFFF
    ∧ 200 ≤ (200 : Word32).toNat ∧ (dActive pIdle).passes 0x0704 hdr0 ∧ (dActive pIdle).fab.job = .active
    ∧ (∀ b ∈ (dActive pIdle).fab.barriers, b.id ≠ 1) ∧ (dActive pIdle).fab.barriers.length < 16
    ∧ (dActive pIdle).fab.isDomainManager = false ∧ (dActive pIdle).fab.manager = some 0 ∧ dRun.fab.job ≠ .active
    ∧ (dWorker .hold).fab.job = .hold ∧ (dWorker .hold).fab.jobId = 0 ∧ (dWorker .hold).fab.isTop = false
    ∧ (dWorker .hold).fab.manager = some 0 ∧ (dWorker .hold).passesAdmin 0x0705 hdr0 ∧ (dActive pIdle).fab.job ≠ .hold
    ∧ (dActive pIdle).progs[(0 : Fin 16)] = some pIdle ∧ pIdle.account = hdr0.account ∧ pIdle.state ≠ .running ∧ pRun.state = .running
    ∧ ((dHeard id).fab.peer 1).lastHeartbeat = some 1 ∧ (dHeard id).prunedBy ((dHeard id).fab.peer 1) = false
    ∧ (dHeard id).passes 0x0707 hdr0 ∧ dRun.mayWrite (.core 0) none = true := by
  repeat' first | exact passes_like _ _ | apply And.intro
  all_goals decide +kernel

/-- A device at a later tick. -/
def lateT (n : Nat) (d : Device) : Device := { d with tb := { d.tb with now := BitVec.ofNat 64 n } }

theorem witness_jobTimes :
    dRun.dispatchWaits = false ∧ dDirect.joined = true ∧ frame0.version = 1 ∧ { frame0 with jobTag := 77 }.jobTag ≠ dDirect.fab.jobTag
    ∧ 1000 ≤ (lateT 100000 dReplay).ticksSince dReplay.fab.ports[(3 : Fin 8)].progress
    ∧ dReplay.ticksSince dReplay.fab.ports[(3 : Fin 8)].progress < 1000 ∧ 8000 ≤ (lateT 100000 dReplay).ticksSince replay0.firstSent
    ∧ dReplay.ticksSince replay0.firstSent < 8000 ∧ (dOut (out1 .pull 1)).ticksSince (out1 .pull 1).lastSent < 1000 * (dOut (out1 .pull 1)).fab.e2eUs
    ∧ 1000 * (dOut (out1 .pull 1)).fab.e2eUs ≤ (lateT 100000000 (dOut (out1 .pull 1))).ticksSince (out1 .pull 1).lastSent
    ∧ (dJob pGrad).fab.joinedIntoHold 1 .hold = true ∧ ((dJob pGrad).fab.peer 1).lost = false ∧ (dHeard id).fab.joinedIntoHold 1 .hold = false
    ∧ (dWorker .active).fab.isTop = false ∧ (dWorker .joining).fab.job ≠ .active
    ∧ 300000 ≤ (lateT 1000000 (dHeard id)).ticksSince 1 ∧ (dHeard id).ticksSince 1 < 300000
    ∧ 300000 ≤ (lateT 1000000 (dWorker .active)).ticksSince (dWorker .active).fab.lastManagerBeat
    ∧ (dWorker .active).ticksSince (dWorker .active).fab.lastManagerBeat < 300000 ∧ (5 : Word64) ≠ resumeRefused
    ∧ (lateT 0x7FFFFFFF (dMcast [outMcast 1])).lagsBy ((dMcast [outMcast 1]).fab.progress mcast0) 1 0 = true
    ∧ (dMcast [outMcast 1]).lagsBy ((dMcast [outMcast 1]).fab.progress mcast0) 1 0 = false
    ∧ (dRun.updFab fun f => { fabWorker .active f with barriers := [{ id := 4, scope := 0, cmd := cmd0 0x0704 }] }).fab.barriers.find?
        ((dWorker .active).fab.released 4 0 9) = some { id := 4, scope := 0, cmd := cmd0 0x0704 }
    ∧ (dActive pIdle).fab.domainManager (dActive pIdle).fab.myDomain = some 0 := by
  repeat' apply And.intro
  all_goals decide +kernel
/-! ### Integrity and Bellows -/

def dInteg (d : Device) (f : Integrity → Integrity) : Device := { d with integ := f d.integ }
def pack0 : AssayPack := { id := 1, version := 1, svn := 1, waTicks := 1, bytes := [] }
/-- A unit of one pass with one value, and a bit of it wrong. -/
def unitOne : TwinUnit := [[{ v := 5, r := 0, c := 0, x := 0 }]]
def upset0 : Upset := { pass := 0, term := 0, flip := 1 }
/-- A unit of the pair of arrays 0 and 1 that waits to be compared. -/
def dTwin (st : TwinState) : Device :=
  dInteg (dWith (pFlight { flight1 with units := [unitOne] })) fun i => { i with twin := true, pairs := Vector.replicate 4 st }
def replayed0 : Replayed := { slot := 0, step := 0, array := 0, lane := 0, word := 0, mb := 0, terms := [{ v := 5, r := 0, c := 0, x := 0 }] }

theorem witness_comparisons :
    dRun.live = true ∧ dRun.integ.twin = false ∧ (dTwin .run).integ.twin = true ∧ (dTwin .run).twinUnit 0 = some (0, 0, 0, 0)
    ∧ passDigests ((dTwin .run).unitAt (0, 0, 0, 0)) [] ≠ passDigests ((dTwin .run).unitAt (0, 0, 0, 0)) [upset0]
    ∧ digest (upsetTerms replayed0.terms []) ≠ digest (upsetTerms replayed0.terms [upset0])
    ∧ (∀ t ∈ [TwinState.run, .retry, .retry2, .assay, .quarantined], (dTwin t).integ.pairs[(0 : Fin 4)] = t)
    ∧ dRun.integ.pairs[(0 : Fin 4)] ≠ .assay ∧ (dTwin .assay).integ.pack = none
    ∧ (dInteg (dTwin .assay) fun i => { i with pack := some pack0 }).integ.pack.isSome = true
    ∧ dRun.arrays[primaryOf 0].spareLocked = false ∧ dRun.arrays[shadowOf 0].spareLocked = false ∧ dRun.integ.replays[0]? = none
    ∧ (dInteg dRun fun i => { i with replays := [replayed0] }).integ.replays[0]? = some replayed0
    ∧ dRun.replayDone replayed0 = true ∧ (dWith (pFlight flight1)).replayDone replayed0 = false := by
  repeat' apply And.intro
  all_goals decide +kernel

def assay3 (c : Option OpenCmd) : AssayRun := { array := 3, cmd := c }
def dAssay (f : Integrity → Integrity) : Device := dInteg dRun fun i => f { i with pack := some pack0 }

theorem witness_integrityRows :
    (dJob pGrad).live = true ∧ (dJob pGrad).fab.isTop = true ∧ dMiddle.fab.isTop = false ∧ dMiddle.fab.topManager = some 0
    ∧ dMiddle.fab.isDomainManager = true ∧ dRun.fab.job = .none ∧ dMiddle.fab.job ≠ .none ∧ dMiddle.fab.job ≠ .hold
    ∧ dMiddle.jobProgram = none ∧ dMiddle.integ.hmVersion = 0 ∧ dRun.integ.pack = none ∧ (dAssay id).integ.pack.isSome = true
    ∧ (dAssay fun i => { i with atOnce := [assay3 none] }).integ.atOnce.find? (fun x => x.array == 3) = some (assay3 none)
    ∧ (dAssay id).integ.atOnce.find? (fun x => x.array == 3) = none ∧ (dAssay id).idleSlot 3 = true ∧ (dAssay id).integ.waEn = true
    ∧ (dAssay fun i => { i with run := some (assay3 none) }).integ.run = some (assay3 none) ∧ (assay3 none).array = 3
    ∧ (dAssay fun i => { i with asked := [assay3 (some (cmd0 0x0805))] }).integ.asked = [assay3 (some (cmd0 0x0805))]
    ∧ (assay3 (some (cmd0 0x0805))).cmd.isSome = true ∧ dRun.mayWrite (.core 0) none = true ∧ (0 : BitVec 8) &&& ~~~dRun.integ.quarantine = 0
    ∧ dRun.integ.quarantine.getLsbD 3 = false ∧ dRun.adm.promises = [] := by
  repeat' apply And.intro
  all_goals decide +kernel

theorem linked_passes (op : Word16) : (linked dRun).passes op hdr0 := passes_of op _ (by decide) (by decide) rfl (by decide) (by decide)

theorem witness_integrityCommands :
    dRun.live = true ∧ dRun.passesAdmin 0x0801 hdr0 ∧ dRun.twinFree true = true ∧ (dWith pRun).twinFree true = false
    ∧ (dWith pIdle).progs[(0 : Fin 16)] = some pIdle ∧ pIdle.account = hdr0.account ∧ (dWith pIdle).passes 0x0802 hdr0
    ∧ pIdle.state ≠ .running ∧ pRun.state = .running ∧ (1024 : Word16).toNat ≤ 1024 ∧ 1024 < (1025 : Word16).toNat
    ∧ (7 : BitVec 8).toNat = (7 : Fin 8).val ∧ (16672 : Word32).toNat % 8 = 0 ∧ (16777216 : Word32).toNat ≤ 16777216
    ∧ (dAssay fun i => { i with run := some (assay3 none) }).integ.running = true ∧ (linked dRun).integ.running = false
    ∧ (linked dRun).linkUp hdr0.port = true ∧ (linked dRun).passesAdmin 0x0804 hdr0 ∧ (16671 : Word32).toNat % 8 ≠ 0
    ∧ (dAssay id).passes 0x0805 hdr0 ∧ (dAssay id).integ.quarantine.getLsbD (7 : Fin 8).val = false
    ∧ (dAssay fun i => { i with quarantine := 0x80 }).integ.quarantine.getLsbD (7 : Fin 8).val = true
    ∧ (dAssay id).arrays[(7 : Fin 8)].quiesced = false
    ∧ ((dAssay id).updArray 7 fun a => { a with quiesced := true }).arrays[(7 : Fin 8)].quiesced = true
    ∧ dRun.integ.pack = none ∧ (100 : BitVec 8).toNat ≤ 100 ∧ 100 < (101 : BitVec 8).toNat ∧ (101 : BitVec 8) ≠ 0x7F := by
  repeat' first | exact passes_like _ _ | exact linked_passes _ | apply And.intro
  all_goals decide +kernel

def dBel (f : Bellows → Bellows) : Device := { dRun with bel := f dRun.bel }
/-- A promise holds array 3 in class 5. -/
def promise3 : Promise := { hdr := { hdrP with powerClass := 5 }, opcode := 0x0203, resources := 8, tick := 1000 }
def dPromise (f : Bellows → Bellows) : Device := { dBel f with adm := { dRun.adm with promises := [promise3] } }

theorem witness_bellowsInterval :
    dRun.live = true ∧ dRun.bel.brake = false ∧ dRun.arraysHalted = false ∧ (dBel fun b => { b with brake := true }).bel.brake = true
    ∧ (dPromise fun b => { b with soft := 1300 }).targetW < (dPromise fun b => { b with soft := 1300 }).bel.hardW
    ∧ 5 * (dPromise fun b => { b with soft := 1300, governed := 27000 }).targetW
        ≤ (dPromise fun b => { b with soft := 1300, governed := 27000 }).bel.governNext (dPromise id).arraysHalted
            (5 * (dPromise fun b => { b with soft := 1300, governed := 27000 }).goalW
              ((dPromise fun b => { b with soft := 1300, governed := 27000 }).bel.trimmed 0).toNat [])
    ∧ (dPromise fun b => { b with soft := 1300 }).grantedClass 3 = some 5 := by
  repeat' apply And.intro
  all_goals decide +kernel

theorem witness_supplyRows :
    dRun.live = true ∧ dRun.bel.estSum / dRun.bel.estCount = 0
    ∧ (dBel fun b => { b with estSum := 3000, estCount := 2 }).bel.estSum / (dBel fun b => { b with estSum := 3000, estCount := 2 }).bel.estCount ≠ 0
    ∧ (trimGain 1500 1500).2 = false ∧ (trimGain 2000 1500).2 = true ∧ (dBel fun b => { b with convOk := 0xE }).bel.convOk.getLsbD (0 : Fin 4).val = false
    ∧ dRun.bel.convOk.getLsbD (3 : Fin 4).val = true ∧ dRun.bel.convOk &&& ~~~(1#4 <<< (3 : Fin 4).val) ≠ 0
    ∧ (dBel fun b => { b with convOk := 8 }).bel.convOk = 1#4 <<< (3 : Fin 4).val ∧ 6000 ≤ (7200 : Word16).toNat
    ∧ (5999 : Word16).toNat < 6000 ∧ 8000 < (8001 : Word16).toNat ∧ dRun.bel.supplyRange = false
    ∧ (dBel fun b => { b with supplyRange := true }).bel.supplyRange = true ∧ dRun.bel.brake = false
    ∧ (dBel fun b => { b with brake := true }).bel.brake = true ∧ (dBel fun b => { b with powerFail := true }).bel.powerFail = true
    ∧ dRun.bel.powerFail = false ∧ dRun.mayWrite (.core 0) none = true := by
  repeat' apply And.intro
  all_goals decide +kernel

theorem witness_temperatureRows :
    dRun.live = true ∧ dRun.bel.thermalExcursion = false ∧ (52 : BitVec 8).toNat ≤ (40 : BitVec 8).toNat + 12 ∧ 60 < (61 : BitVec 8).toNat
    ∧ (19 : BitVec 8).toNat < 20 ∧ dRun.bel.coolantRange = false ∧ (40 : BitVec 8).toNat + 12 < (53 : BitVec 8).toNat
    ∧ dRun.bel.flowBad < 100 ∧ (dRun.bel.noteJunctions [(3, 103)]).junctionMax < 104 ∧ 101 < (dRun.bel.noteJunctions [(3, 103)]).junctionMax
    ∧ dRun.anyHot = false
    ∧ 104 ≤ (dRun.bel.noteJunctions [(3, 104)]).junctionMax ∧ (dBel fun b => { b with thermalExcursion := true }).bel.thermalExcursion = true
    ∧ (dStack fun x => { x with hot := true }).anyHot = true ∧ (dRun.bel.noteJunctions [(3, 101)]).junctionMax ≤ 101 ∧ dRun.stackMax ≤ 93 := by
  repeat' apply And.intro
  all_goals decide +kernel

/-- Whatever the floor calibration holds, every branch of CAP_SET has a value: the floor lies from 1,200 W to 1,600 W. -/
theorem witness_floorCal : 1200 ≤ Config.floorCalW ∧ Config.floorCalW ≤ 1600 := by
  unfold Config.floorCalW
  omega

theorem witness_powerSettings :
    dRun.live = true ∧ dRun.passesAdmin 0x0901 hdr0 ∧ 5400 < (5401 : Word16).toNat ∧ (1600 : Word16) ≠ 0 ∧ (1 : Word16) ≠ 0
    ∧ Config.floorCalW ≤ (1600 : Word16).toNat ∧ (1 : Word16).toNat < Config.floorCalW ∧ dRun.passes 0x0902 hdr0
    ∧ (200 : BitVec 8) ≠ 0 ∧ (200 : BitVec 8).toNat ≤ 200 ∧ dRun.adm.promises = [] ∧ (dPromise id).adm.promises ≠ []
    ∧ (dPromise id).passesAdmin 0x0903 hdr0 ∧ (4400 : Word16).toNat ≤ 5400 ∧ (dWith pIdle).passes 0x0905 hdr0
    ∧ (dWith pIdle).progs[(0 : Fin 16)] = some pIdle ∧ pIdle.account = hdr0.account ∧ pIdle.state ≠ .running ∧ pRun.state = .running
    ∧ (∀ k : Fin 16, ∀ p, dRun.progs[k] = some p → p.state ≠ .running) := by
  repeat' first
    | exact passes_like _ _
    | exact witness_floorCal.2
    | exact Nat.lt_of_lt_of_le (by decide) witness_floorCal.1
    | apply And.intro
  all_goals decide +kernel
/-! ### Interrupts, events, registers and the board port -/

def dIntc (f : Intc → Intc) : Device := { dRun with intc := f dRun.intc }
def dCore (c : Fin 4) (f : Core → Core) : Device := dRun.updCore c f
/-- Core 1 runs with external, timer and software interrupts enabled; source 300 is pending at priority 5 for it. -/
def dRoute : Device :=
  { dCore 1 (fun k => { k with running := true, mstatusMIE := true, meie := true, mtie := true, msie := true }) with
    intc := { src := (Vector.replicate 512 {}).set 300 { pend := true, priority := 5, coreMask := 2 } } }
/-- With one source of a priority other than 0, that one is delivered; with none, none is. -/
theorem topSource_of (d : Device) (free : List (Fin 4)) (n : Fin 512) (c : Fin 4) (t : Bool) (h0 : n.val ≠ 0)
    (hp : d.intc.src[n.val].priority.toNat ≠ 0) (hq : d.pendingSource n = true) (hk : d.pickCore n free = some (c, t))
    (ho : ∀ m : Fin 512, m ≠ n → d.intc.src[m.val].priority.toNat = 0) : d.topSource free = some (n, c, t) := by
  have fold : ∀ (l : List (Fin 512)) (best : Option (Fin 512 × Fin 4 × Bool)), best = none ∧ n ∈ l ∨ best = some (n, c, t) →
      l.foldl (fun best s =>
        let p := d.intc.src[s].priority.toNat
        if s.val = 0 ∨ p = 0 ∨ !d.pendingSource s then best
        else
          let better := match best with
            | none => true
            | some (b, _, _) => decide (d.intc.src[b].priority.toNat < p)
          if better then (match d.pickCore s free with | some (c, t) => some (s, c, t) | none => best) else best) best = some (n, c, t) := by
    intro l
    induction l with
    | nil => intro best h; simpa using h
    | cons m l ih =>
      intro best h
      rw [List.foldl_cons]
      apply ih
      by_cases hm : m = n
      · subst hm
        obtain ⟨rfl, _⟩ | rfl := h <;> simp [h0, hp, hq, hk]
      · obtain ⟨rfl, hn⟩ | rfl := h
        · exact .inl ⟨by simp [ho m hm], by simpa [Ne.symm hm] using hn⟩
        · exact .inr (by simp [ho m hm])
  exact fold _ _ (.inl ⟨rfl, List.mem_finRange n⟩)

theorem topSource_none (d : Device) (free : List (Fin 4)) (ho : ∀ m : Fin 512, d.intc.src[m.val].priority.toNat = 0) :
    d.topSource free = none := by
  unfold Device.topSource
  generalize Bank.indices 512 = l
  induction l with
  | nil => rfl
  | cons m l ih => rw [List.foldl_cons]; simpa [ho m] using ih

theorem resetSources_priority (m : Fin 512) : resetSources[m.val].priority = 0 := by simp [resetSources]

/-- The interrupt controller as after reset. -/
def dQuiet : Device := { dRun with intc := { src := resetSources } }
theorem dQuiet_src : dQuiet.intc.src = resetSources := rfl
theorem witness_routing : dQuiet.topSource (Bank.indices 4) = none ∧ dRoute.topSource (Bank.indices 4) = some (300, 1, false)
    ∧ dRoute.topSource [0, 1] = some (300, 1, false) := by
  have other : ∀ m : Fin 512, m ≠ 300 → dRoute.intc.src[m.val].priority.toNat = 0 := by
    intro m hm
    have h : ((Vector.replicate 512 ({} : IntSource)).set 300 { pend := true, priority := 5, coreMask := 2 })[m.val] = {} := by
      have hv : (300 : Nat) ≠ m.val := fun e => hm (Fin.ext e.symm)
      rw [Vector.getElem_set, if_neg hv, Vector.getElem_replicate]
    exact congrArg (fun x : IntSource => x.priority.toNat) h
  refine ⟨topSource_none _ _ fun m => by rw [dQuiet_src, resetSources_priority]; rfl, topSource_of _ _ 300 1 false (by decide) ?_ ?_ ?_ other,
    topSource_of _ _ 300 1 false (by decide) ?_ ?_ ?_ other⟩ <;> decide +kernel

def inService7 : InService := { source := 7, level := 3 }
def dServes : Device := dCore 1 fun k => { k with stack := [inService7] }

theorem witness_interruptRows :
    dRun.live = true ∧ (9 : BitVec 9) ≠ 0 ∧ dRun.intc.isLevel ⟨(9 : BitVec 9).toNat, (9 : BitVec 9).isLt⟩ = false
    ∧ dRun.intc.isLevel 4 = true
    ∧ (dIntc fun i => { i with parity := 1#49 <<< 43 }).intc.parity.getLsbD 43 = true ∧ dRun.intc.parity.getLsbD 43 = false
    ∧ dRoute.live = true ∧ dRoute.intc.parity.getLsbD 43 = false := by
  repeat' apply And.intro
  all_goals decide +kernel

theorem witness_interruptStacks :
    dServes.cores[(1 : Fin 4)].stack.getLast? = some inService7 ∧ inService7.source = (7 : Word32).extractLsb' 0 9
    ∧ inService7.source ≠ (8 : Word32).extractLsb' 0 9 ∧ dRun.cores[(1 : Fin 4)].stack = []
    ∧ (dIntc fun i => { i with faultPost := true }).faultCore = 0
    ∧ ((dIntc fun i => { i with faultPost := true }).intc.faultOrder || (dIntc fun i => { i with faultPost := true }).intc.faultParity
        || (dIntc fun i => { i with faultPost := true }).intc.faultPost) = true
    ∧ dRun.cores[(0 : Fin 4)].running = true ∧ dRun.cores[(0 : Fin 4)].debugHalted = false ∧ (∀ e ∈ dRun.cores[(0 : Fin 4)].stack, e.level ≠ 16)
    ∧ (dRun.intc.faultOrder || dRun.intc.faultParity || dRun.intc.faultPost) = false
    ∧ (∃ e ∈ (dCore 0 fun k => { k with stack := [{ source := 0, level := 16 }] }).cores[(0 : Fin 4)].stack, e.level = 16)
    ∧ dRun.mayWrite (.core 0) none = true ∧ (255 : Word32).toNat % 512 < 256 ∧ 256 ≤ (300 : Fin 512).val
    ∧ dRun.tb.now.toNat < (dCore 1 fun k => { k with mtimecmp := 9 }).cores[(1 : Fin 4)].mtimecmp.toNat
    ∧ dRoute.cores[(1 : Fin 4)].mtimecmp.toNat ≤ dRoute.tb.now.toNat ∧ dRoute.cores[(1 : Fin 4)].mtie = true
    ∧ dRoute.cores[(1 : Fin 4)].takes = true ∧ dRoute.cores[(1 : Fin 4)].msie = true
    ∧ (dRun.cores[(1 : Fin 4)].mtie && dRun.cores[(1 : Fin 4)].takes) = false ∧ dRun.cores[(1 : Fin 4)].running = false := by
  repeat' apply And.intro
  all_goals decide +kernel

theorem witness_coreGrants :
    coreGrants .fetch 0xFFFF = true ∧ coreGrants .fetch 0x10000 = false ∧ coreGrants .fetch 0x13FFFFFF = true ∧ coreGrants .store 0x14000000 = false
    ∧ coreGrants .store 0xFFFF = false ∧ coreGrants .load 0x200FFFFF = true ∧ coreGrants .load 0x20100000 = false
    ∧ coreGrants .store 0x30003008 = true ∧ coreGrants .load 0x3000300C = false ∧ coreGrants .store 0x43FFFFFF = false
    ∧ coreGrants .load (2 ^ 52) = true ∧ coreGrants .load (2 ^ 53) = false ∧ coreGrants .load 0x44000000 = false
    ∧ dRun.cores[(0 : Fin 4)].running = true ∧ dRun.cores[(0 : Fin 4)].debugHalted = false := by decide +kernel

def occ (s : Severity) : Occurrence := { code := 0x0605, severity := s, source := 3, tick := 5, key := 1 }
def rec0 (s : Severity) (seq : BitVec 48) : EventRecord :=
  { code := 0x0605, severity := s, epoch := 0, source := 3, firstTick := 1, lastTick := 1, seq := seq }
def dEvr (f : Evr → Evr) : Device := { dRun with evr := f dRun.evr }

theorem witness_eventRows :
    dRun.live = true ∧ (dEvr fun e => { e with queue := [] }).evr.queue = [] ∧ (dEvr fun e => { e with queue := [occ .info] }).evr.queue = [occ .info]
    ∧ (dEvr fun e => { e with minSeverity := true }).evr.minSeverity = true ∧ (occ .info).severity = .info ∧ dRun.evr.minSeverity = false
    ∧ dRun.evr.records = [] ∧ (dEvr fun e => { e with records := [rec0 .info 0] }).evr.latest = some 0
    ∧ (dEvr fun e => { e with records := [rec0 .info 0] }).evr.records[0]? = some (rec0 .info 0)
    ∧ (rec0 .info 0).folds (occ .info) dRun.evr.windowTicks = true ∧ (rec0 .info 0).folds { occ .info with source := 4 } dRun.evr.windowTicks = false
    ∧ (dCore 1 fun k => { k with postWritten := 0x7F }).cores[(1 : Fin 4)].postWritten ||| 0x80 = 0xFF
    ∧ imageOk ((dCore 1 fun k => { k with postWritten := 0x7F }).cores[(1 : Fin 4)].post 7 0).image = true
    ∧ dRun.cores[(1 : Fin 4)].postWritten ||| 0x80 ≠ 0xFF ∧ dRun.evr.untried = none
    ∧ (dEvr fun e => { e with records := [rec0 .fatal 0] }).evr.untried = some (rec0 .fatal 0)
    ∧ (∀ o ∈ dRun.sec.writes, o.write ≠ .lastWords 0) ∧ dRun.passes 0x0A01 hdr0 ∧ (64 : Word64).toNat % 64 = 0
    ∧ (16384 : Word32).toNat ≤ 16384 ∧ (dEvr fun e => { e with faulted := true }).evr.faulted = true ∧ dRun.evr.faulted = false
    ∧ dRun.evr.readFrom 0 1 0 = [] ∧ (dEvr fun e => { e with records := [rec0 .info 0] }).evr.readFrom 0 1 0 ≠ []
    ∧ (65 : Word64).toNat % 64 ≠ 0 ∧ dRun.passesAdmin 0x0A03 hdr0 ∧ (4 : BitVec 8).toNat ≤ 4 := by
  repeat' first | exact passes_like _ _ | apply And.intro
  all_goals decide +kernel

/-- A recorder with every slot taken by a FATAL record, and one in which slot 0 holds the lowest SEQ. -/
theorem witness_newRecord (d : Device) (h1 : d.evr.records = List.replicate 16384 (rec0 .fatal 0)) :
    16384 ≤ d.evr.records.length ∧ ∀ x ∈ d.evr.records, (occ .info).severity.code.toNat < x.severity.code.toNat := by
  rw [h1]
  refine ⟨Nat.le_of_eq List.length_replicate.symm, fun x h => ?_⟩
  rw [List.eq_of_mem_replicate h]
  decide

theorem witness_newRecordReplaces (d : Device)
    (h : d.evr.records = (List.range 16384).map fun n => rec0 .info (BitVec.ofNat 48 n)) :
    16384 ≤ d.evr.records.length ∧ d.evr.records[0]? = some (rec0 .info 0)
    ∧ ∀ (j : Nat) y, d.evr.records[j]? = some y → y.severity.code.toNat ≤ (occ .info).severity.code.toNat → j ≠ 0 →
      (rec0 .info 0).seq.toNat < y.seq.toNat := by
  rw [h]
  refine ⟨Nat.le_of_eq (by simp), by rw [List.getElem?_map, List.getElem?_range (by decide)]; rfl, fun j y hy _ hj => ?_⟩
  rw [List.getElem?_map] at hy
  by_cases hlt : j < 16384
  · rw [List.getElem?_range hlt] at hy
    cases hy
    show (0 : BitVec 48).toNat < (BitVec.ofNat 48 j).toNat
    simp
    omega
  · rw [List.getElem?_eq_none (by rw [List.length_range]; omega)] at hy
    simp at hy

/-- Debug closed for good. -/
def dSealed : Device := { dRun with seed := { dRun.seed with debugDisabled := true } }
/-- The register an access names, with its width and the part. -/
def access (d : Device) (req : Requester) (off : Nat) (part : RegPart) : Option (Nat × Bool × RegPart) :=
  (d.accessAt req off part).map fun x => (x.1, x.2.1.wide, x.2.2)

theorem witness_registerRows :
    dRun.live = true ∧ dSealed.hears .jtag = false ∧ dRun.hears (.port 0) = false ∧ dRun.hears .smbus = true
    ∧ access dRun .smbus offTimebase .full = some (offTimebase, true, .full) ∧ access dRun .smbus offTimebase .lo = some (offTimebase, true, .lo)
    ∧ access dRun .smbus (offTimebase + 4) .lo = some (offTimebase, true, .hi)
    ∧ access dRun .smbus (offTimebase + 0x10) .lo = some (offTimebase + 0x10, false, .lo)
    ∧ { dRun with readShadow := Bank.upd dRun.readShadow ⟨Requester.smbus.index, by decide⟩ fun _ => some { reg := offTimebase, value := 1 }
        }.readShadow[Requester.smbus.index] = some { reg := offTimebase, value := 1 }
    ∧ dRun.mayWrite (.core 0) (ownPage (.core 0) offTimebase) = true
    ∧ ((linked dRun).updPort 1 fun q => { q with dlUp := true }).linkUp 1 = true ∧ (linked dRun).admin.port ≠ 1
    ∧ ownPage (.port 1) offTimebase ≠ some 1 ∧ ((linked dRun).updPort 1 fun q => { q with dlUp := true }).accessAt (.port 0) 0x2000 .lo = none
    ∧ dRun.linkUp 0 = false ∧ dRun.accessAt (.core 1) 0x2000 .lo = none ∧ 49 ≤ (49 : BitVec 6).toNat ∧ (43 : BitVec 6).toNat ≠ 44 := by
  repeat' apply And.intro
  all_goals decide +kernel

def dSeed (f : Seedbank → Seedbank) : Device := { dRun with seed := f dRun.seed }
def op0 : SeedOp := { write := .svn, cmd := some (cmd0 0x0B02), started := true }

theorem witness_securityRows :
    dRun.live = true ∧ dRun.passes 0x0B01 hdr0 ∧ (dSeed fun b => { b with identity := true }).seed.identity = true
    ∧ dRun.seed.identity = false ∧ dRun.passesAdmin 0x0B03 hdr0 ∧ (1 : Word32) ≠ 0x0D15AB1E ∧ (1000000 : Word32).toNat ≤ 1000000
    ∧ Config.floorCalW ≤ (1600 : Word16).toNat ∧ (1600 : Word16).toNat ≤ 5400 ∧ 5400 < (5401 : Word16).toNat
    ∧ (12 : BitVec 8).toNat ≤ 12 ∧ 12 < (13 : BitVec 8).toNat ∧ (255 : Word16).toNat ≤ 255 ∧ (256 : Word16).toNat ≤ 256
    ∧ ((dRun.seed.committed.drop 0).take 1 = [])
    ∧ (((dSeed fun b => { b with lastWords := [{ record := rec0 .fatal 0, committed := true }] }).seed.committed.drop 0).take 1 ≠ [])
    ∧ { dRun with sec := { dRun.sec with writes := [op0] } }.sec.writes = op0 :: [] ∧ op0.started = true := by
  repeat' first | exact passes_like _ _ | exact witness_floorCal.2 | apply And.intro
  all_goals decide +kernel

/-- A device with 1 F declared and 72 V, whose writes start, one without, and one that has written its limit. -/
def dHoldup : Device := { dSeed (fun b => { b with capUf := 1000000 }) with bel := { dRun.bel with voltage := 7200 } }

theorem witness_seedbankWrites :
    (SeedWrite.debug ≠ .svn) ∧ (SeedWrite.debug).isLastWords = false ∧ dSealed.seed.atLimit .debug = true ∧ dRun.seed.atLimit .debug = false
    ∧ (dBel fun b => { b with powerFail := true }).bel.powerFail = true ∧ dRun.bel.powerFail = false ∧ dRun.sec.writes = []
    ∧ 2 * (SeedWrite.debug).reqMj * 20000000 < dHoldup.seed.capFor .debug
        * (dHoldup.bel.voltage.toNat * dHoldup.bel.voltage.toNat - 5600 * 5600)
    ∧ dRun.seed.capFor .debug * (dRun.bel.voltage.toNat * dRun.bel.voltage.toNat - 5600 * 5600) ≤ 2 * (SeedWrite.debug).reqMj * 20000000 := by
  repeat' apply And.intro
  all_goals decide +kernel

def dMsix (pend : Bool) : Device := dPort fun q => { q with msixEnable := true, msix := Bank.upd q.msix 4 fun e => { e with pend := pend } }

theorem witness_hostLinkRows :
    dRun.live = true ∧ dRun.linkUp 0 = false ∧ (linked dRun).linkUp 0 = true ∧ (dRun.updPort 0 fun q => { q with perst := true }).ports[(0 : Fin 2)].perst = true
    ∧ (dRun.updPort 0 fun q => { q with perst := true }).ports[(0 : Fin 2)].dlUp = false ∧ dRun.ports[(0 : Fin 2)].perst = false
    ∧ reachesMsix (.port 1) 0 = false ∧ reachesMsix (.port 0) 0 = true ∧ (linked dRun).hears (.port 0) = true ∧ dRun.hears (.port 0) = false
    ∧ (dMsix true).ports[(0 : Fin 2)].msixEnable = true ∧ (dMsix true).ports[(0 : Fin 2)].msixMask = false ∧ (dMsix true).linkUp 0 = true
    ∧ (dMsix true).ports[(0 : Fin 2)].msix[(4 : BitVec 8).toNat].pend = true
    ∧ (dMsix false).ports[(0 : Fin 2)].msix[(4 : BitVec 8).toNat].pend = false ∧ dRun.ports[(0 : Fin 2)].msixEnable = false := by
  repeat' apply And.intro
  all_goals decide +kernel

def read1 (u : DmaPurpose) : DmaRead := { id := 1, port := 0, addr := 0, length := 8, purpose := u, cmd := cmd0 0x0106, out := true }
def dReads (u : DmaPurpose) : Device := { dBoot with dmaReads := [read1 u] }

theorem witness_dmaRows :
    (dReads .assay).live = true ∧ dRun.dmaReads.find? (fun r => r.id == 1 && r.out) = none
    ∧ (∀ u ∈ [DmaPurpose.assay, .fwChunk 0, .objWrite 7, .objT3 7, .stepT3 0 0 0 7 0],
        (dReads u).dmaReads.find? (fun r => r.id == 1 && r.out) = some (read1 u)
        ∧ (dReads u).dmaReads.find? (fun r => r.id == 1 && r.out && r.length == (List.replicate 8 (0 : Byte)).length) = some (read1 u)
        ∧ (dReads u).dmaReads.find? (fun r => r.id == 1 && r.out && r.length == ([] : List Byte).length) = none)
    ∧ (dReads (.fwChunk 0)).sec.state ≠ .running := by
  repeat' apply And.intro
  all_goals decide +kernel

/-- One cycle of TCK that leaves Test-Logic-Reset. -/
def clockIn : TapPins := { trstN := true, tms := false, tdi := true }

theorem witness_boardPortRows :
    dRun.live = true ∧ (dRun.regAt .smbus dRun.smb.regOffset.toNat).isSome = true
    ∧ dRun.regAt .smbus { dRun with smb := { dRun.smb with regOffset := 0x2000 } }.smb.regOffset.toNat = none
    ∧ { dRun with smb := { dRun.smb with alert := 0 } }.smb.alert = 0 ∧ { dRun with smb := { dRun.smb with alert := 2 } }.smb.alert ≠ 0
    ∧ dSealed.seed.debugDisabled = true ∧ dRun.seed.debugDisabled = false
    ∧ (dRun.fresh.tapScan [clockIn]).pins.tap.state ≠ .testLogicReset ∧ (dRun.fresh.tapScan []).pins.tap.state = .testLogicReset
    ∧ { ({} : Tap) with state := .captureDr, instr := .idcode }.state = .captureDr := by
  repeat' apply And.intro
  all_goals decide +kernel

/-! ### The block as a whole -/

theorem witness_everyCommand :
    (dOff.live = false ∧ powerRow (.nop hdr0) = false ∧ boardRow (.nop hdr0) = false)
    ∧ exec (.nop hdr0) (stOf dRun) = .next { stOf dRun with dev := dRun.settle (dRun.fresh.nop hdr0) } := ⟨by decide +kernel, rfl⟩

/-- A STACK_INIT_COMPLETE sets the stack's flags, and its source 213 with them. -/
theorem witness_flagChanges :
    dRun.live = true ∧ powerRow (.stackTempRead 19 100) = false ∧ ∃ t, exec (.stackTempRead 19 100) (stOf dRun) = .next t := ⟨by decide +kernel, rfl, _, rfl⟩

theorem witness_headerChecks :
    dRun.ports[hdr0.port].replay.find? (fun r => r.tag == hdr0.tag) = none
    ∧ ((dRun.updPort 0 fun q => { q with replay := [{ tag := 1, opcode := 3 }] }).ports[hdr0.port].replay.find? fun r => r.tag == hdr0.tag)
        = some { tag := 1, opcode := 3 }
    ∧ sessionOpcode 0x0101 = false ∧ sessionOpcode 0x0001 = true ∧ dBoot.sec.state ≠ .running ∧ dRun.sec.state = .running
    ∧ 2 ≤ ({ hdr0 with cls := 2 } : CmdHdr).cls.toNat ∧ ({ hdr0 with powerClass := 1 } : CmdHdr).powerClass ≠ 0
    ∧ dRun.accountEnabled 1 0 = false ∧ hdrP.cls = 1 ∧ promisable 0x0101 = false ∧ (∃ k ∈ hostCommands, k.admin hdr0 [] = true) ∧ dRun.dispatchWaits = false ∧ dRun.isAdmin 1 = false := by
  refine ⟨?_, ?_, ?_, ?_, ?_, ?_, ?_, ?_, ?_, ?_, ?_, ?_, ?_, ?_⟩ <;> decide +kernel

theorem witness_refusedWrites :
    writtenRegister (.admCountClr (.port 1)) = some (.port 1, offAdmission, none)
    ∧ (linked dRun).live = true ∧ (linked dRun).linkUp 1 = false ∧ dRun.isAdmin 1 = false
    ∧ (dRun.updPort 1 fun q => { q with dlUp := true }).linkUp 1 = true := ⟨rfl, by decide +kernel⟩

theorem witness_svnIncrement :
    dRun.live = true ∧ dRun.passesAdmin 0x0B02 hdr0 ∧ dRun.seed.svn + 1 ≤ dRun.sec.imageSvn.toNat
    ∧ (dSeed fun b => { b with svn := 1 }).sec.imageSvn.toNat < (dSeed fun b => { b with svn := 1 }).seed.svn + 1
    ∧ op0.write = .svn ∧ dBoot.sec.state ≠ .running :=
  ⟨by decide +kernel, dRun_passesAdmin _, by decide +kernel, by decide +kernel, rfl, by decide +kernel⟩

theorem witness_coresStartAndStop :
    dRun.live = true ∧ dRun.mayWrite (.core 0) none = true ∧ (2 : Word32).getLsbD (1 : Fin 4).val = true
    ∧ (2 : Word32).getLsbD (3 : Fin 4).val = false ∧ dRun.cores[(1 : Fin 4)].running = false ∧ dRoute.cores[(1 : Fin 4)].running = true := by
  decide +kernel

/-- Five blocks among three members: two, two and one. -/
theorem test_shards : (List.range 3).map (fun i => (shardStart 5 3 i, shardCount 5 3 i)) = [(0, 2), (2, 2), (4, 1)]
    ∧ shardOwner 3 1 7 = 2 ∧ ownedShard 3 2 7 = 1 := by decide

/-! ### The U lane's reads -/

/-- A region of the released weight that a step has not finished. -/
def regionEarly : Region := { region3 with namers := 2, step := some 0, additions := 1 }
def uLane (i : Byquel) (rs : List Region) (fl : List InFlight) : Program :=
  { running (progOf 16 [i, .tend]) { stepOf 16 with lanes := Bank.upd (stepOf 16).lanes 16 fun l => { l with inflight := fl } } with
    versions := [(4, 0)], regions := rs }
def early1 : InFlight := { word := 0, instr := tredGrad, mb := 0, early := true }

theorem witness_regionReads :
    standsAt 16 tredGrad = true ∧ standsAt 16 (.ttie 0 3) = true ∧ ((stepOf 16).lane 16).hazard descs8 (curOf tredGrad) = false
    ∧ (uLane tredGrad [] []).sigmaStands 0 = true ∧ (uLane tredGrad [] []).readsFinal 0 tredGrad = true
    ∧ (uLane (.ttie 0 3) [] []).readsFinal 0 (.ttie 0 3) = true ∧ ((stepOf 16).lane 16).inflight.any InFlight.early = false
    ∧ (uLane tredGrad [regionEarly] []).readsFinal 0 tredGrad = false
    ∧ (dWith (uLane tredGrad [] [early1])).progs[(0 : Fin 16)] = some (uLane tredGrad [] [early1])
    ∧ (((uLane tredGrad [] [early1]).stepAt 0).bind fun st => (st.lane 16).inflight.find? InFlight.early) = some early1
    ∧ (uLane tredGrad [] [early1]).state = .running ∧ dRun.tun.faulted = false := by
  repeat' apply And.intro
  all_goals decide +kernel

/-! ### Worked values the spec states -/

/-- 02, after R49: 65,504 imports as 2^16. -/
theorem test_h16_largest_imports_as_two_to_the_sixteenth : h16ToZ16 0x7BFF = (0x4780, .plain) := by decide +kernel

/-- 02, after R61: the chunk of 2^24, sixty-two ones and −2^24 sums to 62.0. -/
theorem test_chunk_keeps_what_sequential_sums_lose :
    chunkSum (⟨1, 24⟩ :: List.replicate 62 ⟨1, 0⟩ ++ [⟨-1, 24⟩]) = 0x42780000 := by decide +kernel

/-- 02, after R66: 0.1 into Z16, to nearest and by draws on both sides of 13,107. -/
theorem test_one_tenth_into_z16 :
    ((w32ToZ16 .rne 0x3DCCCCCD).1, (w32ToZ16 (.sr 13107) 0x3DCCCCCD).1, (w32ToZ16 (.sr 13106) 0x3DCCCCCD).1)
      = (0x3DCD, 0x3DCD, 0x3DCC) := by decide +kernel

/-- 02, after R70: the counter of a weight update's element 70,000. -/
theorem test_weight_update_counter :
    ditherCounter 70000 0x0200 0x3A05 1200 = ⟨0x00011170, 0x02000000, 0x00003A05, 0x000004B0⟩ := by decide +kernel

/-- 04, *An encoded instruction*: the TMM of the square layer. -/
theorem test_square_layer_tmm :
    decodeInstr 0x08000001080000200002000010011012 0
      = some (.tmm 0 0 1 0x8000 0x2000 0x2000 0x010 0x011 0x012 0 0 false 0) := by decide +kernel

/-- 05, *Slot order by stage*: stage 2 of four with six micro-batches. -/
theorem test_slot_order_of_stage_two :
    (slotOrder 4 2 6 true).map (fun x => (x.backward, x.mb))
      = [(false, 0), (false, 1), (true, 0), (false, 2), (true, 1), (false, 3), (true, 2), (false, 4), (true, 3),
         (false, 5), (true, 4), (true, 5)] := by decide +kernel

/-- 06, after R204: the three hops of the ring send 5, 3 and 7, each on the value decoded before it plus its own. -/
theorem test_b8_ring_hops :
    ((b8Encode 129 20000 0x3E99999A).1,
      (b8Encode 129 41000 (w32Add (toW32 (b8Decode 129 5)) 0xBDF5C28F)).1,
      (b8Encode 129 50000 (w32Add (toW32 (b8Decode 129 3)) 0x3E570A3D)).1) = (5, 3, 7) := by decide +kernel

/-- 06, the layer cut for 64 members: bucket 29, and rank 5's shard of it. -/
theorem test_layer_cut_for_sixty_four :
    ((cutBuckets 31250000 1048576).getD 29 (0, 0), ownedShard 64 5 29, shardStart (blocksOf 841296) 64 40,
      shardCount (blocksOf 841296) 64 40) = ((30408704, 841296), 40, 2063, 51) := by decide +kernel

/-- 10, after R316: the check symbols of a word whose only byte is d_0 = 1. -/
theorem test_ingot_check_symbols :
    ingotCheck (1 :: List.replicate 31 0) = [0x40, 0x78, 0x36, 0x0F] := by decide +kernel

/-- 12, *one exchange*: the offset and the path delay. -/
theorem test_time_exchange :
    (theta 1000000 1000540 1000600 1001080, pathDelay 1000000 1000540 1000600 1001080) = (30, 510) := by decide +kernel

/-- 14, after R431: the thermal ceiling at 58 °C. -/
theorem test_thermal_ceiling : coolantW 58 = 4920 := by decide +kernel

/-- 16, after R485: 40,000 µF at 72 V passes both checks, at 60 V a setting's only, at 57 V neither. -/
theorem test_holdup_at_three_voltages :
    ([7200, 6000, 5700].map fun v => (holdupPasses 40000 v 2000, holdupPasses 40000 v 20000))
      = [(true, true), (true, false), (false, false)] := by decide +kernel
end Sys2Proof.Tests
end

section
/-! The time base is the time-base unit's alone: no operation below writes it, down to what the fabric does by itself in a control-clock
cycle (R37, R38). Each lemma opens one operation, follows its branches, and ends in the lemmas of the operations that it is made of: the
lemmas stand in the order of the model's definitions. -/

namespace Sys2Proof.Machine

/-- What every step of a fold keeps, the fold keeps. -/
theorem foldl_keeps {σ α β : Type} (π : σ → β) (g : σ → α → σ) (hg : ∀ x a, π (g x a) = π x) (l : List α) (x : σ) :
    π (l.foldl g x) = π x := by
  induction l generalizing x with
  | nil => rfl
  | cons a l ih => rw [List.foldl_cons, ih, hg]

@[simp] theorem Device.foldl_tb {α : Type} (g : Device → α → Device) (hg : ∀ d a, (g d a).tb = d.tb) (l : List α) (d : Device) :
    (l.foldl g d).tb = d.tb :=
  foldl_keeps Device.tb g hg l d

section
variable (d : Device)

/-! ### Events, interrupts and replies -/

@[simp] theorem Device.pulse_tb (s : Nat) : (d.pulse s).tb = d.tb := by rw [Device.pulse_frame]

@[simp] theorem Device.logEvent_tb (code : Nat) (sev : Severity) (source : Nat) (data : Nat) (key : Nat) :
    (d.logEvent code sev source data key).tb = d.tb := by
  rw [Device.logEvent_frame]

@[simp] theorem Device.repeatEvent_tb (code : Nat) (sev : Severity) (source : Nat) (key : Nat) :
    (d.repeatEvent code sev source key).tb = d.tb := rfl

@[simp] theorem Device.msix_tb (p : Fin 2) (v : BitVec 8) : (d.msix p v).tb = d.tb := by fun_cases Device.msix <;> simp

@[simp] theorem Device.hostWrite_tb (p : Fin 2) (a : Word64) (bs : List Byte) : (d.hostWrite p a bs).tb = d.tb := by
  fun_cases Device.hostWrite <;> simp

@[simp] theorem Device.coalesce_tb (p : Fin 2) : (d.coalesce p).tb = d.tb := by fun_cases Device.coalesce <;> simp

@[simp] theorem Device.writeReply_tb (p : Fin 2) (noIrq : Bool) (r : Reply) : (d.writeReply p noIrq r).tb = d.tb := by
  unfold Device.writeReply
  split <;> simp

@[simp] theorem Device.reply_tb (c : OpenCmd) (r : Reply) : (d.reply c r).tb = d.tb := by
  simp only [Device.reply]
  (repeat' split) <;> simp

@[simp] theorem Device.finish_tb (c : OpenCmd) (st : Status) (result : Nat) : (d.finish c st result).tb = d.tb := by
  simp [Device.finish]

@[simp] theorem Device.ok_tb (c : OpenCmd) (result : Nat) : (d.ok c result).tb = d.tb := by simp [Device.ok]

/-! ### Containment and lockstep -/

@[simp] theorem Device.contain_tb : d.contain.tb = d.tb := by fun_cases Device.contain <;> simp

@[simp] theorem Device.uncorrectable_tb (source data key : Nat) : (d.uncorrectable source data key).tb = d.tb := by
  simp [Device.uncorrectable]

@[simp] theorem Device.inLockstep_tb (differ : Bool) (f : Device → Device) (hf : ∀ d, (f d).tb = d.tb) :
    (d.inLockstep differ f).tb = d.tb := by
  fun_cases Device.inLockstep <;> simp [hf]

/-! ### Steps of a program -/

@[simp] theorem Device.updStep_tb (k : Fin 16) (s : Nat) (f : StepState → StepState) : (d.updStep k s f).tb = d.tb := rfl

@[simp] theorem Device.raiseOnce_tb (k : Fin 16) (s code lane : Nat) (sev : Severity) (source data key : Nat) :
    (d.raiseOnce k s code lane sev source data key).tb = d.tb := by
  fun_cases Device.raiseOnce <;> simp

/-! ### Words that carry errors -/

@[simp] theorem Device.logCorrected_tb (k : Fin 20) : (d.logCorrected k).tb = d.tb := by fun_cases Device.logCorrected <;> simp

@[simp] theorem Device.deliverError_tb (pl : WordPlace) (es : List Byte) : (d.deliverError pl es).tb = d.tb := by
  unfold Device.deliverError
  (repeat' split) <;> simp

@[simp] theorem Device.countCorrected_tb (pl : WordPlace) : (d.countCorrected pl).tb = d.tb := by
  fun_cases Device.countCorrected <;> simp

/-- A word error leaves the time base as it is, whether or not the word reaches its consumer. -/
theorem Device.wordError_tb (e : WordError) :
    (∀ d', d.wordError e = .ok d' → d'.tb = d.tb) ∧ ∀ d', d.wordError e = .error d' → d'.tb = d.tb := by
  unfold Device.wordError
  split
  · exact ⟨fun _ h => (by cases h), fun _ h => by cases h; simp⟩
  · refine ⟨fun _ h => ?_, fun _ h => (by cases h)⟩
    cases h
    split <;> simp

theorem Device.wordErrors_tb (es : List WordError) :
    (∀ d', es.foldlM Device.wordError d = .ok d' → d'.tb = d.tb)
      ∧ ∀ d', es.foldlM Device.wordError d = .error d' → d'.tb = d.tb := by
  induction es generalizing d with
  | nil => exact ⟨fun _ h => by cases h; rfl, fun _ h => by cases h⟩
  | cons e es ih =>
    obtain ⟨hok, herr⟩ := d.wordError_tb e
    rw [List.foldlM_cons]
    cases h : d.wordError e with
    | error x => exact ⟨fun _ h' => (by cases h'), fun _ h' => by cases h'; exact herr _ h⟩
    | ok x =>
      obtain ⟨ihok, iherr⟩ := ih x
      exact ⟨fun _ h' => (ihok _ h').trans (hok _ h), fun _ h' => (iherr _ h').trans (hok _ h)⟩

@[simp] theorem Device.consume_tb (es : List WordError) (f : Device → Device) (hf : ∀ d, (f d).tb = d.tb) :
    (d.consume es f).tb = d.tb := by
  obtain ⟨hok, herr⟩ := d.wordErrors_tb es
  unfold Device.consume
  split
  · exact herr _ ‹_›
  · rw [hf, hok _ ‹_›]

/-! ### Object queues -/

@[simp] theorem Device.updObj_tb (id : Word32) (f : Obj → Obj) : (d.updObj id f).tb = d.tb := rfl

@[simp] theorem Device.writeT3_tb (o : Obj) (off : Nat) (bs : List Byte) : (d.writeT3 o off bs).tb = d.tb := by
  fun_cases Device.writeT3 <;> simp

@[simp] theorem Device.store_tb (o : Obj) (off : Nat) (bs : List Byte) (own : Option (Fin 8)) :
    (d.store o off bs own).tb = d.tb := by
  simp [Device.store]

@[simp] theorem Device.objStore_tb (id : Word32) (off : Nat) (bs : List Byte) (own : Option (Fin 8)) :
    (d.objStore id off bs own).tb = d.tb := by
  simp only [Device.objStore]
  (repeat' split) <;> simp

@[simp] theorem Device.sendRead_tb (r : DmaRead) : (d.sendRead r).tb = d.tb := rfl

@[simp] theorem Device.pumpReads_tb : d.pumpReads.tb = d.tb := Device.foldl_tb _ Device.sendRead_tb _ _

@[simp] theorem Device.dmaIssue_tb (port : Fin 2) (addr : Word64) (len : Nat) (purpose : DmaPurpose) (c : OpenCmd) :
    (d.dmaIssue port addr len purpose c).tb = d.tb := by
  simp [Device.dmaIssue]

@[simp] theorem Device.dmaFailed_tb (port : Fin 2) (c : OpenCmd) : (d.dmaFailed port c).tb = d.tb := by simp [Device.dmaFailed]

@[simp] theorem Device.endHead_tb (id : Word32) (c : OpenCmd) (st : Status) (result : Nat) :
    (d.endHead id c st result).tb = d.tb := by
  simp [Device.endHead]

@[simp] theorem Device.removeObj_tb (o : Obj) : (d.removeObj o).tb = d.tb := by simp [Device.removeObj]

@[simp] theorem Device.mapHead_tb (o : Obj) (c : OpenCmd) (unmap : Bool) : (d.mapHead o c unmap).tb = d.tb := by
  simp only [Device.mapHead]
  (repeat' split) <;> simp

@[simp] theorem Device.readHead_tb (o : Obj) (c : OpenCmd) (convert : Bool) (off len : Nat) (host : Word64) (errs : List WordError) :
    (d.readHead o c convert off len host errs).tb = d.tb := by
  simp [Device.readHead]

theorem Device.askT3_tb {d d' : Device} {o : Obj} {off len : Nat} {purpose : DmaPurpose} {c : OpenCmd} {ok : Bool}
    (h : d.askT3 o off len purpose c = (d', ok)) : d'.tb = d.tb := by
  have hfst : (d.askT3 o off len purpose c).1.tb = d.tb := by fun_cases Device.askT3 <;> simp
  rwa [h] at hfst

@[simp] theorem Device.headStep_tb (id : Word32) : (d.headStep id).1.tb = d.tb := by
  unfold Device.headStep
  (repeat' split) <;> simp
  all_goals exact Device.askT3_tb ‹_›

@[simp] theorem Device.pumpObj_tb (id : Word32) (fuel : Nat) : (Device.pumpObj id fuel d).tb = d.tb := by
  induction fuel generalizing d with
  | zero => rfl
  | succ fuel ih =>
    have hstep := d.headStep_tb id
    rw [Device.pumpObj]
    split <;> simp_all

@[simp] theorem Device.runQueue_tb (id : Word32) : (d.runQueue id).tb = d.tb := by simp [Device.runQueue]

@[simp] theorem Device.stepUnpin_tb (ids : List Word32) : (d.stepUnpin ids).tb = d.tb := by simp [Device.stepUnpin]

/-! ### Commands that end -/

@[simp] theorem Device.noteBroken_tb (p : Promise) (late : Nat) : (d.noteBroken p late).tb = d.tb := by
  unfold Device.noteBroken
  split <;> simp

@[simp] theorem Device.conclude_tb (c : OpenCmd) (st : Status) (result : Nat) : (d.conclude c st result).tb = d.tb := by
  simp only [Device.conclude]
  (repeat' split) <;> simp

@[simp] theorem Device.storePyro_tb (k : Fin 16) : (d.storePyro k).tb = d.tb := by fun_cases Device.storePyro <;> simp

@[simp] theorem Device.countLive_tb (k : Fin 16) (s : Nat) (as : List HistAdd) : (d.countLive k s as).tb = d.tb := by
  fun_cases Device.countLive <;> simp

/-! ### Steps that end -/

@[simp] theorem Device.dropGroups_tb (k : Nat) : (d.dropGroups k).tb = d.tb := rfl

@[simp] theorem Device.dropTundish_tb (k : Nat) : (d.dropTundish k).tb = d.tb := rfl

@[simp] theorem Device.dropMerges_tb (k : Fin 16) : (d.dropMerges k).tb = d.tb := by fun_cases Device.dropMerges <;> simp

@[simp] theorem Device.dropAster_tb (k : Nat) : (d.dropAster k).tb = d.tb := rfl

@[simp] theorem Device.dropLanes_tb (k : Nat) : (d.dropLanes k).tb = d.tb := rfl

@[simp] theorem Device.clearCorrected_tb : d.clearCorrected.tb = d.tb := rfl

@[simp] theorem Device.endStep_tb (s : StepState) (st : Status) (result : Nat) : (d.endStep s st result).tb = d.tb := by
  unfold Device.endStep
  split <;> simp

@[simp] theorem Device.haltOne_tb (k : Fin 16) (failing : Option Nat) (st : Status) (result : Nat) :
    (d.haltOne k failing st result).tb = d.tb := by
  simp only [Device.haltOne]
  split
  · rfl
  · split
    · rfl
    · rw [Device.logEvent_tb, Device.foldl_tb _ fun d s => by split <;> simp]
      simp

@[simp] theorem Device.haltProgram_tb (k : Fin 16) (failing : Option Nat) (st : Status) (result : Nat) :
    (d.haltProgram k failing st result).tb = d.tb := by
  unfold Device.haltProgram
  rw [Device.foldl_tb _ (fun d w => by split <;> simp)]
  simp

@[simp] theorem Device.haltAll_tb (st : Status) (result : Nat) : (d.haltAll st result).tb = d.tb :=
  Device.foldl_tb _ (fun d k => d.haltOne_tb k none st result) _ _

/-! ### Messages, and a job that goes into HOLD -/

@[simp] theorem Device.emitFrame_tb (p : Fin 8) (ctrl : Bool) (mac : BitVec 48) (f : Frame) :
    (d.emitFrame p ctrl mac f).tb = d.tb := rfl

@[simp] theorem Device.sendFrame_tb (ctrl : Bool) (f : Frame) : (d.sendFrame ctrl f).tb = d.tb := by
  fun_cases Device.sendFrame <;> simp

@[simp] theorem Device.sendFrames_tb (m : OutMsg) : (d.sendFrames m).tb = d.tb := by simp [Device.sendFrames]

@[simp] theorem Device.transmit_tb (m : OutMsg) : (d.transmit m).tb = d.tb := by simp [Device.transmit]

@[simp] theorem Device.sendWaiting_tb : d.sendWaiting.tb = d.tb :=
  Device.foldl_tb _ (fun d m => by split <;> simp) _ _

@[simp] theorem Device.sendMsg_tb (dst : Nat) (kind : MsgKind) (bs : List Byte) (late ctrl : Bool) (type : FrameType) :
    (d.sendMsg dst kind bs late ctrl type).tb = d.tb := by
  simp only [Device.sendMsg]
  split <;> simp

@[simp] theorem Device.sendRecord_tb (dst : Nat) (r : CtrlRecord) (fields : List Byte) (late : Bool) :
    (d.sendRecord dst r fields late).tb = d.tb := by
  simp [Device.sendRecord]

@[simp] theorem Device.sendRecords_tb (dsts : List Nat) (r : CtrlRecord) (fields : List Byte) (late : Bool) :
    (d.sendRecords dsts r fields late).tb = d.tb := by
  simp [Device.sendRecords]

@[simp] theorem Device.endBarriers_tb (st : Status) : (d.endBarriers st).tb = d.tb := by simp [Device.endBarriers]

@[simp] theorem Device.enterHold_tb (lost : Nat) : (d.enterHold lost).tb = d.tb := by
  simp only [Device.enterHold]
  (repeat' split) <;> simp

@[simp] theorem Device.loseRank_tb (rank : Nat) (from' : Nat) : (d.loseRank rank from').tb = d.tb := by
  simp only [Device.loseRank]
  (repeat' split) <;> simp

@[simp] theorem Device.memberFault_tb : d.memberFault.tb = d.tb := by fun_cases Device.memberFault <;> simp

@[simp] theorem Device.failStep_tb (k : Fin 16) (step : Nat) (st : Status) (result : Nat) :
    (d.failStep k step st result).tb = d.tb := by
  unfold Device.failStep
  split <;> simp

/-! ### Semaphores and lateness -/

@[simp] theorem Device.addSem_tb (k : Fin 16) (step sem inc : Nat) : (d.addSem k step sem inc).tb = d.tb := by
  simp only [Device.addSem]
  (repeat' split) <;> simp

@[simp] theorem Device.notePeerLate_tb (k : Fin 16) (s : Nat) (since : Tick) (src : Nat) (late : Bool) :
    (d.notePeerLate k s since src late).tb = d.tb := by
  simp only [Device.notePeerLate]
  (repeat' split) <;> simp

/-! ### Reduction and clipping -/

@[simp] theorem Device.gxSaturated_tb (k : Fin 16) (s n : Nat) : (d.gxSaturated k s n).tb = d.tb := by
  fun_cases Device.gxSaturated <;> simp

@[simp] theorem Device.countB8_tb (k : Fin 16) (s n : Nat) (x : Desc) (c : BitVec 8) : (d.countB8 k s n x c).tb = d.tb := by
  simp [Device.countB8]

@[simp] theorem Device.planMismatch_tb (s : Nat) : (d.planMismatch s).tb = d.tb := by
  unfold Device.planMismatch
  (repeat' split) <;> simp

@[simp] theorem Device.sendHandoff_tb (k : Fin 16) (s : Nat) (b : Bucket) (owner : Nat) (vs : List (Nat × Word16)) :
    (d.sendHandoff k s b owner vs).tb = d.tb := by
  unfold Device.sendHandoff
  split <;> simp

@[simp] theorem Device.formGrad_tb (k : Fin 16) (p : Program) (s : Nat) (b : Bucket) :
    (d.formGrad k p s b).tb = d.tb := by
  simp only [Device.formGrad]
  split
  · rfl
  · split
    · rfl
    · split
      · rw [Device.foldl_tb _ (fun d n => by split <;> simp)]
        simp
      · simp

@[simp] theorem Device.setClip_tb (k : Fin 16) (s : Nat) (n2 f : Word32) (sats : Nat) : (d.setClip k s n2 f sats).tb = d.tb := rfl

@[simp] theorem Device.normDomain_tb (s src : Nat) (v : Word32) (sats : Nat) : (d.normDomain s src v sats).tb = d.tb := by
  simp only [Device.normDomain]
  (repeat' split) <;> simp

@[simp] theorem Device.normMember_tb (s src : Nat) (v : Word32) (sats : Nat) : (d.normMember s src v sats).tb = d.tb := by
  simp only [Device.normMember]
  (repeat' split) <;> simp

@[simp] theorem Device.normCheck_tb (k : Fin 16) (s : Nat) : (d.normCheck k s).tb = d.tb := by
  simp only [Device.normCheck]
  (repeat' split) <;> simp

@[simp] theorem Device.bucketCheck_tb (k : Fin 16) (s id : Nat) : (d.bucketCheck k s id).tb = d.tb := by
  unfold Device.bucketCheck
  (repeat' split) <;> simp

@[simp] theorem Device.sendHop_tb (k : Fin 16) (p : Program) (st : StepState) (b : Bucket) (i hop dst root : Nat) (ws : List Word32) :
    (d.sendHop k p st b i hop dst root ws).tb = d.tb := by
  simp [Device.sendHop]

@[simp] theorem Device.treeStep_tb (k : Fin 16) (p : Program) (st : StepState) (b : Bucket) (i level : Nat) (acc : List Word32) :
    (d.treeStep k p st b i level acc).tb = d.tb := by
  simp only [Device.treeStep]
  (repeat' split) <;> simp

@[simp] theorem Device.ringStep_tb (k : Fin 16) (p : Program) (st : StepState) (b : Bucket) (i : Nat) (acc : List Word32) :
    (d.ringStep k p st b i acc).tb = d.tb := by
  simp only [Device.ringStep]
  (repeat' split) <;> simp

@[simp] theorem Device.addShard_tb (k : Fin 16) (p : Program) (s : Nat) (h : HeldHop) (ws : List Word32) (at' i : Nat) :
    (d.addShard k p s h ws at' i).tb = d.tb := by
  fun_cases Device.addShard <;> simp

@[simp] theorem Device.takeHop_tb (k : Fin 16) (p : Program) (st : StepState) (h : HeldHop) : (d.takeHop k p st h).tb = d.tb := by
  unfold Device.takeHop
  split <;> simp

@[simp] theorem Device.takeHandoff_tb (k : Fin 16) (p : Program) (s : Nat) (h : HeldHop) : (d.takeHandoff k p s h).tb = d.tb := by
  unfold Device.takeHandoff
  split
  · rfl
  · exact Device.foldl_tb _ (fun d _ => d.updStep_tb k s _) _ _

@[simp] theorem Device.receiveHop_tb (m : HopMsg) (ready : Device → Fin 16 → Program → StepState → HeldHop → Bool)
    (take : Device → Fin 16 → Program → StepState → HeldHop → Device) (k : Fin 16) (p : Program)
    (ht : ∀ d k p st h, (take d k p st h).tb = d.tb) : (d.receiveHop m ready take k p).tb = d.tb := by
  simp only [Device.receiveHop]
  (repeat' split) <;> simp [ht]

@[simp] theorem Device.hopReceive_tb (m : HopMsg) (lockstep : Bool) : (d.hopReceive m lockstep).tb = d.tb := by
  fun_cases Device.hopReceive <;> simp

@[simp] theorem Device.handoffReceive_tb (m : HopMsg) : (d.handoffReceive m).tb = d.tb := by
  fun_cases Device.handoffReceive <;> simp

/-! ### Ranges and scale tables -/

@[simp] theorem Device.mcastRangeReceive_tb (m : RangeMsg) : (d.mcastRangeReceive m).tb = d.tb := by
  simp only [Device.mcastRangeReceive]
  (repeat' split) <;> simp

@[simp] theorem Device.takeTable_tb (k : Fin 16) (t : ScaleTable) (hists : List Hist) : (d.takeTable k t hists).tb = d.tb := rfl

@[simp] theorem Device.reportDomain_tb (s src : Nat) (es : List Word16) (hs : List Hist) :
    (d.reportDomain s src es hs).tb = d.tb := by
  simp only [Device.reportDomain]
  (repeat' split) <;> simp

@[simp] theorem Device.reportMember_tb (s src : Nat) (es : List Word16) (hs : List Hist) :
    (d.reportMember s src es hs).tb = d.tb := by
  simp only [Device.reportMember]
  (repeat' split) <;> simp

@[simp] theorem Device.scaleReportReceive_tb (s src : Nat) (es : List Word16) (hs : List Hist) :
    (d.scaleReportReceive s src es hs).tb = d.tb := by
  fun_cases Device.scaleReportReceive <;> simp

@[simp] theorem Device.scaleTableReceive_tb (s src : Nat) (es : List Word16) (hs : List Hist) (late : Bool) :
    (d.scaleTableReceive s src es hs late).tb = d.tb := by
  unfold Device.scaleTableReceive
  (repeat' split) <;> simp

@[simp] theorem Device.normPartialReceive_tb (s src : Nat) (v : Word32) (sats : Nat) :
    (d.normPartialReceive s src v sats).tb = d.tb := by
  fun_cases Device.normPartialReceive <;> simp

@[simp] theorem Device.clipFactorReceive_tb (s src : Nat) (n2 f : Word32) (sats : Nat) (late : Bool) :
    (d.clipFactorReceive s src n2 f sats late).tb = d.tb := by
  unfold Device.clipFactorReceive
  (repeat' split) <;> simp

/-! ### Channel transfers -/

@[simp] theorem Device.channelBad_tb (t : HeldTransfer) : (d.channelBad t).tb = d.tb := by
  simp only [Device.channelBad]
  (repeat' split) <;> simp

@[simp] theorem Device.landTransfer_tb (k : Fin 16) (t : HeldTransfer) : (d.landTransfer k t).tb = d.tb := by
  unfold Device.landTransfer
  (repeat' split) <;> simp

/-! ### Hallmarks and verdicts -/

@[simp] theorem Device.logMismatch_tb (v : Nat) : (d.logMismatch v).tb = d.tb := by simp [Device.logMismatch]

@[simp] theorem Device.takeVerdict_tb (v : Nat) (x : BitVec 2) : (d.takeVerdict v x).tb = d.tb := by
  simp only [Device.takeVerdict]
  (repeat' split) <;> simp

@[simp] theorem Device.giveVerdict_tb (v : Nat) (x : BitVec 2) (rs : List Nat) : (d.giveVerdict v x rs).tb = d.tb := by
  simp only [Device.giveVerdict]
  (repeat' split) <;> simp

@[simp] theorem Device.decideHallmark_tb (g v : Nat) : (d.decideHallmark g v).tb = d.tb := by
  simp only [Device.decideHallmark]
  (repeat' split) <;> simp

@[simp] theorem Device.hallmarkArrives_tb (r : HallmarkReport) : (d.hallmarkArrives r).tb = d.tb := by
  unfold Device.hallmarkArrives
  (repeat' split) <;> simp

/-! ### Resume, barriers, pulls and prunes -/

@[simp] theorem Device.resumeRelease_tb (tick : Word64) : (d.resumeRelease tick).tb = d.tb := by
  simp only [Device.resumeRelease]
  (repeat' split) <;> simp

@[simp] theorem Device.checkResume_tb : d.checkResume.tb = d.tb := by fun_cases Device.checkResume <;> simp

@[simp] theorem Device.resumeReady_tb (rank : BitVec 14) (step : Word32) : (d.resumeReady rank step).tb = d.tb := by
  fun_cases Device.resumeReady <;> simp

@[simp] theorem Device.barrierReleased_tb (id : Word32) (scope : BitVec 2) (g : Nat) (tick : Word64) :
    (d.barrierReleased id scope g tick).tb = d.tb := by
  simp only [Device.barrierReleased]
  (repeat' split) <;> simp

@[simp] theorem Device.releaseBarrier_tb (id : Word32) (scope : BitVec 2) (g : Nat) :
    (d.releaseBarrier id scope g).tb = d.tb := by
  simp [Device.releaseBarrier]

@[simp] theorem Device.barrierDomain_tb (id : Word32) (scope : BitVec 2) (g dom : Nat) :
    (d.barrierDomain id scope g dom).tb = d.tb := by
  fun_cases Device.barrierDomain <;> simp

@[simp] theorem Device.barrierMember_tb (id : Word32) (scope : BitVec 2) (g rank : Nat) :
    (d.barrierMember id scope g rank).tb = d.tb := by
  simp only [Device.barrierMember]
  (repeat' split) <;> simp

@[simp] theorem Device.barrierEntry_tb (id : Word32) (scope : BitVec 2) (src g : Nat) :
    (d.barrierEntry id scope src g).tb = d.tb := by
  fun_cases Device.barrierEntry <;> simp

@[simp] theorem Device.pruneReceive_tb (src : BitVec 14) (tensor version : Word32) (first count : Nat) :
    (d.pruneReceive src tensor version first count).tb = d.tb := by
  unfold Device.pruneReceive
  split <;> simp

@[simp] theorem Device.pullReceive_tb (src : BitVec 14) (tensor version : Word32) (first count : Nat) :
    (d.pullReceive src tensor version first count).tb = d.tb := by
  simp only [Device.pullReceive]
  (repeat' split) <;> simp

/-! ### Messages delivered -/

@[simp] theorem Device.takeRecord_tb (src : BitVec 14) (late : Bool) (bs : List Byte) : (d.takeRecord src late bs).tb = d.tb := by
  fun_cases Device.takeRecord <;> simp

@[simp] theorem Device.noteSemWaits_tb (k : Fin 16) (s sem src : Nat) (late : Bool) :
    (d.noteSemWaits k s sem src late).tb = d.tb := by
  unfold Device.noteSemWaits
  split
  · rfl
  · split
    · rfl
    · refine Device.foldl_tb _ (fun d n => ?_) _ _
      simp only
      (repeat' split) <;> simp

@[simp] theorem Device.receiveTransfer_tb (t : HeldTransfer) (src : Nat) (late : Bool) :
    (d.receiveTransfer t src late).tb = d.tb := by
  fun_cases Device.receiveTransfer <;> simp

@[simp] theorem Device.countCodewords_tb (port n : Nat) : (d.countCodewords port n).tb = d.tb := by
  simp only [Device.countCodewords]
  (repeat' split) <;> simp

@[simp] theorem Device.decoded_tb (port : Nat) (cws : List Byte) (f : List Byte → Device → Device)
    (hf : ∀ bs d, (f bs d).tb = d.tb) : (d.decoded port cws f).tb = d.tb := by
  fun_cases Device.decoded <;> simp [hf]

@[simp] theorem Device.sendAck_tb (dst : BitVec 14) (id : BitVec 48) : (d.sendAck dst id).tb = d.tb := by simp [Device.sendAck]

@[simp] theorem Device.deliverMessage_tb (src : BitVec 14) (type : FrameType) (late lockstep : Bool) (bs : List Byte) :
    (d.deliverMessage src type late lockstep bs).tb = d.tb := by
  fun_cases Device.deliverMessage <;> simp

@[simp] theorem Device.messageComplete_tb (src : BitVec 14) (a : Assembly) (lockstep : Bool) :
    (d.messageComplete src a lockstep).tb = d.tb := by
  simp only [Device.messageComplete]
  (repeat' split) <;> simp

@[simp] theorem Device.acceptWaiting_tb : d.acceptWaiting.tb = d.tb := by simp [Device.acceptWaiting]

@[simp] theorem Device.renewCredit_tb : d.renewCredit.tb = d.tb := by fun_cases Device.renewCredit <;> simp

@[simp] theorem Device.fabricTick_tb : d.fabricTick.tb = d.tb := by simp [Device.fabricTick]

end

end Sys2Proof.Machine
end

section
/-! The time base at work (R36-R41): what each of its rows makes of a device, and the rows as commands. -/

namespace Sys2Proof.Machine

/-! ### The rows as functions of the device -/

section
variable {d : Device}

theorem Device.pllLock_inTolerance (h : d.tb.excursion = false) : d.pllLock = { d with tb := { d.tb with locked := true } } := by
  simp [Device.pllLock, h]

theorem Device.pllLock_excursion (h : d.tb.excursion = true) : d.pllLock = d := by simp [Device.pllLock, h]

theorem Device.refExcursion_begins (ppm : Int) (h : d.tb.excursion = false) :
    d.refExcursion ppm =
      { d with tb := { d.tb with locked := false, refLost := true, excursion := true, excursionSince := d.tb.now,
                                 ppm := satPpm ppm } }.logEvent
        0x000B .warn 0 (satPpm ppm).toNat srcTimebase := by
  simp [Device.refExcursion, h]

theorem Device.refExcursion_lasting (ppm : Int) (h : d.tb.excursion = true) : d.refExcursion ppm = d := by
  simp [Device.refExcursion, h]

theorem Device.refRelock_excursion (h : d.tb.excursion = true) :
    d.refRelock = { d with tb := { d.tb with locked := true, excursion := false } }.logEvent 0x000C .info 0
      (d.tb.now - d.tb.excursionSince).toNat srcTimebase := by
  simp [Device.refRelock, h]

theorem Device.syncPulse_due (h : d.tb.syncDue = true) :
    d.syncPulse = { d with tb := { d.tb with syncOutLeft := 64, syncDue := false } }.emit .syncOut := by
  simp [Device.syncPulse, h]

theorem Device.syncPulse_notDue (h : d.tb.syncDue = false) : d.syncPulse = d := by simp [Device.syncPulse, h]

theorem Device.syncInCapture_enabled (h : d.tb.syncInEn = true) :
    d.syncInCapture = { d with tb := { d.tb with lastSync := d.tb.now, syncSeen := true } } := by
  simp [Device.syncInCapture, h]

theorem Device.syncInCapture_disabled (h : d.tb.syncInEn = false) : d.syncInCapture = d := by simp [Device.syncInCapture, h]

/-! ### Slew steps (R39) -/

/-- The ticks of a slew step, by the sign of the remainder. -/
def slewTicks (c : Word32) : Nat := if c.msb then 0 else 2

theorem towardZero_positive {c : Word32} (hc : c ≠ 0) (hs : c.msb = false) : towardZero c = c - 1 := by
  rw [towardZero, if_neg hc, if_neg (by simp [hs])]

theorem towardZero_negative {c : Word32} (hc : c ≠ 0) (hs : c.msb = true) : towardZero c = c + 1 := by
  rw [towardZero, if_neg hc, if_pos hs]

theorem Device.slew_of_corr (h : d.tb.corr ≠ 0) :
    d.slew =
      let e := d.advance (slewTicks d.tb.corr)
      { e with tb := { e.tb with corr := towardZero d.tb.corr, slewPhase := 15 } } := by
  rw [Device.slew, if_neg h]
  rfl

/-- Nothing happens before the cycle of the step, nor in it once nothing is left to correct. -/
theorem Device.slewStep_idle (h : d.tb.corr = 0 ∨ d.tb.slewPhase ≠ 0) : d.slewStep = d := by
  unfold Device.slewStep
  split
  · rw [Device.slew, if_pos (h.resolve_right (not_not_intro ‹_›))]
  · rfl

theorem Device.slewStep_positive (hc : d.tb.corr ≠ 0) (hs : d.tb.corr.msb = false) (hp : d.tb.slewPhase = 0) :
    d.slewStep =
      let e := d.advance 2
      { e with tb := { e.tb with corr := e.tb.corr - 1, slewPhase := 15 } } := by
  rw [Device.slewStep, if_pos hp, Device.slew_of_corr hc, towardZero_positive hc hs]
  simp only [slewTicks, hs]
  rfl

/-- A negative remainder is not zero, so its step falls in its cycle. -/
theorem Device.slewStep_negative (hs : d.tb.corr.msb = true) (hp : d.tb.slewPhase = 0) :
    d.slewStep =
      let e := d.advance 0
      { e with tb := { e.tb with corr := e.tb.corr + 1, slewPhase := 15 } } := by
  have hc : d.tb.corr ≠ 0 := fun h => by simp [h] at hs
  rw [Device.slewStep, if_pos hp, Device.slew_of_corr hc, towardZero_negative hc hs]
  simp only [slewTicks, hs]
  rfl

end

/-! ### The rows as commands -/

/-- `Runs` from the function a row of the time base acts by on a device that runs. -/
theorem Runs.of_actTime {c : Instr} {s : State} {f : Device → Device} (g g' : Device → Device) (h : s.dev.live = true)
    (he : exec c s = s.actTime g g') (hg : g s.dev.fresh = f s.dev.fresh) : Runs c s f := by
  rw [Runs, he, State.actTime_live h, hg, State.after]

/-- Settles O1: each row is exec's function for it, and the function is one of the equations above. -/
theorem timeBaseCommandsComplete : Obligations.TimeBaseCommandsComplete := by
  intro s hl
  refine ⟨fun h => ?_, fun ppm h => ?_, fun h => ⟨?_, fun ppm => ?_, ?_⟩, fun req v hw => ⟨?_, ?_⟩, fun h => ?_,
    fun hc hs hp => ?_, fun hs hp => ?_, fun h => ?_, fun h => ?_, fun h => ?_, fun h => ?_⟩
  · exact .of_actTime Device.pllLock _ hl rfl (Device.pllLock_inTolerance h)
  · exact .of_actTime (Device.refExcursion ppm) _ hl rfl (Device.refExcursion_begins ppm h)
  · exact .of_actTime Device.pllLock _ hl rfl (Device.pllLock_excursion h)
  · exact .of_actTime (Device.refExcursion ppm) _ hl rfl (Device.refExcursion_lasting ppm h)
  · exact .of_actTime Device.refRelock _ hl rfl (Device.refRelock_excursion h)
  · exact .of_act (Device.tbCorrWrite req v) hl rfl (Device.writeBy_of_mayWrite _ _ hw)
  · exact .of_act (Device.tbStatusClear req v) hl rfl (Device.writeBy_of_mayWrite _ _ hw)
  · exact .of_actTime Device.slewStep _ hl rfl (Device.slewStep_idle h)
  · exact .of_actTime Device.slewStep _ hl rfl (Device.slewStep_positive hc hs hp)
  · exact .of_actTime Device.slewStep _ hl rfl (Device.slewStep_negative hs hp)
  · exact .of_actTime Device.syncPulse _ hl rfl (Device.syncPulse_due h)
  · exact .of_actTime Device.syncPulse _ hl rfl (Device.syncPulse_notDue h)
  · exact .of_act Device.syncInCapture hl rfl (Device.syncInCapture_enabled h)
  · exact .of_act Device.syncInCapture hl rfl (Device.syncInCapture_disabled h)

end Sys2Proof.Machine
end

section
/-! The resets (R38, R459, R489): the time base that they keep, the records of the recorder, and the replies of a Seedbank write
that is under way. -/

namespace Sys2Proof.Machine

section
variable (d : Device)

/-! ### What a reset does to the time base -/

@[simp] theorem Device.recordNew_tb (o : Occurrence) : (d.recordNew o).tb = d.tb := by
  simp only [Device.recordNew]
  (repeat' split) <;> simp

@[simp] theorem Device.foldInto_tb (i : Nat) (o : Occurrence) : (d.foldInto i o).tb = d.tb := by
  fun_cases Device.foldInto <;> simp

@[simp] theorem Device.evrAgain_tb (o : Occurrence) : (d.evrAgain o).tb = d.tb := by fun_cases Device.evrAgain <;> simp

@[simp] theorem Device.evrTake_tb (o : Occurrence) : (d.evrTake o).tb = d.tb := by fun_cases Device.evrTake <;> simp

@[simp] theorem Device.evrStep_tb : d.evrStep.tb = d.tb := by fun_cases Device.evrStep <;> simp

@[simp] theorem Device.evrDrain_tb : d.evrDrain.tb = d.tb := by simp [Device.evrDrain]

@[simp] theorem Device.seedCommitHead_tb (o : SeedOp) (rest : List SeedOp) : (d.seedCommitHead o rest).tb = d.tb := by
  simp only [Device.seedCommitHead]
  (repeat' split) <;> simp

@[simp] theorem Device.seedCommit_tb : d.seedCommit.tb = d.tb := by fun_cases Device.seedCommit <;> simp

@[simp] theorem Device.loadSeed_tb : d.loadSeed.tb = d.tb := rfl

@[simp] theorem Device.samplePins_tb : d.samplePins.tb = d.tb := by
  simp only [Device.samplePins]
  split <;> simp

@[simp] theorem Device.beginTraining_tb : d.beginTraining.tb = d.tb := rfl

/-- A device that leaves its reset sets REF_LOST while an excursion lasts (R36), and nothing else of the time base. -/
theorem Device.leaveReset_tb : d.leaveReset.tb = { d.tb with refLost := d.leaveReset.tb.refLost } := by
  unfold Device.leaveReset
  split
  · rfl
  · rw [Device.beginTraining_tb, Device.samplePins_tb]
    split <;> simp

/-- A reset of kind 1-3 changes REF_LOST and SYNC_SEEN of the time base alone (R38). -/
theorem Device.resetTo_tb (kind : BitVec 2) :
    (d.resetTo kind).tb = { d.tb with refLost := (d.resetTo kind).tb.refLost, syncSeen := false } := by
  unfold Device.resetTo
  rw [Device.leaveReset_tb]
  simp [TimeBase.afterReset]

/-- The time base starts from 0 (R38). -/
theorem Device.startUp_tb_now : d.startUp.tb.now = 0 := by
  unfold Device.startUp
  rw [Device.leaveReset_tb]
  rfl

/-! ### What a reset does to the hosts' memory -/

@[simp] theorem Device.pulse_ports (s : Nat) : (d.pulse s).ports = d.ports := by rw [Device.pulse_frame]

@[simp] theorem Device.logEvent_ports (code : Nat) (sev : Severity) (source data key : Nat) :
    (d.logEvent code sev source data key).ports = d.ports := by
  rw [Device.logEvent_frame]

@[simp] theorem Device.samplePins_ports : d.samplePins.ports = d.ports := by
  simp only [Device.samplePins]
  split <;> simp

@[simp] theorem Device.leaveReset_ports : d.leaveReset.ports = d.ports := by
  simp only [Device.leaveReset, Device.beginTraining]
  (repeat' split) <;> simp

/-- What the device has written to a port's host. -/
def Device.hostMem (q : Fin 2) : List Host.Cell := (d.ports[q]).hostMem

theorem Device.hostMem_congr {e : Device} (h : e.ports = d.ports) (q : Fin 2) : e.hostMem q = d.hostMem q := by
  simp only [Device.hostMem, h]

/-- A port's change that keeps its host memory keeps every port's. -/
theorem Device.updPort_hostMem (p q : Fin 2) (f : HostPort → HostPort) (hf : (f d.ports[p]).hostMem = (d.ports[p]).hostMem) :
    (d.updPort p f).hostMem q = d.hostMem q := by
  have hget : (d.updPort p f).ports[q] = if q = p then f d.ports[p] else d.ports[q] := Bank.upd_get d.ports p q f
  rw [Device.hostMem, hget]
  split
  · subst_vars
    exact hf
  · rfl

@[simp] theorem Device.msix_hostMem (p q : Fin 2) (v : BitVec 8) : (d.msix p v).hostMem q = d.hostMem q := by
  fun_cases Device.msix
  · rfl
  · exact d.updPort_hostMem p q _ rfl
  · rfl

theorem Device.ite_msix_hostMem (c : Prop) [Decidable c] (p q : Fin 2) (v : BitVec 8) :
    (if c then d.msix p v else d).hostMem q = d.hostMem q := by
  split <;> simp

/-- A record written may notify the ports, and reaches no host memory. -/
@[simp] theorem Device.recordNew_hostMem (o : Occurrence) (q : Fin 2) : (d.recordNew o).hostMem q = d.hostMem q := by
  simp only [Device.recordNew]
  split
  · rfl
  · rw [Device.ite_msix_hostMem, Device.ite_msix_hostMem]
    rfl

@[simp] theorem Device.foldInto_ports (i : Nat) (o : Occurrence) : (d.foldInto i o).ports = d.ports := by
  fun_cases Device.foldInto <;> rfl

@[simp] theorem Device.evrAgain_ports (o : Occurrence) : (d.evrAgain o).ports = d.ports := by fun_cases Device.evrAgain <;> simp

@[simp] theorem Device.evrTake_hostMem (o : Occurrence) (q : Fin 2) : (d.evrTake o).hostMem q = d.hostMem q := by
  fun_cases Device.evrTake
  · exact d.hostMem_congr (d.evrAgain_ports o) q
  · rfl
  · exact d.recordNew_hostMem o q
  · exact d.recordNew_hostMem o q
  · rfl
  · exact d.recordNew_hostMem o q

@[simp] theorem Device.evrStep_hostMem (q : Fin 2) : d.evrStep.hostMem q = d.hostMem q := by
  fun_cases Device.evrStep
  · rfl
  · exact Device.evrTake_hostMem _ _ q

/-- The recorder writes nothing to a host. -/
@[simp] theorem Device.evrDrain_hostMem (q : Fin 2) : d.evrDrain.hostMem q = d.hostMem q :=
  foldl_keeps (Device.hostMem · q) _ (fun e _ => e.evrStep_hostMem q) _ d

theorem Device.resetTo_ports (kind : BitVec 2) :
    (d.resetTo kind).ports = Vector.ofFn fun p =>
      { (d.seedCommit.evrDrain.ports[p]).afterReset p with downSince := d.seedCommit.evrDrain.tb.now } := by
  rw [Device.resetTo, Device.leaveReset_ports]
  rfl

/-- What a host's memory holds after a reset of kind 1-3 is what the commit of a started Seedbank write leaves there. -/
theorem Device.resetTo_hostMem (kind : BitVec 2) (q : Fin 2) : (d.resetTo kind).hostMem q = d.seedCommit.hostMem q := by
  rw [← d.seedCommit.evrDrain_hostMem]
  simp [Device.hostMem, Device.resetTo_ports, HostPort.afterReset]

end

/-! ### A reset while a Seedbank write is under way -/

/-- An SVN_INCREMENT of Port 0. -/
def svnCommand : OpenCmd :=
  { hdr := { port := 0, tag := 1, account := 0, cls := 0, powerClass := 0, deadline := 0, noIrq := false }, opcode := 0x0B02 }

/-- A device that runs, with the link of Port 0 up, whose hold-up check has let the Seedbank write of `svnCommand` start (R485). -/
def Device.writingSvn : Device :=
  { Device.powerOn {} with
    ports := Bank.upd resetPorts 0 fun q => { q with dlUp := true, replay := [{ tag := 1, opcode := 0x0B02 }] }
    opens := [svnCommand]
    sec := { state := .running, ready := true, imageSvn := 1, hold := true, holdupOutcome := 1
             writes := [{ write := .svn, cmd := some svnCommand, started := true }] } }

/-- The commit of the write (R486) writes its final reply, 32 bytes, to the host's memory (R329). -/
theorem Device.writingSvn_seedCommit_hostMem : (Device.writingSvn.seedCommit.hostMem 0).length = 32 := by
  decide +kernel

/-- Refutes O5: a reset of kind 1-3 commits a started Seedbank write first, and the reply of its command reaches the host's memory
while the link is up, so that the memory is not what it was before the reset (R329, R486, R489). -/
theorem not_resetKeepsAndEmpties : ¬ Obligations.ResetKeepsAndEmpties := by
  unfold Obligations.ResetKeepsAndEmpties
  intro h
  obtain ⟨-, -, -, -, -, -, -, -, -, -, -, -, -, -, -, hports, -⟩ := h Device.writingSvn 1
  obtain ⟨-, -, hmem, -⟩ := hports 0
  have hcommit : Device.writingSvn.seedCommit.hostMem 0 = Device.writingSvn.hostMem 0 :=
    (Device.writingSvn.resetTo_hostMem 1 0).symm.trans hmem
  have hlen := Device.writingSvn_seedCommit_hostMem
  rw [hcommit] at hlen
  exact absurd hlen (by decide +kernel)

end Sys2Proof.Machine
end

section
/-! The time base counts (R37-R39): a control-clock cycle with no command, on a device that runs and on one held in reset. -/

namespace Sys2Proof.Machine

section
variable (d : Device)

@[simp] theorem Device.advance_now (n : Nat) : (d.advance n).tb.now = d.tb.now + BitVec.ofNat 64 n := rfl

/-- The ticks of a control-clock cycle with no command: those of the slew step that falls in it, else one. -/
def TimeBase.cycleTicks (t : TimeBase) : Tick :=
  if t.corr ≠ 0 ∧ t.slewPhase = 0 then (if t.corr.msb then 0 else 2) else 1

theorem Device.tick_now : d.tick.tb.now = d.tb.now + d.tb.cycleTicks := by
  unfold Device.tick TimeBase.cycleTicks
  split
  · rename_i h
    rw [Device.slew_of_corr h.1]
    simp only [Device.advance_now, slewTicks]
    split <;> rfl
  · rfl

/-! ### What counts ticks leaves the time base alone -/

@[simp] theorem Device.addDelay_tb (cause : DelayCause) (n : Nat) (hits : Promise → Bool) : (d.addDelay cause n hits).tb = d.tb := rfl

@[simp] theorem Device.countBeyond_tb (cause : DelayCause) (n : Nat) (hits : Promise → Bool) :
    (d.countBeyond cause n hits).tb = d.tb := by
  fun_cases Device.countBeyond <;> rfl

@[simp] theorem Device.powerDelays_tb (n : Nat) : (d.powerDelays n).tb = d.tb := by
  simp only [Device.powerDelays]
  (repeat' split) <;> simp

@[simp] theorem Device.countDelays_tb (n : Nat) : (d.countDelays n).tb = d.tb := by simp [Device.countDelays]

/-- All but the tick itself keeps the time base: the counters of ticks, and what the fabric then does by itself. -/
theorem Device.idle_tb : d.idle.tb = d.tick.tb := by
  simp only [Device.idle]
  split
  · simp
  · simp [Device.countTundishWaits, Device.countVersionWaits]

@[simp] theorem Device.settle_tb (old : Device) : (old.settle d).tb = d.tb := by
  obtain ⟨src, alert, hsettle, -⟩ := old.settle_frame d
  rw [hsettle]

end

/-- A step with an empty queue is one control-clock cycle (log entry 7). -/
theorem step_idle {s : State} (h : s.pending = []) : step s = idleStep s := by rw [step, h]

theorem idleStep_now {s : State} (h : s.dev.live = true ∨ s.dev.held = true) :
    ∃ t, idleStep s = .next t ∧ t.pending = s.pending ∧ t.dev.tb.now = s.dev.tb.now + s.dev.tb.cycleTicks := by
  refine ⟨_, rfl, rfl, ?_⟩
  have hticks : s.dev.fresh.tick.tb.now = s.dev.tb.now + s.dev.tb.cycleTicks := s.dev.fresh.tick_now
  simp only
  split
  · rw [Device.settle_tb, Device.idle_tb, hticks]
  · rw [if_pos (h.resolve_left ‹_›), hticks]

/-- Settles O2: the start-up gives TB_NOW 0, a reset changes REF_LOST and SYNC_SEEN alone, and a step with an empty queue adds the ticks
of its cycle, which nothing else that happens in the cycle touches. -/
theorem timeBaseKeepsCounting : Obligations.TimeBaseKeepsCounting := by
  refine ⟨Device.startUp_tb_now, fun d kind => ?_, fun s hq h => ?_⟩
  · rw [Device.resetTo_tb]
    exact ⟨rfl, rfl, rfl, rfl, rfl, rfl⟩
  · obtain ⟨t, hstep, hpending, hnow⟩ := idleStep_now h
    exact ⟨t, (step_idle hq).trans hstep, hpending.trans hq, hnow⟩

end Sys2Proof.Machine
end

section
/-! Slots, steps that retire and partition modes (R42, R105, R152). -/

namespace Sys2Proof.Machine

section
variable (d : Device)

/-! ### Stores leave the programs and the fabric alone -/

@[simp] theorem Device.hostWrite_progs (p : Fin 2) (a : Word64) (bs : List Byte) : (d.hostWrite p a bs).progs = d.progs := by
  fun_cases Device.hostWrite <;> simp

@[simp] theorem Device.hostWrite_fab (p : Fin 2) (a : Word64) (bs : List Byte) : (d.hostWrite p a bs).fab = d.fab := by
  fun_cases Device.hostWrite <;> simp

@[simp] theorem Device.writeT3_progs (o : Obj) (off : Nat) (bs : List Byte) : (d.writeT3 o off bs).progs = d.progs := by
  fun_cases Device.writeT3
  · exact foldl_keeps Device.progs _ (fun e _ => e.hostWrite_progs ..) _ d
  · rfl

@[simp] theorem Device.writeT3_fab (o : Obj) (off : Nat) (bs : List Byte) : (d.writeT3 o off bs).fab = d.fab := by
  fun_cases Device.writeT3
  · exact foldl_keeps Device.fab _ (fun e _ => e.hostWrite_fab ..) _ d
  · rfl

@[simp] theorem Device.store_progs (o : Obj) (off : Nat) (bs : List Byte) (own : Option (Fin 8)) :
    (d.store o off bs own).progs = d.progs := by
  simp [Device.store]

@[simp] theorem Device.store_fab (o : Obj) (off : Nat) (bs : List Byte) (own : Option (Fin 8)) :
    (d.store o off bs own).fab = d.fab := by
  simp [Device.store]

@[simp] theorem Device.updObj_progs (id : Word32) (f : Obj → Obj) : (d.updObj id f).progs = d.progs := rfl

@[simp] theorem Device.updObj_fab (id : Word32) (f : Obj → Obj) : (d.updObj id f).fab = d.fab := rfl

@[simp] theorem Device.objStore_progs (id : Word32) (off : Nat) (bs : List Byte) (own : Option (Fin 8)) :
    (d.objStore id off bs own).progs = d.progs := by
  simp only [Device.objStore]
  (repeat' split) <;> simp

@[simp] theorem Device.objStore_fab (id : Word32) (off : Nat) (bs : List Byte) (own : Option (Fin 8)) :
    (d.objStore id off bs own).fab = d.fab := by
  simp only [Device.objStore]
  (repeat' split) <;> simp

@[simp] theorem Device.storePyro_progs (k : Fin 16) : (d.storePyro k).progs = d.progs := by
  fun_cases Device.storePyro <;> simp

@[simp] theorem Device.storePyro_fab (k : Fin 16) : (d.storePyro k).fab = d.fab := by fun_cases Device.storePyro <;> simp

@[simp] theorem Device.zeroOverflow_progs (p : Program) (rs : List Region) : (d.zeroOverflow p rs).progs = d.progs := by
  fun_cases Device.zeroOverflow
  · rfl
  · exact foldl_keeps Device.progs _ (fun e _ => e.updMem_progs _) _ d

@[simp] theorem Device.zeroOverflow_fab (p : Program) (rs : List Region) : (d.zeroOverflow p rs).fab = d.fab := by
  fun_cases Device.zeroOverflow
  · rfl
  · exact foldl_keeps Device.fab _ (fun e _ => e.updMem_fab _) _ d

@[simp] theorem Device.unpinKv_progs (k step : Nat) : (d.unpinKv k step).progs = d.progs := rfl

@[simp] theorem Device.unpinKv_fab (k step : Nat) : (d.unpinKv k step).fab = d.fab := rfl

theorem Device.updProg_get {k : Fin 16} {p : Program} (f : Program → Program) (h : d.progs[k] = some p) :
    (d.updProg k f).progs[k] = some (f p) := by
  have hget : (d.updProg k f).progs[k] = (d.progs[k]).map f := Bank.upd_same d.progs k _
  rw [hget, h, Option.map_some]

end

/-! ### Reports of a step that retires -/

theorem Program.setVersion_releasedHandles (p : Program) (t : Word32) (v : Nat) :
    (p.setVersion t v).releasedHandles = p.releasedHandles := rfl

/-- What a program releases is written in its lanes, which the retirement of a step does not change. -/
theorem Program.afterRetire_releasedHandles (p : Program) (st : StepState) :
    (p.afterRetire st).releasedHandles = p.releasedHandles := by
  have hversions : (p.retireVersions st.step).releasedHandles = p.releasedHandles :=
    foldl_keeps Program.releasedHandles _ (fun q t => q.setVersion_releasedHandles t (st.step + 1)) _ p
  exact hversions

theorem Device.reportScales_none {d : Device} {k : Fin 16} {p : Program} {st : StepState} (h : p.releasedHandles = []) :
    d.reportScales k p st = d := by
  simp [Device.reportScales, h]

theorem Device.reportHallmark_alone {d : Device} {k : Fin 16} {p : Program} {v : Nat} (h : d.fab.groupSize ≤ 1) :
    d.reportHallmark k p v = d := by
  simp [Device.reportHallmark, h]

/-! ### The rows as functions of the device -/

section
variable {d : Device} {k : Fin 16} {s : Nat} {p : Program} {st : StepState} (hp : d.progs[k] = some p) (hst : p.stepAt s = some st)
include hp hst

/-- The next slot's lanes begin when its turn has come (R152). -/
theorem Device.slotRelease_next {sl : Slot} (hrun : p.state = .running) (hbody : st.bodyRuns = false)
    (hturn : ∀ t ∈ p.steps, s ≤ t.step ∨ t.slotsDone = true)
    (hsl : p.slots[if st.released then st.slotIdx + 1 else st.slotIdx]? = some sl) :
    d.slotRelease k s =
      let idx := if st.released then st.slotIdx + 1 else st.slotIdx
      (p.slotLanes sl).foldl (fun d i => d.startLane k p s idx sl (clampFin 16 i))
        (d.updStep k s fun st => { st with slotIdx := idx, released := true }) := by
  have hall : (p.steps.all fun t => decide (s ≤ t.step) || t.slotsDone) = true := by simpa using hturn
  simp only [Device.slotRelease, hp, hst, hsl, hrun, hbody, hall]
  rfl

theorem Device.slotRelease_waits (hbody : st.bodyRuns = true) : d.slotRelease k s = d := by
  simp only [Device.slotRelease, hp, hst]
  split
  · rfl
  · simp [hbody]

theorem Device.stepRetire_notDone (h : d.stepDone k p st = false) : d.stepRetire k s = d := by
  simp [Device.stepRetire, hp, hst, h]

/-- A step that is done retires; alone, and with no tensor released, it reports to nobody (R199, R398). -/
theorem Device.stepRetire_alone (h : d.stepDone k p st = true) (hre : st.reprefill = false) (hrel : p.releasedHandles = [])
    (hg : d.fab.groupSize ≤ 1) :
    d.stepRetire k s =
      ((((d.zeroOverflow p (p.regions.filter fun r => r.step == some s)).updProg k fun p => p.afterRetire st).unpinKv k.val
        s).storePyro k).endStep st .ok s := by
  have hprog : ((((d.zeroOverflow p (p.regions.filter fun r => r.step == some s)).updProg k fun p => p.afterRetire st).unpinKv
      k.val s).storePyro k).progs[k] = some (p.afterRetire st) := by
    simp only [Device.storePyro_progs, Device.unpinKv_progs]
    exact Device.updProg_get _ _ (by simpa using hp)
  simp only [Device.stepRetire, hp, hst, h, hre, hprog]
  rw [Device.reportScales_none ((p.afterRetire_releasedHandles st).trans hrel), Device.reportHallmark_alone (by simpa using hg)]
  rfl

end

section
variable {d : Device} {n : Fin 8} {m : BitVec 2} (hm : d.arrays[n].pmodeNext = some m)
include hm

theorem Device.pmodeChange_free (h : d.arrayBusy n = false) :
    d.pmodeChange n = (d.updArray n fun a => { a with pmode := m, pmodeNext := none }).wakeModes := by
  simp only [Device.pmodeChange, hm, h]
  rfl

theorem Device.pmodeChange_busy (h : d.arrayBusy n = true) : d.pmodeChange n = d := by
  simp only [Device.pmodeChange, hm, h, if_true]

end

/-- Settles O10: each row is exec's function for it, and the function is one of the equations above. -/
theorem slotStepAndModeRowsComplete : Obligations.SlotStepAndModeRowsComplete := by
  refine ⟨fun s k n p st hl hp hst => ⟨fun sl hrun hbody hturn hsl => ?_, fun hbody => ?_, fun h => ?_, fun h hre hrel hg => ?_⟩,
    fun s n m hl hm => ⟨fun h => ?_, fun h => ?_⟩⟩
  · exact .of_act (Device.slotRelease k n.toNat) hl rfl (Device.slotRelease_next (d := s.dev.fresh) hp hst hrun hbody hturn hsl)
  · exact .of_act (Device.slotRelease k n.toNat) hl rfl (Device.slotRelease_waits (d := s.dev.fresh) hp hst hbody)
  · exact .of_act (Device.stepRetire k n.toNat) hl rfl (Device.stepRetire_notDone (d := s.dev.fresh) hp hst h)
  · exact .of_act (Device.stepRetire k n.toNat) hl rfl (Device.stepRetire_alone (d := s.dev.fresh) hp hst h hre hrel hg)
  · exact .of_act (Device.pmodeChange n) hl rfl (Device.pmodeChange_free (d := s.dev.fresh) hm h)
  · exact .of_act (Device.pmodeChange n) hl rfl (Device.pmodeChange_busy (d := s.dev.fresh) hm h)

end Sys2Proof.Machine
end

section
/-! The state after power-on (R38, R280, R323, R442, R454, R469, R488, R490, R505, R508): its banks, entry by entry. -/

namespace Sys2Proof.Machine

/-- Start-up raises RESET_KIND, which asserts its source and changes no FILTER. -/
theorem reset_filter (n : Fin 512) : State.reset.dev.intc.src[n].filter = resetFilter n.val := by
  have hset : State.reset.dev.intc.src[n] = if (15 : Nat) = n.val then { resetSources[15] with pend := true } else resetSources[n] :=
    Vector.getElem_set (by decide) n.isLt
  rw [hset]
  split
  · rename_i h
    simp [resetSources, ← h]
  · simp [resetSources]

/-- Every account is enabled on Port 0 and none on Port 1. -/
theorem reset_accountEnabled (a : BitVec 6) :
    State.reset.dev.accountEnabled 0 a = true ∧ State.reset.dev.accountEnabled 1 a = false := by
  have hacct (p : Fin 2) : State.reset.dev.accountEnabled p a = (resetAcct p).getLsbD a.toNat := by
    simp [Device.accountEnabled, State.reset, Device.starting, Device.powerOn, resetPorts]
  rw [hacct, hacct]
  revert a
  decide

theorem reset_running (c : Fin 4) : State.reset.dev.cores[c].running = decide (c = 0) := by
  have hcore : State.reset.dev.cores[c] = { running := decide (c.val = 0) } := Vector.getElem_ofFn ..
  rw [hcore]
  simp only [Fin.ext_iff]
  rfl

theorem reset_quotas (a : Fin 64) : State.reset.dev.mem.quotas[a] = {} := Vector.getElem_replicate ..

theorem reset_progs (k : Fin 16) : State.reset.dev.progs[k] = none := Vector.getElem_replicate ..

theorem reset_spaces (k : Fin 16) : State.reset.dev.aster.spaces[k] = none := Vector.getElem_replicate ..

theorem reset_ports (p : Fin 2) : State.reset.dev.ports[p] = { acctEn := resetAcct p } := Vector.getElem_ofFn ..

/-- The alert invariant asks nothing while the time base stands at 0. -/
theorem reset_alertInv : State.reset.AlertInv := fun _ h => absurd rfl h

/-- Settles O51: the fields are what `Device.powerOn` and `Device.starting` write, the banks as above. -/
theorem resetHoldsTheSpecsValues : Obligations.ResetHoldsTheSpecsValues := by
  refine ⟨rfl, rfl, reset_alertInv, rfl, rfl, rfl, rfl, reset_running, reset_accountEnabled, fun a => ?_, reset_filter, rfl, rfl, rfl,
    rfl, rfl, rfl, fun k => ⟨reset_progs k, reset_spaces k⟩, fun p => ?_⟩
  · rw [reset_quotas]
    exact ⟨rfl, rfl, fun n => Vector.getElem_replicate ..⟩
  · rw [reset_ports]
    exact ⟨rfl, rfl, rfl⟩

end Sys2Proof.Machine
end

section
/-! Negative zero (R46): it reads as zero in every format, and a rounding gives it in none. -/

namespace Sys2Proof.Machine

section
variable (f : Fmt)

/-- The sign bit alone reads as zero. -/
theorem Fmt.decode_negZero : (f.decode (2 ^ f.signBit)).m = 0 := by
  have hfrac : 2 ^ f.signBit % 2 ^ f.fracBits = 0 :=
    Nat.mod_eq_zero_of_dvd (Nat.pow_dvd_pow 2 (Nat.le_add_left ..))
  have hexp : 2 ^ f.signBit / 2 ^ f.fracBits % 2 ^ f.expBits = 0 := by
    rw [Fmt.signBit, Nat.pow_div (Nat.le_add_left ..) Nat.two_pos, Nat.add_sub_cancel, Nat.mod_self]
  simp [Fmt.decode, hfrac, hexp]

variable {f} (r : Rounding) (x : Dyad)

/-- A number rounded into a format gives zero, or a magnitude of the format other than zero with a sign bit or none: the binade is the
lowest of the format or above it, so that the code is no smaller than the mantissa. -/
theorem Fmt.round_cases (hpos : 0 < f.maxMag) :
    (f.round r x).1 = 0 ∨
      ∃ mag sign, 0 < mag ∧ mag ≤ f.maxMag ∧ (sign = 0 ∨ sign = 2 ^ f.signBit) ∧ (f.round r x).1 = mag + sign := by
  have hsign : (if x.m < 0 then 2 ^ f.signBit else 0) = 0 ∨ (if x.m < 0 then 2 ^ f.signBit else 0) = 2 ^ f.signBit := by
    split <;> simp
  simp only [Fmt.round]
  split
  · exact .inl rfl
  generalize hu : Max.max x.binade (1 - (f.bias : Int)) - (f.fracBits : Int) = u
  generalize roundMag r x.m.natAbs (x.e - u) = a
  split
  · exact .inl rfl
  have hcode : (a : Int) ≤ (u + f.fracBits + f.bias) * (2 ^ f.fracBits : Nat) + a - (2 ^ f.fracBits : Nat) := by
    have hbinade : 1 ≤ u + f.fracBits + f.bias := by omega
    have := Int.mul_le_mul_of_nonneg_right hbinade (Int.natCast_nonneg (2 ^ f.fracBits))
    omega
  split
  · exact .inr ⟨_, _, hpos, Nat.le_refl _, hsign, rfl⟩
  · exact .inr ⟨_, _, by omega, by omega, hsign, rfl⟩

/-- The word of a rounded number is not the sign bit alone, where the magnitudes of the format lie below the sign bit. -/
theorem Fmt.round_ne_negZero (hpos : 0 < f.maxMag) (hmax : f.maxMag < 2 ^ f.signBit) :
    (f.round r x).1 ≠ 2 ^ f.signBit ∧ (f.round r x).1 < 2 ^ (f.signBit + 1) := by
  rw [Nat.pow_succ]
  rcases Fmt.round_cases r x hpos with h | ⟨mag, sign, h0, hle, rfl | rfl, h⟩ <;> omega

/-- The same of the word that holds the encoding. -/
theorem Fmt.ofNat_round_ne_negZero (hpos : 0 < f.maxMag) (hmax : f.maxMag < 2 ^ f.signBit) :
    BitVec.ofNat (f.signBit + 1) (f.round r x).1 ≠ BitVec.ofNat (f.signBit + 1) (2 ^ f.signBit) := by
  obtain ⟨hne, hlt⟩ := Fmt.round_ne_negZero r x hpos hmax
  intro h
  have hword := congrArg BitVec.toNat h
  rw [BitVec.toNat_ofNat, BitVec.toNat_ofNat, Nat.mod_eq_of_lt hlt, Nat.mod_eq_of_lt (Nat.pow_lt_pow_succ Nat.one_lt_two)] at hword
  exact hne hword

end

/-- Settles O60: each word is read or written through `Fmt.decode` or `Fmt.round` of its format. -/
theorem noNegativeZeroIsWritten : Obligations.NoNegativeZeroIsWritten := by
  refine ⟨Fmt.w32.decode_negZero, Fmt.z16.decode_negZero, fun x => ?_, fun r w => ?_, fun x => ?_, fun c r w => ?_⟩
  · exact Fmt.ofNat_round_ne_negZero (f := .w32) .rne x (by decide) (by decide)
  · exact Fmt.ofNat_round_ne_negZero (f := .z16) r (ofW32 w) (by decide) (by decide)
  · exact Fmt.ofNat_round_ne_negZero (f := .h16) .rne x (by decide) (by decide)
  · exact (Fmt.round_ne_negZero (f := .z4) r _ (by decide) (by decide)).1

end Sys2Proof.Machine
end

section
/-! Scale agreement, the norm's records and the choice of sigma (R73, R79, R199, R202, R203, R206): what each row makes of a device. -/

namespace Sys2Proof.Machine

section
variable {d : Device}

theorem Device.joined_of_job (h : d.fab.job ≠ .none) : d.joined = true := bne_iff_ne.2 h

/-- A message that does not carry LATE counts toward no PEER_LATE. -/
@[simp] theorem Device.notePeerLate_onTime (k : Fin 16) (s : Nat) (since : Tick) (src : Nat) :
    d.notePeerLate k s since src false = d := by
  unfold Device.notePeerLate
  split <;> rfl

/-! ### Scale reports and tables -/

section
variable (n src : Nat) {es : List Word16} (hs : List Hist) (hj : d.fab.job ≠ .none)
include hj

theorem Device.scaleReportReceive_reserved {e : Word16} (he : e ∈ es) (hbits : e.extractLsb' 9 5 ≠ 0) :
    d.scaleReportReceive n src es hs = d.planMismatch n := by
  have hany : (es.any fun e => e.extractLsb' 9 5 != 0) = true := List.any_eq_true.2 ⟨e, he, bne_iff_ne.2 hbits⟩
  simp only [Device.scaleReportReceive, Device.joined_of_job hj, hany]
  rfl

/-- A report whose reserved bits are clear goes to the level its rank stands for. -/
theorem Device.scaleReportReceive_clear (he : ∀ e ∈ es, e.extractLsb' 9 5 = 0) :
    d.scaleReportReceive n src es hs =
      if d.memberLevel src then d.reportMember n src es hs else if d.fab.isTop then d.reportDomain n src es hs else d := by
  have hany : (es.any fun e => e.extractLsb' 9 5 != 0) = false := by simpa using he
  simp only [Device.scaleReportReceive, Device.joined_of_job hj, hany]
  rfl

/-- A table of a step that has not been launched is taken. -/
theorem Device.scaleTableReceive_onTime {k : Fin 16} {p : Program} (es : List Word16) (hk : d.jobProgram = some (k, p))
    (hn : p.nextStep ≤ n) : d.scaleTableReceive n src es hs false = d.takeTable k { step := n, entries := es } hs := by
  simp only [Device.scaleTableReceive, hk, Device.joined_of_job hj, Nat.not_lt.2 hn, Device.notePeerLate_onTime]
  rw [if_neg (by simp)]
  split <;> rfl

end

/-! ### The norm's records -/

section
variable (n src : Nat) (v : Word32) (sats : Nat) (hj : d.fab.job ≠ .none)
include hj

/-- A partial goes to the level its rank stands for. -/
theorem Device.normPartialReceive_joined :
    d.normPartialReceive n src v sats =
      if d.memberLevel src then d.normMember n src v sats else if d.fab.isTop then d.normDomain n src v sats else d := by
  simp only [Device.normPartialReceive, Device.joined_of_job hj]
  rfl

theorem Device.clipFactorReceive_onTime {k : Fin 16} {p : Program} (f : Word32) (hk : d.jobProgram = some (k, p)) :
    d.clipFactorReceive n src v f sats false = d.setClip k n v f sats := by
  simp only [Device.clipFactorReceive, hk, Device.joined_of_job hj, Device.notePeerLate_onTime, ite_self]
  rw [if_neg (by simp)]
  split <;> rfl

end

/-! ### The choice of sigma -/

section
variable {k : Fin 16} {p : Program} (hp : d.progs[k] = some p)
include hp

theorem Device.sigmaChoose_notDue (h : p.sigmaDue = none) : d.sigmaChoose k = d := by
  simp only [Device.sigmaChoose, hp, h]

variable {i : Nat} (hi : p.sigmaDue = some i) (hr : d.sigmaReady p i = true)
include hi hr

/-- With no tensor to choose for, the period's choice is over and every accumulated histogram stays. -/
theorem Device.sigmaChoose_noTensor (ht : p.sigmaTensors = []) :
    d.sigmaChoose k = (d.updProg k fun p => { p with sigmaDue := none, merged := [] }).storePyro k := by
  have hkeep (l : List Hist) : l.filter (fun _ => !false) = l := List.filter_eq_self.2 fun _ _ => rfl
  simp only [Device.sigmaChoose, hp, hi, hr, ht, List.any_nil, hkeep]
  rfl

/-- One tensor's choice clears that tensor's accumulated histograms where it changes sigma (R79). -/
theorem Device.sigmaChoose_one {x : Desc} {ch : Int × Int × Int} (ht : p.sigmaTensors = [x]) (hch : p.choiceOf x = some ch) :
    d.sigmaChoose k =
      ((d.applySigma k i x ch).updProg k fun p =>
        { p with sigmaDue := none, merged := []
                 accumulated := p.accumulated.filter fun h => !(x.tensor == h.tensor && ch.2.1 != 0) }).storePyro k := by
  simp only [Device.sigmaChoose, hp, hi, hr, ht, hch, List.foldl_cons, List.foldl_nil, List.any_cons, List.any_nil, Bool.or_false,
    Option.any_some]
  rfl

end

end

/-- Settles O18: each row is exec's function for it, and the function is one of the equations above. -/
theorem scaleAndNormRowsComplete : Obligations.ScaleAndNormRowsComplete := by
  intro s hl
  refine ⟨fun n src es hs hj he => ⟨fun hm => ?_, fun hm ht => ?_⟩, fun n src es hs e hj he hbits => ?_,
    fun k p n src es hs hk hj hn => ?_, fun n src v sats hj => ⟨fun hm => ?_, fun hm ht => ?_⟩,
    fun k p n src n2 f sats hk hj => ?_, fun k p i hp hi hr ht => ?_, fun k p i x ch hp hi hr ht hch => ?_, fun k p hp h => ?_⟩
  · exact .of_act (Device.scaleReportReceive n.toNat src.toNat es hs) hl rfl
      ((Device.scaleReportReceive_clear (d := s.dev.fresh) _ _ hs hj he).trans (if_pos hm))
  · exact .of_act (Device.scaleReportReceive n.toNat src.toNat es hs) hl rfl
      ((Device.scaleReportReceive_clear (d := s.dev.fresh) _ _ hs hj he).trans ((if_neg (ne_true_of_eq_false hm)).trans (if_pos ht)))
  · exact .of_act (Device.scaleReportReceive n.toNat src.toNat es hs) hl rfl
      (Device.scaleReportReceive_reserved (d := s.dev.fresh) _ _ hs hj he hbits)
  · exact .of_act (Device.scaleTableReceive n.toNat src.toNat es hs false) hl rfl
      (Device.scaleTableReceive_onTime (d := s.dev.fresh) _ _ hs hj es hk hn)
  · exact .of_act (Device.normPartialReceive n.toNat src.toNat v sats.toNat) hl rfl
      ((Device.normPartialReceive_joined (d := s.dev.fresh) _ _ v _ hj).trans (if_pos hm))
  · exact .of_act (Device.normPartialReceive n.toNat src.toNat v sats.toNat) hl rfl
      ((Device.normPartialReceive_joined (d := s.dev.fresh) _ _ v _ hj).trans
        ((if_neg (ne_true_of_eq_false hm)).trans (if_pos ht)))
  · exact .of_act (Device.clipFactorReceive n.toNat src.toNat n2 f sats.toNat false) hl rfl
      (Device.clipFactorReceive_onTime (d := s.dev.fresh) _ _ n2 _ hj f hk)
  · exact .of_act (Device.sigmaChoose k) hl rfl (Device.sigmaChoose_noTensor (d := s.dev.fresh) hp hi hr ht)
  · exact .of_act (Device.sigmaChoose k) hl rfl (Device.sigmaChoose_one (d := s.dev.fresh) hp hi hr ht hch)
  · exact .of_act (Device.sigmaChoose k) hl rfl (Device.sigmaChoose_notDue (d := s.dev.fresh) hp h)

end Sys2Proof.Machine
end

section
/-! How a lane issues an instruction (R105, R129, R144, R178): a row acts where its lane stands at an instruction that it names, and the
program's record of a lane takes a change as the bank of its step does. -/

namespace Sys2Proof.Machine

/-! ### Programs and steps changed -/

/-- A list that changes the first element of a test, in a way the test does not see, is found changed. -/
theorem find?_updFirst {α : Type} {q : α → Bool} {f : α → α} {l : List α} {a : α} (h : l.find? q = some a) (hf : q (f a) = true) :
    (updFirst q f l).find? q = some (f a) := by
  induction l with
  | nil => cases h
  | cons b l ih =>
    rw [updFirst]
    cases hb : q b with
    | true =>
      obtain rfl : b = a := by simpa [List.find?_cons, hb] using h
      simp [hf]
    | false =>
      have hl : l.find? q = some a := by simpa [List.find?_cons, hb] using h
      simpa [List.find?_cons, hb] using ih hl

theorem Program.stepAt_step {p : Program} {s : Nat} {st : StepState} (h : p.stepAt s = some st) : st.step = s := by
  simpa using List.find?_some h

/-- The step of a program after a change that keeps its number. -/
theorem Program.updStep_stepAt {p : Program} {s : Nat} {st : StepState} (f : StepState → StepState) (h : p.stepAt s = some st)
    (hf : (f st).step = st.step) : (p.updStep s f).stepAt s = some (f st) :=
  find?_updFirst h (by rw [hf, p.stepAt_step h, beq_self_eq_true])

section
variable (d : Device) {k : Fin 16} {p : Program} {s : Nat} {st : StepState}

theorem Device.updProg_other (f : Program → Program) {j : Fin 16} (h : j ≠ k) : (d.updProg k f).progs[j] = d.progs[j] :=
  Bank.upd_other d.progs k j _ h

variable {d}

/-- The step of a lane after a change of the lane. -/
theorem Device.updLane_stepOf (n : Fin 17) (f : LaneState → LaneState) (hp : d.progs[k] = some p) (hst : p.stepAt s = some st) :
    (d.updLane k s n f).stepOf k s = some { st with lanes := Bank.upd st.lanes n f } := by
  rw [Device.stepOf, Device.updLane, Device.updStep, Device.updProg_get _ _ hp, Option.bind_some]
  exact Program.updStep_stepAt _ hst rfl

end

/-! ### Lanes that stand at an instruction -/

section
variable {d : Device} {k : Fin 16} {n : Nat} {lane : Fin 17} {p : Program} {st : StepState} {c : Current}

/-- The messages of the previous command are nothing to a lane. -/
theorem Device.Stands.fresh (h : d.Stands k n lane p st c) : d.fresh.Stands k n lane p st c :=
  ⟨h.prog, h.step, h.current, h.ready, h.free⟩

theorem Device.clearFor.fresh (h : d.clearFor k lane p st c) : d.fresh.clearFor k lane p st c := h

/-- A row acts on the lane that stands at an instruction that it names. -/
theorem Device.Stands.atInstr (h : d.Stands k n lane p st c) {is : Byquel → Bool}
    {f : Program → StepState → LaneState → Current → Device → Device} (hi : is c.instr.instr = true) :
    d.atInstr k n lane is f = f p st (st.lane lane) c d := by
  obtain ⟨hprog, hstep, hcurrent, hready, hfree⟩ := h
  simp only [Device.atInstr, hprog, hstep, hcurrent, hi, hready, hfree, Bool.and_self, if_true]

end

end Sys2Proof.Machine
end

section
/-! Instructions that compute from their operands (R9, R64, R76, R129, R144, R178, R316): when they issue, when their lane waits, and what
an instruction that has issued leaves. -/

namespace Sys2Proof.Machine

/-! ### Words that carry errors -/

theorem Device.consume_nil (d : Device) (f : Device → Device) : d.consume [] f = f d := rfl

/-- A word that no decoder corrects takes the place of the work that would consume it (R9, R316). -/
theorem Device.consume_uncorrectable {d : Device} {e : WordError} (errs : List WordError) (f : Device → Device)
    (h : errorFate d.mem.dec e.pattern = none) :
    d.consume (e :: errs) f = d.uncorrectable e.place.location.1 e.place.location.2.1 e.place.location.2.2 := by
  have hword : d.wordError e = .error (d.uncorrectable e.place.location.1 e.place.location.2.1 e.place.location.2.2) := by
    rw [Device.wordError, h]
  rw [Device.consume, List.foldlM_cons, hword]
  rfl

/-! ### Issue and wait -/

section
variable {d : Device} {k : Fin 16} {n : Nat} {lane : Fin 17} {p : Program} {st : StepState} {c : Current}

theorem Device.clearFor.whenFree (h : d.clearFor k lane p st c) (errs : List WordError) (f : Device → Device) :
    d.whenFree k p st lane c errs f = d.consume errs f := by
  obtain ⟨hhazard, hsending, hmode, hheld, hversions, ht3⟩ := h
  have hchecked : (lane.val != 16 && !d.versionsOk k p st c) = false := by rcases hversions with h | h <;> simp [h]
  simp only [Device.whenFree, hhazard, hsending, hmode, hheld, hchecked, ht3]
  rfl

/-- A lane that stands at an instruction of a row, with nothing in its way, issues it. -/
theorem Device.Stands.dataRow (hs : d.Stands k n lane p st c) (hc : d.clearFor k lane p st c) {is : Byquel → Bool}
    (hi : is c.instr.instr = true) (errs : List WordError) :
    d.dataRow k n lane errs is = d.consume errs fun d => d.issueData k p st lane c :=
  (hs.atInstr hi).trans (hc.whenFree errs _)

section
variable (hs : d.Stands k n lane p st c) {is : Byquel → Bool} (hi : is c.instr.instr = true) (errs : List WordError)
  (hhazard : (st.lane lane).hazard st.descs c = false) (hsending : anyOverlap (c.footprint st.descs).2 d.sendingRanges = false)
  (hmode : d.modeHolds lane (st.lane lane) = true)
include hs hi hhazard hsending hmode

/-- A region whose sums the Tundish has not read makes the lane wait (R144). -/
theorem Device.Stands.dataRow_regionHeld (hheld : p.regionHeld st.step c.instr.instr = true) :
    d.dataRow k n lane errs is = d.setWait k st.step lane .crucible := by
  refine (hs.atInstr hi).trans ?_
  simp only [Device.whenFree, hhazard, hsending, hmode, hheld]
  rfl

/-- A version not yet made makes the lane of an F or B stream wait (R178). -/
theorem Device.Stands.dataRow_versionWait (hlane : lane.val ≠ 16) (hheld : p.regionHeld st.step c.instr.instr = false)
    (hversions : d.versionsOk k p st c = false) : d.dataRow k n lane errs is = d.setWait k st.step lane .version := by
  have hchecked : (lane.val != 16 && !d.versionsOk k p st c) = true := by simp [hlane, hversions]
  refine (hs.atInstr hi).trans ?_
  simp only [Device.whenFree, hhazard, hsending, hmode, hheld, hchecked]
  rfl

end

end

/-! ### What an issue leaves of programs and objects -/

/-- The programs of a device, and its memory as bytes and objects. -/
def Device.programsAndObjects (d : Device) : Vector (Option Program) 16 × List Host.Cell × List Obj :=
  (d.progs, d.mem.mem, d.mem.objects)

theorem Device.programsAndObjects_eq_iff {d e : Device} :
    e.programsAndObjects = d.programsAndObjects ↔ e.progs = d.progs ∧ e.mem.mem = d.mem.mem ∧ e.mem.objects = d.mem.objects := by
  simp [Device.programsAndObjects]

section
variable (d : Device)

@[simp] theorem Device.updArray_programsAndObjects (n : Fin 8) (f : ArrayState → ArrayState) :
    (d.updArray n f).programsAndObjects = d.programsAndObjects := rfl

@[simp] theorem Device.updStack_programsAndObjects (k : Fin 20) (f : Stack → Stack) :
    (d.updStack k f).programsAndObjects = d.programsAndObjects := rfl

@[simp] theorem Device.updHearth_programsAndObjects (h : Fin 8) (f : Hearth → Hearth) :
    (d.updHearth h f).programsAndObjects = d.programsAndObjects := rfl

@[simp] theorem Device.onArrays_programsAndObjects (lane : Nat) (f : ArrayState → ArrayState) :
    (d.onArrays lane f).programsAndObjects = d.programsAndObjects :=
  foldl_keeps Device.programsAndObjects _ (fun e n => e.updArray_programsAndObjects n f) _ d

/-- An addition on its way to the adders waits in a queue: no byte has changed yet (R311). -/
@[simp] theorem Device.sendGroup_programsAndObjects (n : Option (Fin 8)) (o : Obj) (g : AdderGroup) (off : Nat) :
    (d.sendGroup n o g off).programsAndObjects = d.programsAndObjects := by
  simp only [Device.sendGroup]
  (repeat' split) <;> simp

@[simp] theorem Device.sendOverflow_programsAndObjects (k : Fin 16) (p : Program) (lane : Nat) (add : Handle × List Word32) :
    (d.sendOverflow k p lane add).programsAndObjects = d.programsAndObjects := by
  unfold Device.sendOverflow
  split
  · exact foldl_keeps Device.programsAndObjects _ (fun e _ => e.sendGroup_programsAndObjects ..) _ d
  · rfl

@[simp] theorem Device.readLine_programsAndObjects (n : Fin 8) (line : Nat) :
    (d.readLine n line).programsAndObjects = d.programsAndObjects := by
  simp only [Device.readLine]
  (repeat' split) <;> rfl

@[simp] theorem Device.throughHearth_programsAndObjects (lane : Nat) (rs : List Range) :
    (d.throughHearth lane rs).programsAndObjects = d.programsAndObjects := by
  simp only [Device.throughHearth]
  split
  · rfl
  · exact foldl_keeps Device.programsAndObjects _
      (fun e n => foldl_keeps Device.programsAndObjects _ (fun e line => e.readLine_programsAndObjects n line) _ e) _ d

/-- A lane that has issued an instruction: it stands at the next one and holds the record of what the retirement will write. -/
def LaneState.issued (fl : InFlight) (chain : List Traced) (terms : List (List DigestTerm)) (l : LaneState) : LaneState :=
  { l.advance with inflight := l.inflight ++ [fl], chain := chain, chainTerms := terms }

variable {d} in
theorem Device.updLane_programsAndObjects {e : Device} (h : e.programsAndObjects = d.programsAndObjects) (k : Fin 16) (s : Nat)
    (n : Fin 17) (f : LaneState → LaneState) : (e.updLane k s n f).programsAndObjects = (d.updLane k s n f).programsAndObjects := by
  obtain ⟨hprogs, hmem, hobjects⟩ := Device.programsAndObjects_eq_iff.1 h
  simp [Device.programsAndObjects, Device.updLane, Device.updStep, hprogs, hmem, hobjects]

/-- Of programs and objects, an issue changes its lane alone. -/
theorem Device.enterFlight_programsAndObjects (k : Fin 16) (p : Program) (st : StepState) (lane : Fin 17) (c : Current) (e : Effect) :
    ∃ units n terms, (d.enterFlight k p st lane c e).programsAndObjects =
      (d.updLane k st.step lane (LaneState.issued (p.flightOf st lane c e units n) e.chain.flatten terms)).programsAndObjects := by
  unfold Device.enterFlight
  extract_lets i l ctx twin replayed units fl replay integ dReplay dLane dArrays dOverflow
  have hreplay : dReplay.programsAndObjects = d.programsAndObjects := by
    unfold dReplay
    split <;> rfl
  have hoverflow : dOverflow.programsAndObjects = dLane.programsAndObjects := by
    unfold dOverflow
    split
    · exact (foldl_keeps Device.programsAndObjects _ (fun e _ => e.sendOverflow_programsAndObjects ..) _ dArrays).trans
        (dLane.onArrays_programsAndObjects ..)
    · exact dLane.onArrays_programsAndObjects ..
  exact ⟨_, _, _, (dOverflow.throughHearth_programsAndObjects ..).trans
    (hoverflow.trans (Device.updLane_programsAndObjects hreplay k st.step lane _))⟩

section
variable {k : Fin 16} {p : Program} {st : StepState} (lane : Fin 17) (c : Current) (e : Effect)

section
variable {d} (hp : d.progs[k] = some p) (hst : p.stepAt st.step = some st)
include hp hst

/-- The step after an issue: the lane has gone on with its record, and no other lane has changed. -/
theorem Device.enterFlight_stepOf :
    ∃ units n terms, (d.enterFlight k p st lane c e).stepOf k st.step = some
      { st with lanes := Bank.upd st.lanes lane (LaneState.issued (p.flightOf st lane c e units n) e.chain.flatten terms) } := by
  obtain ⟨units, n, terms, hkeeps⟩ := d.enterFlight_programsAndObjects k p st lane c e
  obtain ⟨hprogs, -, -⟩ := Device.programsAndObjects_eq_iff.1 hkeeps
  refine ⟨units, n, terms, ?_⟩
  rw [← Device.updLane_stepOf lane _ hp hst, Device.stepOf, Device.stepOf, hprogs]

theorem Device.enterFlight_lane :
    ∃ units n terms, ((d.enterFlight k p st lane c e).stepOf k st.step).map (fun t => t.lane lane) =
      some ((st.lane lane).issued (p.flightOf st lane c e units n) e.chain.flatten terms) := by
  obtain ⟨units, n, terms, hstep⟩ := Device.enterFlight_stepOf lane c e hp hst
  exact ⟨units, n, terms, by rw [hstep, Option.map_some, StepState.lane, Bank.upd_same]; rfl⟩

theorem Device.enterFlight_otherLane {j : Fin 17} (hj : j ≠ lane) :
    ((d.enterFlight k p st lane c e).stepOf k st.step).map (fun t => t.lane j) = some (st.lane j) := by
  obtain ⟨units, n, terms, hstep⟩ := Device.enterFlight_stepOf lane c e hp hst
  rw [hstep, Option.map_some, StepState.lane, Bank.upd_other _ _ _ _ hj]
  rfl

end

/-- No byte of memory and no object changes at an issue. -/
theorem Device.enterFlight_mem :
    (d.enterFlight k p st lane c e).mem.mem = d.mem.mem ∧ (d.enterFlight k p st lane c e).mem.objects = d.mem.objects := by
  obtain ⟨units, n, terms, hkeeps⟩ := d.enterFlight_programsAndObjects k p st lane c e
  obtain ⟨-, hmem, hobjects⟩ := Device.programsAndObjects_eq_iff.1 hkeeps
  exact ⟨hmem, hobjects⟩

theorem Device.enterFlight_otherProgram {j : Fin 16} (hj : j ≠ k) : (d.enterFlight k p st lane c e).progs[j] = d.progs[j] := by
  obtain ⟨units, n, terms, hkeeps⟩ := d.enterFlight_programsAndObjects k p st lane c e
  obtain ⟨hprogs, -, -⟩ := Device.programsAndObjects_eq_iff.1 hkeeps
  rw [hprogs]
  exact d.updProg_other _ hj

end

end

/-- A row of data on a running device, whose lane stands at an instruction of the row with nothing in its way. -/
theorem Runs.of_dataRow {row : Instr} {s : State} {is : Byquel → Bool} {k : Fin 16} {n : Nat} {lane : Fin 17} {p : Program}
    {st : StepState} {c : Current} {errs : List WordError} (hl : s.dev.live = true) (hs : s.dev.Stands k n lane p st c)
    (hc : s.dev.clearFor k lane p st c) (he : exec row s = s.act (Device.dataRow k n lane errs is)) (hi : is c.instr.instr = true) :
    Runs row s fun d => d.consume errs fun d => d.issueData k p st lane c :=
  .of_act _ hl he (hs.fresh.dataRow hc.fresh hi errs)

/-- Settles O6: a row of data is `Device.dataRow` with the test of its instruction, which issues where the lane is clear and waits where it
is not; what the issue leaves is what `Device.enterFlight` keeps. -/
theorem dataInstructionsIssueOrWait : Obligations.DataInstructionsIssueOrWait := by
  refine ⟨fun s k n lane errs p st c hl hs hc => ?_, fun d k lane p st c e hp hst => ?_,
    fun s k n lane errs p st c hl hs hi hhazard hsending hmode => ⟨fun hheld => ?_, fun hlane hheld hversions => ?_⟩,
    fun d e errs f => ⟨d.consume_nil f, Device.consume_uncorrectable errs f⟩⟩
  · exact ⟨.of_dataRow hl hs hc rfl, .of_dataRow hl hs hc rfl, .of_dataRow hl hs hc rfl, .of_dataRow hl hs hc rfl,
      .of_dataRow hl hs hc rfl, .of_dataRow hl hs hc rfl, .of_dataRow hl hs hc rfl, .of_dataRow hl hs hc rfl⟩
  · obtain ⟨hmem, hobjects⟩ := d.enterFlight_mem (k := k) (p := p) (st := st) lane c e
    exact ⟨Device.enterFlight_lane lane c e hp hst, fun j hj => Device.enterFlight_otherLane lane c e hp hst hj, hmem, hobjects,
      fun j hj => d.enterFlight_otherProgram lane c e hj⟩
  · exact .of_act (Device.dataRow k n.toNat lane errs Byquel.isTmm) hl rfl
      (hs.fresh.dataRow_regionHeld hi errs hhazard hsending hmode hheld)
  · exact .of_act (Device.dataRow k n.toNat lane errs Byquel.isTmm) hl rfl
      (hs.fresh.dataRow_versionWait hi errs hhazard hsending hmode hlane hheld hversions)

end Sys2Proof.Machine
end

section
/-! Semaphores, fences, hints and the end of a body (R105, R119, R132-R137): what each row makes of a lane that stands at its
instruction. -/

namespace Sys2Proof.Machine

section
variable {d : Device} {k : Fin 16} {n : Nat} {lane : Fin 17} {p : Program} {st : StepState} {c : Current}
  (hs : d.Stands k n lane p st c)
include hs

/-- A TSIG behind no unretired instruction, whose semaphore triggers no channel (R132). -/
theorem Device.Stands.tsig {sem : BitVec 8} {inc : Nat} (hi : c.instr.instr = .tsig sem inc) (hf : (st.lane lane).inflight = [])
    (ht : d.triggered k st lane sem (st.lane lane).mb = []) :
    d.tsig k n lane = (d.addSem k n sem.toNat inc).passBy k n lane := by
  refine (hs.atInstr (by rw [hi])).trans ?_
  simp only [hi, hf, ht]
  rfl

theorem Device.Stands.twait {sem : BitVec 8} {target stride : Nat} (hi : c.instr.instr = .twait sem target stride) :
    d.twait k n lane =
      if target + stride * (st.lane lane).mb ≤ p.semAt (n % 2) sem.toNat then d.passBy k n lane
      else d.setWait k n lane .semaphore := by
  refine (hs.atInstr (by rw [hi])).trans ?_
  simp only [hi, Program.waitMet, decide_eq_true_eq]

theorem Device.Stands.tfenceStream (hi : c.instr.instr = .tfenceStream) :
    d.tfenceStream k n lane =
      if (st.lane lane).inflight.isEmpty then d.passBy k n lane else d.setWait k n lane .stream :=
  hs.atInstr (by rw [hi]; rfl)

theorem Device.Stands.tfenceVersion {ha : Handle} {x : Desc} (hi : c.instr.instr = .tfenceVersion ha)
    (hx : descAt st.descs ha = some x) :
    d.tfenceVersion k n lane =
      if d.versionOk k p n x then d.passBy k n lane else d.setWait k n lane .version := by
  refine (hs.atInstr (by rw [hi])).trans ?_
  simp only [hi, hx, Option.all_some]

/-- Passing the fence changes no array, so the modes are those before it. -/
theorem Device.Stands.tfencePmode {m : BitVec 2} (hi : c.instr.instr = .tfencePmode m) :
    d.tfencePmode k n lane =
      if (d.laneArrays lane.val).all fun a => d.arrays[a].pmode == m then
        (d.passBy k n lane).updLane k n lane fun l => { l with pmode := m }
      else (d.passBy k n lane).askMode k n lane m := by
  refine (hs.atInstr (by rw [hi])).trans ?_
  simp only [hi]
  rfl

theorem Device.Stands.thint {tag : BitVec 8} {lead dur : Nat} (hi : c.instr.instr = .thint tag lead dur) :
    d.thint k n lane =
      ((d.laneArrays lane.val).foldl (fun d a =>
        d.updBel fun b => b.hint d.tb.now.toNat k.val lane.val a tag lead) d).passBy k n lane := by
  refine (hs.atInstr (by rw [hi])).trans ?_
  simp only [hi]

/-! ### The end of a body (R119) -/

section
variable (hi : c.instr.instr = .tend)
include hi

/-- An unretired instruction of the lane keeps its body from ending. -/
theorem Device.Stands.tend_inflight (hf : (st.lane lane).inflight ≠ []) : d.tend k n lane = d := by
  have hempty : (st.lane lane).inflight.isEmpty = false := by simpa using hf
  refine (hs.atInstr (by rw [hi]; rfl)).trans ?_
  simp only [hempty]
  rfl

variable (hf : (st.lane lane).inflight = [])
include hf

/-- The end of a recompute block (R159). -/
theorem Device.Stands.tend_block {seg i : Nat} (hr : (st.lane lane).recomp = some (seg, i)) :
    d.tend k n lane = d.endBlock k p n lane (st.lane lane) seg := by
  refine (hs.atInstr (by rw [hi]; rfl)).trans ?_
  simp only [hf, hr]
  rfl

variable (hr : (st.lane lane).recomp = none)
include hr

theorem Device.Stands.tend_uLane (hlane : lane = 16) :
    d.tend k n lane =
      (d.updLane k n lane fun l => { l with active := false, pc := 0 }).updStep k n fun st => { st with uDone := true } := by
  have hval : lane.val = 16 := congrArg Fin.val hlane
  refine (hs.atInstr (by rw [hi]; rfl)).trans ?_
  simp only [hf, hr, if_pos hval]
  rfl

theorem Device.Stands.tend_arrayLane (hlane : lane ≠ 16) :
    d.tend k n lane =
      let e := d.updLane k n lane fun l => { l with active := false, pc := 0 }
      let e := (d.laneArrays lane.val).foldl (fun d m => d.updArray m fun a => { a with seqActive := d.slotHeld m }) e
      let e := if laneIsB lane.val then e.updStep k n fun st' => st'.release (laneIndex lane.val) (st.lane lane).mb else e
      e.updStep k n fun st => st.checkSlots p.slots.length := by
  have hval : lane.val ≠ 16 := fun h => hlane (Fin.ext h)
  refine (hs.atInstr (by rw [hi]; rfl)).trans ?_
  simp only [hf, hr, if_neg hval]
  rfl

end

end

/-- Settles O8: each row is exec's function for it, and the function is one of the equations above. -/
theorem controlInstructionsComplete : Obligations.ControlInstructionsComplete := by
  intro s k n lane p st c hl hs
  refine ⟨fun sem inc hi hf ht => ?_, fun sem target stride hi => ?_, fun hi => ?_, fun ha x hi hx => ?_, fun m hi => ?_,
    fun tag lead x hi => ?_, fun hlane hi hf hr => ?_, fun hlane hi hf hr => ?_, fun seg i hi hf hr => ?_, fun hi hf => ?_⟩
  · exact .of_act (Device.tsig k n.toNat lane) hl rfl (hs.fresh.tsig hi hf ht)
  · exact .of_act (Device.twait k n.toNat lane) hl rfl (hs.fresh.twait hi)
  · exact .of_act (Device.tfenceStream k n.toNat lane) hl rfl (hs.fresh.tfenceStream hi)
  · exact .of_act (Device.tfenceVersion k n.toNat lane) hl rfl (hs.fresh.tfenceVersion hi hx)
  · exact .of_act (Device.tfencePmode k n.toNat lane) hl rfl (hs.fresh.tfencePmode hi)
  · exact .of_act (Device.thint k n.toNat lane) hl rfl (hs.fresh.thint hi)
  · exact .of_act (Device.tend k n.toNat lane) hl rfl (hs.fresh.tend_uLane hi hf hr hlane)
  · exact .of_act (Device.tend k n.toNat lane) hl rfl (hs.fresh.tend_arrayLane hi hf hr hlane)
  · exact .of_act (Device.tend k n.toNat lane) hl rfl (hs.fresh.tend_block hi hf hr)
  · exact .of_act (Device.tend k n.toNat lane) hl rfl (hs.fresh.tend_inflight hi hf)

end Sys2Proof.Machine
end

section
/-! Array registers, spare columns and rotation (R111-R116, R405, R406): what each row makes of a device. -/

namespace Sys2Proof.Machine

section
variable {d : Device} {n : Fin 8}

/-! ### Quiesce (R112, R113) -/

/-- A quiesce that begins notes its tick and is not yet one for a charged swap. -/
theorem ArrayState.setQuiesce_eq (now : Tick) (v : Bool) (a : ArrayState) :
    a.setQuiesce now v =
      { a with
        quiesce := v, quiesced := a.quiesced && (v || a.swap.isSome)
        quiesceSince := if v && !a.quiesce then now else a.quiesceSince
        charged := a.charged && !(v && !a.quiesce) } := by
  unfold ArrayState.setQuiesce
  cases v && !a.quiesce <;> simp

theorem Device.arrayQuiesced_empty (hq : d.arrays[n].quiesce = true) (he : d.arrayEmpty n = true) :
    d.arrayQuiesced n = (d.updArray n fun a => { a with quiesced := true }).startRotations := by
  simp only [Device.arrayQuiesced, hq, he]
  rfl

theorem Device.arrayQuiesced_idle (h : d.arrays[n].quiesce = false ∨ d.arrayEmpty n = false) : d.arrayQuiesced n = d := by
  have hnot : (d.arrays[n].quiesce && d.arrayEmpty n) = false := Bool.and_eq_false_iff.2 h
  simp only [Device.arrayQuiesced, hnot]
  rfl

/-! ### Writes of ARR_SPARE (R113, R114, R116) -/

/-- A column next to the spare's, on the array. -/
def ArrayState.nextTo (a : ArrayState) (col : Nat) : Prop :=
  (col = a.spareCol.toNat + 1 ∨ col + 1 = a.spareCol.toNat) ∧ col ≤ 100

/-- The column that a write of ARR_SPARE names. -/
theorem spareColumn_toNat (v : Word32) : (v.extractLsb' 0 7).toNat = v.toNat % 128 := by simp

/-- A write that names a column is ignored: it is not next to the spare's, the spare is locked, or a swap of the quiesced array runs. -/
def ArrayState.ignoresColumn (a : ArrayState) (col : Nat) : Prop :=
  ¬ a.nextTo col ∨ a.spareLocked = true ∨ (a.swap.isSome = true ∧ a.quiesced = true)

theorem ArrayState.ignoresColumn_iff (a : ArrayState) (col : Nat) :
    ((!decide ((col = a.spareCol.toNat + 1 ∨ col + 1 = a.spareCol.toNat) ∧ col ≤ 100)) = true ∨ a.spareLocked = true
      ∨ (a.swap.isSome = true ∧ a.quiesced = true)) ↔ a.ignoresColumn col := by
  rw [Bool.not_eq_true', decide_eq_false_iff_not]
  rfl

theorem ArrayState.not_ignoresColumn {a : ArrayState} {col : Nat} (hnext : a.nextTo col) (hlocked : a.spareLocked = false)
    (h : a.swap = none ∨ a.quiesced = false) : ¬ a.ignoresColumn col := by
  rintro (h' | h' | ⟨hswap, hquiesced⟩)
  · exact h' hnext
  · simp [hlocked] at h'
  · rcases h with h | h
    · simp [h] at hswap
    · simp [h] at hquiesced

theorem Device.spareWrite_ignored {v : Word32} (h : d.arrays[n].ignoresColumn (v.toNat % 128)) :
    d.spareWrite n v =
      d.logEvent 0x020B .warn n.val (evData [(4, v.toNat), (1, d.arrays[n].spareCol.toNat)]) (srcArray n.val) := by
  unfold Device.spareWrite
  rw [spareColumn_toNat, if_pos ((ArrayState.ignoresColumn_iff ..).2 h)]
  rfl

section
variable {v : Word32} (hnext : d.arrays[n].nextTo (v.toNat % 128)) (hlocked : d.arrays[n].spareLocked = false)
include hnext hlocked

theorem Device.spareWrite_quiesced (hq : d.arrays[n].quiesced = true) (hswap : d.arrays[n].swap = none) :
    d.spareWrite n v = d.hostSwap n (v.toNat % 128) := by
  have htaken := ArrayState.not_ignoresColumn hnext hlocked (.inl hswap)
  unfold Device.spareWrite
  rw [spareColumn_toNat, if_neg (mt (ArrayState.ignoresColumn_iff ..).1 htaken), if_pos hq]

/-- A write to an array that is not quiesced, with no instruction in flight there, re-steers its columns and faults it. -/
theorem Device.spareWrite_running (hq : d.arrays[n].quiesced = false)
    (hidle : ∀ x ∈ d.allLanes, (d.laneArrays x.2.2.1.val).contains n = false ∨ x.2.2.2.inflight = []) :
    d.spareWrite n v =
      (d.updArray n fun a =>
        { a with spareCol := BitVec.ofNat 7 (v.toNat % 128), dirDown := dirAt a.dirDown (v.toNat % 128), swap := none
                 faulted := true }).logEvent 0x020C .error n.val (evData [(4, v.toNat)]) (srcArray n.val) := by
  have htaken := ArrayState.not_ignoresColumn hnext hlocked (.inr hq)
  unfold Device.spareWrite
  rw [spareColumn_toNat, if_neg (mt (ArrayState.ignoresColumn_iff ..).1 htaken), if_neg (ne_true_of_eq_false hq),
    List.filterMap_eq_nil_iff.2 ?nothingHit]
  · rfl
  case nothingHit =>
    rintro ⟨k, m, lane, l⟩ hx
    have hlane : (d.laneArrays lane.val).contains n = false ∨ l.inflight = [] := hidle _ hx
    refine if_neg ?_
    rcases hlane with h | h <;> rw [h] <;> simp

end

/-! ### Swaps (R111, R115, R405) -/

/-- The swap that a write begins changes its array alone: the spare still stands where it stood. -/
theorem Device.hostSwap_arrays (d : Device) (n : Fin 8) (col : Nat) :
    (d.hostSwap n col).arrays = Bank.upd d.arrays n fun a =>
      { a with swap := some { target := col, goal := col, lock := false }, lastSwap := some d.tb.now
               charged := a.charged || d.swapCharged n } := by
  simp only [Device.hostSwap]
  split <;> rfl

theorem ArrayState.endSwap_last {a : ArrayState} {w : SwapState} (hw : a.swap = some w) (h : w.target = w.goal) :
    a.endSwap =
      { a with spareCol := BitVec.ofNat 7 w.target, dirDown := dirAt a.dirDown w.target, swap := none
               spareLocked := a.spareLocked || w.lock, quiesced := a.quiesced && a.quiesce } := by
  simp only [ArrayState.endSwap, hw, if_pos h]

theorem ArrayState.endSwap_more {a : ArrayState} {w : SwapState} (hw : a.swap = some w) (h : w.target ≠ w.goal) :
    a.endSwap =
      { a with spareCol := BitVec.ofNat 7 w.target, dirDown := dirAt a.dirDown w.target
               swap := some { w with target := towardCol w.target w.goal } } := by
  simp only [ArrayState.endSwap, hw, if_neg h]

/-- Changes of an array that agree on what the array holds. -/
theorem Device.updArray_congr {f g : ArrayState → ArrayState} (h : f d.arrays[n] = g d.arrays[n]) :
    d.updArray n f = d.updArray n g := by
  simp only [Device.updArray, Bank.upd, h]

/-! ### Rotation (R111, R405) -/

theorem Device.rotationDue_disabled (h : d.integ.rotEn = false) : d.rotationDue n = d := by
  simp only [Device.rotationDue, h]
  rfl

/-- Outside twin mode the array's own swap falls due, and no other. -/
theorem Device.rotationDue_single (hen : d.integ.rotEn = true) (htwin : d.integ.twin = false)
    (hlocked : d.arrays[n].spareLocked = false) (hfaulted : d.arrays[n].faulted = false) :
    d.rotationDue n = { d with integ := { d.integ with rotDue := d.integ.rotDue ||| (1#8 <<< n.val) } }.startRotations := by
  have hdue : (d.dueArrays n).filter (fun k => !d.arrays[k].spareLocked && !d.arrays[k].faulted) = [n] := by
    rw [Device.dueArrays, htwin, if_neg Bool.false_ne_true, List.filter_cons, hlocked, hfaulted]
    rfl
  simp only [Device.rotationDue, hen, hdue]
  rfl

/-- A rotation swap begins toward the column of the array's direction. -/
theorem ArrayState.rotate_swap {a : ArrayState} (now : Tick) (hswap : a.swap = none) (hlocked : a.spareLocked = false)
    (hfaulted : a.faulted = false) :
    (a.rotate now).swap = some { target := a.rotationTarget, goal := a.rotationTarget, lock := false } := by
  simp [ArrayState.rotate, hlocked, hfaulted, hswap]

/-- The rotation swap of an empty array begins. -/
theorem Device.startRotation_swap (hempty : d.arrayEmpty n = true) (hswap : d.arrays[n].swap = none)
    (hlocked : d.arrays[n].spareLocked = false) (hfaulted : d.arrays[n].faulted = false) :
    (d.startRotation [n]).arrays[n].swap =
      some { target := d.arrays[n].rotationTarget, goal := d.arrays[n].rotationTarget, lock := false } := by
  have hall : ([n].all fun n => d.arrayEmpty n && d.arrays[n].swap.isNone) = true := by
    rw [List.all_cons, List.all_nil, hempty, hswap]
    rfl
  simp only [Device.startRotation, hall, if_true, List.foldl_cons, List.foldl_nil, Device.updArray_arrays, Bank.upd_same]
  exact ArrayState.rotate_swap _ hswap hlocked hfaulted

/-! ### Column tests (R405, R406) -/

theorem Device.columnTest_idle (pass : Bool) (h : d.integ.pack = none ∨ d.arrays[n].swap.isSome = true) :
    d.columnTest n pass = d := by
  have hidle : (d.integ.pack.isNone || d.arrays[n].swap.isSome) = true := by simpa using h
  rw [Device.columnTest, if_pos hidle]

section
variable (hpack : d.integ.pack.isSome = true) (hswap : d.arrays[n].swap = none)
include hpack hswap

/-- With a pack held and no swap under way, the detached column has run its content. -/
theorem Device.columnTest_held : (d.integ.pack.isNone || d.arrays[n].swap.isSome) = false := by
  rw [← Option.not_isSome, hpack, hswap]
  rfl

theorem Device.columnTest_pass :
    d.columnTest n true = { d with integ := { d.integ with passes := bump d.integ.passes } } := by
  rw [Device.columnTest, if_neg (ne_true_of_eq_false (Device.columnTest_held hpack hswap))]
  rfl

theorem Device.columnTest_defect :
    d.columnTest n false =
      ({ d with integ := { d.integ with fails := bump d.integ.fails, rotDue := d.integ.rotDue &&& ~~~(1#8 <<< n.val) } }.updArray n
        fun a => { a with spareLocked := true }).logEvent 0x0806 .warn n.val d.arrays[n].spareCol.toNat srcIntegrity := by
  rw [Device.columnTest, if_neg (ne_true_of_eq_false (Device.columnTest_held hpack hswap))]
  rfl

end

end

/-- `Runs` from the function that a register write acts by, for a requester that may make it. -/
theorem Runs.of_write {row : Instr} {s : State} {req : Requester} {own : Option (Fin 2)} {f : Device → Device} (off : Nat)
    (g : Device → Device) (hl : s.dev.live = true) (hw : s.dev.mayWrite req own = true)
    (he : exec row s = s.act fun d => d.writeBy req off own g) (hg : g s.dev.fresh = f s.dev.fresh) : Runs row s f :=
  .of_act _ hl he ((Device.writeBy_of_mayWrite off g hw).trans hg)

/-- Settles O24: each row is exec's function for it, and the function is one of the equations above. -/
theorem arrayRowsComplete : Obligations.ArrayRowsComplete := by
  intro s n hl
  refine ⟨fun req hw => ⟨fun v => ?_, ?_, fun v hlocked hswap hq hcol hnext => ?_, fun v h => ?_,
      fun v hlocked hq hcol hnext hidle => ?_⟩,
    fun d col => ⟨?_, ?_, fun j hj => ?_⟩, fun hq he => ?_, fun h => ?_, fun w hw h => ?_, fun w hw h => ?_, fun h => ?_,
    fun hen htwin hlocked hfaulted => ?_, fun d hempty hswap hlocked hfaulted => ?_, fun pass h => ?_, fun hpack hswap => ⟨?_, ?_⟩⟩
  · exact .of_write _ (fun d => d.updArray n (ArrayState.setQuiesce d.tb.now v)) hl hw rfl
      (Device.updArray_congr (ArrayState.setQuiesce_eq ..))
  · exact .of_write _ (Device.updArray · n ArrayState.clearCounts) hl hw rfl rfl
  · exact .of_write _ (Device.spareWrite n v) hl hw rfl
      (Device.spareWrite_quiesced (d := s.dev.fresh) ⟨hnext, hcol⟩ hlocked hq hswap)
  · have hignored : s.dev.arrays[n].ignoresColumn (v.toNat % 128) := by
      rcases h with ⟨hup, hdown⟩ | hover | h
      · exact .inl fun ⟨hbeside, _⟩ => hbeside.elim hup hdown
      · exact .inl fun ⟨_, hle⟩ => Nat.not_lt.2 hle hover
      · exact .inr h
    exact .of_write _ (Device.spareWrite n v) hl hw rfl (Device.spareWrite_ignored (d := s.dev.fresh) hignored)
  · exact .of_write _ (Device.spareWrite n v) hl hw rfl
      (Device.spareWrite_running (d := s.dev.fresh) ⟨hnext, hcol⟩ hlocked hq hidle)
  · rw [d.hostSwap_arrays, Bank.upd_same]
  · rw [d.hostSwap_arrays, Bank.upd_same]
  · rw [d.hostSwap_arrays, Bank.upd_other _ _ _ _ hj]
  · exact .of_act (Device.arrayQuiesced n) hl rfl (Device.arrayQuiesced_empty (d := s.dev.fresh) hq he)
  · exact .of_act (Device.arrayQuiesced n) hl rfl (Device.arrayQuiesced_idle (d := s.dev.fresh) h)
  · exact .of_act (fun d => (d.updArray n ArrayState.endSwap).startRotations) hl rfl
      (congrArg Device.startRotations (Device.updArray_congr (d := s.dev.fresh) (ArrayState.endSwap_last hw h)))
  · exact .of_act (fun d => (d.updArray n ArrayState.endSwap).startRotations) hl rfl
      (congrArg Device.startRotations (Device.updArray_congr (d := s.dev.fresh) (ArrayState.endSwap_more hw h)))
  · exact .of_act (Device.rotationDue n) hl rfl (Device.rotationDue_disabled (d := s.dev.fresh) h)
  · exact .of_act (Device.rotationDue n) hl rfl (Device.rotationDue_single (d := s.dev.fresh) hen htwin hlocked hfaulted)
  · exact Device.startRotation_swap hempty hswap hlocked hfaulted
  · exact .of_act (Device.columnTest n pass) hl rfl (Device.columnTest_idle (d := s.dev.fresh) pass h)
  · exact .of_act (Device.columnTest n true) hl rfl (Device.columnTest_pass (d := s.dev.fresh) hpack hswap)
  · exact .of_act (Device.columnTest n false) hl rfl (Device.columnTest_defect (d := s.dev.fresh) hpack hswap)

end Sys2Proof.Machine
end

section
/-! Waits that end and instructions that retire (R130, R134, R144, R178): what each row makes of a lane. -/

namespace Sys2Proof.Machine

section
variable {d : Device} {k : Fin 16} {n : Nat} {lane : Fin 17} {w : LaneWait} {p : Program} {st : StepState} {c : Current}

/-- The messages of the previous command are nothing to a lane that waits. -/
theorem Device.Waits.fresh (h : d.Waits k n lane w p st c) : d.fresh.Waits k n lane w p st c :=
  ⟨h.prog, h.step, h.current, h.running, h.active, h.waits⟩

/-- A release acts on the lane that waits for its reason. -/
theorem Device.Waits.waiting (h : d.Waits k n lane w p st c) (f : Program → StepState → LaneState → Current → Device → Device) :
    d.waiting k n lane w f = f p st (st.lane lane) c d := by
  obtain ⟨hprog, hstep, hcurrent, hrunning, hactive, hwaits⟩ := h
  simp only [Device.waiting, hprog, hstep, hcurrent, hrunning, hactive, hwaits, beq_self_eq_true, Bool.and_self, if_true]

/-- A TWAIT goes on at its target, and not before (R134). -/
theorem Device.Waits.twaitRelease (h : d.Waits k n lane .semaphore p st c) :
    d.twaitRelease k n lane = if p.waitMet n (st.lane lane).mb c.instr.instr then d.passBy k n lane else d :=
  h.waiting _

section
variable (h : d.Waits k n lane .version p st c) (errs : List WordError)
include h

/-- A TFENCE VERSION is passed once the version stands. -/
theorem Device.Waits.versionRelease_fence {ha : Handle} {x : Desc} (hi : c.instr.instr = .tfenceVersion ha)
    (hx : descAt st.descs ha = some x) (hv : d.versionOk k p n x = true) : d.versionRelease k n lane errs = d.passBy k n lane := by
  refine (h.waiting _).trans ?_
  simp only [hi, hx, Option.all_some, hv, if_true]

/-- Any other instruction issues once the versions it reads stand (R178). -/
theorem Device.Waits.versionRelease_issue (hi : ∀ ha, c.instr.instr ≠ .tfenceVersion ha) (hv : d.versionsOk k p st c = true) :
    d.versionRelease k n lane errs = (d.setWait k n lane .none).issueStanding k n lane c errs := by
  refine (h.waiting _).trans ?_
  split
  · exact absurd ‹_› (hi _)
  · rw [if_pos hv]

end

/-- The instruction issues once the Tundish has finished reading its region, and not before (R144). -/
theorem Device.Waits.crucibleRelease (h : d.Waits k n lane .crucible p st c) (errs : List WordError) :
    d.crucibleRelease k n lane errs =
      if p.regionHeld n c.instr.instr then d else (d.setWait k n lane .none).issueStanding k n lane c errs :=
  h.waiting _

end

/-! ### Retirement (R130) -/

section
variable {d : Device} {k : Fin 16} {n : Nat} {lane : Fin 17} {i : Nat} {p : Program} {st : StepState} {f : InFlight}
  (hp : d.progs[k] = some p) (hst : p.stepAt n = some st) (hf : (st.lane lane).inflight[i]? = some f)
include hp hst hf

theorem Device.retireInstr_notYet (h : d.canRetire k n lane f = false) : d.retireInstr k n lane i = d := by
  simp only [Device.retireInstr, Device.stepOf, hp, Option.bind_some, hst, hf, h]
  rfl

variable (h : d.canRetire k n lane f = true)
include h

/-- The writes of an instruction that may retire become visible, and its record leaves the lane. -/
theorem Device.retireInstr_noWalk (hw : d.walkOf k.val n lane.val f = none) :
    d.retireInstr k n lane i =
      (((d.commitFlight k n lane f).updLane k n lane fun l => { l with inflight := l.inflight.eraseIdx i }).wakeStream k n
        lane).startRotations := by
  simp only [Device.retireInstr, Device.stepOf, hp, Option.bind_some, hst, hf, h, hw]
  rfl

/-- The walk of an instruction ends with it. -/
theorem Device.retireInstr_walk {w : Walk} (hw : d.walkOf k.val n lane.val f = some w) :
    d.retireInstr k n lane i =
      ((((d.commitFlight k n lane f).updLane k n lane fun l => { l with inflight := l.inflight.eraseIdx i }).endWalk k st w).wakeStream k
        n lane).startRotations := by
  simp only [Device.retireInstr, Device.stepOf, hp, Option.bind_some, hst, hf, h, hw]
  rfl

end

/-- Settles O9: each row is exec's function for it, and the function is one of the equations above. -/
theorem waitsAndRetirementsComplete : Obligations.WaitsAndRetirementsComplete := by
  refine ⟨fun s k n lane errs p st c hl => ⟨fun hw hmet => ?_, fun hw hmet => ?_, fun hw ha x hi hx hv => ?_, fun hw hi hv => ?_,
      fun hw hheld => ?_, fun hw hheld => ?_⟩,
    fun s k n lane i p st f hl hp hst hf => ⟨fun h hwalk => ?_, fun w h hwalk => ?_, fun h => ?_⟩⟩
  · exact .of_act (Device.twaitRelease k n.toNat lane) hl rfl (hw.fresh.twaitRelease.trans (if_pos hmet))
  · exact .of_act (Device.twaitRelease k n.toNat lane) hl rfl (hw.fresh.twaitRelease.trans (if_neg (ne_true_of_eq_false hmet)))
  · exact .of_act (Device.versionRelease k n.toNat lane errs) hl rfl (hw.fresh.versionRelease_fence errs hi hx hv)
  · exact .of_act (Device.versionRelease k n.toNat lane errs) hl rfl (hw.fresh.versionRelease_issue errs hi hv)
  · exact .of_act (Device.crucibleRelease k n.toNat lane errs) hl rfl
      ((hw.fresh.crucibleRelease errs).trans (if_neg (ne_true_of_eq_false hheld)))
  · exact .of_act (Device.crucibleRelease k n.toNat lane errs) hl rfl ((hw.fresh.crucibleRelease errs).trans (if_pos hheld))
  · exact .of_act (Device.retireInstr k n.toNat lane i) hl rfl (Device.retireInstr_noWalk (d := s.dev.fresh) hp hst hf h hwalk)
  · exact .of_act (Device.retireInstr k n.toNat lane i) hl rfl (Device.retireInstr_walk (d := s.dev.fresh) hp hst hf h hwalk)
  · exact .of_act (Device.retireInstr k n.toNat lane i) hl rfl (Device.retireInstr_notYet (d := s.dev.fresh) hp hst hf h)

end Sys2Proof.Machine
end

section
/-! Commands that name a program (R148), and its settings and semaphores (R132, R133, R140, R147). -/

namespace Sys2Proof.Machine

/-! ### Host commands and the program they name -/

/-- `Runs` from what the body of a host command makes of the device on which its packet has passed the checks. -/
theorem Runs.of_command {row : Instr} {op : Word16} {h : CmdHdr} {s : State} {f : Device → Device} (body : OpenCmd → Device → Device)
    (hl : s.dev.live = true) (hpass : s.dev.passes op h) (he : exec row s = s.act fun d => d.command op h body)
    (hb : body ⟨h, op⟩ (s.dev.fresh.openCommand op h) = f s.dev.fresh) : Runs row s f :=
  .of_act _ hl he ((Device.command_of_passes body hpass).trans hb)

theorem asFin_eq_some {n m : Nat} {k : Fin n} (h : m = k.val) : asFin n m = some k := by
  subst h
  exact dif_pos k.isLt

section
variable {d : Device} {c : OpenCmd} {prog : BitVec 8} {k : Fin 16} {p : Program} (hk : prog.toNat = k.val)
  (hp : d.progs[k] = some p)
include hk hp

theorem Device.withProgram_loaded (f : Fin 16 → Program → Device → Device) :
    d.withProgram c prog f = if p.account = c.hdr.account then f k p d else d.finish c .notOwner := by
  simp only [Device.withProgram, asFin_eq_some hk, hp]

theorem Device.withProgramIf_good {good : Program → Bool} (f : Fin 16 → Program → Device → Device) (hg : good p = true) :
    d.withProgramIf c prog good f = d.withProgram c prog f := by
  simp only [Device.withProgramIf, asFin_eq_some hk, hp, hg, if_true]

end

/-! ### Semaphores (R132, R133) -/

/-- The program with one semaphore at a value. -/
def Program.setSem (p : Program) (bank sem v : Nat) : Program :=
  { p with sems := (bank, sem, v) :: p.sems.filter fun x => !(x.1 == bank && x.2.1 == sem) }

theorem Program.setSem_semAt_same (p : Program) (bank sem v : Nat) : (p.setSem bank sem v).semAt bank sem = v := by
  simp [Program.semAt, Program.setSem]

theorem Program.setSem_semAt_other (p : Program) {bank sem b x : Nat} (v : Nat) (h : (b, x) ≠ (bank, sem)) :
    (p.setSem bank sem v).semAt b x = p.semAt b x := by
  have hhead : ¬ (bank = b ∧ sem = x) := fun ⟨hb, hx⟩ => h (by rw [hb, hx])
  have hkeep : (fun y : Nat × Nat × Nat => decide ((!(y.1 == bank && y.2.1 == sem)) = true ∧ (y.1 == b && y.2.1 == x) = true))
      = fun y => y.1 == b && y.2.1 == x := by
    funext y
    rw [Bool.eq_iff_iff, decide_eq_true_eq, and_iff_right_iff_imp]
    simp only [Bool.and_eq_true, beq_iff_eq, Bool.not_eq_true', Bool.eq_false_iff, ne_eq]
    rintro ⟨rfl, rfl⟩ ⟨hb, hx⟩
    exact hhead ⟨hb.symm, hx.symm⟩
  have hfind : (p.setSem bank sem v).sems.find? (fun y => y.1 == b && y.2.1 == x) = p.sems.find? fun y => y.1 == b && y.2.1 == x := by
    rw [Program.setSem, List.find?_cons_of_neg (by simpa using hhead), List.find?_filter, hkeep]
  rw [Program.semAt, hfind, Program.semAt]

/-- The program with a semaphore among those that have saturated in its step. -/
def Program.noteSaturated (p : Program) (bank sem : Nat) : Program := { p with semSaturated := (bank, sem) :: p.semSaturated }

@[simp] theorem Device.logEvent_progs (d : Device) (code : Nat) (sev : Severity) (source data key : Nat) :
    (d.logEvent code sev source data key).progs = d.progs := by
  rw [Device.logEvent_frame]

section
variable {d : Device} {k : Fin 16} {p : Program} (n sem inc : Nat)

/-- An addition gives its semaphore a new value, and may note that the semaphore has saturated. -/
theorem Device.addSem_progs (hp : d.progs[k] = some p) :
    let e := d.updProg k fun p' => p'.setSem (n % 2) sem (min (p.semAt (n % 2) sem + inc) semMax)
    (d.addSem k n sem inc).progs = e.progs
      ∨ (d.addSem k n sem inc).progs = (e.updProg k fun p => p.noteSaturated (n % 2) sem).progs := by
  simp only [Device.addSem, hp]
  split
  · exact .inr (Device.logEvent_progs ..)
  · exact .inl rfl

theorem Device.addSem_program (hp : d.progs[k] = some p) :
    ∃ q, (d.addSem k n sem inc).progs[k] = some q
      ∧ (q = p.setSem (n % 2) sem (min (p.semAt (n % 2) sem + inc) semMax)
        ∨ q = (p.setSem (n % 2) sem (min (p.semAt (n % 2) sem + inc) semMax)).noteSaturated (n % 2) sem) := by
  rcases d.addSem_progs n sem inc hp with h | h
  · exact ⟨_, by rw [h]; exact Device.updProg_get _ _ hp, .inl rfl⟩
  · exact ⟨_, by rw [h]; exact Device.updProg_get _ _ (Device.updProg_get _ _ hp), .inr rfl⟩

theorem Device.addSem_otherProgram (hp : d.progs[k] = some p) {j : Fin 16} (hj : j ≠ k) :
    (d.addSem k n sem inc).progs[j] = d.progs[j] := by
  rcases d.addSem_progs n sem inc hp with h | h
  · rw [h]
    exact Device.updProg_other _ _ hj
  · rw [h]
    exact (Device.updProg_other _ _ hj).trans (Device.updProg_other _ _ hj)

/-- An addition to a semaphore changes no other of the program, nor its steps and state (R133). -/
theorem Device.addSem_effect (hp : d.progs[k] = some p) :
    ∃ q, (d.addSem k n sem inc).progs[k] = some q ∧ q.semAt (n % 2) sem = min (p.semAt (n % 2) sem + inc) semMax
      ∧ (∀ b x, (b, x) ≠ (n % 2, sem) → q.semAt b x = p.semAt b x) ∧ q.steps = p.steps ∧ q.state = p.state := by
  obtain ⟨q, hq, rfl | rfl⟩ := d.addSem_program n sem inc hp
  · exact ⟨_, hq, p.setSem_semAt_same .., fun b x h => p.setSem_semAt_other _ h, rfl, rfl⟩
  · exact ⟨_, hq, p.setSem_semAt_same .., fun b x h => p.setSem_semAt_other _ h, rfl, rfl⟩

end

/-- A SEM_SIGNAL that adds to a declared semaphore of a step in flight (R147). -/
theorem Device.semSignal_declared {d : Device} {h : CmdHdr} {prog sem : BitVec 8} {inc : Word16} {n : Word32} {k : Fin 16} {p : Program}
    (hpass : d.passes 0x0208 h) (hk : prog.toNat = k.val) (hp : d.progs[k] = some p) (ha : p.account = h.account) (hinc : inc ≠ 0)
    (hst : (p.stepAt n.toNat).isSome = true) (hsem : (p.hostSem.any fun x => x.1 == sem.toNat) = true) :
    d.fresh.semSignal h prog sem inc n =
      ((d.fresh.openCommand 0x0208 h).addSem k n.toNat sem.toNat inc.toNat).ok ⟨h, 0x0208⟩ := by
  have hgood : ¬ (decide (inc = 0) || (p.stepAt n.toNat).isNone || !p.hostSem.any fun x => x.1 == sem.toNat) = true := by
    simpa [← Option.not_isSome, hst, hsem] using hinc
  have hprog : (d.fresh.openCommand 0x0208 h).progs[k] = some p := hp
  rw [Device.semSignal, Device.command_of_passes _ hpass]
  simp only [asFin_eq_some hk, hprog, if_neg hgood, ha]
  exact if_neg (not_not_intro rfl)

/-- Settles O12: each row's body acts on the program it names, which is the account's; what an addition to a semaphore leaves is
`Device.addSem_effect`. -/
theorem programSettingsComplete : Obligations.ProgramSettingsComplete := by
  refine ⟨fun s h prog k p hl hk hp ha => ⟨fun handle object off hpass hbind hread => ?_, fun sem bank hpass hb => ?_,
    fun sem bank hpass hb => ?_, fun sem inc n hpass hinc hst hsem => ?_⟩, fun d k p n sem inc hp => ?_⟩
  · refine .of_command _ hl hpass rfl ?_
    refine (Device.withProgramIf_good (d := s.dev.fresh.openCommand 0x0206 h) hk hp _ hbind).trans ?_
    refine (Device.withProgram_loaded (d := s.dev.fresh.openCommand 0x0206 h) hk hp _).trans ((if_pos ha).trans ?_)
    have hmay : (s.dev.fresh.openCommand 0x0206 h).mayRead object h.account = true := hread
    exact if_neg (by rw [hmay]; decide)
  · refine .of_command _ hl hpass rfl ((if_neg (Nat.not_lt.2 hb)).trans ?_)
    exact (Device.withProgram_loaded (d := s.dev.fresh.openCommand 0x0207 h) hk hp _).trans (if_pos ha)
  · exact .of_command _ hl hpass rfl (if_pos hb)
  · exact .of_act (Device.semSignal h prog sem inc n) hl rfl (Device.semSignal_declared hpass hk hp ha hinc hst hsem)
  · obtain ⟨q, hq, hsem, hother, hsteps, hstate⟩ := d.addSem_effect n sem inc hp
    exact ⟨q, hq, hsem, hother, hsteps, hstate, fun j hj => d.addSem_otherProgram n sem inc hp hj⟩

end Sys2Proof.Machine
end

section
/-! PROG_REWIND and the reports that a manager holds (R145, R201, R206): the rewind of the job's program discards them. -/

namespace Sys2Proof.Machine

/-! ### Replies and stores leave the Tundish alone -/

section
variable (d : Device)

@[simp] theorem Device.openCommand_tun (op : Word16) (h : CmdHdr) : (d.openCommand op h).tun = d.tun := rfl

@[simp] theorem Device.msix_tun (p : Fin 2) (v : BitVec 8) : (d.msix p v).tun = d.tun := by fun_cases Device.msix <;> simp

@[simp] theorem Device.coalesce_tun (p : Fin 2) : (d.coalesce p).tun = d.tun := by fun_cases Device.coalesce <;> simp

@[simp] theorem Device.writeReply_tun (p : Fin 2) (noIrq : Bool) (r : Reply) : (d.writeReply p noIrq r).tun = d.tun := by
  unfold Device.writeReply
  split <;> simp

@[simp] theorem Device.reply_tun (c : OpenCmd) (r : Reply) : (d.reply c r).tun = d.tun := by
  simp only [Device.reply]
  split <;> simp

@[simp] theorem Device.ok_tun (c : OpenCmd) (result : Nat) : (d.ok c result).tun = d.tun := d.reply_tun ..

@[simp] theorem Device.zeroOverflow_tun (p : Program) (rs : List Region) : (d.zeroOverflow p rs).tun = d.tun := by
  fun_cases Device.zeroOverflow
  · rfl
  · exact foldl_keeps Device.tun _ (fun e _ => e.updMem_tun _) _ d

@[simp] theorem Device.settle_tun (old : Device) : (old.settle d).tun = d.tun := by
  obtain ⟨src, alert, hsettle, -⟩ := old.settle_frame d
  rw [hsettle]

/-! ### The job's program -/

/-- The program of a device's job is told by its programs. -/
theorem Device.jobProgram_congr {e : Device} (h : e.progs = d.progs) : e.jobProgram = d.jobProgram := by
  rw [Device.jobProgram, Device.programs, h]
  rfl

theorem Device.dropMerges_reports {k : Fin 16} (h : d.jobProgram.map Prod.fst = some k) : (d.dropMerges k).tun.reports = [] := by
  rw [Device.dropMerges, if_pos (by rw [h, beq_self_eq_true])]

end

/-- The rewind of a program that is not running. -/
theorem Device.progRewind_notRunning {d : Device} {h : CmdHdr} {prog : BitVec 8} {k : Fin 16} {p : Program} (n : Word32)
    (hpass : d.passes 0x0205 h) (hk : prog.toNat = k.val) (hp : d.progs[k] = some p) (ha : p.account = h.account)
    (hstate : p.state ≠ .running) :
    d.fresh.progRewind h prog n =
      ((((d.fresh.openCommand 0x0205 h).zeroOverflow p p.regions).dropMerges k).updProg k fun p => p.rewind n.toNat).ok ⟨h, 0x0205⟩ := by
  rw [Device.progRewind, Device.command_of_passes _ hpass]
  exact (Device.withProgram_loaded (d := d.fresh.openCommand 0x0205 h) hk hp _).trans ((if_pos ha).trans (if_neg hstate))

/-- The rewind of the job's program leaves none of the scale reports held. -/
theorem Device.progRewind_reports {d : Device} {h : CmdHdr} {prog : BitVec 8} {k : Fin 16} {p : Program} (n : Word32)
    (hpass : d.passes 0x0205 h) (hk : prog.toNat = k.val) (hp : d.progs[k] = some p) (ha : p.account = h.account)
    (hstate : p.state ≠ .running) (hjob : d.jobProgram.map Prod.fst = some k) : (d.fresh.progRewind h prog n).tun.reports = [] := by
  have hsame : ((d.fresh.openCommand 0x0205 h).zeroOverflow p p.regions).jobProgram = d.jobProgram :=
    d.jobProgram_congr (Device.zeroOverflow_progs ..)
  rw [Device.progRewind_notRunning n hpass hk hp ha hstate, Device.ok_tun, Device.updProg_tun]
  exact Device.dropMerges_reports _ (by rw [hsame, hjob])

/-! ### A rewind while a report is held -/

/-- A packet of Port 0 and account 0, BEST_EFFORT. -/
def plainHeader : CmdHdr := { port := 0, tag := 1, account := 0, cls := 0, powerClass := 0, deadline := 0, noIrq := false }

/-- A LOADED program of account 0 whose U lane releases one tensor, so that it is the program of the device's job. -/
def releasingProgram : Program :=
  { account := 0, seed := 0, firstStep := 0, nextStep := 1, fLanes := 1, bLanes := 1, uLanes := 1, policy := .fail, mbCount := 1
    stageCount := 1, stageIndex := 0, sigmaPeriod := 1, windowBase := -40, fill := #v[0, 0, 0], pyroObject := 0, descs := []
    lanes := Vector.ofFn fun n =>
      if n.val = 16 then { present := true, words := 4, body := [{ word := 0, instr := .tred 7 0 8 8 0 0 }] } else {}
    recomp := [], stash := {}, cycle := none, hostSem := [], image := 9 }

/-- A device that runs its firmware after a power-on, with a program in slot 0. -/
def Device.runningWith (p : Program) : Device :=
  { State.reset.dev with
    sec := { State.reset.dev.sec with state := .running, ready := true, imageSvn := 1 }
    progs := Bank.upd State.reset.dev.progs 0 fun _ => some p }

theorem Device.runningWith_progs (p : Program) : (Device.runningWith p).progs[(0 : Fin 16)] = some p := Bank.upd_same ..

/-- The device of `releasingProgram`, which holds the scale report of rank 1 for step 0 as its manager (R201). -/
def Device.holdingReport : Device :=
  { Device.runningWith releasingProgram with
    tun := { (Device.runningWith releasingProgram).tun with
      reports := [{ step := 0, rank := 1, domain := false, entries := [], hists := [] }] } }

theorem Device.holdingReport_passes : Device.holdingReport.passes 0x0205 plainHeader := by
  have hports : Device.holdingReport.ports[plainHeader.port] = { acctEn := resetAcct 0 } := reset_ports 0
  refine ⟨⟨rfl, fun r hr => ?_, by decide +kernel⟩, rfl, rfl, .inr ⟨rfl, (reset_accountEnabled 0).1⟩⟩
  rw [hports] at hr
  cases hr

theorem Device.holdingReport_jobProgram : Device.holdingReport.jobProgram.map Prod.fst = some 0 := by decide +kernel

/-- Refutes O11: PROG_REWIND of the job's program discards the scale reports that the device holds as a manager (R201, R206), where
the statement has it change overflow entries and the program alone. -/
theorem not_programLifeCompletes : ¬ Obligations.ProgramLifeCompletes := by
  unfold Obligations.ProgramLifeCompletes
  intro hall
  have hprog : Device.holdingReport.progs[(0 : Fin 16)] = some releasingProgram := Device.runningWith_progs releasingProgram
  obtain ⟨-, howned, -, -⟩ := hall { dev := Device.holdingReport, pending := [] } plainHeader 0 0 releasingProgram rfl rfl
  obtain ⟨-, -, -, hrewind⟩ := howned hprog rfl
  have hstated := hrewind 1 Device.holdingReport_passes (by decide)
  have hmodel : Runs (.progRewind plainHeader 0 1) { dev := Device.holdingReport, pending := [] } fun d => d.progRewind plainHeader 0 1 :=
    .of_act _ rfl rfl rfl
  have hreports : (Device.holdingReport.fresh.progRewind plainHeader 0 1).tun.reports = [] :=
    Device.progRewind_reports 1 Device.holdingReport_passes rfl hprog rfl (by decide) Device.holdingReport_jobProgram
  have hsame := congrArg (fun s : State => s.dev.tun.reports) (Host.Outcome.next.inj (hmodel.symm.trans hstated))
  simp only [State.after, Device.settle_tun] at hsame
  rw [hreports] at hsame
  simp [Device.holdingReport] at hsame

end Sys2Proof.Machine
end

section
/-! STEP_LAUNCH of a step that a hop has shown to have another plan (R185): the launch ends the step at once. -/

namespace Sys2Proof.Machine

/-- `releasingProgram` once a hop that does not fit its plan has come for step 1, which is not yet launched. -/
def mismatchedProgram : Program := { releasingProgram with mismatched := [1] }

/-- A launch of the step halts the program. -/
theorem Device.launchStep_mismatched :
    (((Device.runningWith mismatchedProgram).launchStep 0 1 none false false).progs[(0 : Fin 16)]).map Program.state = some .halted := by
  decide +kernel

/-- Refutes O13: a launch of a step for which a hop with another plan has come ends the step with ST_FAULTED, and leaves the program
HALTED, not RUNNING (R145, R185). -/
theorem not_stepLaunchCompletes : ¬ Obligations.StepLaunchCompletes := by
  unfold Obligations.StepLaunchCompletes
  rintro ⟨-, hlaunch⟩
  obtain ⟨q, st, hq, hrunning, -⟩ := hlaunch (Device.runningWith mismatchedProgram) 0 mismatchedProgram 1 none false false
    (Device.runningWith_progs _) (by decide +kernel) (by decide +kernel)
  have hhalted := Device.launchStep_mismatched
  rw [hq, Option.map_some, hrunning] at hhalted
  cases hhalted

end Sys2Proof.Machine
end

section
/-! TSTASH, TUNSTASH and TATTN (R157-R161, R248, R253, R316): what each row makes of a lane that stands at its instruction with nothing
in its way. -/

namespace Sys2Proof.Machine

section
variable {d : Device} {k : Fin 16} {n : Nat} {lane : Fin 17} {p : Program} {st : StepState} {c : Current}
  (hs : d.Stands k n lane p st c) (hc : d.clearFor k lane p st c) (errs : List WordError)
include hs hc

theorem Device.Stands.tstash {seg : BitVec 16} {x y : Nat} {ha hd : Handle} (hi : c.instr.instr = .tstash seg x y ha hd) :
    d.tstash k n lane errs = d.consume errs fun d => d.issueStash k p st lane c seg.toNat ha hd := by
  refine (hs.atInstr (by rw [hi])).trans ?_
  simp only [hi]
  exact hc.whenFree errs _

theorem Device.Stands.tunstash {seg : BitVec 16} {x y : Nat} {ha hd : Handle} (hi : c.instr.instr = .tunstash seg x y ha hd) :
    d.tunstash k n lane errs = d.consume errs fun d => d.issueUnstash k p st lane c seg.toNat ha hd := by
  refine (hs.atInstr (by rw [hi])).trans ?_
  simp only [hi]
  exact hc.whenFree errs _

/-- A TATTN issues its rows unless Aster is quiesced, which does not hold a re-prefill step, or a walk of it is waiting. -/
theorem Device.Stands.tattn {a : Attn} (ha : c.instr.instr.attn = some a) (hq : d.aster.quiesce = false ∨ st.reprefill = true)
    (hw : d.walkWaits k.val n lane.val c.instr.word (st.lane lane).mb = false) :
    d.tattn k n lane errs = d.consume errs fun d => d.issueRows k p st lane c a none := by
  have hopen : (d.aster.quiesce && !st.reprefill) = false := by rcases hq with h | h <;> simp [h]
  refine (hs.atInstr (by rw [ha]; rfl)).trans ((if_neg (ne_true_of_eq_false hw)).trans ?_)
  simp only [Device.issueAttn, ha, Option.isNone_none, Bool.and_true, hopen]
  exact hc.whenFree errs _

end

/-! ### The rows of an attention, as its list says (R248, R253) -/

section
variable {d : Device} {k : Fin 16} {lane : Fin 17} {p : Program} {st : StepState} {c : Current} {a : Attn} {x : Desc} {l : SeqList}
  (hl : d.attnList st.descs a = some (x, l))
include hl

/-- A training attention has no space to look up, whatever its list names. -/
theorem Device.issueRows_train (held : Option Walk) (ha : a.paged = false) :
    d.issueRows k p st lane c a held = d.issueTrain k p st lane c a x l := by
  simp only [Device.issueRows, hl, ha]
  rfl

variable (ha : a.paged = true)
include ha

theorem Device.issueRows_noSpace (held : Option Walk) (hsp : d.spaceAt l.space = none) :
    d.issueRows k p st lane c a held = d.issueNoSpace k p st lane c a x l := by
  simp only [Device.issueRows, hl, ha, hsp]
  rfl

/-- A walk that begins takes its place among the arrivals at Aster, with nothing refilled. -/
theorem Device.issueRows_paged {sp : Fin 16} {sc : Space} (hsp : d.spaceAt l.space = some (sp, sc)) :
    d.issueRows k p st lane c a none =
      d.issuePaged
        { k := k, p := p, st := st, lane := lane, c := c, a := a, x := x, l := l, sp := sp, sc := sc
          ok := l.entries.filter (sc.entryOk p.account a l st.reprefill)
          refilled := [], held := none, arrival := d.aster.arrivals } := by
  simp only [Device.issueRows, hl, ha, hsp]
  rfl

end

/-- Settles O7: each row is exec's function for it, which issues where the lane is clear; the rows of a TATTN are told by its kind and by
the space of its list. -/
theorem stashAndAttentionIssue : Obligations.StashAndAttentionIssue := by
  intro s k n lane errs p st c hl hs hc
  refine ⟨fun seg x y ha hd hi => ?_, fun seg x y ha hd hi => ?_,
    fun a ha hq hw => ⟨?_, fun d x l hlist => ⟨fun hkind => ?_, fun hkind hsp => ?_, fun sp sc hkind hsp => ?_⟩⟩⟩
  · exact .of_act (Device.tstash k n.toNat lane errs) hl rfl (hs.fresh.tstash hc.fresh errs hi)
  · exact .of_act (Device.tunstash k n.toNat lane errs) hl rfl (hs.fresh.tunstash hc.fresh errs hi)
  · exact .of_act (Device.tattn k n.toNat lane errs) hl rfl (hs.fresh.tattn hc.fresh errs ha hq hw)
  · exact Device.issueRows_train hlist none hkind
  · exact Device.issueRows_noSpace hlist hkind none hsp
  · exact Device.issueRows_paged hlist hkind hsp

end Sys2Proof.Machine
end

section
/-! Received weights (R179, R208, R232, R371, R379): a range is held when it arrives, and written once the reads of its step are over. -/

namespace Sys2Proof.Machine

section
variable {d : Device} {k : Fin 16} {p : Program}

/-! ### A range that arrives -/

section
variable {m : RangeMsg} (hr : d.releaserOf m.tensor = some (k, p))
include hr

/-- A range of a version to come that lies inside its tensor is held, and counts toward no PEER_LATE when it is on time. -/
theorem Device.mcastRangeReceive_held {ord : Nat} (hord : p.ordinalOf m.tensor = some ord) (hjob : d.fab.job ≠ .none)
    (hhold : d.fab.job ≠ .hold) (hroom : d.rxFull = false) (hversion : p.version m.tensor < m.version.toNat)
    (hinside : m.first + m.values.length ≤ (p.released ord).elems) (hlate : m.late = false) :
    d.mcastRangeReceive m =
      { d with tun := { d.tun with heldRanges := d.tun.heldRanges ++ [(k.val, m.tensor, m.version.toNat, m.first, m.values)] } } := by
  have hnothold : (d.fab.job == .hold) = false := beq_eq_false_iff_ne.2 hhold
  simp only [Device.mcastRangeReceive, hr, hord, Option.map_some, Option.getD_some, Device.joined_of_job hjob, hnothold, hroom,
    Nat.not_le.2 hversion, Nat.not_lt.2 hinside, hlate, Device.notePeerLate_onTime]
  cases (d.stepOf k (m.version.toNat - 1)).bind StepState.rangeSince <;> rfl

/-- With the receive buffer full, or in HOLD, a range is not taken. -/
theorem Device.mcastRangeReceive_notTaken (h : d.rxFull = true ∨ d.fab.job = .hold) : d.mcastRangeReceive m = d := by
  simp only [Device.mcastRangeReceive, hr]
  refine if_pos ?_
  rcases h with h | h <;> simp [h]

end

/-! ### A range that is held -/

section
variable {i : Nat} {tensor : Word32} {version first ord : Nat} {zs : List Word16} {st : StepState}
  (hheld : d.tun.heldRanges[i]? = some (k.val, tensor, version, first, zs)) (hp : d.progs[k] = some p)
  (hst : p.stepAt (version - 1) = some st) (hord : p.ordinalOf tensor = some ord)
include hheld hp hst hord

/-- A range whose step has no read of the tensor left is written, and leaves the ranges held. -/
theorem Device.mcastRangeApply_written (h : p.mayWrite st (p.released ord) = true) :
    d.mcastRangeApply i =
      ({ d with tun := { d.tun with heldRanges := d.tun.heldRanges.eraseIdx i } }.writeWeights p st tensor first zs).noteWritten k st.step
        ord first zs.length := by
  simp only [Device.mcastRangeApply, hheld, asFin_eq_some rfl, hp, hst, hord, h, if_true]

theorem Device.mcastRangeApply_waits (h : p.mayWrite st (p.released ord) = false) : d.mcastRangeApply i = d := by
  simp only [Device.mcastRangeApply, hheld, asFin_eq_some rfl, hp, hst, hord, h]
  rfl

end

end

/-- Settles O22: each row is exec's function for it, and the function is one of the equations above. -/
theorem rangeRowsComplete : Obligations.RangeRowsComplete := by
  intro s k p hl
  refine ⟨fun m ord hr hord hjob hhold hroom hversion hinside hlate => ?_, fun m hr h => ?_,
    fun i tensor version first zs st ord hheld hp hst hord => ⟨fun h => ?_, fun h => ?_⟩⟩
  · exact .of_act (Device.mcastRangeReceive m) hl rfl
      (Device.mcastRangeReceive_held (d := s.dev.fresh) hr hord hjob hhold hroom hversion hinside hlate)
  · exact .of_act (Device.mcastRangeReceive m) hl rfl (Device.mcastRangeReceive_notTaken (d := s.dev.fresh) hr h)
  · exact .of_act (Device.mcastRangeApply i) hl rfl (Device.mcastRangeApply_written (d := s.dev.fresh) hheld hp hst hord h)
  · exact .of_act (Device.mcastRangeApply i) hl rfl (Device.mcastRangeApply_waits (d := s.dev.fresh) hheld hp hst hord h)

end Sys2Proof.Machine
end

section
/-! Transfers between an object and host memory (R176, R180, R240, R268, R297): what a valid OBJ_WRITE or OBJ_READ comes to, and a held
write that goes on. -/

namespace Sys2Proof.Machine

/-! ### What a packet leaves as it was -/

section
variable (d : Device) (op : Word16) (h : CmdHdr)

@[simp] theorem Device.fresh_openCommand_obj? (id : Word32) : (d.fresh.openCommand op h).obj? id = d.obj? id := rfl

@[simp] theorem Device.fresh_openCommand_coversFrozen (r : Range) : (d.fresh.openCommand op h).coversFrozen r = d.coversFrozen r := rfl

@[simp] theorem Device.fresh_openCommand_coversPool (id : Word32) : (d.fresh.openCommand op h).coversPool id = d.coversPool id := rfl

@[simp] theorem Device.fresh_openCommand_writeWaits (r : Range) : (d.fresh.openCommand op h).writeWaits r = d.writeWaits r := rfl

@[simp] theorem Device.fresh_openCommand_writeIdle (id : Word32) : (d.fresh.openCommand op h).writeIdle id = d.writeIdle id := rfl

end

section
variable {d : Device} {h : CmdHdr} {id : Word32} {o : Obj} {convert : BitVec 8} {off : BitVec 48} {len : Word32} (host : Word64)
  (hobj : d.obj? id = some o)
include hobj

/-! ### OBJ_WRITE -/

section
variable (nowait : Bool) (hpass : d.passes 0x0106 h) (hvalid : o.xferOk convert off.toNat len.toNat = true)
include hpass hvalid

theorem Device.objWrite_notOwner (howner : o.owner ≠ h.account) :
    d.fresh.objWrite h id nowait convert off len host = (d.fresh.openCommand 0x0106 h).finish ⟨h, 0x0106⟩ .notOwner := by
  simp only [Device.objWrite, Device.command_of_passes _ hpass, Device.fresh_openCommand_obj?, hobj, hvalid, bne_iff_ne.2 howner]
  rfl

variable {r : Range} (hr : r = { object := id, lo := off.toNat, hi := off.toNat + len.toNat })
  (howner : o.owner = h.account)
include hr howner

/-- A write of its owner that covers a frozen range is refused (R176). -/
theorem Device.objWrite_frozen (hfrozen : d.coversFrozen r = true) :
    d.fresh.objWrite h id nowait convert off len host = (d.fresh.openCommand 0x0106 h).finish ⟨h, 0x0106⟩ .frozen := by
  subst hr
  simp only [Device.objWrite, Device.command_of_passes _ hpass, Device.fresh_openCommand_obj?, hobj, hvalid, howner, bne_self_eq_false,
    Device.fresh_openCommand_coversFrozen, hfrozen]
  rfl

/-- Any other, with the steps and slots that it must wait for; a NOWAIT has none (R180, R240). -/
theorem Device.objWrite_queued (hfrozen : d.coversFrozen r = false) (hpool : d.coversPool id = false)
    (hwaits : nowait = true → d.writeWaits r = [] ∧ d.writeIdle id = []) :
    d.fresh.objWrite h id nowait convert off len host =
      (d.fresh.openCommand 0x0106 h).enqueue id ⟨h, 0x0106⟩
        (.write nowait (convert == 1) off.toNat len.toNat host (d.writeWaits r) (d.writeIdle id)) := by
  have hnow : (nowait && !((d.writeWaits r).isEmpty && (d.writeIdle id).isEmpty)) = false := by
    cases hn : nowait with
    | false => rfl
    | true =>
      obtain ⟨hsteps, hslots⟩ := hwaits hn
      rw [hsteps, hslots]
      rfl
  subst hr
  simp only [Device.objWrite, Device.command_of_passes _ hpass, Device.fresh_openCommand_obj?, hobj, hvalid, howner, bne_self_eq_false,
    Device.fresh_openCommand_coversFrozen, hfrozen, Device.fresh_openCommand_writeWaits, Device.fresh_openCommand_writeIdle, hnow,
    Device.fresh_openCommand_coversPool, hpool]
  rfl

end

/-! ### HELD_WRITE_APPLY -/

/-- The write at the head of the queue, held with its data, is tried again. -/
theorem Device.heldWriteApply_held {q : ObjOp} {r : List ObjOp} {nowait conv : Bool} {off len : Nat} {host : Word64}
    {waits : List (Nat × Nat)} {idle : List Nat} {data : List Byte} (hqueue : o.queue = q :: r)
    (hop : q.op = .write nowait conv off len host waits idle) (hstate : q.state = .held data) :
    d.heldWriteApply id = (d.writeHead o q.cmd conv off len waits idle data).runQueue id := by
  obtain ⟨cmd, op, state⟩ := q
  cases hop
  cases hstate
  simp only [Device.heldWriteApply, hobj, hqueue]

theorem Device.heldWriteApply_noQueue (hqueue : o.queue = []) : d.heldWriteApply id = d := by
  simp only [Device.heldWriteApply, hobj, hqueue]

/-! ### OBJ_READ -/

section
variable (errs : List WordError) (hpass : d.passes 0x0107 h) (hvalid : o.xferOk convert off.toNat len.toNat = true)
include hpass hvalid

theorem Device.objRead_queued (hread : o.readableBy h.account = true) :
    d.fresh.objRead h id convert off len host errs =
      (d.fresh.openCommand 0x0107 h).enqueue id ⟨h, 0x0107⟩ (.read (convert == 1) off.toNat len.toNat host errs) := by
  simp only [Device.objRead, Device.command_of_passes _ hpass, Device.fresh_openCommand_obj?, hobj, hvalid, hread]
  rfl

theorem Device.objRead_notOwner (hread : o.readableBy h.account = false) :
    d.fresh.objRead h id convert off len host errs = (d.fresh.openCommand 0x0107 h).finish ⟨h, 0x0107⟩ .notOwner := by
  simp only [Device.objRead, Device.command_of_passes _ hpass, Device.fresh_openCommand_obj?, hobj, hvalid, hread]
  rfl

end

end

/-- Settles O28: each row is exec's function for it, and the function is one of the equations above. -/
theorem transfersComplete : Obligations.TransfersComplete := by
  intro s h id o hl hobj
  refine ⟨fun nowait convert off len host hpass hvalid howner => ⟨fun hfrozen => ?_, fun hfrozen hpool hwaits => ?_⟩,
    fun nowait convert off len host hpass hvalid howner => ?_,
    fun q r nowait conv off len host waits idle data hqueue hop hstate => ?_, fun hqueue => ?_,
    fun convert off len host errs hpass hvalid hread => ?_, fun convert off len host errs hpass hvalid hread => ?_⟩
  · exact .of_act (Device.objWrite h id nowait convert off len host) hl rfl
      (Device.objWrite_frozen host hobj nowait hpass hvalid rfl howner hfrozen)
  · exact .of_act (Device.objWrite h id nowait convert off len host) hl rfl
      (Device.objWrite_queued host hobj nowait hpass hvalid rfl howner hfrozen hpool hwaits)
  · exact .of_act (Device.objWrite h id nowait convert off len host) hl rfl
      (Device.objWrite_notOwner host hobj nowait hpass hvalid howner)
  · exact .of_act (Device.heldWriteApply id) hl rfl (Device.heldWriteApply_held (d := s.dev.fresh) hobj hqueue hop hstate)
  · exact .of_act (Device.heldWriteApply id) hl rfl (Device.heldWriteApply_noQueue (d := s.dev.fresh) hobj hqueue)
  · exact .of_act (Device.objRead h id convert off len host errs) hl rfl (Device.objRead_queued host hobj errs hpass hvalid hread)
  · exact .of_act (Device.objRead h id convert off len host errs) hl rfl (Device.objRead_notOwner host hobj errs hpass hvalid hread)

end Sys2Proof.Machine
end

section
/-! The shards of a bucket (R190). -/

namespace Sys2Proof.Machine

section
variable {p g i : Nat}

theorem shardCount_eq_ite (p g i : Nat) : shardCount p g i = if i < p % g then p / g + 1 else p / g := by
  unfold shardCount
  split <;> rfl

/-- A shard begins where the one before it ends. -/
theorem shardStart_succ (p g i : Nat) : shardStart p g (i + 1) = shardStart p g i + shardCount p g i := by
  have hlong : min (i + 1) (p % g) = min i (p % g) + if i < p % g then 1 else 0 := by split <;> omega
  simp only [shardStart, shardCount, hlong, Nat.succ_mul]
  omega

/-- The last shard ends with the bucket. -/
theorem shardStart_last (p : Nat) (hg : 0 < g) : shardStart p g g = p := by
  rw [shardStart, Nat.min_eq_right (Nat.le_of_lt (Nat.mod_lt p hg)), Nat.div_add_mod]

/-- The member that owns shard `i` of a bucket finds `i` as its own. -/
theorem ownedShard_shardOwner (hi : i < g) (id : Nat) : ownedShard g (shardOwner g i id) id = i := by
  have hb : id % g < g := Nat.mod_lt id (Nat.zero_lt_of_lt hi)
  have howner : (i + id) % g = (i + id % g) % g := (Nat.add_mod_mod ..).symm
  rw [ownedShard, shardOwner, howner]
  rcases Nat.lt_or_ge (i + id % g) g with hlow | hwrap
  · rw [Nat.mod_eq_of_lt hlow, show i + id % g + g - id % g = i + g by omega, Nat.add_mod_right, Nat.mod_eq_of_lt hi]
  · have hover : i + id % g - g < g := by omega
    rw [Nat.mod_eq_sub_mod hwrap, Nat.mod_eq_of_lt hover, show i + id % g - g + g - id % g = i by omega, Nat.mod_eq_of_lt hi]

end

/-- Settles O59: the shards' sizes, each beginning where the one before it ends, and their owners. -/
theorem shardsTileTheBucket : Obligations.ShardsTileTheBucket := fun p g hg =>
  ⟨shardCount_eq_ite p g, by simp [shardStart], fun i _ => shardStart_succ p g i, shardStart_last p hg,
    fun _ b hi => ⟨rfl, ownedShard_shardOwner hi b⟩⟩

end Sys2Proof.Machine
end

section
/-! The registers of the Tundish (R214, R215, R241). -/

namespace Sys2Proof.Machine

section
variable {d : Device}

/-! ### RXBUF_MIB (R215) -/

theorem Device.setRxbuf_same : d.setRxbuf d.tun.rxbufMib = d := if_pos rfl

section
variable {v : BitVec 8} (hv : v ≠ d.tun.rxbufMib)
include hv

theorem Device.setRxbuf_quiesced (hq : d.tun.quiesced = true) :
    d.setRxbuf v = { d with tun := { d.tun with rxbufMib := v } } := by
  rw [Device.setRxbuf, if_neg hv]
  simp [hq]

/-- A change under buckets in flight faults the Tundish, and every step in flight with it. -/
theorem Device.setRxbuf_inFlight (hq : d.tun.quiesced = false) :
    d.setRxbuf v =
      ({ d with tun := { d.tun with rxbufMib := v, faulted := true } }.logEvent 0x0306 .error 0 0 srcGx).faultAll
        fun p => !p.steps.isEmpty := by
  rw [Device.setRxbuf, if_neg hv]
  simp [hq]

end

/-! ### GX_QUIESCED (R214) -/

theorem Device.gxQuiesced_idleTundish (hq : d.tun.quiesce = true) (hstep : d.anyStep = false) (hheld : d.tun.held = []) :
    d.gxQuiesced = { d with tun := { d.tun with quiesced := true } } := by
  simp [Device.gxQuiesced, hq, hstep, hheld]

theorem Device.gxQuiesced_notYet (h : d.tun.quiesce = false ∨ d.anyStep = true) : d.gxQuiesced = d := by
  rcases h with h | h <;> simp [Device.gxQuiesced, h]

end

/-- Settles O20: each row is exec's function for it, and the function is one of the equations above. -/
theorem tundishRegisterRowsComplete : Obligations.TundishRegisterRowsComplete := by
  intro s hl
  refine ⟨fun req hw => ⟨fun v => ?_, fun v hq hv => ?_, fun v hq hv => ?_, ?_, ?_, ?_⟩, fun hq hstep hheld => ?_, fun hq => ?_,
    fun hstep => ?_⟩
  · exact .of_write _ (Device.setGxQuiesce v) hl hw rfl rfl
  · exact .of_write _ (Device.setRxbuf v) hl hw rfl (Device.setRxbuf_quiesced (d := s.dev.fresh) hv hq)
  · exact .of_write _ (Device.setRxbuf v) hl hw rfl (Device.setRxbuf_inFlight (d := s.dev.fresh) hv hq)
  · exact .of_write _ (Device.setRxbuf _) hl hw rfl (Device.setRxbuf_same (d := s.dev.fresh))
  · exact .of_write _ Device.clearGxCounts hl hw rfl rfl
  · exact .of_write _ Device.clearUpdCounts hl hw rfl rfl
  · exact .of_act Device.gxQuiesced hl rfl (Device.gxQuiesced_idleTundish (d := s.dev.fresh) hq hstep hheld)
  · exact .of_act Device.gxQuiesced hl rfl (Device.gxQuiesced_notYet (d := s.dev.fresh) (.inl hq))
  · exact .of_act Device.gxQuiesced hl rfl (Device.gxQuiesced_notYet (d := s.dev.fresh) (.inr hstep))

end Sys2Proof.Machine
end

section
/-! GX_CONFIG, GX_QUERY, GX_SCALE_SAVE and GX_SCALE_LOAD (R200, R204, R212, R213): what the body of each makes of a device on which its
packet has passed the checks. -/

namespace Sys2Proof.Machine

/-! ### A list that a command reads -/

section
variable {d : Device} {c : OpenCmd} {i : Instr} {id : Word32} {off : Nat}

theorem Device.withList_empty (f : Device → Device) : d.withList c i id off 0 false f = f d := by
  unfold Device.withList
  split
  · rfl
  · exact if_pos (by simp)

/-- A list with no byte in T3 is read at once. -/
theorem Device.withList_notInT3 {n : Nat} {o : Obj} (f : Device → Device) (hobj : d.obj? id = some o) (hseg : o.t3Segments off n = []) :
    d.withList c i id off n false f = f d := by
  simp only [Device.withList, hobj, hseg]
  exact if_pos (by simp)

end

section
variable {d : Device} {c : OpenCmd} {prog : BitVec 8} {k : Fin 16} {p : Program} (hk : prog.toNat = k.val)
  (hp : d.progs[k] = some p)
include hk hp

/-! ### The program named -/

section
variable {bad : Program → Bool} (f : Fin 16 → Program → Device → Device)

theorem Device.onProgram_bad (hbad : bad p = true) : d.onProgram c prog bad f = d.finish c .badParam := by
  simp only [Device.onProgram, asFin_eq_some hk, hp, hbad, if_true]

theorem Device.onProgram_owned (ha : p.account = c.hdr.account) (hbad : bad p = false) : d.onProgram c prog bad f = f k p d := by
  simp only [Device.onProgram, asFin_eq_some hk, hp, hbad, ha]
  simp

end

/-! ### GX_CONFIG (R212) -/

section
variable {wire mib norm : BitVec 8} {clip : Word16} {err ovr : Word32}

theorem Device.gxConfigRun_outOfRange (hask : d.gxAsked p wire mib norm clip err ovr 0 = none) :
    d.gxConfigRun prog wire mib norm clip err ovr 0 c = d.finish c .badParam := by
  rw [Device.gxConfigRun]
  exact Device.onProgram_bad hk hp _ (Option.isNone_iff_eq_none.2 hask)

/-- A configuration with the bucket size that stood, and so with the rules kept. -/
theorem Device.gxConfigRun_accepted {cfg : GxConfig} (ha : p.account = c.hdr.account)
    (hask : d.gxAsked p wire mib norm clip err ovr 0 = some cfg) (howns : err ≠ 0 → d.owns c.hdr.account err = true)
    (hstate : p.state ≠ .running) (hmib : cfg.bucketMib = p.gx.bucketMib) :
    d.gxConfigRun prog wire mib norm clip err ovr 0 c =
      (((d.progUnpin ([p.gx.errmem].filter (· != 0))).progPin ([err].filter (· != 0))).updProg k fun p => { p with gx := cfg }).ok c := by
  have herr : (err != 0 && !d.owns c.hdr.account err) = false := by
    by_cases h : err = 0
    · simp [h]
    · simp [howns h]
  have hask' : d.gxAsked p wire mib norm clip err ovr (0 : Word16).toNat = some cfg := hask
  rw [Device.gxConfigRun]
  refine (Device.onProgram_owned hk hp _ ha (by simp only [hask', Option.isNone_some])).trans ?_
  simp only [hask', herr, hmib, if_neg hstate, if_true]
  rfl

end

/-! ### GX_SCALE_LOAD (R204) -/

theorem Device.scaleBytes_loaded : d.scaleBytes prog = 16 + 2 * p.releasedDescs.length := by
  simp only [Device.scaleBytes, asFin_eq_some hk, Option.bind_some, hp, Option.map_some, Option.getD_some]

theorem Device.gxScaleLoadRun_accepted {object : Word32} {off s : Nat} {bs : List Byte} {t : ScaleTable}
    (ha : p.account = c.hdr.account) (hjob : d.fab.job = .none ∨ d.fab.isTop = true) (hnext : s = p.nextStep)
    (hbytes : d.tableBytes object off (16 + 2 * p.releasedDescs.length) = some bs) (ht : tableOf s p.releasedDescs.length bs = some t)
    (hread : d.mayRead object c.hdr.account = true) (hstate : p.state ≠ .running) :
    d.gxScaleLoadRun prog s object off c = (d.updProg k fun q => { q with installedTable := some t }).ok c := by
  have hplace : (d.joined && !d.fab.isTop) = false := by
    rcases hjob with h | h <;> simp [Device.joined, h]
  have htable : (d.tableBytes object off (16 + 2 * p.releasedDescs.length)).bind (tableOf s p.releasedDescs.length) = some t := by
    rw [hbytes, Option.bind_some, ht]
  rw [Device.gxScaleLoadRun]
  refine (Device.onProgram_owned hk hp _ ha ?_).trans ?_
  · simp [hplace, hnext ▸ htable, hnext]
  · simp [htable, hread, hstate]

end

/-! ### The commands -/

section
variable {d : Device} {h : CmdHdr} {prog : BitVec 8} {k : Fin 16} {p : Program} (hk : prog.toNat = k.val)
  (hp : d.progs[k] = some p) (ha : p.account = h.account)
include hk hp ha

theorem Device.gxQuery_known {n a b : Nat} (hpass : d.passes 0x0304 h) (hcounts : p.gxCounts n = some (a, b)) :
    d.fresh.gxQuery h prog n = (d.fresh.openCommand 0x0304 h).ok ⟨h, 0x0304⟩ (a % 2 ^ 32 + b % 2 ^ 32 * 2 ^ 32) := by
  rw [Device.gxQuery, Device.command_of_passes _ hpass]
  refine (Device.onProgram_owned (d := d.fresh.openCommand 0x0304 h) hk hp _ ha (by simp [hcounts])).trans ?_
  simp only [hcounts, Option.getD_some]

/-- A table held for the step is stored as its image, in an object of the account with room for it. -/
theorem Device.gxScaleSave_stored {n off : Nat} {object : Word32} {t : ScaleTable} {o : Obj} (hpass : d.passes 0x0305 h)
    (ht : p.tableFor n = some t) (hobj : d.obj? object = some o) (howner : o.owner = h.account) (hroom : off + t.image.length ≤ o.size) :
    d.fresh.gxScaleSave h prog n object off =
      ((d.fresh.openCommand 0x0305 h).objStore object off t.image).ok ⟨h, 0x0305⟩ (t.entries.length % 2 ^ 16) := by
  rw [Device.gxScaleSave, Device.command_of_passes _ hpass]
  refine (Device.onProgram_owned (d := d.fresh.openCommand 0x0305 h) hk hp _ ha (by simp [ht, hobj])).trans ?_
  simp [ht, hobj, howner, Nat.not_lt.2 hroom]

end

/-- Settles O19: each row's body acts on the program it names, which is the account's, once its list, if it reads one, is at hand. -/
theorem gradientCommandsComplete : Obligations.GradientCommandsComplete := by
  intro s h prog k p hl hk hp ha
  refine ⟨fun wire mib norm clip err ovr cfg hpass hask howns hstate hmib => ?_, fun wire mib norm clip err ovr hpass hask => ?_,
    fun n a b hpass hcounts => ?_, fun n obj off t o hpass ht hobj howner hroom => ?_,
    fun n obj off bs t o hpass hjob hnext hbytes ht hobj hseg hread hstate => ?_⟩
  · exact .of_command _ hl hpass rfl ((Device.withList_empty _).trans
      (Device.gxConfigRun_accepted (d := s.dev.fresh.openCommand 0x0303 h) hk hp ha hask howns hstate hmib))
  · exact .of_command _ hl hpass rfl ((Device.withList_empty _).trans
      (Device.gxConfigRun_outOfRange (d := s.dev.fresh.openCommand 0x0303 h) hk hp hask))
  · exact .of_act (Device.gxQuery h prog n.toNat) hl rfl (Device.gxQuery_known hk hp ha hpass hcounts)
  · exact .of_act (Device.gxScaleSave h prog n.toNat obj off.toNat) hl rfl
      (Device.gxScaleSave_stored hk hp ha hpass ht hobj howner hroom)
  · have hlength : (s.dev.fresh.openCommand 0x0306 h).scaleBytes prog = 16 + 2 * p.releasedDescs.length :=
      Device.scaleBytes_loaded hk hp
    exact .of_command _ hl hpass rfl ((Device.withList_notInT3 (d := s.dev.fresh.openCommand 0x0306 h) _ hobj (hlength ▸ hseg)).trans
      (Device.gxScaleLoadRun_accepted (d := s.dev.fresh.openCommand 0x0306 h) hk hp ha hjob hnext hbytes ht hread hstate))

end Sys2Proof.Machine
end

section
/-! The fabric and job commands (R188, R237, R358, R373-R376, R381, R383): what each makes of a device on which its packet has passed
the checks. -/

namespace Sys2Proof.Machine

/-- `Runs` from what the body of an admin-only command makes of the device on which its packet has passed the checks. -/
theorem Runs.of_adminCommand {row : Instr} {op : Word16} {h : CmdHdr} {s : State} {f : Device → Device}
    (body : OpenCmd → Device → Device) (hl : s.dev.live = true) (hpass : s.dev.passesAdmin op h)
    (he : exec row s = s.act fun d => d.adminCommand op h body)
    (hb : body ⟨h, op⟩ (s.dev.fresh.openCommand op h) = f s.dev.fresh) : Runs row s f :=
  .of_act _ hl he ((Device.adminCommand_of_passes body hpass).trans hb)

/-! ### What a packet leaves as it was -/

section
variable (d : Device) (op : Word16) (h : CmdHdr)

@[simp] theorem Device.fresh_openCommand_fab : (d.fresh.openCommand op h).fab = d.fab := rfl

@[simp] theorem Device.fresh_openCommand_joined : (d.fresh.openCommand op h).joined = d.joined := rfl

@[simp] theorem Device.fresh_openCommand_anyRunning : (d.fresh.openCommand op h).anyRunning = d.anyRunning := rfl

@[simp] theorem Device.fresh_openCommand_tableBytes (id : Word32) (off n : Nat) :
    (d.fresh.openCommand op h).tableBytes id off n = d.tableBytes id off n := rfl

@[simp] theorem Device.fresh_openCommand_mayRead (id : Word32) (a : BitVec 6) :
    (d.fresh.openCommand op h).mayRead id a = d.mayRead id a := rfl

@[simp] theorem Device.fresh_openCommand_prunedBy (q : Peer) : (d.fresh.openCommand op h).prunedBy q = d.prunedBy q := rfl

end

theorem Device.joined_eq_false {d : Device} (h : d.fab.job = .none) : d.joined = false := by simp [Device.joined, h]

section
variable {d : Device} {h : CmdHdr}

/-! ### JOB_JOIN and JOB_LEAVE (R188, R373) -/

/-- Bytes of a table lie in its object. -/
theorem Device.tableBytes_inside {id : Word32} {off n : Nat} {o : Obj} {bs : List Byte} (hobj : d.obj? id = some o)
    (hbytes : d.tableBytes id off n = some bs) : off + n ≤ o.size := by
  rw [Device.tableBytes, hobj, Option.bind_some] at hbytes
  split at hbytes
  · assumption
  · cases hbytes

/-- A valid table in memory, with a rank in it, is joined unless the device is in a job. -/
theorem Device.jobJoin_valid {rank count : Word16} {table : Word32} {off : BitVec 48} {o : Obj} {bs : List Byte} {t : List Member}
    (job : Word64) (hpass : d.passesAdmin 0x0301 h) (hobj : d.obj? table = some o) (hseg : o.t3Segments off.toNat (8 * count.toNat) = [])
    (hbytes : d.tableBytes table off.toNat (8 * count.toNat) = some bs) (ht : membersOf bs = some t) (hzero : count ≠ 0)
    (hcount : count.toNat ≤ 16384) (hrank : rank.toNat < count.toNat) (hread : d.mayRead table h.account = true) :
    d.fresh.jobJoin h job rank table off count =
      if d.joined then (d.fresh.openCommand 0x0301 h).finish ⟨h, 0x0301⟩ .busy
      else
        let e := (d.fresh.openCommand 0x0301 h).joinJob job rank.toNat t
        e.ok ⟨h, 0x0301⟩ (e.fab.groupSize + 2 ^ 16 * e.fab.flatIndex + 2 ^ 32 * e.fab.myGroup) := by
  have hrange : ¬ (count = 0 ∨ 16384 < count.toNat ∨ count ≤ rank ∨ o.size < off.toNat + 8 * count.toNat) := by
    have hinside := Device.tableBytes_inside hobj hbytes
    rw [BitVec.le_def]
    rintro (hc | hc | hc | hc)
    · exact hzero hc
    all_goals omega
  rw [Device.jobJoin, Device.adminCommand_of_passes _ hpass]
  simp only [Device.fresh_openCommand_obj?, hobj, if_neg hrange, hseg, Device.fresh_openCommand_tableBytes, hbytes, Option.bind_some, ht,
    Device.fresh_openCommand_mayRead, hread, Device.fresh_openCommand_joined]
  rfl

section
variable {job : Word64} (hpass : d.passesAdmin 0x0302 h)
include hpass

/-- The job a device is in is left unless a program runs. -/
theorem Device.jobLeave_member (hjob : d.fab.job ≠ .none) (hid : d.fab.jobId = job) :
    d.fresh.jobLeave h job =
      if d.anyRunning then (d.fresh.openCommand 0x0302 h).finish ⟨h, 0x0302⟩ .busy
      else (d.fresh.openCommand 0x0302 h).leaveJob.ok ⟨h, 0x0302⟩ := by
  rw [Device.jobLeave, Device.adminCommand_of_passes _ hpass]
  exact if_neg (by simp [Device.joined_of_job hjob, hid])

theorem Device.jobLeave_notMember (hnot : d.fab.job = .none ∨ d.fab.jobId ≠ job) :
    d.fresh.jobLeave h job = (d.fresh.openCommand 0x0302 h).finish ⟨h, 0x0302⟩ .badParam := by
  rw [Device.jobLeave, Device.adminCommand_of_passes _ hpass]
  refine if_pos ?_
  rcases hnot with hnone | hother
  · simp [Device.joined_eq_false hnone]
  · simp [hother]

end

/-! ### FAB_PORT_SET, FAB_QUERY and FAB_TIMEOUT_SET (R381) -/

/-- Valid settings of a port take effect unless a program runs. -/
theorem Device.fabPortRun_valid {c : OpenCmd} {port mode pcps : BitVec 8} {vlan : Word16} {p : Fin 8} {m : OctMode} (mac : BitVec 48)
    (ethertype : Word16) (hp : port.toNat = p.val) (hm : octModeOf mode.toNat = some m) (hreserved : pcps &&& 0x88 = 0)
    (hdiffer : pcps.extractLsb' 0 3 ≠ pcps.extractLsb' 4 3) (hvlan : vlan.toNat ≤ 0xFFF) :
    d.fabPortRun port mode pcps mac vlan ethertype c =
      if d.anyRunning then d.finish c .busy
      else ((d.updOct p fun q => q.configure m pcps mac (vlan.extractLsb' 0 12) ethertype).flushPort p).ok c := by
  have hok : ¬ (pcps &&& 0x88 ≠ 0 ∨ pcps.extractLsb' 0 3 = pcps.extractLsb' 4 3 ∨ 0xFFF < vlan.toNat) := by
    rintro (h | h | h)
    · exact h hreserved
    · exact hdiffer h
    · omega
  simp only [Device.fabPortRun, asFin_eq_some hp, hm, if_neg hok]

theorem Device.fabPortSet_noKind {kind : BitVec 8} (port mode pcps : BitVec 8) (mac : BitVec 48) (vlan ethertype : Word16) (routes : Word32)
    (off : BitVec 48) (count : Word16) (hpass : d.passesAdmin 0x0701 h) (hkind : 2 ≤ kind.toNat) :
    d.fresh.fabPortSet h kind port mode pcps mac vlan ethertype routes off count =
      (d.fresh.openCommand 0x0701 h).finish ⟨h, 0x0701⟩ .badParam := by
  have hport : kind ≠ 0 := fun hk => by simp [hk] at hkind
  have hroutes : kind ≠ 1 := fun hk => by simp [hk] at hkind
  rw [Device.fabPortSet, Device.adminCommand_of_passes _ hpass]
  exact (if_neg hport).trans (if_neg hroutes)

theorem Device.fabQuery_port {port : BitVec 8} {p : Fin 8} (hpass : d.passes 0x0702 h) (hp : port.toNat = p.val) :
    d.fresh.fabQuery h port = (d.fresh.openCommand 0x0702 h).ok ⟨h, 0x0702⟩ d.fab.ports[p].queryResult := by
  rw [Device.fabQuery, Device.command_of_passes _ hpass]
  simp only [asFin_eq_some hp, Device.fresh_openCommand_fab]

section
variable {e2e : Word32} {tries : BitVec 8} {transit : Word16} (hpass : d.passesAdmin 0x0703 h)
include hpass

theorem Device.fabTimeoutSet_outOfRange (hbad : e2e.toNat < 200 ∨ 100000 < e2e.toNat ∨ tries = 0 ∨ transit = 0) :
    d.fresh.fabTimeoutSet h e2e tries transit = (d.fresh.openCommand 0x0703 h).finish ⟨h, 0x0703⟩ .badParam := by
  rw [Device.fabTimeoutSet, Device.adminCommand_of_passes _ hpass]
  exact if_pos hbad

/-- Time-outs in range take effect unless a program runs. -/
theorem Device.fabTimeoutSet_inRange (hlow : 200 ≤ e2e.toNat) (hhigh : e2e.toNat ≤ 100000) (htries : tries ≠ 0)
    (htransit : transit ≠ 0) :
    d.fresh.fabTimeoutSet h e2e tries transit =
      if d.anyRunning then (d.fresh.openCommand 0x0703 h).finish ⟨h, 0x0703⟩ .busy
      else ((d.fresh.openCommand 0x0703 h).updFab fun f =>
        { f with e2eUs := e2e.toNat, maxTries := tries.toNat, transitUs := transit.toNat }).ok ⟨h, 0x0703⟩ := by
  rw [Device.fabTimeoutSet, Device.adminCommand_of_passes _ hpass]
  have hok : ¬ (e2e.toNat < 200 ∨ 100000 < e2e.toNat ∨ tries = 0 ∨ transit = 0) := by
    rintro (hc | hc | hc | hc)
    · omega
    · omega
    · exact htries hc
    · exact htransit hc
  exact if_neg hok

end

/-! ### FAB_BARRIER and JOB_RESUME (R373-R375) -/

section
variable {scope : BitVec 8} (id : Word32) (hpass : d.passes 0x0704 h) (hscope : scope.toNat ≤ 2)
include hpass hscope

theorem Device.fabBarrier_notActive (hjob : d.fab.job ≠ .active) :
    d.fresh.fabBarrier h id scope = (d.fresh.openCommand 0x0704 h).finish ⟨h, 0x0704⟩ .busy := by
  rw [Device.fabBarrier, Device.command_of_passes _ hpass]
  exact (if_neg (Nat.not_lt.2 hscope)).trans (if_pos (.inl hjob))

/-- A member that manages no domain tells its domain's manager that it has entered. -/
theorem Device.fabBarrier_entered {m : Nat} (hjob : d.fab.job = .active) (hnew : ∀ b ∈ d.fab.barriers, b.id ≠ id)
    (hroom : d.fab.barriers.length < 16) (hmember : d.fab.isDomainManager = false)
    (hmanager : d.fab.domainManager d.fab.myDomain = some m) :
    d.fresh.fabBarrier h id scope =
      ((d.fresh.openCommand 0x0704 h).updFab fun f =>
        { f with barriers := f.barriers ++ [{ id := id, scope := scope.extractLsb' 0 2, cmd := ⟨h, 0x0704⟩ }] }).sendRecord m
        .barrierEntry (bytesOf 4 id.toNat ++ bytesOf 1 (scope.extractLsb' 0 2).toNat ++ bytesOf 2 d.fab.myGroup) := by
  have hfree : ¬ (d.fab.job ≠ .active ∨ (d.fab.barriers.any fun b => b.id == id) = true ∨ 16 ≤ d.fab.barriers.length) := by
    simpa [hjob, hroom] using hnew
  rw [Device.fabBarrier, Device.command_of_passes _ hpass]
  refine (if_neg (Nat.not_lt.2 hscope)).trans ((if_neg hfree).trans ((if_neg (ne_true_of_eq_false hmember)).trans ?_))
  split
  · next heq =>
    cases hmanager.symm.trans heq
    rfl
  · next heq => cases hmanager.symm.trans heq

end

/-- The ranks above a member of a job do not depend on its state. -/
theorem Fabric.isTop_resuming {f : Fabric} (r : Option (OpenCmd × Word32)) (hjob : f.job ≠ .none) :
    { f with job := .resuming, resume := r }.isTop = f.isTop := by
  rw [Fabric.isTop, Fabric.isTop, bne_iff_ne.2 hjob]
  rfl

theorem Fabric.isDomainManager_resuming {f : Fabric} (r : Option (OpenCmd × Word32)) (hjob : f.job ≠ .none) :
    { f with job := .resuming, resume := r }.isDomainManager = f.isDomainManager := by
  rw [Fabric.isDomainManager, Fabric.isDomainManager, bne_iff_ne.2 hjob]
  rfl

theorem Fabric.manager_resuming {f : Fabric} (r : Option (OpenCmd × Word32)) (hjob : f.job ≠ .none) :
    { f with job := .resuming, resume := r }.manager = f.manager := by
  rw [Fabric.manager, Fabric.isTop_resuming r hjob, Fabric.isDomainManager_resuming r hjob]
  rfl

section
variable {job : Word64} (n : Word32) (hpass : d.passesAdmin 0x0705 h)
include hpass

theorem Device.jobResume_notHold (hjob : d.fab.job ≠ .hold) :
    d.fresh.jobResume h job n = (d.fresh.openCommand 0x0705 h).finish ⟨h, 0x0705⟩ .badParam := by
  rw [Device.jobResume, Device.adminCommand_of_passes _ hpass]
  exact if_pos (.inl hjob)

/-- A member in HOLD that is not the top manager tells the manager above it that it is ready. -/
theorem Device.jobResume_ready {m : Nat} (hjob : d.fab.job = .hold) (hid : d.fab.jobId = job) (htop : d.fab.isTop = false)
    (hmanager : d.fab.manager = some m) :
    d.fresh.jobResume h job n =
      ((d.fresh.openCommand 0x0705 h).updFab fun f => { f with job := .resuming, resume := some (⟨h, 0x0705⟩, n) }).sendRecord m .ready
        (bytesOf 2 d.fab.rank.toNat ++ bytesOf 4 n.toNat) := by
  have hmember : d.fab.job ≠ .none := by simp [hjob]
  have hin : ¬ (d.fab.job ≠ .hold ∨ job ≠ d.fab.jobId) := by simp [hjob, hid]
  rw [Device.jobResume, Device.adminCommand_of_passes _ hpass]
  refine (if_neg hin).trans ?_
  simp only [Device.updFab_fab, Device.fresh_openCommand_fab, Fabric.isTop_resuming _ hmember, htop,
    Fabric.manager_resuming _ hmember, hmanager]
  rfl

end

/-! ### MCAST_SET, FAB_PEER_QUERY and OCT_COUNT_CLR (R376, R381, R383) -/

/-- A lag and a window in range take effect for a program of the account unless it runs. -/
theorem Device.mcastSet_lag {prog : BitVec 8} {lag window : Word32} {k : Fin 16} {p : Program} (b : BindOperands)
    (hpass : d.passes 0x0706 h) (hk : prog.toNat = k.val) (hp : d.progs[k] = some p) (ha : p.account = h.account)
    (hlag : 1 ≤ lag.toNat ∧ lag.toNat ≤ 10000) (hwindow : 64 ≤ window.toNat ∧ window.toNat ≤ 65536) :
    d.fresh.mcastSet h prog 0 lag window b =
      if p.state = .running then (d.fresh.openCommand 0x0706 h).finish ⟨h, 0x0706⟩ .busy
      else ((d.fresh.openCommand 0x0706 h).updFab fun f =>
        f.updFabProgram k.val fun x => { x with lagUs := lag.toNat, windowKib := window.toNat }).ok ⟨h, 0x0706⟩ := by
  rw [Device.mcastSet, Device.command_of_passes _ hpass]
  refine (Device.onProgram_owned (d := d.fresh.openCommand 0x0706 h) hk hp _ ha ?_).trans ?_
  · simp [Device.mcastBad, hlag, hwindow]
  · exact if_neg fun hkind => absurd hkind.1 (by decide)

/-- The standing of a rank that was heard from, with the periods since (R381). -/
theorem Device.fabPeerQuery_heard {rank : Word16} {t : Tick} (hpass : d.passes 0x0707 h) (hrank : rank.toNat ≤ 16383)
    (hheard : (d.fab.peer (rank.extractLsb' 0 14)).lastHeartbeat = some t)
    (hpruned : d.prunedBy (d.fab.peer (rank.extractLsb' 0 14)) = false) :
    d.fresh.fabPeerQuery h rank =
      (d.fresh.openCommand 0x0707 h).ok ⟨h, 0x0707⟩
        ((d.fab.peer (rank.extractLsb' 0 14)).standing + 2 ^ 16 * min 65535 ((d.tb.now - t).toNat / 100000)) := by
  rw [Device.fabPeerQuery, Device.command_of_passes _ hpass]
  refine (if_neg (Nat.not_lt.2 hrank)).trans ?_
  simp only [Device.beatPeriods, Device.fresh_openCommand_fab, hheard, Device.fresh_openCommand_prunedBy, hpruned]
  rfl

end

/-- Settles O36: each row is exec's function for it, and the function is one of the equations above. -/
theorem fabricCommandsComplete : Obligations.FabricCommandsComplete := by
  intro s h hl
  refine ⟨fun job rank table off count o bs t hpass hobj hseg hbytes ht hzero hcount hrank hread => ?_,
    fun job hpass => ⟨fun hjob hid hrun => ?_, fun hjob hid hrun => ?_, fun hnot => ?_⟩,
    fun port mode pcps mac vlan ethertype routes off count p m hpass hp hm hreserved hdiffer hvlan => ?_,
    fun kind port mode pcps mac vlan ethertype routes off count hpass hkind => ?_, fun port p hpass hp => ?_,
    fun e2e tries transit hpass hlow hhigh htries htransit => ?_, fun e2e tries transit hpass hbad => ?_,
    fun id scope m hpass hscope hjob hnew hroom hmember hmanager => ?_, fun id scope hpass hscope hjob => ?_,
    fun job n m hpass hjob hid htop hmanager => ?_, fun job n hpass hjob => ?_,
    fun prog lag window a b c e f g i j o m n k p hpass hk hp ha hlag hlag' hwindow hwindow' => ?_,
    fun rank t hpass hrank hheard hpruned => ?_, fun req hw => ?_⟩
  · have hjoin := Device.jobJoin_valid job hpass hobj hseg hbytes ht hzero hcount hrank hread
    exact ⟨fun hjob => .of_act (Device.jobJoin h job rank table off count) hl rfl (hjoin.trans (if_pos (Device.joined_of_job hjob))),
      fun hjob => .of_act (Device.jobJoin h job rank table off count) hl rfl
        (hjoin.trans (if_neg (ne_true_of_eq_false (Device.joined_eq_false hjob))))⟩
  · exact .of_act (Device.jobLeave h job) hl rfl ((Device.jobLeave_member hpass hjob hid).trans (if_neg (ne_true_of_eq_false hrun)))
  · exact .of_act (Device.jobLeave h job) hl rfl ((Device.jobLeave_member hpass hjob hid).trans (if_pos hrun))
  · exact .of_act (Device.jobLeave h job) hl rfl (Device.jobLeave_notMember hpass hnot)
  · have hset := Device.fabPortRun_valid (d := s.dev.fresh.openCommand 0x0701 h) (c := ⟨h, 0x0701⟩) mac ethertype hp hm hreserved hdiffer
      hvlan
    exact ⟨fun hrun => .of_adminCommand _ hl hpass rfl ((if_pos rfl).trans (hset.trans (if_neg (ne_true_of_eq_false hrun)))),
      fun hrun => .of_adminCommand _ hl hpass rfl ((if_pos rfl).trans (hset.trans (if_pos hrun)))⟩
  · exact .of_act (Device.fabPortSet h kind port mode pcps mac vlan ethertype routes off count) hl rfl
      (Device.fabPortSet_noKind port mode pcps mac vlan ethertype routes off count hpass hkind)
  · exact .of_act (Device.fabQuery h port) hl rfl (Device.fabQuery_port hpass hp)
  · have hset := Device.fabTimeoutSet_inRange hpass hlow hhigh htries htransit
    exact ⟨fun hrun => .of_act (Device.fabTimeoutSet h e2e tries transit) hl rfl (hset.trans (if_neg (ne_true_of_eq_false hrun))),
      fun hrun => .of_act (Device.fabTimeoutSet h e2e tries transit) hl rfl (hset.trans (if_pos hrun))⟩
  · exact .of_act (Device.fabTimeoutSet h e2e tries transit) hl rfl (Device.fabTimeoutSet_outOfRange hpass hbad)
  · exact .of_act (Device.fabBarrier h id scope) hl rfl (Device.fabBarrier_entered id hpass hscope hjob hnew hroom hmember hmanager)
  · exact .of_act (Device.fabBarrier h id scope) hl rfl (Device.fabBarrier_notActive id hpass hscope hjob)
  · exact .of_act (Device.jobResume h job n) hl rfl (Device.jobResume_ready n hpass hjob hid htop hmanager)
  · exact .of_act (Device.jobResume h job n) hl rfl (Device.jobResume_notHold n hpass hjob)
  · have hset := Device.mcastSet_lag ⟨a, b, c, e, f, g, i, j, o, m, n⟩ hpass hk hp ha ⟨hlag, hlag'⟩ ⟨hwindow, hwindow'⟩
    exact ⟨fun hstate => .of_act (Device.mcastSet h prog 0 lag window _) hl rfl (hset.trans (if_neg hstate)),
      fun hstate => .of_act (Device.mcastSet h prog 0 lag window _) hl rfl (hset.trans (if_pos hstate))⟩
  · exact .of_act (Device.fabPeerQuery h rank) hl rfl (Device.fabPeerQuery_heard hpass hrank hheard hpruned)
  · exact .of_write _ (Device.updFab · Fabric.countClear) hl hw rfl rfl

end Sys2Proof.Machine
end

section
/-! The passes of the update engine and the refresh of PRE roots (R220-R222, R230, R231, R233, R394): what each row makes of a unit, or of
a step, that is ready for it. -/

namespace Sys2Proof.Machine

/-! ### Units that a pass takes -/

section
variable {d : Device} {k : Fin 16} {n i : Nat} {c : UnitCtx} (errs : List WordError) (lockstep : Bool)
  (hc : d.unitCtx k n i = some c)
include hc

theorem Device.withUnit_notReady {ready : UnitCtx → Bool} (f : UnitCtx → Device → Device) (hready : ready c = false) :
    d.withUnit k n i errs lockstep ready f = d := by
  simp only [Device.withUnit, hc, hready, Bool.and_false]
  rfl

theorem Device.pass1Run_noNorm (hnorm : c.p.gx.normMode = 0) : d.pass1Run k n i errs lockstep = d :=
  Device.withUnit_notReady errs lockstep hc _ (by simp [hnorm])

theorem Device.pass2Run_noClip (hclip : c.st.clip = none) : d.pass2Run k n i errs lockstep = d :=
  Device.withUnit_notReady errs lockstep hc _ (by simp [hclip])

section
variable (hrun : c.p.state = .running) (hworks : d.tun.faulted = false) (hfree : d.resourcesFree k c.st [8] = true)
  (hroots : c.rule = .pre → c.p.rootsStand n = true)
include hrun hworks hfree hroots

/-- A pass takes a unit that is ready for it; one under PRE waits for the refresh of a step before (R230; log entry 138). -/
theorem Device.withUnit_ready {ready : UnitCtx → Bool} (f : UnitCtx → Device → Device) (hready : ready c = true) :
    d.withUnit k n i errs lockstep ready f = d.consume errs fun d => d.inLockstep lockstep fun d => f c d := by
  have hstand : (c.rule != .pre || c.p.rootsStand n) = true := by
    by_cases hpre : c.rule = .pre
    · simp [hroots hpre]
    · simp [hpre]
  simp only [Device.withUnit, hc, hrun, hworks, hfree, hstand, hready]
  rfl

/-! ### The passes (R220-R222, R233) -/

theorem Device.pass1Run_ready (hnorm : c.p.gx.normMode ≠ 0) (hwait : c.u.state = .waitGrad) (hcomplete : c.u.complete = true) :
    d.pass1Run k n i errs lockstep = d.consume errs fun d => d.inLockstep lockstep fun d =>
      (c.firstPass k c.u.values (c.writeGrad c.u.values (d.rescale k n c.u.ord))).updUnit k n i fun u =>
        { u with state := if c.rule = .none then .done else .waitApply, grad := [] } :=
  Device.withUnit_ready errs lockstep hc hrun hworks hfree hroots _ (by simpa [hwait, hcomplete] using hnorm)

/-- Pass 2 reads ĝ again, and applies the clip factor that its step has received (R221). -/
theorem Device.pass2Run_ready {n2 f sats : Word32} (hclip : c.st.clip = some (n2, f, sats)) (hnorm : c.p.gx.normMode ≠ 0)
    (hwait : c.u.state = .waitApply) (hwrite : c.p.mayWrite c.st c.x = true) :
    d.pass2Run k n i errs lockstep = d.consume errs fun d => d.inLockstep lockstep fun d =>
      let zs := d.readZ16 c.set.gradObject (c.p.gradAt c.g c.f c.u.ord c.x c.u.index) c.u.length
      let r := c.secondPass k zs f (d.noteRate c)
      c.publish k i r.2 r.1 := by
  refine (Device.withUnit_ready errs lockstep hc hrun hworks hfree hroots _ (by simpa [hwait, hclip, hwrite] using hnorm)).trans ?_
  simp only [hclip, Option.map_some, Option.getD_some]

section
variable (hnorm : c.p.gx.normMode = 0) (hwait : c.u.state = .waitGrad) (hcomplete : c.u.complete = true)
include hnorm hwait hcomplete

/-- A tensor without a rule ends with ĝ in GRAD_OBJECT (R233). -/
theorem Device.singlePassRun_noRule (hrule : c.rule = .none) :
    d.singlePassRun k n i errs lockstep = d.consume errs fun d => d.inLockstep lockstep fun d =>
      (c.writeGrad c.u.values d).updUnit k n i fun u => { u with state := .done, grad := [] } := by
  refine (Device.withUnit_ready errs lockstep hc hrun hworks hfree hroots _ (by simp [hnorm, hwait, hcomplete, hrule])).trans ?_
  simp only [hrule, if_true]

/-- The steps of both passes in one visit, under a clip factor of one (R222). -/
theorem Device.singlePassRun_ruled (hrule : c.rule ≠ .none) (hwrite : c.p.mayWrite c.st c.x = true) :
    d.singlePassRun k n i errs lockstep = d.consume errs fun d => d.inLockstep lockstep fun d =>
      let r := c.secondPass k c.u.values w32One (c.firstPass k c.u.values ((d.rescale k n c.u.ord).noteRate c))
      c.publish k i r.2 (r.1.updUnit k n i fun u => { u with grad := [] }) := by
  refine (Device.withUnit_ready errs lockstep hc hrun hworks hfree hroots _ (by simp [hnorm, hwait, hcomplete, hwrite])).trans ?_
  simp only [if_neg hrule]

end

end

/-! ### The refresh (R230, R231) -/

theorem Device.refreshUnits_single :
    d.refreshUnits k n [i] =
      let r := d.refreshBlock k c {}
      let d := (r.1.updProg k fun p => { p with singular := r.2.tensors }).updStep k n fun st => { st with refreshed := true }
      if r.2.kept + r.2.identity = 0 then d
      else d.logEvent 0x0402 .warn k.val (evData [(2, min r.2.kept 65535), (2, min r.2.identity 65535)]) srcUpdate := by
  simp only [Device.refreshUnits, List.foldl_cons, List.foldl_nil, hc]

end

section
variable {d : Device} {k : Fin 16} {n : Nat} {p : Program} {st : StepState} (errs : List WordError) (lockstep : Bool)
  (hp : d.progs[k] = some p) (hst : p.stepAt n = some st)
include hp hst

theorem Device.rootRefresh_notDue (hdue : st.refreshDue = false) : d.rootRefresh k n errs lockstep = d := by
  simp only [Device.rootRefresh, hp, hst]
  exact if_pos (by simp [hdue])

/-- A refresh that is due, once the new weights of every PRE unit of its step are written (R230). -/
theorem Device.rootRefresh_due (hrun : p.state = .running) (hdue : st.refreshDue = true) (honce : st.refreshed = false)
    (hdone : st.uDone = true) (hfree : d.resourcesFree k st [8] = true)
    (happlied : ∀ i ∈ p.preUnits st, ∃ u, st.units[i]? = some u ∧ (u.state = .sending ∨ u.state = .done)) :
    d.rootRefresh k n errs lockstep =
      d.consume errs fun d => d.inLockstep lockstep fun d => d.refreshUnits k n (p.preUnits st) := by
  have hall : ((p.preUnits st).all fun i => (st.units[i]?).any fun u => u.state == .sending || u.state == .done) = true := by
    refine List.all_eq_true.2 fun i hi => ?_
    obtain ⟨u, hu, hstate⟩ := happlied i hi
    simpa [hu] using hstate
  simp only [Device.rootRefresh, hp, hst, hrun, hdue, honce, hdone, hfree, hall]
  rfl

end

/-- Settles O21: each row is exec's function for it, and the function is one of the equations above. -/
theorem updatePassesComplete : Obligations.UpdatePassesComplete := by
  refine ⟨fun s k n i errs lockstep c hl hc hrun hworks hfree hroots => ?_,
    fun s k n errs lockstep p st hl hp hst => ⟨fun hrun hdue honce hdone hfree happlied => ?_, fun hdue => ?_⟩,
    fun d k n i c hc => Device.refreshUnits_single hc⟩
  · have hc : s.dev.fresh.unitCtx k n.toNat i = some c := hc
    refine ⟨fun hnorm hwait hcomplete => ?_, fun hnorm => ?_, fun n2 f sats hclip hnorm hwait hwrite => ?_, fun hclip => ?_,
      fun hnorm hwait hcomplete hrule => ?_, fun hnorm hwait hcomplete hrule hwrite => ?_⟩
    · exact .of_act (Device.pass1Run k n.toNat i errs lockstep) hl rfl
        (Device.pass1Run_ready errs lockstep hc hrun hworks hfree hroots hnorm hwait hcomplete)
    · exact .of_act (Device.pass1Run k n.toNat i errs lockstep) hl rfl (Device.pass1Run_noNorm errs lockstep hc hnorm)
    · exact .of_act (Device.pass2Run k n.toNat i errs lockstep) hl rfl
        (Device.pass2Run_ready errs lockstep hc hrun hworks hfree hroots hclip hnorm hwait hwrite)
    · exact .of_act (Device.pass2Run k n.toNat i errs lockstep) hl rfl (Device.pass2Run_noClip errs lockstep hc hclip)
    · exact .of_act (Device.singlePassRun k n.toNat i errs lockstep) hl rfl
        (Device.singlePassRun_noRule errs lockstep hc hrun hworks hfree hroots hnorm hwait hcomplete hrule)
    · exact .of_act (Device.singlePassRun k n.toNat i errs lockstep) hl rfl
        (Device.singlePassRun_ruled errs lockstep hc hrun hworks hfree hroots hnorm hwait hcomplete hrule hwrite)
  · exact .of_act (Device.rootRefresh k n.toNat errs lockstep) hl rfl
      (Device.rootRefresh_due (d := s.dev.fresh) errs lockstep hp hst hrun hdue honce hdone hfree happlied)
  · exact .of_act (Device.rootRefresh k n.toNat errs lockstep) hl rfl
      (Device.rootRefresh_notDue (d := s.dev.fresh) errs lockstep hp hst hdue)

end Sys2Proof.Machine
end

section
/-! RULE_SET, RULE_QUERY, ALMANAC_SET, ALMANAC_QUERY and PRE_REFRESH (R235-R239): what the body of each makes of a device on which its
packet has passed the checks. -/

namespace Sys2Proof.Machine

section
variable {d : Device} {c : OpenCmd} {prog : BitVec 8} {k : Fin 16} {p : Program} (hk : prog.toNat = k.val)
  (hp : d.progs[k] = some p) (ha : p.account = c.hdr.account)
include hk hp ha

/-- RULE_SET with no overrides and without INIT, on objects of the account that hold the state and gradient of the rules (R237, R239). -/
theorem Device.ruleSetRun_accepted {rule : BitVec 8} {b1 b2 eps wd pre : Word16} {so go ovr start : Word32} {r : RuleSet} {o : Obj}
    (hask : d.rulesAsked p rule 0 b1 b2 eps wd pre so go ovr 0 start = some r) (howns : d.owns c.hdr.account so = true)
    (hownsGrad : go ≠ 0 → d.owns c.hdr.account go = true) (hstate : p.state ≠ .running) (hobj : d.obj? so = some o)
    (hroom : (d.ruleSizes p r).1 ≤ o.size) (hroomGrad : go ≠ 0 → ∃ g, d.obj? go = some g ∧ (d.ruleSizes p r).2 ≤ g.size) :
    d.ruleSetRun prog rule 0 b1 b2 eps wd pre so go ovr 0 start c =
      ((((d.progUnpin (p.ruleObjects.filter (· != 0))).progPin ([so, go].filter (· != 0))).updProg k fun p =>
        { p with rules := some r, singular := [] }).logEvent 0x0401 .info k.val (evData [(1, 0)]) srcUpdate).ok c
        (granules2K (d.ruleSizes p r).1 + granules2K (d.ruleSizes p r).2 * 2 ^ 32) := by
  have hask' : d.rulesAsked p rule 0 b1 b2 eps wd pre so go ovr (0 : Word16).toNat start = some r := hask
  have hmine : (go != 0 && !d.owns c.hdr.account go) = false := by
    by_cases h : go = 0
    · simp [h]
    · simp [hownsGrad h]
  have hfits : (go != 0 && !(d.obj? go).any fun g => decide ((d.ruleSizes p r).2 ≤ g.size)) = false := by
    by_cases h : go = 0
    · simp [h]
    · obtain ⟨g, hg, hsize⟩ := hroomGrad h
      simp [hg, hsize]
  rw [Device.ruleSetRun]
  refine (Device.onProgram_owned hk hp _ ha (by simp only [hask', Option.isNone_some])).trans ?_
  simp only [hask', howns, hmine, if_neg hstate, hobj, Option.any_some, decide_eq_true hroom, hfits]
  rfl

end

section
variable {d : Device} {h : CmdHdr} {prog : BitVec 8} {k : Fin 16} {p : Program} (hk : prog.toNat = k.val)
  (hp : d.progs[k] = some p)
include hk hp

/-! ### Operands that are refused -/

theorem Device.ruleQuery_noRules {tensor : Word32} (hpass : d.passes 0x0402 h) (hrules : p.rules = none) :
    d.fresh.ruleQuery h prog tensor = (d.fresh.openCommand 0x0402 h).finish ⟨h, 0x0402⟩ .badParam := by
  rw [Device.ruleQuery, Device.command_of_passes _ hpass]
  exact Device.onProgram_bad (d := d.fresh.openCommand 0x0402 h) hk hp _ (by simp [hrules])

theorem Device.preRefresh_noPre (hpass : d.passes 0x0405 h) (hpre : p.hasPre = false) :
    d.fresh.preRefresh h prog = (d.fresh.openCommand 0x0405 h).finish ⟨h, 0x0405⟩ .badParam := by
  rw [Device.preRefresh, Device.command_of_passes _ hpass]
  exact Device.onProgram_bad (d := d.fresh.openCommand 0x0405 h) hk hp _ (by simp [hpre])

theorem Device.almanacSet_badSchedule {wk dk tm : BitVec 8} {base lo wu ds ga start : Word32} (hpass : d.passes 0x0403 h)
    (hok : scheduleOk wk dk tm base lo ds ga = false) :
    d.fresh.almanacSet h prog wk dk tm base lo wu ds ga start =
      (d.fresh.openCommand 0x0403 h).finish ⟨h, 0x0403⟩ .badParam := by
  rw [Device.almanacSet, Device.command_of_passes _ hpass]
  exact Device.onProgram_bad (d := d.fresh.openCommand 0x0403 h) hk hp _ (by simp [hok])

/-! ### Commands that are accepted -/

section
variable (ha : p.account = h.account)
include ha

/-- The schedule is staged for the steps still to be launched (R236). -/
theorem Device.almanacSet_staged {wk dk tm : BitVec 8} {base lo wu ds ga start : Word32} (hpass : d.passes 0x0403 h)
    (hok : scheduleOk wk dk tm base lo ds ga = true) :
    d.fresh.almanacSet h prog wk dk tm base lo wu ds ga start =
      (((d.fresh.openCommand 0x0403 h).updProg k fun p => { p with stagedSchedule := some <|
        { warmupKind := wk.extractLsb' 0 2, decayKind := dk.extractLsb' 0 3, tMult := tm.toNat, baseLr := base, minLr := lo
          warmupSteps := wu.toNat, decaySteps := ds.toNat, gamma := ga, schedStart := start.toNat } }).logEvent 0x0403 .info k.val 0
        srcUpdate).ok ⟨h, 0x0403⟩ := by
  rw [Device.almanacSet, Device.command_of_passes _ hpass]
  exact Device.onProgram_owned (d := d.fresh.openCommand 0x0403 h) hk hp _ ha (by simp [hok])

theorem Device.almanacQuery_rate (n : Nat) (hpass : d.passes 0x0404 h) :
    d.fresh.almanacQuery h prog n = (d.fresh.openCommand 0x0404 h).ok ⟨h, 0x0404⟩ (p.nextSchedule.lr n).toNat := by
  rw [Device.almanacQuery, Device.command_of_passes _ hpass]
  exact Device.onProgram_owned (d := d.fresh.openCommand 0x0404 h) hk hp _ ha rfl

theorem Device.preRefresh_asked (hpass : d.passes 0x0405 h) (hpre : p.hasPre = true) :
    d.fresh.preRefresh h prog =
      ((d.fresh.openCommand 0x0405 h).updProg k fun p => { p with preRefresh := true }).ok ⟨h, 0x0405⟩ := by
  rw [Device.preRefresh, Device.command_of_passes _ hpass]
  exact Device.onProgram_owned (d := d.fresh.openCommand 0x0405 h) hk hp _ ha (by simp [hpre])

/-- A tensor without a rule has neither units nor fallbacks to report (R237; log entry 153). -/
theorem Device.ruleQuery_noRule {tensor : Word32} {r : RuleSet} {ord : Nat} (hpass : d.passes 0x0402 h) (hrules : p.rules = some r)
    (hord : p.ordinalOf tensor = some ord) (hnone : (r.ruleOf tensor).rule = .none) (hpre : p.ruleOf (p.released ord) ≠ .pre)
    (hsingular : p.singular = []) :
    d.fresh.ruleQuery h prog tensor = (d.fresh.openCommand 0x0402 h).ok ⟨h, 0x0402⟩ Rule.none.code := by
  rw [Device.ruleQuery, Device.command_of_passes _ hpass]
  refine (Device.onProgram_owned (d := d.fresh.openCommand 0x0402 h) hk hp _ ha (by simp [hrules, Program.isReleased, hord])).trans ?_
  simp only [hrules, hord, hnone, if_true, if_neg hpre, hsingular]
  rfl

end

end

/-- Settles O23: each row's body acts on the program it names, which is the account's. -/
theorem updateCommandsComplete : Obligations.UpdateCommandsComplete := by
  intro s h prog k p hl hk hp ha
  refine ⟨fun rule b1 b2 eps wd pre so go ovr start r o hpass hask howns hownsGrad hstate hobj hroom hroomGrad => ?_,
    fun tensor r ord hpass hrules hord hnone hpre hsingular => ?_, fun tensor hpass hrules => ?_,
    fun wk dk tm base lo wu ds ga start hpass hok => ?_, fun wk dk tm base lo wu ds ga start hpass hok => ?_,
    fun n hpass => ?_, fun hpass hpre => ?_, fun hpass hpre => ?_⟩
  · exact .of_command _ hl hpass rfl ((Device.withList_empty _).trans
      (Device.ruleSetRun_accepted (d := s.dev.fresh.openCommand 0x0401 h) hk hp ha hask howns hownsGrad hstate hobj hroom hroomGrad))
  · exact .of_act (Device.ruleQuery h prog tensor) hl rfl (Device.ruleQuery_noRule hk hp ha hpass hrules hord hnone hpre hsingular)
  · exact .of_act (Device.ruleQuery h prog tensor) hl rfl (Device.ruleQuery_noRules hk hp hpass hrules)
  · exact .of_act (Device.almanacSet h prog wk dk tm base lo wu ds ga start) hl rfl (Device.almanacSet_staged hk hp ha hpass hok)
  · exact .of_act (Device.almanacSet h prog wk dk tm base lo wu ds ga start) hl rfl (Device.almanacSet_badSchedule hk hp hpass hok)
  · exact .of_act (Device.almanacQuery h prog n.toNat) hl rfl (Device.almanacQuery_rate hk hp ha n.toNat hpass)
  · exact .of_act (Device.preRefresh h prog) hl rfl (Device.preRefresh_asked hk hp ha hpass hpre)
  · exact .of_act (Device.preRefresh h prog) hl rfl (Device.preRefresh_noPre hk hp hpass hpre)

end Sys2Proof.Machine
end

section
/-! KV spaces and their sequences as the commands of block 0x05 name them (R268, R269): what a packet leaves as it was, the space and the
sequence that a command finds, and the changes of a space. -/

namespace Sys2Proof.Machine

/-! ### What a packet leaves as it was -/

section
variable (d : Device) (op : Word16) (h : CmdHdr)

@[simp] theorem Device.fresh_openCommand_aster : (d.fresh.openCommand op h).aster = d.aster := rfl

@[simp] theorem Device.fresh_openCommand_spaceAt (n : Nat) : (d.fresh.openCommand op h).spaceAt n = d.spaceAt n := rfl

@[simp] theorem Device.fresh_openCommand_spaceNamed (sp : Fin 16) : (d.fresh.openCommand op h).spaceNamed sp = d.spaceNamed sp := rfl

@[simp] theorem Device.fresh_openCommand_tokenList (id : Word32) (off n : Nat) :
    (d.fresh.openCommand op h).tokenList id off n = d.tokenList id off n := rfl

@[simp] theorem Device.fresh_openCommand_mustHold (sp : Fin 16) (s : Space) (id : Word32) :
    (d.fresh.openCommand op h).mustHold sp s id = d.mustHold sp s id := rfl

end

/-! ### The space and the sequence that a command names -/

section
variable {d : Device} {sp : Fin 16} {sc : Space} (hs : d.aster.spaces[sp] = some sc)
include hs

/-- Changes of a space that agree on what it holds. -/
theorem Device.updSpace_congr {f g : Space → Space} (h : f sc = g sc) : d.updSpace sp f = d.updSpace sp g := by
  simp only [Device.updSpace, Bank.upd, hs, Option.map_some, h]

theorem Device.updSpace_get (f : Space → Space) : (d.updSpace sp f).aster.spaces[sp] = some (f sc) := by
  rw [Device.updSpace_aster, Bank.upd_same, hs, Option.map_some]

variable {n : Nat} (hn : n = sp.val)
include hn

theorem Device.spaceAt_of_spaces : d.spaceAt n = some (sp, sc) := by
  simp only [Device.spaceAt, asFin_eq_some hn, Option.bind_some, hs, Option.map_some]

end

section
variable {d : Device} {c : OpenCmd} {space : BitVec 8} {sp : Fin 16} {sc : Space} (hs : d.spaceAt space.toNat = some (sp, sc))
  (ha : sc.owner = c.hdr.account)
include hs ha

theorem Device.withSpace_owned (f : Fin 16 → Space → Device → Device) : d.withSpace c space f = f sp sc d := by
  simp only [Device.withSpace, hs]
  exact if_neg (not_not_intro ha)

theorem Device.withSeq_owned {seq : Word32} {q : Sequence} (f : Fin 16 → Space → Sequence → Device → Device)
    (hq : sc.seq? seq = some q) : d.withSeq c space seq f = f sp sc q d := by
  simp only [Device.withSeq, hs, hq]
  exact if_neg (not_not_intro ha)

end

/-! ### Commands on a space (R250, R259, R266, R268) -/

/-- KV_CREATE in a free slot, with fields in range and a pool of the account that is in T2 and large enough (R250, R268). -/
theorem Device.kvCreate_free {d : Device} {h : CmdHdr} {space : BitVec 8} {sp : Fin 16} {rank layers : Word16}
    {pool pages tables seqs : Word32} (salt : Word64) {o : Obj} (hpass : d.passes 0x0501 h) (hn : space.toNat = sp.val)
    (hobj : d.obj? pool = some o) (ht2 : o.allT2 = true) (howner : o.owner = h.account) (hfree : d.aster.spaces[sp] = none)
    (hfields : 64 ≤ rank.toNat ∧ rank.toNat ≤ 1024 ∧ rank.toNat % 16 = 0 ∧ 1 ≤ layers.toNat ∧ layers.toNat ≤ 4096 ∧ 1 ≤ pages.toNat
      ∧ 2 ≤ tables.toNat ∧ 1 ≤ seqs.toNat ∧ seqs.toNat ≤ 65536)
    (hsize : poolBytes rank.toNat layers.toNat pages.toNat tables.toNat seqs.toNat ≤ o.size)
    (htotal : d.seqTotal + seqs.toNat ≤ 65536) :
    d.fresh.kvCreate h space rank layers pool pages tables seqs salt =
      (((d.fresh.openCommand 0x0501 h).setSpace sp (some
        { owner := h.account, rank := rank.toNat, layers := layers.toNat, pool := pool, pages := pages.toNat
          tablePages := tables.toNat, maxSeqs := seqs.toNat, salt := salt, bounds := defaultBounds })).progPin [pool]).ok ⟨h, 0x0501⟩
        (poolBytes rank.toNat layers.toNat pages.toNat tables.toNat seqs.toNat % 2 ^ 48) := by
  have hroom : ¬ (o.size < poolBytes rank.toNat layers.toNat pages.toNat tables.toNat seqs.toNat
      ∨ 65536 < d.seqTotal + seqs.toNat) := not_or.2 ⟨Nat.not_lt.2 hsize, Nat.not_lt.2 htotal⟩
  rw [Device.kvCreate, Device.command_of_passes _ hpass]
  simp only [asFin_eq_some hn, Device.fresh_openCommand_obj?, hobj, Device.fresh_openCommand_aster, hfree, decide_eq_true hfields, ht2]
  exact (if_neg (by decide)).trans ((if_neg (not_not_intro howner)).trans (if_neg hroom))

section
variable {d : Device} {h : CmdHdr} {space : BitVec 8} {sp : Fin 16} {sc : Space} (hs : d.spaceAt space.toNat = some (sp, sc))
  (ha : sc.owner = h.account)
include hs ha

/-- KV_DESTROY of a space that no program names, with no sequence pinned and no edit held (R268). -/
theorem Device.kvDestroy_unused (hpass : d.passes 0x0502 h) (hnamed : d.spaceNamed sp = false)
    (hpins : ∀ q ∈ sc.seqs, q.isPinned = false) (hedits : sc.heldEdits = []) :
    let e := d.fresh.openCommand 0x0502 h
    d.fresh.kvDestroy h space =
      ({ e with aster := { e.aster with
          spaces := Bank.upd e.aster.spaces sp fun _ => none
          walks := e.aster.walks.filter fun w => w.space != sp
          queues := e.aster.queues.filter fun q => q.space != sp } }.clearGathering.progUnpin [sc.pool]).ok ⟨h, 0x0502⟩ := by
  have hpinned : sc.seqs.any Sequence.isPinned = false := List.any_eq_false.2 fun q hq => by simp [hpins q hq]
  rw [Device.kvDestroy, Device.command_of_passes _ hpass]
  refine (Device.withSpace_owned (d := d.fresh.openCommand 0x0502 h) hs ha _).trans ?_
  simp only [Device.fresh_openCommand_spaceNamed, hnamed, hpinned, hedits]
  rfl

theorem Device.kvPin_open (unpin : Bool) {seq : Word32} {q : Sequence} (hpass : d.passes 0x0507 h) (hq : sc.seq? seq = some q) :
    d.fresh.kvPin h space unpin seq =
      ((d.fresh.openCommand 0x0507 h).updSpace sp fun s =>
        { s with seqs := updFirst (fun q => q.id == seq) (fun q => { q with pinned := !unpin }) s.seqs }).ok ⟨h, 0x0507⟩ := by
  rw [Device.kvPin, Device.command_of_passes _ hpass]
  exact Device.withSeq_owned (d := d.fresh.openCommand 0x0507 h) hs ha _ hq

/-- KV_CONFIG with fifteen rising boundaries, and a recompute program that the account may name or none (R259, R266). -/
theorem Device.kvConfig_valid {prog : BitVec 8} {handle : Word16} (hold : Word32) {bounds : List Word32} (hpass : d.passes 0x0508 h)
    (hlen : bounds.length = 15) (hrise : rising (bounds.map BitVec.toNat) = true) (hprog : d.recompOk h.account prog handle = true) :
    d.fresh.kvConfig h space prog handle hold bounds =
      ((d.fresh.openCommand 0x0508 h).updSpace sp fun s =>
        { s with
          recompProg := if prog = 0xFF then none else some prog.toNat, recompHandle := handle.extractLsb' 0 12
          gatherHold := hold.toNat, bounds := bounds.map BitVec.toNat }).ok ⟨h, 0x0508⟩ := by
  have hvalid : ¬ ((bounds.map BitVec.toNat).length ≠ 15 ∨ !rising (bounds.map BitVec.toNat)
      ∨ !d.recompOk h.account prog handle) := by simp [hlen, hrise, hprog]
  rw [Device.kvConfig, Device.command_of_passes _ hpass]
  simp only [Device.fresh_openCommand_spaceAt, hs]
  exact (if_neg hvalid).trans (if_neg (not_not_intro ha))

theorem Device.kvQuery_open {seq : Word32} {q : Sequence} (hpass : d.passes 0x0509 h) (hq : sc.seq? seq = some q) :
    d.fresh.kvQuery h space seq =
      (d.fresh.openCommand 0x0509 h).finish ⟨h, 0x0509⟩ (if sc.anyDropped q then .pagesDropped else .ok)
        (q.length % 2 ^ 32 + min (sc.pagesOf q).length (2 ^ 31 - 1) * 2 ^ 32 + (if q.isPinned then 2 ^ 63 else 0)) := by
  rw [Device.kvQuery, Device.command_of_passes _ hpass]
  exact Device.withSeq_owned (d := d.fresh.openCommand 0x0509 h) hs ha _ hq

end

/-- No recompute program is named. -/
theorem Device.recompOk_none (d : Device) (a : BitVec 6) (handle : Word16) : d.recompOk a 0xFF handle = true := rfl

/-- Settles O14: each row is exec's function for it, and the function is one of the equations above. -/
theorem kvSpaceCommandsComplete : Obligations.KvSpaceCommandsComplete := by
  intro s h space sp hl hn
  refine ⟨fun rank layers pool pages tables seqs salt o hpass hobj ht2 howner hfree hr hr' hr16 hl1 hl2 hp1 ht hq1 hq2 hsize htotal => ?_,
    fun sc hs ha => ?_⟩
  · exact .of_act (Device.kvCreate h space rank layers pool pages tables seqs salt) hl rfl
      (Device.kvCreate_free salt hpass hn hobj ht2 howner hfree ⟨hr, hr', hr16, hl1, hl2, hp1, ht, hq1, hq2⟩ hsize htotal)
  have hat := Device.spaceAt_of_spaces hs hn
  refine ⟨fun hpass hnamed hpins hedits => ?_, fun seq q unpin hpass hq => ?_, fun handle hold bounds hpass hlen hrise => ?_,
    fun prog handle hold bounds hpass hne hok hlen hrise => ?_, fun seq q hpass hq => ?_⟩
  · exact .of_act (Device.kvDestroy h space) hl rfl (Device.kvDestroy_unused hat ha hpass hnamed hpins hedits)
  · exact .of_act (Device.kvPin h space unpin seq) hl rfl (Device.kvPin_open hat ha unpin hpass hq)
  · exact .of_act (Device.kvConfig h space 0xFF handle hold bounds) hl rfl
      (Device.kvConfig_valid hat ha hold hpass hlen hrise (s.dev.recompOk_none h.account handle))
  · exact .of_act (Device.kvConfig h space prog handle hold bounds) hl rfl
      ((Device.kvConfig_valid hat ha hold hpass hlen hrise hok).trans (by simp only [if_neg hne]))
  · exact .of_act (Device.kvQuery h space seq) hl rfl (Device.kvQuery_open hat ha hpass hq)

end Sys2Proof.Machine
end

section
/-! The commands on sequences (R255, R260, R264, R265, R268) and what the close of a sequence leaves of its space. -/

namespace Sys2Proof.Machine

/-! ### Edits that nothing holds (R256) -/

section
variable {d : Device} {sp : Fin 16} {s : Space} {c : OpenCmd} {e : KvEdit} (wait : Device → Device)

theorem Device.tryEdit_ready (hroom : d.kvRoom sp s 16 0 (s.editAsk e) = .ready) : d.tryEdit sp s c e wait = d.applyEdit sp c e := by
  cases hstands : s.editStands e <;> simp [Device.tryEdit, hstands, hroom]

theorem Device.tryEdit_wait (hstands : s.editStands e = true) (hroom : d.kvRoom sp s 16 0 (s.editAsk e) = .wait) :
    d.tryEdit sp s c e wait = wait d := by
  simp [Device.tryEdit, hstands, hroom]

end

/-- What asks for no page and no table page has room. -/
theorem Device.kvRoom_nothing (d : Device) (sp : Fin 16) (s : Space) (k step : Nat) : d.kvRoom sp s k step {} = .ready := by
  simp [Device.kvRoom]

/-! ### Commands on a sequence -/

section
variable {d : Device} {h : CmdHdr} {space : BitVec 8} {sp : Fin 16} {sc : Space} (hs : d.spaceAt space.toNat = some (sp, sc))
include hs

/-- KV_SEQ_OPEN of a sequence that is open already (R268). -/
theorem Device.kvSeqOpen_taken (lookup : Bool) {seq : Word32} {q : Sequence} (object : Word32) (off n : Nat) (hpass : d.passes 0x0503 h)
    (hq : sc.seq? seq = some q) :
    d.fresh.kvSeqOpen h space lookup seq object off n = (d.fresh.openCommand 0x0503 h).finish ⟨h, 0x0503⟩ .badParam := by
  rw [Device.kvSeqOpen, Device.command_of_passes _ hpass]
  simp only [Device.fresh_openCommand_spaceAt, hs, hq, Option.isSome_some, Bool.true_or, if_true]

section
variable (ha : sc.owner = h.account)
include ha

/-! #### KV_SEQ_OPEN (R264) -/

section
variable {seq : Word32} (hpass : d.passes 0x0503 h) (hq : sc.seq? seq = none) (hseqs : sc.seqs.length < sc.maxSeqs)
  (htables : sc.tablesAvailable 16 0 ≠ 0)
include hpass hq hseqs htables

theorem Device.kvSeqOpen_empty (object : Word32) (off n : Nat) :
    d.fresh.kvSeqOpen h space false seq object off n = (d.fresh.openCommand 0x0503 h).openSeq sp sc ⟨h, 0x0503⟩ seq [] := by
  rw [Device.kvSeqOpen, Device.command_of_passes _ hpass]
  simp [hs, hq, ha, Nat.not_le.2 hseqs, htables]

theorem Device.kvSeqOpen_lookup {object : Word32} {off n : Nat} {toks : List Word32} (htoks : d.tokenList object off n = some toks)
    (hread : d.mayRead object h.account = true) (ht3 : ∀ o, d.obj? object = some o → o.t3Segments off (4 * n) = []) :
    d.fresh.kvSeqOpen h space true seq object off n = (d.fresh.openCommand 0x0503 h).openSeq sp sc ⟨h, 0x0503⟩ seq toks := by
  have hstaged : ((d.obj? object).any fun o => !(o.t3Segments off (4 * n)).isEmpty) = false := by
    cases hobj : d.obj? object with
    | none => rfl
    | some o => simp [ht3 o hobj]
  rw [Device.kvSeqOpen, Device.command_of_passes _ hpass]
  simp [hs, hq, ha, Nat.not_le.2 hseqs, htables, htoks, hread, hstaged]

end

/-! #### KV_SEQ_CLOSE, KV_SEQ_FORK and KV_TRUNCATE (R255, R260, R265) -/

theorem Device.kvSeqClose_pinned (nowait : Bool) {seq : Word32} {q : Sequence} (hpass : d.passes 0x0504 h) (hq : sc.seq? seq = some q)
    (hpin : q.pinned = true) :
    d.fresh.kvSeqClose h space nowait seq = (d.fresh.openCommand 0x0504 h).finish ⟨h, 0x0504⟩ .busy := by
  rw [Device.kvSeqClose, Device.command_of_passes _ hpass]
  simp [hs, hq, ha, hpin]

theorem Device.kvSeqClose_held (nowait : Bool) {seq : Word32} {q : Sequence} (hpass : d.passes 0x0504 h) (hq : sc.seq? seq = some q)
    (hpin : q.pinned = false) (hhold : d.mustHold sp sc seq = true) :
    d.fresh.kvSeqClose h space nowait seq =
      if nowait then (d.fresh.openCommand 0x0504 h).finish ⟨h, 0x0504⟩ .busy
      else (d.fresh.openCommand 0x0504 h).holdEdit sp ⟨h, 0x0504⟩ (.close seq) := by
  rw [Device.kvSeqClose, Device.command_of_passes _ hpass]
  simp [hs, hq, ha, hpin, hhold]

/-- A close takes no page, so one that nothing holds is made. -/
theorem Device.kvSeqClose_free (nowait : Bool) {seq : Word32} {q : Sequence} (hpass : d.passes 0x0504 h) (hq : sc.seq? seq = some q)
    (hpin : q.pinned = false) (hhold : d.mustHold sp sc seq = false) :
    d.fresh.kvSeqClose h space nowait seq = (d.fresh.openCommand 0x0504 h).closeSeq sp ⟨h, 0x0504⟩ seq := by
  have htry : d.fresh.kvSeqClose h space nowait seq = (d.fresh.openCommand 0x0504 h).tryEdit sp sc ⟨h, 0x0504⟩ (.close seq) fun d =>
      d.holdEdit sp ⟨h, 0x0504⟩ (.close seq) true := by
    rw [Device.kvSeqClose, Device.command_of_passes _ hpass]
    simp [hs, hq, ha, hpin, hhold]
  exact htry.trans (Device.tryEdit_ready _ (Device.kvRoom_nothing ..))

theorem Device.kvSeqFork_ready (nowait : Bool) {src dst len : Word32} {q : Sequence} (hpass : d.passes 0x0505 h)
    (hq : sc.seq? src = some q) (hlen : len.toNat ≤ q.length) (hdst : sc.seq? dst = none) (hhold : d.mustHold sp sc src = false)
    (hroom : d.kvRoom sp sc 16 0 (sc.editAsk (.fork src dst len.toNat)) = .ready) :
    d.fresh.kvSeqFork h space nowait src dst len = (d.fresh.openCommand 0x0505 h).forkSeq sp ⟨h, 0x0505⟩ src dst len.toNat := by
  have htry : d.fresh.kvSeqFork h space nowait src dst len =
      (d.fresh.openCommand 0x0505 h).tryEdit sp sc ⟨h, 0x0505⟩ (.fork src dst len.toNat) fun d =>
        d.holdEdit sp ⟨h, 0x0505⟩ (.fork src dst len.toNat) true := by
    rw [Device.kvSeqFork, Device.command_of_passes _ hpass]
    simp [hs, hq, ha, hdst, hhold, Nat.not_lt.2 hlen]
  exact htry.trans (Device.tryEdit_ready _ hroom)

section
variable (nowait : Bool) {seq len : Word32} {q : Sequence} (hpass : d.passes 0x0506 h) (hq : sc.seq? seq = some q)
  (hlen : len.toNat ≤ q.length) (hpin : q.pinned = false) (hhold : d.mustHold sp sc seq = false)
include hpass hq hlen hpin hhold

/-- A KV_TRUNCATE that nothing holds is tried (R256). -/
theorem Device.kvTruncate_free :
    d.fresh.kvTruncate h space nowait seq len =
      (d.fresh.openCommand 0x0506 h).tryEdit sp sc ⟨h, 0x0506⟩ (.truncate seq len.toNat) fun d =>
        d.holdEdit sp ⟨h, 0x0506⟩ (.truncate seq len.toNat) true := by
  rw [Device.kvTruncate, Device.command_of_passes _ hpass]
  simp [hs, hq, ha, hpin, hhold, Nat.not_lt.2 hlen]

theorem Device.kvTruncate_ready (hroom : d.kvRoom sp sc 16 0 (sc.editAsk (.truncate seq len.toNat)) = .ready) :
    d.fresh.kvTruncate h space nowait seq len = (d.fresh.openCommand 0x0506 h).truncateSeq sp ⟨h, 0x0506⟩ seq len.toNat :=
  (Device.kvTruncate_free hs ha nowait hpass hq hlen hpin hhold).trans (Device.tryEdit_ready _ hroom)

theorem Device.kvTruncate_wait (hroom : d.kvRoom sp sc 16 0 (sc.editAsk (.truncate seq len.toNat)) = .wait) :
    d.fresh.kvTruncate h space nowait seq len =
      (d.fresh.openCommand 0x0506 h).holdEdit sp ⟨h, 0x0506⟩ (.truncate seq len.toNat) true :=
  (Device.kvTruncate_free hs ha nowait hpass hq hlen hpin hhold).trans
    (Device.tryEdit_wait _ (by simp [Space.editStands, hq, hlen]) hroom)

end

end

end

/-! ### HELD_KV_EDIT_APPLY (R260) -/

section
variable {d : Device} {sp : Fin 16} {sc : Space} {n : Nat} {e : HeldEdit} (hs : d.aster.spaces[sp] = some sc)
  (he : sc.heldEdits[n]? = some e)
include hs he

theorem Device.heldKvEditApply_held (hfree : d.editFree sp sc n e = false) : d.heldKvEditApply sp n = d := by
  simp [Device.heldKvEditApply, hs, he, hfree]

theorem Device.heldKvEditApply_ready (hfree : d.editFree sp sc n e = true)
    (hroom : d.kvRoom sp { sc with heldEdits := sc.heldEdits.eraseIdx n } 16 0
      (Space.editAsk { sc with heldEdits := sc.heldEdits.eraseIdx n } e.edit) = .ready) :
    d.heldKvEditApply sp n =
      (d.updSpace sp fun sc => { sc with heldEdits := sc.heldEdits.eraseIdx n }).applyEdit sp e.cmd e.edit := by
  simp only [Device.heldKvEditApply, hs, he, hfree, if_true]
  exact Device.tryEdit_ready _ hroom

end

/-! ### What the close of a sequence leaves (R255, R268) -/

theorem Device.msix_frame (d : Device) (p : Fin 2) (v : BitVec 8) :
    d.msix p v = { d with ports := (d.msix p v).ports, out := (d.msix p v).out } := by
  fun_cases Device.msix <;> rfl

theorem Device.coalesce_frame (d : Device) (p : Fin 2) :
    d.coalesce p = { d with ports := (d.coalesce p).ports, out := (d.coalesce p).out } := by
  fun_cases Device.coalesce
  · rw [Device.msix_frame]
    rfl
  · rfl

theorem Device.writeReply_frame (d : Device) (p : Fin 2) (noIrq : Bool) (r : Reply) :
    d.writeReply p noIrq r = { d with ports := (d.writeReply p noIrq r).ports, out := (d.writeReply p noIrq r).out } := by
  cases noIrq
  · exact Device.coalesce_frame _ p
  · rfl

/-- A reply changes the ports, the messages and the open commands alone. -/
theorem Device.reply_frame (d : Device) (c : OpenCmd) (r : Reply) :
    d.reply c r = { d with ports := (d.reply c r).ports, out := (d.reply c r).out, opens := (d.reply c r).opens } := by
  simp only [Device.reply]
  rw [Device.writeReply_frame]
  split <;> rfl

@[simp] theorem Device.ok_aster (d : Device) (c : OpenCmd) (result : Nat) : (d.ok c result).aster = d.aster := by
  rw [Device.ok, Device.finish, Device.reply_frame]

/-- Freed pages change the directory and what awaits reclamation, and no sequence. -/
@[simp] theorem Space.free_seqs (s : Space) (epoch : Word64) (pages : List Nat) : (s.free epoch pages).seqs = s.seqs :=
  foldl_keeps Space.seqs _ (by intros; rfl) pages s

/-- The sequences of a space other than one. -/
def Space.without (s : Space) (id : Word32) : List Sequence := s.seqs.filter fun q => q.id != id

theorem Space.seq?_closed {s t : Space} {id : Word32} (h : t.seqs = s.without id) : t.seq? id = none := by
  simp [Space.seq?, h, Space.without]

theorem Space.seq?_other {s t : Space} {id j : Word32} (h : t.seqs = s.without id) (hj : j ≠ id) : t.seq? j = s.seq? j := by
  have hkeep : ∀ q : Sequence, (decide ((q.id != id) = true ∧ (q.id == j) = true)) = (q.id == j) := fun q => by
    rw [Bool.eq_iff_iff, decide_eq_true_eq, and_iff_right_iff_imp]
    intro hq
    rw [beq_iff_eq.1 hq]
    exact bne_iff_ne.2 hj
  rw [Space.seq?, h, Space.without, List.find?_filter]
  simp only [hkeep]
  rfl

section
variable {d : Device} {sp : Fin 16} {sc : Space} {id : Word32} {q : Sequence} (hs : d.aster.spaces[sp] = some sc)
  (hq : sc.seq? id = some q)
include hs hq

/-- A close changes its space alone, and takes the sequence from it. -/
theorem Device.edit_close : ∃ t : Space, t.seqs = sc.without id ∧ d.edit sp id (fun _ => none) = d.updSpace sp fun _ => t := by
  have hguard : (fun x : Sequence => if x.id == id then none else some x) = Option.guard fun x => x.id != id := by
    funext x
    rw [Option.guard, bne]
    cases x.id == id <;> rfl
  have hfilter : (sc.seqs.filterMap fun x => if x.id == id then none else some x) = sc.without id := by
    rw [Space.without, hguard, List.filterMap_eq_filter]
  simp only [Device.edit, hs, Device.editAt, Option.bind_some, hq, Option.map_some]
  refine ⟨_, ?_, rfl⟩
  exact (Space.free_seqs ..).trans hfilter

theorem Device.closeSeq_unpinned (c : OpenCmd) (hpin : q.pinned = false) :
    d.closeSeq sp c id = (d.edit sp id fun _ => none).ok c := by
  simp [Device.closeSeq, hs, hq, hpin]

theorem Device.closeSeq_spaces (c : OpenCmd) (hpin : q.pinned = false) :
    ∃ t : Space, t.seqs = sc.without id
      ∧ (d.closeSeq sp c id).aster.spaces = (d.updSpace sp fun _ => t).aster.spaces := by
  obtain ⟨t, hseqs, hedit⟩ := Device.edit_close hs hq
  exact ⟨t, hseqs, by rw [Device.closeSeq_unpinned hs hq c hpin, Device.ok_aster, hedit]⟩

/-- A sequence closed is open no more, and every other one, of its space and of the others, stays as it was. -/
theorem Device.closeSeq_effect (c : OpenCmd) (hpin : q.pinned = false) :
    ∃ t, (d.closeSeq sp c id).aster.spaces[sp] = some t ∧ t.seq? id = none ∧ (∀ j, j ≠ id → t.seq? j = sc.seq? j)
      ∧ ∀ j : Fin 16, j ≠ sp → (d.closeSeq sp c id).aster.spaces[j] = d.aster.spaces[j] := by
  obtain ⟨t, hseqs, hspaces⟩ := Device.closeSeq_spaces hs hq c hpin
  refine ⟨t, ?_, Space.seq?_closed hseqs, fun j hj => Space.seq?_other hseqs hj, fun j hj => ?_⟩
  · rw [hspaces, Device.updSpace_get hs]
  · rw [hspaces]
    exact Bank.upd_other _ _ _ _ hj

end

/-- Settles O15: each row is exec's function for it, and the function is one of the equations above; what a close leaves is
`Device.closeSeq_effect`. -/
theorem kvSequenceCommandsComplete : Obligations.KvSequenceCommandsComplete := by
  refine ⟨fun s h space sp sc hl hn hs ha => ?_, fun d sp sc c id q hs hq hpin => Device.closeSeq_effect hs hq c hpin⟩
  have hat := Device.spaceAt_of_spaces hs hn
  refine ⟨fun seq obj off n hpass hq hseqs htables => ?_, fun seq obj off n toks hpass hq htoks hread hseqs htables ht3 => ?_,
    fun seq q nowait hpass hq => ?_, fun seq q nowait hpass hq hpin hhold => ?_, fun seq q nowait hpass hq hpin => ?_,
    fun seq q hpass hq hpin hhold => ⟨?_, ?_⟩, fun src dst len q nowait hpass hq hlen hdst hseqs hhold hroom => ?_,
    fun seq len q nowait hpass hq hlen hpin hhold hroom => ?_, fun seq len q nowait hpass hq hlen hpin hhold hroom => ?_,
    fun n e he hfree hroom => ?_, fun n e he hfree => ?_⟩
  · exact .of_act (Device.kvSeqOpen h space false seq obj off.toNat n.toNat) hl rfl
      (Device.kvSeqOpen_empty hat ha hpass hq hseqs htables obj off.toNat n.toNat)
  · exact .of_act (Device.kvSeqOpen h space true seq obj off.toNat n.toNat) hl rfl
      (Device.kvSeqOpen_lookup hat ha hpass hq hseqs htables htoks hread ht3)
  · exact .of_act (Device.kvSeqOpen h space nowait seq 0 0 0) hl rfl (Device.kvSeqOpen_taken hat nowait 0 0 0 hpass hq)
  · exact .of_act (Device.kvSeqClose h space nowait seq) hl rfl ((Device.kvSeqClose_free hat ha nowait hpass hq hpin hhold).trans
      (Device.closeSeq_unpinned (d := s.dev.fresh.openCommand 0x0504 h) hs hq _ hpin))
  · exact .of_act (Device.kvSeqClose h space nowait seq) hl rfl (Device.kvSeqClose_pinned hat ha nowait hpass hq hpin)
  · exact .of_act (Device.kvSeqClose h space false seq) hl rfl (Device.kvSeqClose_held hat ha false hpass hq hpin hhold)
  · exact .of_act (Device.kvSeqClose h space true seq) hl rfl (Device.kvSeqClose_held hat ha true hpass hq hpin hhold)
  · exact .of_act (Device.kvSeqFork h space nowait src dst len) hl rfl
      (Device.kvSeqFork_ready hat ha nowait hpass hq hlen hdst hhold hroom)
  · exact .of_act (Device.kvTruncate h space nowait seq len) hl rfl
      (Device.kvTruncate_ready hat ha nowait hpass hq hlen hpin hhold hroom)
  · exact .of_act (Device.kvTruncate h space nowait seq len) hl rfl
      (Device.kvTruncate_wait hat ha nowait hpass hq hlen hpin hhold hroom)
  · exact .of_act (Device.heldKvEditApply sp n) hl rfl (Device.heldKvEditApply_ready (d := s.dev.fresh) hs he hfree hroom)
  · exact .of_act (Device.heldKvEditApply sp n) hl rfl (Device.heldKvEditApply_held (d := s.dev.fresh) hs he hfree)

end Sys2Proof.Machine
end

section
/-! The rows by which Aster goes on (R252, R256, R259, R262, R270): what each makes of a device. -/

namespace Sys2Proof.Machine

/-! ### Walks that go on (R256, R259) -/

section
variable {d : Device} {n : Nat} {w : Walk} (hw : d.aster.walks[n]? = some w)
include hw

theorem Device.pageAllocResume_walk : d.pageAllocResume n = if w.waitPage then d.retryWalk w else d := by
  simp only [Device.pageAllocResume, hw]

theorem Device.reprefillResume_notPaused (hpaused : w.paused = none) : d.reprefillResume n = d := by
  simp only [Device.reprefillResume, hw, hpaused]

theorem Device.reprefillResume_unlaunched {slot : Nat} (hpaused : w.paused = some (slot, none)) :
    d.reprefillResume n = d.retryWalk w := by
  simp only [Device.reprefillResume, hw, hpaused]

/-- The re-prefill step of the walk has retired (R259). -/
theorem Device.reprefillResume_retired {slot i : Nat} {k : Fin 16} (hpaused : w.paused = some (slot, some i))
    (hstep : (asFin 16 slot).bind (d.stepOf · i) = none) (hk : asFin 16 w.program = some k) :
    d.reprefillResume n = (d.kvEvent w.space (some (k, w.step)) 0x0502 .info 0).retryWalk w := by
  simp only [Device.reprefillResume, hw, hpaused, hstep, hk]
  rfl

end

/-! ### Reclamation (R252, R262) -/

/-- With no page at its last generation every page that no snapshot holds back becomes free again. -/
theorem Device.reclaimPages_noneRetired {d : Device} {sp : Fin 16} {sc : Space} (hs : d.aster.spaces[sp] = some sc)
    (hgen : ∀ r ∈ sc.reclaim, sc.genOf r.page ≠ 0xFFFFFFFF) :
    d.reclaimPages sp = d.updSpace sp fun sc =>
      { sc with
        reclaim := sc.reclaim.filter fun r => d.snapshotBelow sp r.epoch
        tableReclaim := sc.tableReclaim.filter fun r => d.snapshotBelow sp r.epoch
        freeTables := sc.freeTables ++ (sc.tableReclaim.filter fun r => !d.snapshotBelow sp r.epoch).map Reclaim.page
        freeList := sc.freeList ++ (sc.reclaim.filter fun r => !d.snapshotBelow sp r.epoch).map Reclaim.page } := by
  have hready : ∀ r ∈ sc.reclaim.filter (fun r => !d.snapshotBelow sp r.epoch), sc.genOf r.page ≠ 0xFFFFFFFF :=
    fun r hr => hgen r (List.mem_filter.1 hr).1
  have hold : (sc.reclaim.filter fun r => !d.snapshotBelow sp r.epoch).filter (fun r => sc.genOf r.page == 0xFFFFFFFF) = [] :=
    List.filter_eq_nil_iff.2 fun r hr => by simpa using hready r hr
  have hfresh : (sc.reclaim.filter fun r => !d.snapshotBelow sp r.epoch).filter (fun r => sc.genOf r.page != 0xFFFFFFFF)
      = sc.reclaim.filter fun r => !d.snapshotBelow sp r.epoch :=
    List.filter_eq_self.2 fun r hr => by simpa using hready r hr
  simp only [Device.reclaimPages, hs, hold, hfresh, List.partition_eq_filter_filter, List.foldl_nil]
  exact Device.updSpace_congr hs (by simp [Function.comp_def])

/-! ### Quiescence (R270) -/

theorem Device.astQuiesced_notAsked {d : Device} (hask : d.aster.quiesce = false) : d.astQuiesced = d := by
  simp [Device.astQuiesced, hask]

theorem Device.astQuiesced_noWalk {d : Device} (hask : d.aster.quiesce = true) (hwalks : ∀ w ∈ d.aster.walks, w.inFlight = false) :
    d.astQuiesced = { d with aster := { d.aster with quiesced := true } } := by
  have hnone : d.aster.walks.any Walk.inFlight = false := List.any_eq_false.2 fun w hw => by simp [hwalks w hw]
  simp [Device.astQuiesced, hask, hnone]

/-- Settles O16: each row is exec's function for it, and the function is one of the equations above. -/
theorem asterRowsComplete : Obligations.AsterRowsComplete := by
  intro s hl
  refine ⟨fun n w hw hwait => ?_, fun n w hw hwait => ?_, fun sp sc hs hgen => ?_, fun n w k hw hpaused => ?_,
    fun n w j k i hw hpaused hstep hk => ?_, fun n w hw hpaused => ?_, fun n => ?_, fun hask hwalks => ?_, fun hask => ?_,
    fun req hw => ⟨fun v => ?_, ?_⟩⟩
  · exact .of_act (Device.pageAllocResume n) hl rfl ((Device.pageAllocResume_walk (d := s.dev.fresh) hw).trans (if_pos hwait))
  · exact .of_act (Device.pageAllocResume n) hl rfl
      ((Device.pageAllocResume_walk (d := s.dev.fresh) hw).trans (if_neg (ne_true_of_eq_false hwait)))
  · exact .of_act (Device.reclaimPages · sp) hl rfl (Device.reclaimPages_noneRetired (d := s.dev.fresh) hs hgen)
  · exact .of_act (Device.reprefillResume n) hl rfl (Device.reprefillResume_unlaunched (d := s.dev.fresh) hw hpaused)
  · exact .of_act (Device.reprefillResume n) hl rfl (Device.reprefillResume_retired (d := s.dev.fresh) hw hpaused hstep hk)
  · exact .of_act (Device.reprefillResume n) hl rfl (Device.reprefillResume_notPaused (d := s.dev.fresh) hw hpaused)
  · exact .of_act (Device.runQueues · (some n)) hl rfl rfl
  · exact .of_act Device.astQuiesced hl rfl (Device.astQuiesced_noWalk (d := s.dev.fresh) hask hwalks)
  · exact .of_act Device.astQuiesced hl rfl (Device.astQuiesced_notAsked (d := s.dev.fresh) hask)
  · exact .of_write _ (Device.setAstQuiesce v) hl hw rfl rfl
  · exact .of_write _ Device.clearAstCounts hl hw rfl rfl

end Sys2Proof.Machine
end

section
/-! Completions of reads of host memory (R293, R297, R475, R502, R509, R516): which reads stay, what a failed one ends, and where the bytes
of one that succeeds go. -/

namespace Sys2Proof.Machine

/-! ### The reads that stay -/

/-- An element of a list of which one element has been replaced. -/
theorem mem_updFirst {α : Type} {p : α → Bool} {f : α → α} {l : List α} {a : α} (h : a ∈ updFirst p f l) :
    ∃ x ∈ l, a = x ∨ a = f x := by
  induction l with
  | nil => cases h
  | cons y r ih =>
    rw [updFirst] at h
    split at h <;> rcases List.mem_cons.1 h with rfl | h
    · exact ⟨y, List.mem_cons_self, .inr rfl⟩
    · exact ⟨a, List.mem_cons_of_mem y h, .inl rfl⟩
    · exact ⟨a, List.mem_cons_self, .inl rfl⟩
    · obtain ⟨x, hx, ha⟩ := ih h
      exact ⟨x, List.mem_cons_of_mem y hx, ha⟩

/-- Requests that leave change the list of reads and the messages alone. -/
theorem Device.sendReads_frame (l : List DmaRead) (d : Device) :
    l.foldl Device.sendRead d = { d with dmaReads := (l.foldl Device.sendRead d).dmaReads, out := (l.foldl Device.sendRead d).out } := by
  induction l generalizing d with
  | nil => rfl
  | cons r l ih => exact ih (d.sendRead r)

/-- A read after requests have left is one from before, but for its mark. -/
theorem Device.mem_sendReads {l : List DmaRead} {d : Device} {r : DmaRead} (h : r ∈ (l.foldl Device.sendRead d).dmaReads) :
    ∃ x ∈ d.dmaReads, r = x ∨ r = { x with out := true } := by
  induction l generalizing d with
  | nil => exact ⟨r, h, .inl rfl⟩
  | cons y l ih =>
    obtain ⟨z, hz, hr⟩ := ih h
    obtain ⟨x, hx, rfl | rfl⟩ := mem_updFirst hz
    · exact ⟨z, hx, hr⟩
    · exact ⟨x, hx, .inr (hr.elim id id)⟩

/-- The end of reads changes the list of reads and the messages alone. -/
theorem Device.endReads_frame (d : Device) (gone : DmaRead → Bool) :
    d.endReads gone = { d with dmaReads := (d.endReads gone).dmaReads, out := (d.endReads gone).out } :=
  Device.sendReads_frame _ _

@[simp] theorem Device.endReads_progs (d : Device) (gone : DmaRead → Bool) : (d.endReads gone).progs = d.progs := by
  rw [Device.endReads_frame]

@[simp] theorem Device.endReads_mem (d : Device) (gone : DmaRead → Bool) : (d.endReads gone).mem = d.mem := by
  rw [Device.endReads_frame]

@[simp] theorem Device.endReads_sec (d : Device) (gone : DmaRead → Bool) : (d.endReads gone).sec = d.sec := by
  rw [Device.endReads_frame]

/-- A read that stays had not ended, and of it only whether its requests have left changes. -/
theorem Device.mem_endReads {d : Device} {gone : DmaRead → Bool} {r : DmaRead} (h : r ∈ (d.endReads gone).dmaReads) :
    ∃ x ∈ d.dmaReads, gone x = false ∧ (r = x ∨ r = { x with out := true }) := by
  obtain ⟨x, hx, hr⟩ := Device.mem_sendReads h
  obtain ⟨hmem, hstay⟩ := List.mem_filter.1 hx
  exact ⟨x, hmem, by simpa using hstay, hr⟩

/-! ### Reads that fail (R502, R509) -/

section
variable {d : Device} {id : Nat}

theorem Device.readFails_unknown (h : d.dmaReads.find? (fun r => r.id == id && r.out) = none) : d.readFails id = d := by
  simp only [Device.readFails, h]

/-- A device that has lost a read: the read and the others of the same work ended, the loss counted and logged. -/
def Device.loseRead (d : Device) (id : Nat) (r : DmaRead) : Device :=
  ((d.endReads fun x => x.id == id).dropReads r.cmd r.purpose.sameWork).dmaFailed r.port r.cmd

section
variable {r : DmaRead} (hr : d.dmaReads.find? (fun r => r.id == id && r.out) = some r)
include hr

/-- The command of a firmware chunk or an assay pack ends. -/
theorem Device.readFails_command {off : Nat} (h : r.purpose = .fwChunk off ∨ r.purpose = .assay) :
    d.readFails id = (d.loseRead id r).finish r.cmd .aborted := by
  simp only [Device.readFails, hr]
  rcases h with h | h <;> rw [h, Device.loseRead, h]

/-- The head of the object's queue ends. -/
theorem Device.readFails_object {o : Word32} (h : r.purpose = .objWrite o ∨ r.purpose = .objT3 o) :
    d.readFails id = (d.loseRead id r).abortHead o := by
  simp only [Device.readFails, hr]
  rcases h with h | h <;> rw [h, Device.loseRead, h]

/-- The step that waits for the bytes ends. -/
theorem Device.readFails_step {k : Fin 16} {n lane : Nat} {o : Word32} {off : Nat} (h : r.purpose = .stepT3 k.val n lane o off) :
    d.readFails id = (d.loseRead id r).failStep k n .aborted := by
  simp only [Device.readFails, hr, h, asFin_eq_some rfl]
  rw [Device.loseRead, h]

end

/-- A completion with an error and one that does not come have the same effect. -/
theorem Runs.of_readFails {c : Instr} {s : State} {f : Device → Device} (hc : c = .dmaCompletionError id ∨ c = .dmaCompletionTimeout id)
    (hl : s.dev.live = true) (h : s.dev.fresh.readFails id = f s.dev.fresh) : Runs c s f := by
  rcases hc with rfl | rfl
  · exact .of_act (Device.readFails id) hl rfl h
  · exact .of_act (Device.readFails id) hl rfl h

/-! ### Reads that succeed -/

section
variable {bs : List Byte}

theorem Device.readArrives_unknown (h : d.dmaReads.find? (fun r => r.id == id && r.out && r.length == bs.length) = none) :
    d.readArrives id bs = d := by
  simp only [Device.readArrives, h]

variable {r : DmaRead} (hr : d.dmaReads.find? (fun r => r.id == id && r.out && r.length == bs.length) = some r)
include hr

/-- A firmware chunk joins the image while the firmware does not run (R475). -/
theorem Device.readArrives_chunk {off : Nat} (h : r.purpose = .fwChunk off) (hstate : d.sec.state ≠ .running) :
    d.readArrives id bs =
      let e := d.endReads fun x => x.id == id
      { e with sec := { e.sec with image := Cells.noteAll e.sec.image off bs } }.ok r.cmd (Cells.noteAll e.sec.image off bs).length := by
  simp only [Device.readArrives, hr, h, Device.holdChunk, Device.endReads_sec, if_neg hstate]

theorem Device.readArrives_pack (h : r.purpose = .assay) :
    d.readArrives id bs = (d.endReads fun x => x.id == id).holdPack r.cmd bs := by
  simp only [Device.readArrives, hr, h]

theorem Device.readArrives_write {o : Word32} (h : r.purpose = .objWrite o) :
    d.readArrives id bs = (d.endReads fun x => x.id == id).writeArrives o bs := by
  simp only [Device.readArrives, hr, h]

/-- T3 bytes take their place in the object, and the step has them. -/
theorem Device.readArrives_step {k : Fin 16} {n lane : Nat} {o : Word32} {off : Nat} (h : r.purpose = .stepT3 k.val n lane o off) :
    d.readArrives id bs =
      ((d.endReads fun x => x.id == id).t3Arrives o r bs).updStep k n
        (StepState.haveT3 { object := o, lo := off, hi := off + r.length }) := by
  simp only [Device.readArrives, hr, h, asFin_eq_some rfl]

end

end

/-- Settles O46: each row is exec's function for it, and the function is one of the equations above; the reads that stay are
`Device.mem_endReads`. -/
theorem dmaRowsComplete : Obligations.DmaRowsComplete := by
  intro s id hl
  refine ⟨fun hr => ⟨?_, ?_⟩, fun bs hr => ?_, fun r hr c hc => ⟨fun off h => ?_, fun o h => ?_, fun k n lane o off h => ?_⟩,
    fun r bs hr => ⟨fun off h hstate => ?_, fun h => ?_, fun o h => ?_, fun k n lane o off h => ?_⟩,
    fun d gone => ⟨fun r => Device.mem_endReads, d.endReads_progs gone, d.endReads_mem gone, d.endReads_sec gone⟩⟩
  · exact .of_readFails (.inl rfl) hl (Device.readFails_unknown (d := s.dev.fresh) hr)
  · exact .of_readFails (.inr rfl) hl (Device.readFails_unknown (d := s.dev.fresh) hr)
  · exact .of_act (Device.readArrives id bs) hl rfl (Device.readArrives_unknown (d := s.dev.fresh) hr)
  · exact .of_readFails hc hl (Device.readFails_command (d := s.dev.fresh) hr h)
  · exact .of_readFails hc hl (Device.readFails_object (d := s.dev.fresh) hr h)
  · exact .of_readFails hc hl (Device.readFails_step (d := s.dev.fresh) hr h)
  · exact .of_act (Device.readArrives id bs) hl rfl (Device.readArrives_chunk (d := s.dev.fresh) hr h hstate)
  · exact .of_act (Device.readArrives id bs) hl rfl (Device.readArrives_pack (d := s.dev.fresh) hr h)
  · exact .of_act (Device.readArrives id bs) hl rfl (Device.readArrives_write (d := s.dev.fresh) hr h)
  · exact .of_act (Device.readArrives id bs) hl rfl (Device.readArrives_step (d := s.dev.fresh) hr h)

end Sys2Proof.Machine
end

section
/-! Object commands (R273-R275, R279-R281, R297, R298): what a command that passes the checks comes to, and what a destroyed object
leaves. -/

namespace Sys2Proof.Machine

/-- The next state of a row on a running device, from what the function it acts by makes of the device. -/
theorem exec_of_act {row : Instr} {s : State} {e : Device} (g : Device → Device) (hl : s.dev.live = true)
    (he : exec row s = s.act g) (hg : g s.dev.fresh = e) : exec row s = .next (s.after e) :=
  Runs.of_act (f := fun _ => e) g hl he hg

/-! ### What a packet leaves as it was -/

section
variable {d e : Device} (hmem : e.mem = d.mem)
include hmem

theorem Device.chargeFits_congr (hprogs : e.progs = d.progs) : e.chargeFits = d.chargeFits := by
  cases d
  cases e
  subst hmem hprogs
  rfl

theorem Device.allocT1_congr : e.allocT1 = d.allocT1 := by
  cases d
  cases e
  subst hmem
  rfl

theorem Device.stacksFit_congr : e.stacksFit = d.stacksFit := by
  cases d
  cases e
  subst hmem
  rfl

/-- The space of a home is told by the memory and the programs. -/
theorem Device.takeHome_congr (hprogs : e.progs = d.progs) (a : BitVec 6) (hm : Home) (size : Nat) :
    e.takeHome a hm size = d.takeHome a hm size := by
  unfold Device.takeHome
  rw [Device.chargeFits_congr hmem hprogs, Device.allocT1_congr hmem, Device.stacksFit_congr hmem]

end

section
variable (d : Device) (op : Word16) (h : CmdHdr)

@[simp] theorem Device.fresh_openCommand_mem : (d.fresh.openCommand op h).mem = d.mem := rfl

@[simp] theorem Device.fresh_openCommand_takeHome (a : BitVec 6) (hm : Home) (size : Nat) :
    (d.fresh.openCommand op h).takeHome a hm size = d.takeHome a hm size := 
  Device.takeHome_congr (d := d) (e := d.fresh.openCommand op h) rfl rfl a hm size

@[simp] theorem Device.fresh_openCommand_baseFor (size : Nat) : (d.fresh.openCommand op h).baseFor size = d.baseFor size := rfl

end

/-! ### OBJ_CREATE -/

theorem Device.createValid {d : Device} {id : Word32} {size : BitVec 48} (hzero : id ≠ 0) (hlast : id ≠ 0xFFFFFFFF)
    (hnew : d.obj? id = none) (hsize : size ≠ 0) : ¬ (id = 0 ∨ id = 0xFFFFFFFF ∨ (d.obj? id).isSome = true ∨ size = 0) := by
  rw [hnew]
  exact not_or.2 ⟨hzero, not_or.2 ⟨hlast, not_or.2 ⟨nofun, hsize⟩⟩⟩

section
variable {d : Device} {h : CmdHdr} {id : Word32} {size : BitVec 48} {home index : BitVec 8} {mask : BitVec 20} {addr : Word64}
  (hpass : d.passes 0x0101 h)
include hpass

theorem Device.objCreate_invalid
    (hbad : homeOf home index mask addr = none ∨ id = 0 ∨ id = 0xFFFFFFFF ∨ size = 0 ∨ (d.obj? id).isSome = true) :
    d.fresh.objCreate h id size home index mask addr = (d.fresh.openCommand 0x0101 h).finish ⟨h, 0x0101⟩ .badParam := by
  simp only [Device.objCreate, Device.command_of_passes _ hpass, Device.fresh_openCommand_obj?]
  cases hhome : homeOf home index mask addr with
  | none => rfl
  | some hm =>
    rw [hhome] at hbad
    exact if_pos (by simpa [or_comm] using hbad)

section
variable {hm : Home} (hhome : homeOf home index mask addr = some hm) (hzero : id ≠ 0) (hlast : id ≠ 0xFFFFFFFF)
  (hnew : d.obj? id = none) (hsize : size ≠ 0)

include hhome hzero hlast hnew hsize

/-- An object over its owner's quota is refused, and the refusal logged (R281, R301). -/
theorem Device.objCreate_overQuota (htake : d.takeHome h.account hm size.toNat = .error .quota) :
    d.fresh.objCreate h id size home index mask addr =
      ((d.fresh.openCommand 0x0101 h).logQuota h.account).finish ⟨h, 0x0101⟩ .quota := by
  simp only [Device.objCreate, Device.command_of_passes _ hpass, hhome, Device.fresh_openCommand_obj?,
    if_neg (Device.createValid hzero hlast hnew hsize), Device.fresh_openCommand_takeHome, htake]

theorem Device.objCreate_created {taken : Home} {b : Nat} (htake : d.takeHome h.account hm size.toNat = .ok taken)
    (hroom : d.mem.objects.length < 262144) (hbase : d.baseFor size.toNat = some b) :
    d.fresh.objCreate h id size home index mask addr =
      ((d.fresh.openCommand 0x0101 h).addObj { id := id, base := b, size := size.toNat, owner := h.account, home := taken }).ok
        ⟨h, 0x0101⟩ b := by
  have hmax : ¬ maxObjects ≤ d.mem.objects.length := Nat.not_le.2 hroom
  simp only [Device.objCreate, Device.command_of_passes _ hpass, hhome, Device.fresh_openCommand_obj?,
    if_neg (Device.createValid hzero hlast hnew hsize), Device.fresh_openCommand_takeHome, htake, Device.fresh_openCommand_mem,
    if_neg hmax, Device.fresh_openCommand_baseFor, hbase]

end

end

/-! ### Commands on an object that exists -/

section
variable {d : Device} {c : OpenCmd} {id : Word32} (f : Obj → Device → Device)

theorem Device.asOwner_unknown (hobj : d.obj? id = none) : d.asOwner c id f = d.finish c .badParam := by
  simp only [Device.asOwner, hobj]

theorem Device.asOwner_known {o : Obj} (hobj : d.obj? id = some o) :
    d.asOwner c id f = if o.owner = c.hdr.account then f o d else d.finish c .notOwner := by
  simp only [Device.asOwner, hobj]

end

section
variable {d : Device} {h : CmdHdr} {id : Word32} {o : Obj} (hobj : d.obj? id = some o)
include hobj

section
variable {unpin : Bool} (hpass : d.passes 0x0104 h)
include hpass

theorem Device.objPin_changed (hbit : o.hostPins.getLsbD h.account.toNat = unpin) (hread : o.readableBy h.account = true) :
    d.fresh.objPin h id unpin =
      ((d.fresh.openCommand 0x0104 h).updObj id fun o => { o with hostPins := o.hostPins ^^^ (1 <<< h.account.toNat) }).ok
        ⟨h, 0x0104⟩ 0 := by
  simp only [Device.objPin, Device.command_of_passes _ hpass, Device.fresh_openCommand_obj?, hobj, hbit, hread, bne_self_eq_false]
  rfl

/-- A pin that stands already, or one to release that does not stand. -/
theorem Device.objPin_asItIs (hbit : o.hostPins.getLsbD h.account.toNat ≠ unpin) :
    d.fresh.objPin h id unpin = (d.fresh.openCommand 0x0104 h).finish ⟨h, 0x0104⟩ .badParam := by
  simp only [Device.objPin, Device.command_of_passes _ hpass, Device.fresh_openCommand_obj?, hobj, bne_iff_ne.2 hbit, if_true]

end

section
variable {tier : BitVec 8} (hpass : d.passes 0x0108 h)
include hpass

theorem Device.objQuery_tier (htier : tier.toNat < 4) (hread : o.readableBy h.account = true) :
    d.fresh.objQuery h id tier = (d.fresh.openCommand 0x0108 h).ok ⟨h, 0x0108⟩ (o.queryResult tier.toNat h.account) := by
  simp only [Device.objQuery, Device.command_of_passes _ hpass, Device.fresh_openCommand_obj?, hobj, if_neg (Nat.not_le.2 htier), hread]
  rfl

theorem Device.objQuery_noTier (htier : 4 ≤ tier.toNat) :
    d.fresh.objQuery h id tier = (d.fresh.openCommand 0x0108 h).finish ⟨h, 0x0108⟩ .badParam := by
  simp only [Device.objQuery, Device.command_of_passes _ hpass, Device.fresh_openCommand_obj?, hobj, if_pos htier]

end

theorem Device.objDestroy_owner (hpass : d.passes 0x0102 h) (howner : o.owner = h.account) :
    d.fresh.objDestroy h id = (d.fresh.openCommand 0x0102 h).enqueue id ⟨h, 0x0102⟩ .destroy :=
  (Device.command_of_passes _ hpass).trans
    ((Device.asOwner_known (d := d.fresh.openCommand 0x0102 h) _ hobj).trans (if_pos howner))

theorem Device.objShare_owner (readers : Word64) (hpass : d.passes 0x0105 h) (howner : o.owner = h.account) :
    d.fresh.objShare h id readers =
      ((d.fresh.openCommand 0x0105 h).updObj id fun o => { o with readers := readers }).ok ⟨h, 0x0105⟩ 0 :=
  (Device.command_of_passes _ hpass).trans
    ((Device.asOwner_known (d := d.fresh.openCommand 0x0105 h) _ hobj).trans (if_pos howner))

theorem Device.objMap_owner (unmap : Bool) (hpass : d.passes 0x0109 h) (howner : o.owner = h.account) :
    d.fresh.objMap h id unmap = (d.fresh.openCommand 0x0109 h).enqueue id ⟨h, 0x0109⟩ (.map unmap) := by
  simp only [Device.objMap, Device.command_of_passes _ hpass, Device.fresh_openCommand_obj?, hobj, if_pos howner]

end

/-! ### Objects under their IDs -/

section
variable {α : Type} {p q : α → Bool} {f : α → α}

theorem find?_updFirst_same (hp : ∀ x, p x = true → p (f x) = true) (l : List α) : (updFirst p f l).find? p = (l.find? p).map f := by
  induction l with
  | nil => rfl
  | cons x r ih =>
    rw [updFirst]
    cases hx : p x <;> simp [hx, hp, ih]

theorem filter_updFirst (hq : ∀ x, p x = true → q x = false ∧ q (f x) = false) (l : List α) :
    (updFirst p f l).filter q = l.filter q := by
  induction l with
  | nil => rfl
  | cons x r ih =>
    rw [updFirst]
    cases hx : p x with
    | false => simp [List.filter_cons, ih]
    | true => simp [hq x hx]

end

/-- The memory without an object of an ID. -/
def MemoryTiers.dropObject (m : MemoryTiers) (id : Word32) : MemoryTiers := { m with objects := m.objects.filter fun x => x.id != id }

section
variable {d : Device} {id : Word32} {o : Obj}

theorem Device.obj?_id (hobj : d.obj? id = some o) : o.id = id := by
  simpa using List.find?_some hobj

theorem Device.obj?_updObj {f : Obj → Obj} (hobj : d.obj? id = some o) (hf : ∀ x, (f x).id = x.id) :
    (d.updObj id f).obj? id = some (f o) := by
  refine (find?_updFirst_same (fun x hx => ?_) d.mem.objects).trans (congrArg (Option.map f) hobj)
  rwa [hf]

/-- A change of an object does not outlast the object. -/
theorem Device.updObj_dropObject {f : Obj → Obj} (hf : ∀ x, (f x).id = x.id) :
    (d.updObj id f).mem.dropObject id = d.mem.dropObject id := by
  have hgone : ∀ x : Obj, (x.id == id) = true → (x.id != id) = false ∧ ((f x).id != id) = false := fun x hx => by
    rw [hf, bne, hx]
    exact ⟨rfl, rfl⟩
  simp only [MemoryTiers.dropObject, Device.updObj, Device.updMem, filter_updFirst hgone]

end

theorem find?_dropObject (m : MemoryTiers) (id : Word32) : ((m.dropObject id).objects.find? fun x => x.id == id) = none := by
  simp [MemoryTiers.dropObject]

theorem find?_dropObject_other (m : MemoryTiers) {id j : Word32} (hj : j ≠ id) :
    ((m.dropObject id).objects.find? fun x => x.id == j) = m.objects.find? fun x => x.id == j := by
  have hkeep : ∀ x : Obj, (decide ((x.id != id) = true ∧ (x.id == j) = true)) = (x.id == j) := fun x => by
    rw [Bool.eq_iff_iff, decide_eq_true_eq, and_iff_right_iff_imp]
    intro hx
    rw [beq_iff_eq.1 hx]
    exact bne_iff_ne.2 hj
  rw [MemoryTiers.dropObject, List.find?_filter]
  simp only [hkeep]

/-! ### Bytes forgotten (R303) -/

/-- A range of bytes that nothing has written holds an address. -/
def freshAt (x : Nat) (r : Nat × Nat × Nat) : Bool := decide (r.1 ≤ x ∧ x < r.1 + r.2.1)

theorem MemoryTiers.byteAt_eq (m : MemoryTiers) (x : Nat) :
    m.byteAt x = (((m.fresh.find? (freshAt x)).map fun r => r.2.2).map fun k => Config.freshByte k x).getD (Cells.get m.mem x) := by
  rw [MemoryTiers.byteAt, show (fun r : Nat × Nat × Nat => decide (r.1 ≤ x ∧ x < r.1 + r.2.1)) = freshAt x from rfl]
  cases m.fresh.find? (freshAt x) <;> rfl

/-- The parts of one range that a cut leaves. -/
def cutRange (r : Nat × Nat × Nat) (a n : Nat) : List (Nat × Nat × Nat) :=
  (if r.1 < a then [(r.1, min r.2.1 (a - r.1), r.2.2)] else [])
    ++ (if a + n < r.1 + r.2.1 then [(max r.1 (a + n), r.1 + r.2.1 - max r.1 (a + n), r.2.2)] else [])

theorem cutRanges_cons (r : Nat × Nat × Nat) (rs : List (Nat × Nat × Nat)) (a n : Nat) :
    cutRanges (r :: rs) a n = cutRange r a n ++ cutRanges rs a n := rfl

theorem find?_cutRange {a n x : Nat} (hx : x < a ∨ a + n ≤ x) (r : Nat × Nat × Nat) :
    ((cutRange r a n).find? (freshAt x)).map (fun r => r.2.2) = if freshAt x r then some r.2.2 else none := by
  obtain ⟨b, len, k⟩ := r
  have hkey : ∀ q ∈ cutRange (b, len, k) a n, q.2.2 = k := by
    intro q hq
    simp only [cutRange, List.mem_append, List.mem_ite_nil_right, List.mem_singleton] at hq
    rcases hq with ⟨-, rfl⟩ | ⟨-, rfl⟩ <;> rfl
  have hany : (∃ q ∈ cutRange (b, len, k) a n, freshAt x q = true) ↔ freshAt x (b, len, k) = true := by
    simp only [cutRange, List.mem_append, List.mem_ite_nil_right, List.mem_singleton, freshAt, decide_eq_true_eq]
    constructor
    · rintro ⟨q, ⟨h, rfl⟩ | ⟨h, rfl⟩, hq⟩ <;> dsimp only at h hq <;> omega
    · intro h
      rcases hx with hx | hx
      · exact ⟨_, .inl ⟨by omega, rfl⟩, by dsimp only; omega⟩
      · exact ⟨_, .inr ⟨by omega, rfl⟩, by dsimp only; omega⟩
  cases hfind : (cutRange (b, len, k) a n).find? (freshAt x) with
  | none =>
    rw [if_neg fun h => ?_]
    · rfl
    · obtain ⟨q, hq, hf⟩ := hany.2 h
      exact List.find?_eq_none.1 hfind q hq hf
  | some q =>
    rw [if_pos (hany.1 ⟨q, List.mem_of_find?_eq_some hfind, List.find?_some hfind⟩), Option.map_some,
      hkey q (List.mem_of_find?_eq_some hfind)]

/-- An address outside the bytes cut lies in a range of the same object as before. -/
theorem find?_cutRanges {a n x : Nat} (hx : x < a ∨ a + n ≤ x) (rs : List (Nat × Nat × Nat)) :
    ((cutRanges rs a n).find? (freshAt x)).map (fun r => r.2.2) = (rs.find? (freshAt x)).map fun r => r.2.2 := by
  induction rs with
  | nil => rfl
  | cons r rs ih =>
    rw [cutRanges_cons, List.find?_append, Option.map_or, find?_cutRange hx, ih, List.find?_cons]
    cases freshAt x r <;> rfl

theorem MemoryTiers.invalidate_frame (m : MemoryTiers) (own : Option (Fin 8)) (a n : Nat) :
    m.invalidate own a n = { m with hearths := (m.invalidate own a n).hearths } := by
  fun_cases MemoryTiers.invalidate <;> rfl

section
variable (m : MemoryTiers) (a n : Nat)

/-- Zero bytes written change the bytes, their ranges and the hearths' lines alone. -/
theorem MemoryTiers.zero_frame :
    m.zero a n = { m with mem := Cells.erase m.mem a n, fresh := cutRanges m.fresh a n, hearths := (m.zero a n).hearths } := by
  rw [MemoryTiers.zero, MemoryTiers.invalidate_frame]

@[simp] theorem MemoryTiers.zero_objects : (m.zero a n).objects = m.objects := by rw [MemoryTiers.zero_frame]

@[simp] theorem MemoryTiers.zero_mem : (m.zero a n).mem = Cells.erase m.mem a n := by rw [MemoryTiers.zero_frame]

@[simp] theorem MemoryTiers.zero_fresh : (m.zero a n).fresh = cutRanges m.fresh a n := by rw [MemoryTiers.zero_frame]

theorem MemoryTiers.zero_byteAt_outside {x : Nat} (hx : x < a ∨ a + n ≤ x) : (m.zero a n).byteAt x = m.byteAt x := by
  rw [MemoryTiers.byteAt_eq, MemoryTiers.byteAt_eq, MemoryTiers.zero_fresh, find?_cutRanges hx, MemoryTiers.zero_mem, Cells.get_erase,
    if_neg (by omega)]

end

/-! ### OBJ_DESTROY -/

@[simp] theorem Device.finish_mem (d : Device) (c : OpenCmd) (st : Status) (result : Nat) : (d.finish c st result).mem = d.mem := by
  rw [Device.finish, Device.reply_frame]

@[simp] theorem Device.settle_mem (old d : Device) : (old.settle d).mem = d.mem := by
  obtain ⟨src, alert, hsettle, -⟩ := old.settle_frame d
  rw [hsettle]

theorem Device.removeObj_mem (d : Device) (o : Obj) : (d.removeObj o).mem = (d.mem.dropObject o.id).zero o.base o.size :=
  foldl_keeps Device.mem _ (fun e _ => e.finish_mem ..) _ _

/-- Without the object nothing is under its ID; the other objects and the bytes outside its range stay. -/
theorem Device.effect_of_dropObject {d e : Device} {id : Word32} {b n : Nat} (hmem : e.mem = (d.mem.dropObject id).zero b n) :
    e.obj? id = none ∧ (∀ j, j ≠ id → e.obj? j = d.obj? j) ∧ e.mem.mem = Cells.erase d.mem.mem b n
      ∧ ∀ a, (a < b ∨ b + n ≤ a) → e.mem.byteAt a = d.mem.byteAt a := by
  refine ⟨?_, fun j hj => ?_, ?_, fun a ha => ?_⟩
  · rw [Device.obj?, hmem, MemoryTiers.zero_objects, find?_dropObject]
  · rw [Device.obj?, hmem, MemoryTiers.zero_objects, find?_dropObject_other _ hj, Device.obj?]
  · rw [hmem, MemoryTiers.zero_mem]
    rfl
  · rw [hmem, MemoryTiers.zero_byteAt_outside _ _ _ ha]
    rfl

/-- An object with one more operation in its queue. -/
def Obj.queued (o : Obj) (q : ObjOp) : Obj := { o with queue := o.queue ++ [q] }

theorem Device.enqueue_eq (d : Device) (id : Word32) (c : OpenCmd) (op : QueuedOp) :
    d.enqueue id c op = (d.updObj id (·.queued { cmd := c, op := op })).runQueue id := rfl

section
variable {d : Device} {id : Word32} {o : Obj} {c : OpenCmd} (hobj : d.obj? id = some o) (hhard : o.hardPinned = false)
  (hstep : o.stepPins = 0) (hnamed : d.objectNamed id = false)
include hobj hhard hstep hnamed

/-- A destruction at the head of its object's queue that nothing holds back takes the object and its bytes from the memory. -/
theorem Device.headStep_destroy (hqueue : o.queue = [{ cmd := c, op := .destroy }]) :
    ∃ e, d.headStep id = (e, true) ∧ e.mem = (d.mem.dropObject id).zero o.base o.size := by
  have hfault : d.queuedFaulted o { cmd := c, op := .destroy } = false := rfl
  refine ⟨((d.updObj id Obj.popQueue).finish c .ok).removeObj { o with queue := [] }, ?_, ?_⟩
  · simp [Device.headStep, hobj, hqueue, hfault, hhard, hnamed, hstep]
  · rw [Device.removeObj_mem, Device.finish_mem, Device.obj?_id hobj, Device.updObj_dropObject (f := Obj.popQueue) fun _ => rfl]

/-- The queue ends with the object. -/
theorem Device.runQueue_destroy (hqueue : o.queue = [{ cmd := c, op := .destroy }]) :
    (d.runQueue id).mem = (d.mem.dropObject id).zero o.base o.size := by
  obtain ⟨e, hhead, hmem⟩ := Device.headStep_destroy hobj hhard hstep hnamed hqueue
  have hgone := (Device.effect_of_dropObject hmem).1
  have hlast : e.headStep id = (e, false) := by simp only [Device.headStep, hgone]
  simp only [Device.runQueue, hobj, hqueue, Option.map_some, Option.getD_some, List.length_singleton, Device.pumpObj, hhead, hlast, hmem]

/-- An OBJ_DESTROY of an idle object leaves the memory without the object and without its bytes (R298). -/
theorem Device.enqueue_destroy (hqueue : o.queue = []) :
    (d.enqueue id c .destroy).mem = (d.mem.dropObject id).zero o.base o.size := by
  have hobj' := Device.obj?_updObj (f := (·.queued { cmd := c, op := .destroy })) hobj fun _ => rfl
  have hqueue' : (o.queued { cmd := c, op := .destroy }).queue = [{ cmd := c, op := .destroy }] := by rw [Obj.queued, hqueue]; rfl
  rw [Device.enqueue_eq, Device.runQueue_destroy hobj' hhard hstep hnamed hqueue',
    Device.updObj_dropObject (f := (·.queued { cmd := c, op := .destroy })) fun _ => rfl]
  rfl

end

/-- Settles O26: each row is exec's function for it, and the function is one of the equations above; what a destroyed object leaves is
`Device.enqueue_destroy`. -/
theorem objectCommandsComplete : Obligations.ObjectCommandsComplete := by
  refine ⟨fun s h id hl => ⟨fun size home index mask addr hm taken b hpass hhome hzero hlast hnew hsize htake hroom hbase => ?_,
      fun size home index mask addr hpass hbad => ?_,
      fun size home index mask addr hm hpass hhome hzero hlast hnew hsize htake => ?_, fun hpass hobj => ?_, fun o hobj =>
      ⟨fun hpass howner => ?_, fun hpass howner => ?_, fun unpin hpass hbit hread => ?_, fun unpin hpass hbit => ?_,
        fun readers hpass howner => ?_, fun tier hpass htier hread => ?_, fun tier hpass htier => ?_, fun unmap hpass howner => ?_⟩⟩,
    fun s h id o hl hpass hobj howner hhard hstep hnamed hqueue => ?_⟩
  · exact exec_of_act (Device.objCreate h id size home index mask addr) hl rfl
      (Device.objCreate_created hpass hhome hzero hlast hnew hsize htake hroom hbase)
  · exact .of_act (Device.objCreate h id size home index mask addr) hl rfl (Device.objCreate_invalid hpass hbad)
  · exact .of_act (Device.objCreate h id size home index mask addr) hl rfl
      (Device.objCreate_overQuota hpass hhome hzero hlast hnew hsize htake)
  · exact .of_command _ hl hpass rfl (Device.asOwner_unknown (d := s.dev.fresh.openCommand 0x0102 h) _ hobj)
  · exact exec_of_act (Device.objDestroy h id) hl rfl (Device.objDestroy_owner hobj hpass howner)
  · exact .of_command _ hl hpass rfl ((Device.asOwner_known (d := s.dev.fresh.openCommand 0x0102 h) _ hobj).trans (if_neg howner))
  · exact exec_of_act (Device.objPin h id unpin) hl rfl (Device.objPin_changed hobj hpass hbit hread)
  · exact .of_act (Device.objPin h id unpin) hl rfl (Device.objPin_asItIs hobj hpass hbit)
  · exact exec_of_act (Device.objShare h id readers) hl rfl (Device.objShare_owner hobj readers hpass howner)
  · exact exec_of_act (Device.objQuery h id tier) hl rfl (Device.objQuery_tier hobj hpass htier hread)
  · exact .of_act (Device.objQuery h id tier) hl rfl (Device.objQuery_noTier hobj hpass htier)
  · exact exec_of_act (Device.objMap h id unmap) hl rfl (Device.objMap_owner hobj unmap hpass howner)
  · refine ⟨_, exec_of_act (Device.objDestroy h id) hl rfl (Device.objDestroy_owner hobj hpass howner), ?_⟩
    refine Device.effect_of_dropObject ((Device.settle_mem ..).trans ?_)
    exact Device.enqueue_destroy (d := s.dev.fresh.openCommand 0x0102 h) hobj hhard hstep hnamed hqueue

end Sys2Proof.Machine
end

section
/-! OBJ_PLACE and the rows of a move (R277, R282-R284, R288, R298, R339): when a placement is queued, when a move begins, waits or ends,
and what becomes of the piece in copy. -/

namespace Sys2Proof.Machine

/-! ### PROMISED commands (R332, R334) -/

/-- A PROMISED packet of a promisable command that passes the checks fails none of them. -/
theorem Device.passesPromised_noFault {d : Device} {op : Word16} {h : CmdHdr} (hp : d.passesPromised op h) :
    (d.fresh.openCommand op h).headerFault h op none = none := by
  obtain ⟨-, hcls, hstate, haccount⟩ := hp
  unfold Device.headerFault
  rw [Device.openCommand_accountEnabled, Device.openCommand_sec]
  simp_all [Device.accountEnabled]

theorem Device.command_of_passesPromised {d : Device} {op : Word16} {h : CmdHdr} (body : OpenCmd → Device → Device)
    (hp : d.passesPromised op h) (hop : promisable op = true) :
    d.fresh.command op h body = body ⟨h, op⟩ (d.fresh.openCommand op h) := by
  have hnew := find_replay_none hp.1.new
  simp only [Device.command, Device.dispatch, Device.dispatchWaits_fresh, hp.1.now, Device.fresh_ports, hnew,
    Device.passesPromised_noFault hp]
  simp [hop, hp.1.works]

theorem CmdHdr.promised_eq_false {h : CmdHdr} (hcls : h.cls = 0) : h.promised = false := by
  rw [CmdHdr.promised, hcls]
  rfl

theorem CmdHdr.promised_eq_true {h : CmdHdr} (hcls : h.cls = 1) : h.promised = true := by
  rw [CmdHdr.promised, hcls]
  rfl

/-! ### OBJ_PLACE -/

@[simp] theorem Device.fresh_openCommand_shadowTarget (d : Device) (op : Word16) (h : CmdHdr) (t : Target) :
    (d.fresh.openCommand op h).shadowTarget t = d.shadowTarget t := by cases t <;> rfl

section
variable {d : Device} {h : CmdHdr} {id : Word32} {o : Obj} {nowait : Bool} {target index : BitVec 8} {off len : BitVec 48}
  {mask : BitVec 20} (hobj : d.obj? id = some o)
  (hchecked : ∀ body, d.fresh.command 0x0103 h body = body ⟨h, 0x0103⟩ (d.fresh.openCommand 0x0103 h))
include hobj hchecked

theorem Device.objPlace_noTarget (htarget : targetOf o target index mask = none) :
    d.fresh.objPlace h id nowait target index off len mask = (d.fresh.openCommand 0x0103 h).finish ⟨h, 0x0103⟩ .badParam := by
  simp only [Device.objPlace, hchecked, Device.fresh_openCommand_obj?, hobj, htarget]

/-- A valid placement joins its object's queue, a PROMISED one once it is admitted (R282, R339). -/
theorem Device.objPlace_valid {t : Target} (htarget : targetOf o target index mask = some t)
    (hrange : o.rangeOk t off.toNat len.toNat = true) (hshadow : d.shadowTarget t = false) (hread : o.readableBy h.account = true)
    (hhome : t = .home → o.owner = h.account) :
    d.fresh.objPlace h id nowait target index off len mask =
      let e := d.fresh.openCommand 0x0103 h
      let r := e.admitMove ⟨h, 0x0103⟩ o t off.toNat len.toNat
      if h.promised then
        if r.2 then r.1.enqueue id ⟨h, 0x0103⟩ (.place nowait t off.toNat len.toNat) else r.1
      else e.enqueue id ⟨h, 0x0103⟩ (.place nowait t off.toNat len.toNat) := by
  have howner : (t == .home && o.owner != h.account) = false := by
    by_cases ht : t = .home
    · simp [hhome ht]
    · simp [ht]
  simp only [Device.objPlace, hchecked, Device.fresh_openCommand_obj?, hobj, htarget, hrange, Device.fresh_openCommand_shadowTarget,
    hshadow, hread, howner]
  rcases (d.fresh.openCommand 0x0103 h).admitMove ⟨h, 0x0103⟩ o t off.toNat len.toNat with ⟨e, _ | _⟩ <;> rfl

end

/-! ### A move begins (R284, R288) -/

section
variable {d : Device} {id : Word32} {o : Obj} {c : OpenCmd} {t : Target} {off len : Nat}

theorem Device.startMove_hardPinned (hrange : o.rangeOk t off len = true) (hhard : o.hardPinned = true) :
    d.startMove o c t off len = d.endMove o c (o.engine t off len) .busy := by
  simp only [Device.startMove, hrange, hhard]
  rfl

/-- A move that nothing refuses and nothing holds back is in MOVING, with no piece switched. -/
theorem Device.startMove_moving {parts : List (Fin 10 × Nat)} (hobj : d.obj? id = some o) (hrange : o.rangeOk t off len = true)
    (hhard : o.hardPinned = false) (hcharge : d.moveCharge o t off len = true) (hspace : d.space o t off len = some parts)
    (hroom : d.movesOn (o.engine t off len) < 64) (hengine : d.engineHeld c (o.engine t off len) = false) (hhold : d.sec.hold = false)
    (hhome : ∀ p a, o.home ≠ .t3 p a) :
    d.startMove o c t off len = d.updObj id (·.setHead (.move .moving 0 parts)) := by
  have hfree : ¬ (64 ≤ d.movesOn (o.engine t off len) ∨ d.engineHeld c (o.engine t off len) = true ∨ d.sec.hold = true) := by
    simp [hroom, hengine, hhold]
  simp only [Device.startMove, hrange, hhard, hcharge, hspace, if_neg hfree, Device.obj?_id hobj]
  cases hplace : o.home with
  | t3 p a => exact absurd hplace (hhome p a)
  | t1 hearth ps => rfl
  | t2 m => rfl

end

section
variable {d : Device} {id : Word32} {o : Obj} (hobj : d.obj? id = some o)
include hobj

/-! ### A queue without a move -/

theorem Device.moveStart_noQueue (hqueue : o.queue = []) : d.moveStart id = d := by simp only [Device.moveStart, hobj, hqueue]

theorem Device.movePinRelease_noQueue (hqueue : o.queue = []) : d.movePinRelease id = d := by
  simp only [Device.movePinRelease, hobj, hqueue]

theorem Device.movePieceSwitch_noQueue (errs : List WordError) (hqueue : o.queue = []) : d.movePieceSwitch id errs = d := by
  simp only [Device.movePieceSwitch, hobj, hqueue]

/-! ### A move at the head of its queue -/

section
variable {q : ObjOp} {r : List ObjOp} {nowait : Bool} {t : Target} {off len : Nat} (hqueue : o.queue = q :: r)
  (hop : q.op = .place nowait t off len)
include hqueue hop

/-- A move not yet begun: a step pin ends a NOWAIT one and holds any other (R288). -/
theorem Device.moveStart_fresh (hstate : q.state = .fresh) :
    d.moveStart id =
      if 0 < d.foreignPins o q.cmd then
        if nowait then d.endMove o q.cmd (o.engine t off len) .busy else d.updObj id (·.setHead (.move .pinWait 0 []))
      else d.startMove o q.cmd t off len := by
  obtain ⟨cmd, op, state⟩ := q
  cases hop
  cases hstate
  simp only [Device.moveStart, hobj, hqueue]

theorem Device.movePinRelease_pinWait {k : Nat} {ps : List (Fin 10 × Nat)} (hstate : q.state = .move .pinWait k ps) :
    d.movePinRelease id = if 0 < d.foreignPins o q.cmd then d else d.startMove o q.cmd t off len := by
  obtain ⟨cmd, op, state⟩ := q
  cases hop
  cases hstate
  simp only [Device.movePinRelease, hobj, hqueue]

section
variable (hpins : d.foreignPins o q.cmd = 0)
include hpins

theorem Device.moveStart_unpinned (hstate : q.state = .fresh) : d.moveStart id = d.startMove o q.cmd t off len :=
  (Device.moveStart_fresh hobj hqueue hop hstate).trans (if_neg (Nat.not_lt.2 (Nat.le_of_eq hpins)))

theorem Device.movePinRelease_unpinned {k : Nat} {ps : List (Fin 10 × Nat)} (hstate : q.state = .move .pinWait k ps) :
    d.movePinRelease id = d.startMove o q.cmd t off len :=
  (Device.movePinRelease_pinWait hobj hqueue hop hstate).trans (if_neg (Nat.not_lt.2 (Nat.le_of_eq hpins)))

end

/-- The piece in copy waits for its reads of the host and for a Seedbank hold, and ends the move where it must go to a host whose link
is down. -/
theorem Device.movePieceSwitch_moving {k : Nat} {parts : List (Fin 10 × Nat)} (errs : List WordError)
    (hstate : q.state = .move .moving k parts) :
    d.movePieceSwitch id errs =
      let p := o.pieceSize t off len
      if d.objReads id || d.sec.hold then d
      else if d.homeBarred o t (off + k * p) (min p (len - k * p)) then d.abortMove o q.cmd t off len
      else d.consume errs fun d => d.pieceSwitched o q.cmd t off len k parts q.heldWrites := by
  obtain ⟨cmd, op, state⟩ := q
  cases hop
  cases hstate
  simp only [Device.movePieceSwitch, hobj, hqueue]

end

end

/-! ### A piece switched (R283) -/

section
variable (d : Device) (o : Obj) (c : OpenCmd) {t : Target} {off len k : Nat} (parts : List (Fin 10 × Nat))
  (held : List (Nat × List Byte))

/-- With the last piece the extents change and the move ends. -/
theorem Device.pieceSwitched_last (hlast : len ≤ (k + 1) * o.pieceSize t off len) :
    d.pieceSwitched o c t off len k parts held =
      ((d.switchPiece o t off len k parts held).updObj o.id fun x => { x with extents := o.extentsAfter t off len parts }).endMove o c
        (o.engine t off len) .ok (o.bytesMoved t off len) := by
  simp only [Device.pieceSwitched, if_pos hlast]

/-- A move home asks the host for no next piece. -/
theorem Device.pieceSwitched_home (hmore : (k + 1) * o.pieceSize t off len < len) (ht : t = .home) :
    d.pieceSwitched o c t off len k parts held = d.switchPiece o t off len k parts held := by
  subst ht
  simp only [Device.pieceSwitched, if_neg (Nat.not_le.2 hmore)]
  split <;> rfl

end

/-- Settles O27: each row is exec's function for it, and the function is one of the equations above. -/
theorem movesComplete : Obligations.MovesComplete := by
  intro s id o hl hobj
  refine ⟨fun h nowait target index off len mask t hpass htarget hrange hshadow hread hhome => ?_,
    fun h nowait target index off len mask t hpass htarget hrange hshadow hread hhome => ?_,
    fun h nowait target index off len mask hpass htarget => ?_, fun hqueue => ⟨?_, ?_, fun errs => ?_⟩,
    fun q r nowait t off len hqueue hop => ⟨fun hstate hpins hnow => ?_, fun hstate hpins hnow => ?_,
      fun parts hpins hrange hhard hcharge hspace hroom hengine hhold hhome => ⟨fun hstate => ?_, fun k ps hstate => ?_⟩,
      fun hpins hrange hhard => ⟨fun hstate => ?_, fun k ps hstate => ?_⟩, fun k ps hstate hpins => ?_,
      fun k parts errs hstate => ⟨fun hwait => ?_, fun hreads hhold => ⟨fun hbarred => ?_, fun hopen => ?_⟩,
        fun d held => ⟨fun hlast => ?_, fun hmore ht => ?_⟩⟩⟩⟩
  · exact .of_act (Device.objPlace h id nowait target index off len mask) hl rfl
      ((Device.objPlace_valid hobj (fun body => Device.command_of_passes body hpass) htarget hrange hshadow hread hhome).trans
        (if_neg (ne_true_of_eq_false (CmdHdr.promised_eq_false hpass.2.1))))
  · exact .of_act (Device.objPlace h id nowait target index off len mask) hl rfl
      ((Device.objPlace_valid hobj (fun body => Device.command_of_passesPromised body hpass rfl) htarget hrange hshadow hread hhome).trans
        (if_pos (CmdHdr.promised_eq_true hpass.2.1)))
  · exact .of_act (Device.objPlace h id nowait target index off len mask) hl rfl
      (Device.objPlace_noTarget hobj (fun body => Device.command_of_passes body hpass) htarget)
  · exact .of_act (Device.moveStart id) hl rfl (Device.moveStart_noQueue (d := s.dev.fresh) hobj hqueue)
  · exact .of_act (Device.movePinRelease id) hl rfl (Device.movePinRelease_noQueue (d := s.dev.fresh) hobj hqueue)
  · exact .of_act (Device.movePieceSwitch id errs) hl rfl (Device.movePieceSwitch_noQueue (d := s.dev.fresh) hobj errs hqueue)
  · exact .of_act (Device.moveStart id) hl rfl
      ((Device.moveStart_fresh (d := s.dev.fresh) hobj hqueue hop hstate).trans ((if_pos hpins).trans (if_pos hnow)))
  · exact .of_act (Device.moveStart id) hl rfl
      ((Device.moveStart_fresh (d := s.dev.fresh) hobj hqueue hop hstate).trans
        ((if_pos hpins).trans (if_neg (ne_true_of_eq_false hnow))))
  · exact .of_act (Device.moveStart id) hl rfl
      ((Device.moveStart_unpinned (d := s.dev.fresh) hobj hqueue hop hpins hstate).trans
        (Device.startMove_moving (d := s.dev.fresh) hobj hrange hhard hcharge hspace hroom hengine hhold hhome))
  · exact .of_act (Device.movePinRelease id) hl rfl
      ((Device.movePinRelease_unpinned (d := s.dev.fresh) hobj hqueue hop hpins hstate).trans
        (Device.startMove_moving (d := s.dev.fresh) hobj hrange hhard hcharge hspace hroom hengine hhold hhome))
  · exact .of_act (Device.moveStart id) hl rfl
      ((Device.moveStart_unpinned (d := s.dev.fresh) hobj hqueue hop hpins hstate).trans (Device.startMove_hardPinned hrange hhard))
  · exact .of_act (Device.movePinRelease id) hl rfl
      ((Device.movePinRelease_unpinned (d := s.dev.fresh) hobj hqueue hop hpins hstate).trans (Device.startMove_hardPinned hrange hhard))
  · exact .of_act (Device.movePinRelease id) hl rfl
      ((Device.movePinRelease_pinWait (d := s.dev.fresh) hobj hqueue hop hstate).trans (if_pos hpins))
  · exact .of_act (Device.movePieceSwitch id errs) hl rfl
      ((Device.movePieceSwitch_moving (d := s.dev.fresh) hobj hqueue hop errs hstate).trans (if_pos (Bool.or_eq_true_iff.2 hwait)))
  · exact .of_act (Device.movePieceSwitch id errs) hl rfl
      ((Device.movePieceSwitch_moving (d := s.dev.fresh) hobj hqueue hop errs hstate).trans
        ((if_neg (ne_true_of_eq_false (Bool.or_eq_false_iff.2 ⟨hreads, hhold⟩))).trans (if_pos hbarred)))
  · exact .of_act (Device.movePieceSwitch id errs) hl rfl
      ((Device.movePieceSwitch_moving (d := s.dev.fresh) hobj hqueue hop errs hstate).trans
        ((if_neg (ne_true_of_eq_false (Bool.or_eq_false_iff.2 ⟨hreads, hhold⟩))).trans (if_neg (ne_true_of_eq_false hopen))))
  · exact d.pieceSwitched_last o q.cmd parts held hlast
  · exact d.pieceSwitched_home o q.cmd parts held hmore ht

end Sys2Proof.Machine
end

section
/-! The arbitration of a stack's bandwidth (R291, R293, R308): a window serves at most what the stack can, and no byte asked for is lost. -/

namespace Sys2Proof.Machine

/-! ### Sums over lists -/

section
variable {α : Type} (f : α → Nat)

theorem sumOf_eq_sum (l : List α) : sumOf f l = (l.map f).sum := by rw [sumOf, List.sum_eq_foldl, List.foldl_map]

@[simp] theorem sumOf_nil : sumOf f [] = 0 := rfl

@[simp] theorem sumOf_cons (a : α) (l : List α) : sumOf f (a :: l) = f a + sumOf f l := by simp [sumOf_eq_sum]

@[simp] theorem sumOf_append (l m : List α) : sumOf f (l ++ m) = sumOf f l + sumOf f m := by simp [sumOf_eq_sum]

theorem sumOf_perm {l m : List α} (h : l.Perm m) : sumOf f l = sumOf f m := by
  rw [sumOf_eq_sum, sumOf_eq_sum]
  exact (h.map f).sum_nat

theorem sumOf_congr {f g : α → Nat} {l : List α} (h : ∀ x ∈ l, f x = g x) : sumOf f l = sumOf g l := by
  rw [sumOf_eq_sum, sumOf_eq_sum, List.map_congr_left h]

theorem sumOf_filter (p : α → Bool) (l : List α) : sumOf f (l.filter p) = sumOf (fun x => if p x then f x else 0) l := by
  induction l with
  | nil => rfl
  | cons x l ih =>
    rw [List.filter_cons, sumOf_cons, ← ih]
    split <;> simp

end

/-! ### Requests join and are put in order -/

/-- A request is in the queue or at the limit of outstanding reads. -/
theorem joinRequests_perm (rs l : List MemRequest) : ((joinRequests rs l).1 ++ (joinRequests rs l).2).Perm (rs ++ l) := by
  induction l generalizing rs with
  | nil => exact .refl _
  | cons x l ih =>
    rw [joinRequests]
    split
    · exact List.perm_middle.trans (((ih rs).cons x).trans List.perm_middle.symm)
    · exact (ih (rs ++ [x])).trans (by rw [List.append_assoc]; exact .refl _)

theorem insertRequest_perm (x : MemRequest) (l : List MemRequest) : (insertRequest x l).Perm (x :: l) := by
  induction l with
  | nil => exact .refl _
  | cons y l ih =>
    rw [insertRequest]
    split
    · exact .refl _
    · exact (ih.cons y).trans (.swap x y l)

theorem sortRequests_perm (rs : List MemRequest) : (sortRequests rs).Perm rs := by
  have hfold : ∀ l : List MemRequest, (rs.foldl (fun l x => insertRequest x l) l).Perm (rs ++ l) := by
    induction rs with
    | nil => exact fun l => .refl l
    | cons x rs ih => exact fun l => (ih _).trans (((insertRequest_perm x l).append_left rs).trans List.perm_middle)
  simpa [sortRequests] using hfold []

section
variable {rs l joined left : List MemRequest} (h : joinRequests rs l = (joined, left))
include h

theorem mem_of_joined {x : MemRequest} (hx : x ∈ sortRequests joined) : x ∈ rs ++ l := by
  have hperm := joinRequests_perm rs l
  rw [h] at hperm
  exact hperm.mem_iff.1 (List.mem_append_left left ((sortRequests_perm joined).mem_iff.1 hx))

theorem sumOf_joined : sumOf MemRequest.bytes (sortRequests joined) + sumOf MemRequest.bytes left =
    sumOf MemRequest.bytes rs + sumOf MemRequest.bytes l := by
  have hperm := joinRequests_perm rs l
  rw [h] at hperm
  rw [sumOf_perm _ (sortRequests_perm joined), ← sumOf_append, sumOf_perm _ hperm, sumOf_append]

end

/-! ### A round of service -/

/-- Bytes that the requests of some requesters ask for, and bytes served to them. -/
def bytesAsked (P : Nat → Prop) [DecidablePred P] (rs : List MemRequest) : Nat := sumOf (fun x => if P x.requester then x.bytes else 0) rs
def bytesServed (P : Nat → Prop) [DecidablePred P] (out : List (Nat × Nat)) : Nat := sumOf (fun y => if P y.1 then y.2 else 0) out

section
variable (pick : MemRequest → Bool)

theorem serve_picked {x : MemRequest} (rs : List MemRequest) (b : Nat) (h : pick x = true) :
    serve pick (x :: rs) b =
      let t := serve pick rs (b - min x.bytes b)
      (t.1, { x with bytes := x.bytes - min x.bytes b } :: t.2.1, (x.requester, min x.bytes b) :: t.2.2) := by
  rw [serve, if_pos h]

theorem serve_passed {x : MemRequest} (rs : List MemRequest) (b : Nat) (h : pick x = false) :
    serve pick (x :: rs) b = let t := serve pick rs b; (t.1, x :: t.2.1, t.2.2) := by
  rw [serve, if_neg (ne_true_of_eq_false h)]

/-- What a round serves and what is left of its budget make up the budget. -/
theorem serve_budget (rs : List MemRequest) (b : Nat) : (serve pick rs b).1 + sumOf Prod.snd (serve pick rs b).2.2 = b := by
  induction rs generalizing b with
  | nil => rfl
  | cons x rs ih =>
    cases hx : pick x with
    | false => simpa only [serve_passed pick rs b hx] using ih b
    | true =>
      have := ih (b - min x.bytes b)
      simp only [serve_picked pick rs b hx, sumOf_cons]
      omega

/-- What a round serves to requesters and what their requests still ask for make up what they asked for. -/
theorem serve_bytes (P : Nat → Prop) [DecidablePred P] (rs : List MemRequest) (b : Nat) :
    bytesAsked P (serve pick rs b).2.1 + bytesServed P (serve pick rs b).2.2 = bytesAsked P rs := by
  induction rs generalizing b with
  | nil => rfl
  | cons x rs ih =>
    simp only [bytesAsked, bytesServed] at ih ⊢
    cases hx : pick x with
    | false =>
      have := ih b
      simp only [serve_passed pick rs b hx, sumOf_cons]
      omega
    | true =>
      have := ih (b - min x.bytes b)
      simp only [serve_picked pick rs b hx, sumOf_cons]
      split <;> omega

theorem serve_total (rs : List MemRequest) (b : Nat) :
    sumOf MemRequest.bytes (serve pick rs b).2.1 + sumOf Prod.snd (serve pick rs b).2.2 = sumOf MemRequest.bytes rs := by
  simpa only [bytesAsked, bytesServed, if_true] using serve_bytes pick (fun _ => True) rs b

/-- A round changes no request's class and requester. -/
theorem serve_keeps {Q : Option (Fin 3) → Nat → Prop} {rs : List MemRequest} (b : Nat) (h : ∀ x ∈ rs, Q x.cls x.requester) :
    ∀ x ∈ (serve pick rs b).2.1, Q x.cls x.requester := by
  induction rs generalizing b with
  | nil => exact h
  | cons y rs ih =>
    obtain ⟨hy, hrs⟩ := List.forall_mem_cons.1 h
    cases hpick : pick y with
    | false =>
      rw [serve_passed pick rs b hpick]
      exact List.forall_mem_cons.2 ⟨hy, ih b hrs⟩
    | true =>
      rw [serve_picked pick rs b hpick]
      exact List.forall_mem_cons.2 ⟨hy, ih _ hrs⟩

end

theorem bytesAsked_all {rs : List MemRequest} {P : Nat → Prop} [DecidablePred P] (h : ∀ x ∈ rs, P x.requester) :
    bytesAsked P rs = sumOf MemRequest.bytes rs := sumOf_congr fun x hx => if_pos (h x hx)

theorem bytesAsked_none {rs : List MemRequest} {P : Nat → Prop} [DecidablePred P] (h : ∀ x ∈ rs, ¬ P x.requester) :
    bytesAsked P rs = 0 := by
  induction rs with
  | nil => rfl
  | cons x rs ih =>
    obtain ⟨hx, hrs⟩ := List.forall_mem_cons.1 h
    rw [bytesAsked, sumOf_cons, if_neg hx, Nat.zero_add]
    exact ih hrs

theorem bytesAsked_append (P : Nat → Prop) [DecidablePred P] (rs l : List MemRequest) :
    bytesAsked P (rs ++ l) = bytesAsked P rs + bytesAsked P l := sumOf_append _ rs l

theorem bytesAsked_sort (P : Nat → Prop) [DecidablePred P] (rs : List MemRequest) :
    bytesAsked P (sortRequests rs) = bytesAsked P rs := sumOf_perm _ (sortRequests_perm rs)

/-- What is served is served to some requesters or to the others. -/
theorem bytesServed_split (P : Nat → Prop) [DecidablePred P] (out : List (Nat × Nat)) :
    bytesServed P out + bytesServed (fun n => ¬ P n) out = sumOf Prod.snd out := by
  induction out with
  | nil => rfl
  | cons y out ih =>
    simp only [bytesServed, sumOf_cons] at ih ⊢
    split <;> simp_all <;> omega

/-! ### A window (R291) -/

/-- A request of a class, from a requester other than the patrol scrub. -/
def Counted (cls : Option (Fin 3)) (requester : Nat) : Prop := cls.isSome = true ∧ requester ≠ scrubRequester

/-- A request has a class unless it is the patrol scrub's. -/
def Classed (cls : Option (Fin 3)) (requester : Nat) : Prop := cls.isSome = true ↔ requester ≠ scrubRequester

theorem Stack.scrubRequest_uncounted {s : Stack} {x : MemRequest} (h : x ∈ s.scrubRequest) :
    x.cls = none ∧ x.requester = scrubRequester := by
  rw [Stack.scrubRequest] at h
  split at h
  · cases h
  · rw [List.mem_singleton.1 h]
    exact ⟨rfl, rfl⟩

theorem floorBytes_sum {f : Floors} (h : f.read.toNat + f.write.toNat + f.remote.toNat ≤ 90) :
    floorBytes f.read + floorBytes f.write + floorBytes f.remote ≤ windowBytes := by
  simp only [floorBytes, windowBytes]
  omega

/-- Of the requests that wait on after a window none is the patrol scrub's, and every byte still asked for is kept. -/
theorem sumOf_waiting {rs : List MemRequest} (h : ∀ x ∈ rs, Classed x.cls x.requester) :
    sumOf MemRequest.bytes (rs.filter fun x => x.cls.isSome && x.bytes != 0) = bytesAsked (· ≠ scrubRequester) rs := by
  rw [sumOf_filter]
  refine sumOf_congr fun x hx => ?_
  have hclass := h x hx
  by_cases hr : x.requester = scrubRequester <;> simp_all [Classed]

theorem sumOf_served (out : List (Nat × Nat)) : sumOf Prod.snd (out.filter fun x => x.2 != 0) = sumOf Prod.snd out := by
  rw [sumOf_filter]
  refine sumOf_congr fun x _ => ?_
  by_cases hx : x.2 = 0 <;> simp [hx]

section
variable {pick pick' pick'' : MemRequest → Bool} {rs rs0 rs1 rs2 : List MemRequest} {f0 f1 f2 b0 b1 b2 : Nat}
  {o0 o1 o2 : List (Nat × Nat)} (h0 : serve pick rs f0 = (b0, rs0, o0)) (h1 : serve pick' rs0 f1 = (b1, rs1, o1))
  (h2 : serve pick'' rs1 f2 = (b2, rs2, o2))
include h0 h1 h2

/-- The rounds of the three floors: what they serve, with what is left of them and with what is still asked for. -/
theorem serve_floors :
    b0 + b1 + b2 + sumOf Prod.snd (o0 ++ o1 ++ o2) = f0 + f1 + f2
      ∧ sumOf MemRequest.bytes rs2 + sumOf Prod.snd (o0 ++ o1 ++ o2) = sumOf MemRequest.bytes rs := by
  have hb0 := serve_budget pick rs f0
  have hb1 := serve_budget pick' rs0 f1
  have hb2 := serve_budget pick'' rs1 f2
  have ht0 := serve_total pick rs f0
  have ht1 := serve_total pick' rs0 f1
  have ht2 := serve_total pick'' rs1 f2
  rw [h0] at hb0 ht0
  rw [h1] at hb1 ht1
  rw [h2] at hb2 ht2
  simp only [sumOf_append] at *
  omega

theorem serve_floors_counted (h : ∀ x ∈ rs, Counted x.cls x.requester) : ∀ x ∈ rs2, Counted x.cls x.requester := by
  have hrs0 := serve_keeps pick f0 h
  rw [h0] at hrs0
  have hrs1 := serve_keeps pick' f1 hrs0
  rw [h1] at hrs1
  have hrs2 := serve_keeps pick'' f2 hrs1
  rwa [h2] at hrs2

end

/-- The round of the remainder, with the patrol scrub: its own bytes are neither asked for nor wait on as the others' do. -/
theorem serve_remainder {s : Stack} {rs rs' : List MemRequest} {b b' : Nat} {out : List (Nat × Nat)}
    (h : serve (fun _ => true) (sortRequests (rs ++ s.scrubRequest)) b = (b', rs', out)) (hrs : ∀ x ∈ rs, Counted x.cls x.requester) :
    sumOf MemRequest.bytes (rs'.filter fun x => x.cls.isSome && x.bytes != 0) + sumOf Prod.snd out
      = sumOf MemRequest.bytes rs + bytesServed (· = scrubRequester) out := by
  have hasked : bytesAsked (· ≠ scrubRequester) (sortRequests (rs ++ s.scrubRequest)) = sumOf MemRequest.bytes rs := by
    rw [bytesAsked_sort, bytesAsked_append, bytesAsked_all fun x hx => (hrs x hx).2,
      bytesAsked_none fun x hx => not_not_intro (Stack.scrubRequest_uncounted hx).2, Nat.add_zero]
  have hclassed : ∀ x ∈ sortRequests (rs ++ s.scrubRequest), Classed x.cls x.requester := by
    intro x hx
    rcases List.mem_append.1 ((sortRequests_perm _).mem_iff.1 hx) with hx | hx
    · exact iff_of_true (hrs x hx).1 (hrs x hx).2
    · obtain ⟨hcls, hreq⟩ := Stack.scrubRequest_uncounted hx
      exact iff_of_false (by simp [hcls]) (not_not_intro hreq)
  have hkept := serve_keeps (fun _ => true) b hclassed
  have hbytes := serve_bytes (fun _ => true) (· ≠ scrubRequester) (sortRequests (rs ++ s.scrubRequest)) b
  rw [h] at hkept hbytes
  rw [hasked] at hbytes
  have hsplit := bytesServed_split (· = scrubRequester) out
  rw [sumOf_waiting hkept]
  simp only [ne_eq] at hbytes ⊢
  omega

theorem Device.updStack_congr {d : Device} {k : Fin 20} {f g : Stack → Stack} (h : f d.mem.hbm[k] = g d.mem.hbm[k]) :
    d.updStack k f = d.updStack k g := by
  simp only [Device.updStack, Bank.upd, h]

/-- A window of a stack: within its bandwidth, and every byte asked for served or waiting, the patrol scrub's counted apart. -/
theorem Device.arbWindow_effect (d : Device) (k : Fin 20) (reqs : List MemRequest)
    (hfloors : d.mem.floors.read.toNat + d.mem.floors.write.toNat + d.mem.floors.remote.toNat ≤ 90)
    (hreqs : ∀ x ∈ d.mem.hbm[k].requests ++ d.mem.hbm[k].stalled ++ reqs, Counted x.cls x.requester) :
    ∃ y : Stack, d.arbWindow k reqs = d.updStack k (fun _ => y) ∧ sumOf Prod.snd y.served ≤ windowBytes
      ∧ sumOf MemRequest.bytes y.requests + sumOf MemRequest.bytes y.stalled + sumOf Prod.snd y.served + d.mem.hbm[k].scrubServed
        = sumOf MemRequest.bytes d.mem.hbm[k].requests + sumOf MemRequest.bytes d.mem.hbm[k].stalled + sumOf MemRequest.bytes reqs
          + y.scrubServed := by
  rcases hj : joinRequests d.mem.hbm[k].requests (d.mem.hbm[k].stalled ++ reqs) with ⟨rs, left⟩
  rcases h0 : serve (fun x => x.cls == some 0) (sortRequests rs) (floorBytes d.mem.floors.read) with ⟨b0, rs0, o0⟩
  rcases h1 : serve (fun x => x.cls == some 1) rs0 (floorBytes d.mem.floors.write) with ⟨b1, rs1, o1⟩
  rcases h2 : serve (fun x => x.cls == some 2) rs1 (floorBytes d.mem.floors.remote) with ⟨b2, rs2, o2⟩
  rcases h3 : serve (fun _ => true) (sortRequests (rs2 ++ d.mem.hbm[k].scrubRequest))
    (windowBytes - (floorBytes d.mem.floors.read + floorBytes d.mem.floors.write + floorBytes d.mem.floors.remote) + b0 + b1 + b2)
    with ⟨b3, rs3, o3⟩
  have hwait : ∀ x ∈ sortRequests rs, Counted x.cls x.requester := fun x hx =>
    hreqs x (by rw [List.append_assoc]; exact mem_of_joined hj hx)
  have hjoined := sumOf_joined hj
  rw [sumOf_append] at hjoined
  obtain ⟨hbudget, htotal⟩ := serve_floors h0 h1 h2
  have hremainder := serve_remainder h3 (serve_floors_counted h0 h1 h2 hwait)
  have hspare : b3 + sumOf Prod.snd o3 = _ := h3 ▸ serve_budget ..
  refine ⟨{ d.mem.hbm[k] with
      requests := rs3.filter fun x => x.cls.isSome && x.bytes != 0
      stalled := left
      scrubServed := d.mem.hbm[k].scrubServed + bytesServed (· = scrubRequester) o3
      served := (o0 ++ o1 ++ o2 ++ o3).filter fun x => x.2 != 0 }, ?_, ?_, ?_⟩
  · simp only [Device.arbWindow, hj, h0, h1, h2, h3]
    exact Device.updStack_congr rfl
  · have hfloor := floorBytes_sum hfloors
    rw [sumOf_served, sumOf_append]
    omega
  · simp only [sumOf_served, sumOf_append _ _ o3]
    omega

end Sys2Proof.Machine
end

section
/-! Quotas, floors, streams, the hearth's partitions and the aperture (R280, R281, R287, R289, R290, R297, R498, R500, R501): what each row
makes of the device. -/

namespace Sys2Proof.Machine

section
variable {d : Device}

/-! ### Quotas (R280, R281) -/

/-- A quota command in range names an account by 6 bits. -/
theorem quotaFields_account {account tier array : BitVec 8} (h : quotaFields account tier array = true) :
    (account.setWidth 6).toNat = (clampFin 63 account.toNat).val := by
  obtain ⟨haccount, -⟩ := of_decide_eq_true h
  simp only [BitVec.toNat_setWidth, clampFin]
  omega

section
variable {account tier array : BitVec 8} {limit : Word32}

theorem quotaLimit_valid (hfields : quotaFields account tier array = true) (hmax : limit.toNat ≤ quotaMax tier.toNat) :
    (!quotaFields account tier array || decide (quotaMax tier.toNat < limit.toNat)) = false := by
  rw [hfields, decide_eq_false (Nat.not_lt.2 hmax)]
  rfl

theorem quotaLimit_invalid (h : quotaFields account tier array = false ∨ quotaMax tier.toNat < limit.toNat) :
    (!quotaFields account tier array || decide (quotaMax tier.toNat < limit.toNat)) = true := by
  rcases h with h | h
  · rw [h]
    rfl
  · rw [decide_eq_true h, Bool.or_true]

end

theorem Device.quotaQuery_inRange {h : CmdHdr} {account tier array : BitVec 8} (hpass : d.passes 0x010B h)
    (hfields : quotaFields account tier array = true) (hallowed : account.toNat = h.account.toNat ∨ d.admin.port = h.port) :
    d.fresh.quotaQuery h account tier array =
      (d.fresh.openCommand 0x010B h).ok ⟨h, 0x010B⟩
        ((d.mem.quotas[clampFin 63 account.toNat].get tier.toNat array.toNat).toNat
          + 2 ^ 32 * d.used (account.setWidth 6) tier.toNat array.toNat) := by
  have hmay : ¬ (account.toNat ≠ h.account.toNat ∧ (!(d.fresh.openCommand 0x010B h).isAdmin h.port) = true) := by
    rintro ⟨hother, hadmin⟩
    have hport : (d.fresh.openCommand 0x010B h).isAdmin h.port = true := beq_iff_eq.2 (hallowed.resolve_left hother)
    rw [hport] at hadmin
    cases hadmin
  have hget : d.mem.quotas[(account.setWidth 6).toNat] = d.mem.quotas[clampFin 63 account.toNat] := by
    simp only [quotaFields_account hfields]
    rfl
  simp only [Device.quotaQuery, Device.command_of_passes _ hpass, if_neg hmay, hfields, Device.fresh_openCommand_mem, hget]
  rfl

/-! ### Floors (R291) -/

/-- Floors that leave a tenth of the bandwidth are set while no promise counts on those in force. -/
theorem Device.memArbSet_valid {h : CmdHdr} {r w m : BitVec 8} (hpass : d.passesAdmin 0x010C h)
    (hsum : r.toNat + w.toNat + m.toNat ≤ 90) :
    d.fresh.memArbSet h r w m =
      if !d.adm.promises.isEmpty then (d.fresh.openCommand 0x010C h).finish ⟨h, 0x010C⟩ .busy
      else ((d.fresh.openCommand 0x010C h).updMem fun t => { t with floors := { read := r, write := w, remote := m } }).ok
        ⟨h, 0x010C⟩ := by
  have hrange : ¬ (90 < r.toNat ∨ 90 < w.toNat ∨ 90 < m.toNat ∨ 90 < r.toNat + w.toNat + m.toNat) := by omega
  exact (Device.adminCommand_of_passes _ hpass).trans (if_neg hrange)

/-! ### Data that arrives late (R290) -/

section
variable {n : Fin 8} {late stall : Nat} (hlate : 0 < late ∨ 0 < stall)
include hlate

/-- The first of a step on an array is logged. -/
theorem Device.streamDataArrive_first (h : d.stepOnArray n = none ∨ d.arrays[n].lateLogged ≠ d.stepOnArray n) :
    d.streamDataArrive n late stall =
      ((d.updHearth n fun x => { x with late := bump x.late, stall := satAdd x.stall stall }).updArray n fun a =>
        { a with lateLogged := d.stepOnArray n }).logEvent 0x0101 .info n.val (evData [(8, late)]) (srcHearth n.val) := by
  have hnew : ((d.stepOnArray n).isSome && d.arrays[n].lateLogged == d.stepOnArray n) = false := by
    rcases h with h | h
    · rw [h]
      rfl
    · rw [beq_eq_false_iff_ne.2 h, Bool.and_false]
  have hsome : ¬ (late = 0 ∧ stall = 0) := by omega
  simp only [Device.streamDataArrive, if_neg hsome, Device.updHearth_arrays, hnew]
  rfl

/-- A later one is folded. -/
theorem Device.streamDataArrive_again (hstep : (d.stepOnArray n).isSome = true) (h : d.arrays[n].lateLogged = d.stepOnArray n) :
    d.streamDataArrive n late stall =
      (d.updHearth n fun x => { x with late := bump x.late, stall := satAdd x.stall stall }).repeatEvent 0x0101 .info n.val
        (srcHearth n.val) := by
  have hagain : ((d.stepOnArray n).isSome && d.arrays[n].lateLogged == d.stepOnArray n) = true := by
    rw [hstep, h, beq_self_eq_true]
    rfl
  have hsome : ¬ (late = 0 ∧ stall = 0) := by omega
  simp only [Device.streamDataArrive, if_neg hsome, Device.updHearth_arrays, hagain, if_true]

end

/-! ### Partitions of a hearth (R287) -/

theorem Device.setPart_taken (n : Fin 8) (v : BitVec 10) (h : d.blockedParts n (v &&& ~~~systemMask n) = 0) :
    d.setPart n v = d.updHearth n fun x =>
      { x with cache := v &&& ~~~systemMask n, lines := x.lines.filter fun l => (v &&& ~~~systemMask n).getLsbD l.1.val } := by
  have hall : ∀ c : BitVec 10, c &&& ~~~(0 : BitVec 10) = c := fun c => BitVec.and_allOnes
  simp only [Device.setPart, h, hall, if_true]

/-- Partitions that hold granules stay SCRATCH, and the write is logged. -/
theorem Device.setPart_blocked (n : Fin 8) (v : BitVec 10) {b : BitVec 10} (h : d.blockedParts n (v &&& ~~~systemMask n) = b)
    (hb : b ≠ 0) :
    d.setPart n v = (d.updHearth n fun x =>
      { x with
        cache := v &&& ~~~systemMask n &&& ~~~b
        lines := x.lines.filter fun l => (v &&& ~~~systemMask n &&& ~~~b).getLsbD l.1.val }).logEvent 0x0102 .warn n.val 0
      (srcHearth n.val) := by
  simp only [Device.setPart, h, if_neg hb]

/-! ### The aperture (R498, R500, R501) -/

section
variable {p : Fin 2} {off : BitVec 40} (hup : d.linkUp p = true)
include hup

theorem Device.apertureRead_mapped {len a : Nat} {o : Obj} (errs : List WordError) (h : d.mappedAt p off.toNat len = some (o, a)) :
    d.apertureRead p off len errs = d.consume errs fun d => d.emit (.apertureData p (d.objBytes o a len)) := by
  simp only [Device.apertureRead, hup, h]
  rfl

theorem Device.apertureRead_unmapped {len : Nat} (errs : List WordError) (h : d.mappedAt p off.toNat len = none) :
    d.apertureRead p off len errs = d.emit (.apertureAbort p) := by
  simp only [Device.apertureRead, hup, h]
  rfl

theorem Device.apertureWrite_mapped {bs : List Byte} {a : Nat} {o : Obj} (h : d.mappedAt p off.toNat bs.length = some (o, a)) :
    d.apertureWrite p off bs = if d.objectNamed o.id then d.apertureDropped p else d.objStore o.id a bs := by
  simp only [Device.apertureWrite, hup, h]
  rfl

theorem Device.apertureWrite_unmapped {bs : List Byte} (h : d.mappedAt p off.toNat bs.length = none) :
    d.apertureWrite p off bs = (d.emit (.aerCompleterAbort p)).apertureDropped p := by
  simp only [Device.apertureWrite, hup, h]
  rfl

end

theorem Device.bar4Resize_noMapping {p : Fin 2} {n : BitVec 6} (hlow : 30 ≤ n.toNat) (hhigh : n.toNat ≤ 40)
    (hmap : d.ports[p].mappings = []) : d.bar4Resize p n = d.updPort p fun q => { q with bar4Log2 := n } := by
  have hrange : ¬ (n.toNat < 30 ∨ 40 < n.toNat) := by omega
  simp only [Device.bar4Resize, if_neg hrange, hmap, List.any_nil]
  rfl

end

/-- Settles O29: each row is exec's function for it, and the function is one of the equations above; a window of arbitration is
`Device.arbWindow_effect`. -/
theorem quotaAndApertureRowsComplete : Obligations.QuotaAndApertureRowsComplete := by
  refine ⟨fun s hl => ⟨fun h account tier array limit hpass hfields hmax => ?_, fun h account tier array limit hpass hbad => ?_,
      fun h account tier array hpass hfields hallowed => ?_, fun h r w m hpass hsum => ⟨fun hnone => ?_, fun hsome => ?_⟩, fun n => ?_,
      fun n late stall hlate hfirst => ?_, fun n late stall hlate hstep hagain => ?_,
      fun req n v hw => ⟨fun hfree => ?_, fun b hblocked hb => ?_⟩,
      fun p off len errs hup => ⟨fun o a hmap => ?_, fun hmap => ?_⟩,
      fun p off bs hup => ⟨fun o a hmap hfree => ?_, fun o a hmap hnamed => ?_, fun hmap => ?_⟩, fun p n hrange => ?_,
      fun p n hlow hhigh hmap => ?_⟩, fun s k reqs hl hfloors hreqs => ?_⟩
  · exact .of_adminCommand _ hl hpass rfl (if_neg (ne_true_of_eq_false (quotaLimit_valid hfields hmax)))
  · exact .of_adminCommand _ hl hpass rfl (if_pos (quotaLimit_invalid hbad))
  · exact .of_act (Device.quotaQuery h account tier array) hl rfl (Device.quotaQuery_inRange hpass hfields hallowed)
  · exact .of_act (Device.memArbSet h r w m) hl rfl
      ((Device.memArbSet_valid hpass hsum).trans (if_neg (by rw [hnone]; decide)))
  · exact .of_act (Device.memArbSet h r w m) hl rfl
      ((Device.memArbSet_valid hpass hsum).trans (if_pos (by simpa using hsome)))
  · exact .of_act (Device.streamDataArrive n 0 0) hl rfl (if_pos ⟨rfl, rfl⟩)
  · exact .of_act (Device.streamDataArrive n late stall) hl rfl (Device.streamDataArrive_first (d := s.dev.fresh) hlate hfirst)
  · exact .of_act (Device.streamDataArrive n late stall) hl rfl (Device.streamDataArrive_again (d := s.dev.fresh) hlate hstep hagain)
  · exact .of_write _ (Device.setPart n (v.extractLsb' 0 10)) hl hw rfl (Device.setPart_taken (d := s.dev.fresh) n _ hfree)
  · exact .of_write _ (Device.setPart n (v.extractLsb' 0 10)) hl hw rfl (Device.setPart_blocked (d := s.dev.fresh) n _ hblocked hb)
  · exact .of_act (Device.apertureRead p off len errs) hl rfl (Device.apertureRead_mapped (d := s.dev.fresh) hup errs hmap)
  · exact .of_act (Device.apertureRead p off len errs) hl rfl (Device.apertureRead_unmapped (d := s.dev.fresh) hup errs hmap)
  · exact .of_act (Device.apertureWrite p off bs) hl rfl
      ((Device.apertureWrite_mapped (d := s.dev.fresh) hup hmap).trans (if_neg (ne_true_of_eq_false hfree)))
  · exact .of_act (Device.apertureWrite p off bs) hl rfl
      ((Device.apertureWrite_mapped (d := s.dev.fresh) hup hmap).trans (if_pos hnamed))
  · exact .of_act (Device.apertureWrite p off bs) hl rfl (Device.apertureWrite_unmapped (d := s.dev.fresh) hup hmap)
  · exact .of_act (Device.bar4Resize p n) hl rfl (if_pos hrange)
  · exact .of_act (Device.bar4Resize p n) hl rfl (Device.bar4Resize_noMapping (d := s.dev.fresh) hlow hhigh hmap)
  · obtain ⟨y, hy, hserved, hbytes⟩ := Device.arbWindow_effect s.dev.fresh k reqs hfloors hreqs
    have hmem : (s.dev.settle (s.dev.fresh.arbWindow k reqs)).mem = { s.dev.mem with hbm := Bank.upd s.dev.mem.hbm k fun _ => y } := by
      rw [Device.settle_mem, hy]
      rfl
    refine ⟨_, State.act_live (f := Device.arbWindow k reqs) hl, ?_⟩
    simp only [hmem, Bank.upd_same]
    exact ⟨hserved, hbytes, trivial, trivial, fun j hj => Bank.upd_other _ _ _ _ hj⟩

end Sys2Proof.Machine
end

section
/-! Stacks at work (R302, R303, R305, R307-R311, R314, R316, R394): what each row of a stack, and a runner flit, make of the device. -/

namespace Sys2Proof.Machine

section
variable {d : Device} {k : Fin 20}

/-! ### One stack changed -/

theorem Device.updStack_updStack (d : Device) (k : Fin 20) (f g : Stack → Stack) :
    (d.updStack k f).updStack k g = d.updStack k fun x => g (f x) := by
  simp only [Device.updStack, Bank.upd, Fin.getElem_fin, Vector.getElem_set_self, Vector.set_set]

theorem Device.updStack_hbm_same (d : Device) (k : Fin 20) (f : Stack → Stack) : (d.updStack k f).mem.hbm[k] = f d.mem.hbm[k] :=
  Bank.upd_same ..

theorem Device.updStack_hbm_other (d : Device) {j k : Fin 20} (f : Stack → Stack) (h : j ≠ k) :
    (d.updStack k f).mem.hbm[j] = d.mem.hbm[j] :=
  Bank.upd_other _ _ _ _ h

theorem satAdd_zero {w : Nat} (x : BitVec w) : satAdd x 0 = x := by
  have hfits : min (x.toNat + 0) (maxOf w) = x.toNat := Nat.min_eq_left (Nat.le_sub_one_of_lt x.isLt)
  rw [satAdd, hfits, BitVec.ofNat_toNat, BitVec.setWidth_eq]

/-! ### Training (R303) -/

theorem Device.stackInit_trained (ok : Bool) (lanes : BitVec 8) (h : d.mem.hbm[k].trained = true) : d.stackInit k ok lanes = d := by
  simp only [Device.stackInit, h, Bool.true_or, if_true]

section
variable (lanes : BitVec 8) (htrained : d.mem.hbm[k].trained = false) (hfail : d.sec.stackFail.getLsbD k.val = false)
include htrained hfail

theorem Device.stackInit_succeeds :
    d.stackInit k true lanes = d.updStack k fun x =>
      { x with trained := true, lanesRepaired := lanes, scrubDue := d.tb.now.toNat + scrubPace x.scrubHours } := by
  simp only [Device.stackInit, htrained, hfail, Bool.or_self, Bool.false_eq_true, if_false, if_true, Device.updStack_updStack,
    Device.updStack_tb]

theorem Device.stackInit_fails :
    d.stackInit k false lanes =
      let e := d.updStack k fun x => { x with trained := false, lanesRepaired := lanes }
      { e with sec := { e.sec with stackFail := e.sec.stackFail ||| (1 <<< k.val) } } := by
  simp only [Device.stackInit, htrained, hfail, Bool.or_self, Bool.false_eq_true, if_false]

end

/-! ### Temperature (R305, R307) -/

section
variable {c : BitVec 8}

theorem nextRef2x_cool (old : Bool) (h : c.toNat < 82) : nextRef2x old c = false := by
  have h85 : ¬ 85 ≤ c.toNat := by omega
  simp only [nextRef2x, decide_eq_false h85, decide_eq_false (Nat.not_le.2 h), Bool.and_false, Bool.or_false]

theorem nextRef2x_between (old : Bool) (hlow : 82 ≤ c.toNat) (hhigh : c.toNat < 85) : nextRef2x old c = old := by
  simp only [nextRef2x, decide_eq_true hlow, decide_eq_false (Nat.not_le.2 hhigh), Bool.and_true, Bool.false_or]

theorem nextRef2x_warm (old : Bool) (h : 85 ≤ c.toNat) : nextRef2x old c = true := by
  simp only [nextRef2x, decide_eq_true h, Bool.true_or]

/-- What a reading makes of its stack, with REF_2X and HOT as given. -/
def Stack.tempRead (x : Stack) (c : BitVec 8) (ref hot : Bool) : Stack :=
  { x with temp := c, maxTemp := if x.maxTemp.toNat < c.toNat then c else x.maxTemp, ref2x := ref, hot := hot }

section
variable {ref hot : Bool} {g : Stack → Stack} (href : nextRef2x d.mem.hbm[k].ref2x c = ref) (hhot : decide (95 ≤ c.toNat) = hot)
  (hg : g d.mem.hbm[k] = d.mem.hbm[k].tempRead c ref hot)
include href hhot hg

/-- A reading changes its stack, and logs a change of REF_2X and the beginning of an excursion. -/
theorem Device.stackTemp_eq :
    d.stackTemp k c =
      let e := d.updStack k g
      let e := if ref = d.mem.hbm[k].ref2x then e else e.logEvent 0x0603 .info k.val 0 (srcStack k.val)
      if hot && !d.mem.hbm[k].hot then e.logEvent 0x0602 .warn k.val 0 (srcStack k.val) else e := by
  rw [Device.updStack_congr (g := fun y => y.tempRead c ref hot) hg]
  subst href hhot
  rfl

section
variable (hstart : (hot && !d.mem.hbm[k].hot) = false)
include hstart

theorem Device.stackTemp_quiet (hkeep : d.mem.hbm[k].ref2x = ref) : d.stackTemp k c = d.updStack k g := by
  simp only [Device.stackTemp_eq href hhot hg, hkeep, hstart, Bool.false_eq_true, if_false, if_true]

theorem Device.stackTemp_refresh (hchange : d.mem.hbm[k].ref2x = !ref) :
    d.stackTemp k c = (d.updStack k g).logEvent 0x0603 .info k.val 0 (srcStack k.val) := by
  simp only [Device.stackTemp_eq href hhot hg, hchange, Bool.eq_not_self, hstart, Bool.false_eq_true, if_false]

end

section
variable (hstart : (hot && !d.mem.hbm[k].hot) = true)
include hstart

theorem Device.stackTemp_excursion (hkeep : d.mem.hbm[k].ref2x = ref) :
    d.stackTemp k c = (d.updStack k g).logEvent 0x0602 .warn k.val 0 (srcStack k.val) := by
  simp only [Device.stackTemp_eq href hhot hg, hkeep, hstart, if_true]

theorem Device.stackTemp_refreshAndExcursion (hchange : d.mem.hbm[k].ref2x = !ref) :
    d.stackTemp k c =
      ((d.updStack k g).logEvent 0x0603 .info k.val 0 (srcStack k.val)).logEvent 0x0602 .warn k.val 0 (srcStack k.val) := by
  simp only [Device.stackTemp_eq href hhot hg, hchange, Bool.eq_not_self, hstart, if_true, if_false]

end

end

end

/-! ### The patrol scrub (R302, R308, R309) -/

theorem Device.scrubUnit_off (cws : List (Nat × List Byte)) (onDie : Nat)
    (h : d.mem.hbm[k].diag = true ∨ d.mem.hbm[k].scrubHours = 0) : d.scrubUnit k cws onDie = d := by
  have hoff : (d.mem.hbm[k].diag || d.mem.hbm[k].scrubHours == 0) = true := by simpa using h
  simp only [Device.scrubUnit, hoff, if_true]

section
variable (cws : List (Nat × List Byte)) (onDie : Nat) (hdiag : d.mem.hbm[k].diag = false) (hhours : d.mem.hbm[k].scrubHours ≠ 0)
include hdiag hhours

theorem Device.scrubOn : (d.mem.hbm[k].diag || d.mem.hbm[k].scrubHours == 0) = false := by
  simpa using And.intro hdiag hhours

/-- After the words of a unit the position moves on. -/
theorem Device.scrubUnit_next (hpos : d.mem.hbm[k].scrubPos.toNat < 33554431) :
    d.scrubUnit k cws onDie = (cws.foldl (Device.scrubWord k d.mem.hbm[k].scrubPos.toNat) d).updStack k fun x =>
      { x with ondie := satAdd x.ondie onDie, scrubPos := x.scrubPos + 1, scrubDue := x.scrubDue + scrubPace x.scrubHours
               scrubServed := 0 } := by
  have hmore : d.mem.hbm[k].scrubPos.toNat + 1 < stackUnits := Nat.succ_lt_succ hpos
  simp only [Device.scrubUnit, Device.scrubOn hdiag hhours, Bool.false_eq_true, if_false, if_pos hmore, Device.updStack_updStack]

/-- After the words of the last unit a pass is complete. -/
theorem Device.scrubUnit_last (hpos : 33554431 ≤ d.mem.hbm[k].scrubPos.toNat) :
    d.scrubUnit k cws onDie = ((cws.foldl (Device.scrubWord k d.mem.hbm[k].scrubPos.toNat) d).updStack k fun x =>
      { x with ondie := satAdd x.ondie onDie, scrubPos := 0, scrubPasses := bump x.scrubPasses
               scrubDue := x.scrubDue + scrubPace x.scrubHours, scrubServed := 0 }).logEvent 0x0605 .info k.val 0 (srcStack k.val) := by
  have hlast : ¬ d.mem.hbm[k].scrubPos.toNat + 1 < stackUnits := Nat.not_lt.2 (Nat.succ_le_succ hpos)
  simp only [Device.scrubUnit, Device.scrubOn hdiag hhours, Bool.false_eq_true, if_false, if_neg hlast, Device.updStack_updStack]

/-- A unit with one word in error and no correction on the die: what the word makes of the device, and the position moves on. -/
theorem Device.scrubUnit_word (w : Nat × List Byte) (hpos : d.mem.hbm[k].scrubPos.toNat < 33554431) :
    d.scrubUnit k [w] 0 = (d.scrubWord k d.mem.hbm[k].scrubPos.toNat w).updStack k fun x =>
      { x with scrubPos := x.scrubPos + 1, scrubDue := x.scrubDue + scrubPace x.scrubHours, scrubServed := 0 } := by
  simp only [Device.scrubUnit_next [w] 0 hdiag hhours hpos, satAdd_zero, List.foldl_cons, List.foldl_nil]

end

section
variable {unit w : Nat} {cw : List Byte}

theorem Device.scrubWord_clean (h : ingotDecode d.mem.dec cw = .clean) : d.scrubWord k unit (w, cw) = d := by
  simp only [Device.scrubWord, h]

theorem Device.scrubWord_uncorrectable (h : ingotDecode d.mem.dec cw = .uncorrectable) :
    d.scrubWord k unit (w, cw) =
      d.uncorrectable (21 + k.val) (evData [(1, unit % 32), (1, w % 2), (4, unit)]) (srcStack k.val) := by
  simp only [Device.scrubWord, h]

/-- A word corrected for the first time, in a step that has logged a correction of its stack. -/
theorem Device.scrubWord_corrected {v : List Byte} (h : ingotDecode d.mem.dec cw = .corrected v)
    (hlogged : d.mem.hbm[k].correctedLogged = true) (hweak : d.mem.hbm[k].weak = []) :
    d.scrubWord k unit (w, cw) = (d.repeatEvent 0x0601 .info k.val (srcStack k.val)).updStack k fun x =>
      { x with
        corr := bump x.corr, weak := [{ unit := unit, word := w, passes := 1, lastPass := d.mem.hbm[k].scrubPasses.toNat }]
        writeBacks := x.writeBacks ++ [{ unit := unit, word := w, codeword := v }] } := by
  have honce : (1 : Nat) ≠ 3 := by decide
  simp only [Device.scrubWord, h, hweak, noteWeak, List.find?_nil, List.filter_nil, Device.logCorrected, Device.updStack_hbm_same,
    hlogged, if_true, if_neg honce]
  rfl

end

/-! ### Write-back (R309) -/

theorem Device.writeBack_none (errs : List WordError) (h : d.mem.hbm[k].writeBacks = []) : d.writeBack k errs = d := by
  simp only [Device.writeBack, h]

section
variable {w : WriteBack} {r : List WriteBack} (hq : d.mem.hbm[k].writeBacks = w :: r)
include hq

theorem Device.writeBack_outside (errs : List WordError) (haddr : w.addr = none) :
    d.writeBack k errs = (d.updStack k fun x => { x with writeBacks := r }).consume errs fun d => d := by
  simp only [Device.writeBack, hq, haddr]

/-- Taking a write-back from its queue leaves the bytes that it compares. -/
theorem Device.writeBack_inside {a : Nat} (haddr : w.addr = some a) :
    d.writeBack k [] =
      let e := d.updStack k fun x => { x with writeBacks := r }
      if d.writeBackStands w then e.updMem fun m => m.store (a / 32 * 32) (w.codeword.take 32) else e := by
  simp only [Device.writeBack, hq, haddr, Device.consume_nil]
  rfl

end

/-! ### Crucible-overflow adders (R310, R311, R394) -/

theorem Device.overflowAdd_empty (errs : List WordError) (differ : Bool) (h : d.mem.hbm[k].adderQueue = []) :
    d.overflowAdd k errs differ = d := by
  simp only [Device.overflowAdd, h]

section
variable {g : AdderGroup} {r : List AdderGroup} (errs : List WordError) (hq : d.mem.hbm[k].adderQueue = g :: r)
include hq

theorem Device.overflowAdd_additions (hzero : g.zero = 0) :
    d.overflowAdd k errs false = d.consume errs fun d =>
      (d.updMem fun m => addWords m g.addr g.addends).updStack k fun x =>
        { x with adderQueue := r, adderGroups := bump x.adderGroups } := by
  simp only [Device.overflowAdd, hq, if_pos hzero]
  rfl

theorem Device.overflowAdd_readAndZero (hzero : g.zero ≠ 0) :
    d.overflowAdd k errs false = d.consume errs fun d =>
      (d.updMem fun m => m.zero g.addr g.zero).updStack k fun x => { x with adderQueue := r } := by
  simp only [Device.overflowAdd, hq, if_neg hzero]
  rfl

theorem Device.overflowAdd_differ :
    d.overflowAdd k errs true = d.consume errs fun d => (d.logEvent 0x080A .fatal 0 0 srcIntegrity).contain := by
  simp only [Device.overflowAdd, hq]
  rfl

end

theorem Device.adderWaits_iff {n : Fin 8} :
    d.adderWaits n = true ↔ ∃ j : Fin 20, ∃ w ∈ d.mem.hbm[j].adderWaiting, w.1 = some n := by
  simp [Device.adderWaits, Bank.indices]

section
variable {n : Option (Fin 8)} {g : AdderGroup} {r : List (Option (Fin 8) × AdderGroup)}
  (hw : d.mem.hbm[k].adderWaiting = (n, g) :: r)
include hw

theorem Device.adderQueueRoom_full (hfull : 4096 ≤ d.mem.hbm[k].adderQueue.length) : d.adderQueueRoom k = d := by
  have hdepth : adderDepth ≤ d.mem.hbm[k].adderQueue.length := hfull
  simp only [Device.adderQueueRoom, hw, if_pos hdepth]

variable (hroom : d.mem.hbm[k].adderQueue.length < 4096)
include hroom

/-- The group enters the queue; another of its array's groups still waits, or no array waited for it. -/
theorem Device.adderQueueRoom_stillWaits (hmore : n = none ∨ ∃ x ∈ r, x.1 = n) :
    d.adderQueueRoom k = d.updStack k fun x => { x.settle d.tb.now with adderWaiting := r }.takeGroup g := by
  have hdepth : ¬ adderDepth ≤ d.mem.hbm[k].adderQueue.length := Nat.not_le.2 hroom
  simp only [Device.adderQueueRoom, hw, if_neg hdepth]
  cases n with
  | none => rfl
  | some a =>
    obtain ⟨x, hx, hxa⟩ := hmore.resolve_left (Option.some_ne_none a)
    refine if_pos (Device.adderWaits_iff.2 ⟨k, x, ?_, hxa⟩)
    rw [Device.updStack_hbm_same]
    exact hx

/-- The group was the last of its array's that waited: the array thaws. -/
theorem Device.adderQueueRoom_thaws {a : Fin 8} (hn : n = some a) (hlast : ∀ x ∈ r, x.1 ≠ n)
    (hothers : ∀ j : Fin 20, j ≠ k → ∀ x ∈ d.mem.hbm[j].adderWaiting, x.1 ≠ n) :
    d.adderQueueRoom k =
      (d.updStack k fun x => { x.settle d.tb.now with adderWaiting := r }.takeGroup g).updArray a fun a =>
        { a with frozenAdder := false } := by
  have hdepth : ¬ adderDepth ≤ d.mem.hbm[k].adderQueue.length := Nat.not_le.2 hroom
  subst hn
  simp only [Device.adderQueueRoom, hw, if_neg hdepth]
  refine if_neg (mt Device.adderWaits_iff.1 ?_)
  rintro ⟨j, x, hx, hxa⟩
  by_cases hj : j = k
  · subst hj
    rw [Device.updStack_hbm_same] at hx
    exact hlast x hx hxa
  · rw [Device.updStack_hbm_other _ _ hj] at hx
    exact hothers j hj x hx hxa

end

/-! ### Runner flits (R30, R314, R316) -/

section
variable {b : BitVec 6} {cw : List Byte}

theorem Device.runnerFlit_clean (h : ingotDecode d.mem.dec cw = .clean) : d.runnerFlit b cw = d := by
  simp only [Device.runnerFlit, h]

theorem Device.runnerFlit_corrected {w : List Byte} (h : ingotDecode d.mem.dec cw = .corrected w) :
    d.runnerFlit b cw = d.countFlit b.toNat := by
  simp only [Device.runnerFlit, h]

theorem Device.runnerFlit_uncorrectable (h : ingotDecode d.mem.dec cw = .uncorrectable) :
    d.runnerFlit b cw = d.uncorrectable b.toNat 0 (blockSource b.toNat) := by
  simp only [Device.runnerFlit, h]

end

section
variable (d : Device) {b : Nat}

theorem Device.countFlit_array {n : Fin 8} (h : b = 3 + n.val) :
    d.countFlit b = d.updArray n fun a => { a with sprueCorr := bump a.sprueCorr } := by
  have hb : 3 ≤ b ∧ b < 11 := by omega
  have hn : (⟨b - 3, by omega⟩ : Fin 8) = n := Fin.ext (show b - 3 = n.val by omega)
  rw [Device.countFlit, dif_pos hb, hn]

theorem Device.countFlit_hearth {n : Fin 8} (h : b = 13 + n.val) :
    d.countFlit b = d.updHearth n fun x => { x with corr := bump x.corr } := by
  have ha : ¬ (3 ≤ b ∧ b < 11) := by omega
  have hb : 13 ≤ b ∧ b < 21 := by omega
  have hn : (⟨b - 13, by omega⟩ : Fin 8) = n := Fin.ext (show b - 13 = n.val by omega)
  rw [Device.countFlit, dif_neg ha, dif_pos hb, hn]

theorem Device.countFlit_stack {n : Fin 20} (h : b = 21 + n.val) :
    d.countFlit b = d.updStack n fun x => { x with corr := bump x.corr } := by
  have ha : ¬ (3 ≤ b ∧ b < 11) := by omega
  have hh : ¬ (13 ≤ b ∧ b < 21) := by omega
  have hb : 21 ≤ b ∧ b < 41 := by omega
  have hn : (⟨b - 21, by omega⟩ : Fin 20) = n := Fin.ext (show b - 21 = n.val by omega)
  rw [Device.countFlit, dif_neg ha, dif_neg hh, dif_pos hb, hn]

theorem Device.countFlit_fabric (h : b = 41) : d.countFlit b = { d with fab := { d.fab with corr := bump d.fab.corr } } := by
  subst h
  rfl

end

end

/-- Settles O3: each row is exec's function for it, and the function is one of the equations above. -/
theorem stackRowsComplete : Obligations.StackRowsComplete := by
  refine ⟨fun s k hl => ⟨fun lanes htrained hfail => ⟨?_, ?_⟩, fun ok lanes htrained => ?_, fun c => ?_, ?_, fun cws od hoff => ?_,
      fun od hdiag hhours => ⟨fun hpos => ?_, fun hpos => ?_⟩,
      fun w cw hdiag hhours hpos => ⟨fun hclean => ?_, fun v hcorr hlogged hweak => ?_, fun hunc => ?_⟩,
      fun hnone errs => ?_, fun w r errs hq haddr => ?_, fun w r a hq haddr => ⟨fun hstands => ?_, fun hstands => ?_⟩,
      fun hempty errs differ => ?_, fun g r errs hq => ⟨fun hzero => ?_, fun hzero => ?_, ?_⟩,
      fun n g r hw => ⟨fun hfull => ?_, fun hroom hmore => ?_, fun a hn hroom hlast hothers => ?_⟩, fun req hmay => ?_⟩,
    fun s b cw hl => ⟨fun hclean => ?_, fun w hcorr n hb => ?_, fun w hcorr n hb => ?_, fun w hcorr n hb => ?_,
      fun w hcorr hb => ?_, fun hunc => ?_⟩⟩
  · exact .of_act _ hl rfl (Device.stackInit_succeeds (d := s.dev.fresh) lanes htrained hfail)
  · exact .of_act _ hl rfl (Device.stackInit_fails (d := s.dev.fresh) lanes htrained hfail)
  · exact .of_act _ hl rfl (Device.stackInit_trained (d := s.dev.fresh) ok lanes htrained)
  · have hcool (h : c.toNat < 95) : decide (95 ≤ c.toNat) = false := decide_eq_false (Nat.not_le.2 h)
    have hwarm (h : 95 ≤ c.toNat) : 85 ≤ c.toNat := by omega
    refine ⟨fun hlow hhigh => ?_, fun h href => ?_, fun h href => ?_, fun hlow hhigh href => ?_, fun hlow hhigh href => ?_,
      fun h href hhot => ?_, fun h href hhot => ?_, fun h href hhot => ?_⟩
    · exact .of_act _ hl rfl
        (Device.stackTemp_quiet (d := s.dev.fresh) (nextRef2x_between _ hlow hhigh) (hcool (by omega)) rfl rfl rfl)
    · exact .of_act _ hl rfl
        (Device.stackTemp_quiet (d := s.dev.fresh) ((nextRef2x_cool _ h).trans href.symm) (hcool (by omega)) rfl rfl rfl)
    · exact .of_act _ hl rfl (Device.stackTemp_refresh (d := s.dev.fresh) (nextRef2x_cool _ h) (hcool (by omega)) rfl rfl href)
    · exact .of_act _ hl rfl (Device.stackTemp_refresh (d := s.dev.fresh) (nextRef2x_warm _ hlow) (hcool hhigh) rfl rfl href)
    · exact .of_act _ hl rfl
        (Device.stackTemp_quiet (d := s.dev.fresh) ((nextRef2x_warm _ hlow).trans href.symm) (hcool hhigh) rfl rfl rfl)
    · exact .of_act _ hl rfl
        (Device.stackTemp_excursion (d := s.dev.fresh) ((nextRef2x_warm _ (hwarm h)).trans href.symm) (decide_eq_true h) rfl
          (congrArg Bool.not hhot) rfl)
    · exact .of_act _ hl rfl
        (Device.stackTemp_refreshAndExcursion (d := s.dev.fresh) (nextRef2x_warm _ (hwarm h)) (decide_eq_true h) rfl
          (congrArg Bool.not hhot) href)
    · exact .of_act _ hl rfl
        (Device.stackTemp_quiet (d := s.dev.fresh) ((nextRef2x_warm _ (hwarm h)).trans href.symm)
          ((decide_eq_true h).trans hhot.symm) rfl (Bool.and_not_self _) rfl)
  · exact .of_act (Device.cattrip k) hl rfl rfl
  · exact .of_act _ hl rfl (Device.scrubUnit_off (d := s.dev.fresh) cws od hoff)
  · exact .of_act _ hl rfl (Device.scrubUnit_next (d := s.dev.fresh) [] od hdiag hhours hpos)
  · exact .of_act _ hl rfl (Device.scrubUnit_last (d := s.dev.fresh) [] od hdiag hhours hpos)
  · exact .of_act _ hl rfl ((Device.scrubUnit_word (d := s.dev.fresh) hdiag hhours (w, cw) hpos).trans
      (congrArg (Device.updStack · k _) (Device.scrubWord_clean hclean)))
  · refine .of_act _ hl rfl ((Device.scrubUnit_word (d := s.dev.fresh) hdiag hhours (w, cw) hpos).trans ?_)
    rw [Device.scrubWord_corrected (d := s.dev.fresh) hcorr hlogged hweak, Device.updStack_updStack]
    exact Device.updStack_congr rfl
  · exact .of_act _ hl rfl ((Device.scrubUnit_word (d := s.dev.fresh) hdiag hhours (w, cw) hpos).trans
      (congrArg (Device.updStack · k _) (Device.scrubWord_uncorrectable hunc)))
  · exact .of_act _ hl rfl (Device.writeBack_none (d := s.dev.fresh) errs hnone)
  · exact .of_act _ hl rfl (Device.writeBack_outside (d := s.dev.fresh) hq errs haddr)
  · exact .of_act _ hl rfl ((Device.writeBack_inside (d := s.dev.fresh) hq haddr).trans (if_pos hstands))
  · exact .of_act _ hl rfl ((Device.writeBack_inside (d := s.dev.fresh) hq haddr).trans (if_neg (ne_true_of_eq_false hstands)))
  · exact .of_act _ hl rfl (Device.overflowAdd_empty (d := s.dev.fresh) errs differ hempty)
  · exact .of_act _ hl rfl (Device.overflowAdd_additions (d := s.dev.fresh) errs hq hzero)
  · exact .of_act _ hl rfl (Device.overflowAdd_readAndZero (d := s.dev.fresh) errs hq hzero)
  · exact .of_act _ hl rfl (Device.overflowAdd_differ (d := s.dev.fresh) errs hq)
  · exact .of_act _ hl rfl (Device.adderQueueRoom_full (d := s.dev.fresh) hw hfull)
  · exact .of_act _ hl rfl (Device.adderQueueRoom_stillWaits (d := s.dev.fresh) hw hroom hmore)
  · exact .of_act _ hl rfl (Device.adderQueueRoom_thaws (d := s.dev.fresh) hw hroom hn hlast hothers)
  · exact .of_write _ (Device.clearStackCounts k) hl hmay rfl rfl
  · exact .of_act _ hl rfl (Device.runnerFlit_clean (d := s.dev.fresh) hclean)
  · exact .of_act _ hl rfl ((Device.runnerFlit_corrected (d := s.dev.fresh) hcorr).trans (Device.countFlit_array _ hb))
  · exact .of_act _ hl rfl ((Device.runnerFlit_corrected (d := s.dev.fresh) hcorr).trans (Device.countFlit_hearth _ hb))
  · exact .of_act _ hl rfl ((Device.runnerFlit_corrected (d := s.dev.fresh) hcorr).trans (Device.countFlit_stack _ hb))
  · exact .of_act _ hl rfl ((Device.runnerFlit_corrected (d := s.dev.fresh) hcorr).trans (Device.countFlit_fabric _ hb))
  · exact .of_act _ hl rfl (Device.runnerFlit_uncorrectable (d := s.dev.fresh) hunc)

end Sys2Proof.Machine
end

section
/-! The commands of block 0x06 and the exercisers (R317-R320): what each makes of a device on which its packet has passed the checks,
and what a run of the exercisers counts. -/

namespace Sys2Proof.Machine

/-! ### The stack that a command names (R320) -/

section
variable {d : Device} {stack : BitVec 8} {c : OpenCmd}

theorem Device.onStack_named {k : Fin 20} (body : Fin 20 → Device → Device) (hk : stack.toNat = k.val)
    (hparity : d.parityOf (21 + k.val) = false) : d.onStack stack c body = body k d := by
  simp only [Device.onStack, asFin_eq_some hk, hparity, Bool.false_eq_true, if_false]

theorem Device.onStack_missing (body : Fin 20 → Device → Device) (h : 20 ≤ stack.toNat) :
    d.onStack stack c body = d.finish c .badParam := by
  have hnone : asFin 20 stack.toNat = none := dif_neg (Nat.not_lt.2 h)
  simp only [Device.onStack, hnone]

end

/-- `Runs` from what the body of an admin-only command makes of the stack that it names. -/
theorem Runs.of_stackCommand {row : Instr} {op : Word16} {h : CmdHdr} {s : State} {f : Device → Device} {stack : BitVec 8} {k : Fin 20}
    (hl : s.dev.live = true) (hk : stack.toNat = k.val) (hparity : s.dev.parityOf (21 + k.val) = false)
    (body : OpenCmd → Fin 20 → Device → Device) (hpass : s.dev.passesAdmin op h)
    (he : exec row s = s.act fun d => d.adminCommand op h fun c d => d.onStack stack c (body c))
    (hb : body ⟨h, op⟩ k (s.dev.fresh.openCommand op h) = f s.dev.fresh) : Runs row s f :=
  .of_adminCommand _ hl hpass he ((Device.onStack_named (d := s.dev.fresh.openCommand op h) _ hk hparity).trans hb)

/-! ### The diagnostic state (R317) -/

theorem Stack.inDiag_of_zeroing_none {x : Stack} (hdiag : x.diag = true) (hzero : x.zeroing = none) : x.inDiag = true := by
  rw [Stack.inDiag, hdiag, hzero]
  rfl

theorem Stack.inDiag_of_not_diag {x : Stack} (hdiag : x.diag = false) : x.inDiag = false := by
  rw [Stack.inDiag, hdiag, Bool.false_and]

section
variable {d : Device} {k : Fin 20}

theorem Device.diagZeroComplete_none (h : d.mem.hbm[k].zeroing = none) : d.diagZeroComplete k = d := by
  simp only [Device.diagZeroComplete, h]

theorem Device.diagZeroComplete_some {c : OpenCmd} (h : d.mem.hbm[k].zeroing = some c) :
    d.diagZeroComplete k = (d.updStack k fun x => { x with zeroing := none, diag := false }).ok c := by
  simp only [Device.diagZeroComplete, h]

end

/-! ### Runs that start (R318, R319) -/

section
variable {x : Stack} {pattern mode inject : BitVec 8} {channels words : Word32}

/-- The operands, or the state of the stack, for which EXER_RUN answers ST_BAD_PARAM. -/
def Stack.refusesRun (x : Stack) (pattern mode inject : BitVec 8) (channels words : Word32) : Bool :=
  !x.inDiag || channels == 0 || decide (3 < pattern.toNat) || decide (1 < mode.toNat) || decide (4 < inject.toNat)
    || (mode == 0 && inject != 0) || decide (channelWords < words.toNat)

theorem Stack.refusesRun_inRange (hdiag : x.inDiag = true) (hchannels : channels ≠ 0) (hpattern : pattern.toNat ≤ 3)
    (hmode : mode.toNat ≤ 1) (hinject : inject.toNat ≤ 4) (hencoded : mode = 0 → inject = 0) (hwords : words.toNat ≤ 67108864) :
    x.refusesRun pattern mode inject channels words = false := by
  have hwhole : words.toNat ≤ channelWords := hwords
  simpa [Stack.refusesRun, hdiag, hchannels, hpattern, hmode, hinject, hwhole] using And.intro hchannels hencoded

/-- An ENCODED run injects nothing. -/
theorem Stack.refusesRun_injectEncoded (hmode : mode = 0) (hinject : inject ≠ 0) :
    x.refusesRun pattern mode inject channels words = true := by
  have hnonzero : inject ≠ 0#8 := hinject
  simp [Stack.refusesRun, hmode, hnonzero]

theorem maskChannels_idle (h : ∀ c : Fin 32, channels.getLsbD c.val = true → x.exer[c].busy = false) :
    ((maskChannels channels).any fun c => x.exer[c].busy) = false := by
  simpa [maskChannels, Bank.indices] using h

end

/-! ### What a run counts (R318) -/

section
variable (run : ExerRun) (dec : Bool)

theorem ExerRun.suspects_of_asWritten {channel : Nat} (h : run.inject = 0) : run.suspects [] channel = [] := by
  rw [ExerRun.suspects, if_pos h]
  rfl

theorem ExerRun.count_of_asWritten {channel : Nat} (h : run.inject = 0) : run.count dec [] channel = {} := by
  rw [ExerRun.count, run.suspects_of_asWritten h, List.foldl_nil]

theorem ExerRun.lost_of_asWritten (channels : List (Fin 32)) (h : run.inject = 0) : run.lost dec [] channels = none := by
  simp [ExerRun.lost, run.suspects_of_asWritten h]

variable {run dec}

/-- The word that a run is lost to is one of an ENCODED run that the decoder finds uncorrectable. -/
theorem ExerRun.uncorrectable_of_lost {reads : List ExerRead} {channels : List (Fin 32)} {c w : Nat}
    (h : run.lost dec reads channels = some (c, w)) :
    run.raw = false ∧ ingotDecode dec (run.readBack reads c w) = .uncorrectable := by
  rw [ExerRun.lost] at h
  split at h
  case isTrue => cases h
  case isFalse hraw =>
    obtain ⟨x, -, hx⟩ := List.exists_of_findSome?_eq_some h
    obtain ⟨v, hv, hxv⟩ := Option.map_eq_some_iff.1 hx
    obtain ⟨rfl, rfl⟩ := Prod.mk.inj hxv
    have hfound := List.find?_some hv
    exact ⟨eq_false_of_ne_true hraw, beq_iff_eq.1 hfound⟩

end

/-! ### Runs that end (R318) -/

section
variable {d : Device} {k : Fin 20}

theorem Device.exerComplete_none (reads : List ExerRead) (h : d.mem.hbm[k].runs = []) : d.exerComplete k reads = d := by
  simp only [Device.exerComplete, h]

section
variable {run : ExerRun} {rest : List ExerRun} (hruns : d.mem.hbm[k].runs = run :: rest)
include hruns

/-- A run that no uncorrectable word stops is counted, its mismatches logged, and its command answered. -/
theorem Device.exerComplete_counted {reads : List ExerRead} (hlost : run.lost d.mem.dec reads (maskChannels run.channels) = none) :
    d.exerComplete k reads =
      let counts := (maskChannels run.channels).map fun c => (c, run.count d.mem.dec reads c.val)
      let bad := sumOf ExerCount.mismatch (counts.map Prod.snd)
      let e := d.updStack k fun x =>
        { x with runs := rest, exer := counts.foldl (fun v c => Bank.upd v c.1 fun e => e.finish run.words c.2) x.exer }
      (if bad = 0 then e else e.logEvent 0x0606 .warn k.val 0 (srcStack k.val)).ok run.cmd
        ((maskChannels run.channels).length * run.words + 2 ^ 32 * min bad (2 ^ 32 - 1)) := by
  simp only [Device.exerComplete, hruns, hlost, sumOf, List.foldl_map]

theorem Device.exerComplete_mismatch {reads : List ExerRead} (hlost : run.lost d.mem.dec reads (maskChannels run.channels) = none)
    (hbad : sumOf ExerCount.mismatch ((maskChannels run.channels).map fun c => run.count d.mem.dec reads c.val) ≠ 0) :
    d.exerComplete k reads =
      let counts := (maskChannels run.channels).map fun c => (c, run.count d.mem.dec reads c.val)
      ((d.updStack k fun x =>
        { x with runs := rest, exer := counts.foldl (fun v c => Bank.upd v c.1 fun e => e.finish run.words c.2) x.exer }).logEvent
        0x0606 .warn k.val 0 (srcStack k.val)).ok run.cmd
        ((maskChannels run.channels).length * run.words
          + 2 ^ 32 * min (sumOf ExerCount.mismatch (counts.map Prod.snd)) (2 ^ 32 - 1)) := by
  have hcounts : sumOf ExerCount.mismatch
      (((maskChannels run.channels).map fun c => (c, run.count d.mem.dec reads c.val)).map Prod.snd) ≠ 0 := by
    rwa [List.map_map]
  simp only [Device.exerComplete_counted hruns hlost, if_neg hcounts]

/-- A run that reads every word as it wrote it mismatches nowhere. -/
theorem Device.exerComplete_asWritten (hinject : run.inject = 0) :
    d.exerComplete k [] = (d.updStack k fun x =>
      { x with runs := rest
               exer := (maskChannels run.channels).foldl (fun v c => Bank.upd v c fun e => e.finish run.words {}) x.exer }).ok
      run.cmd ((maskChannels run.channels).length * run.words) := by
  have hbad (l : List (Fin 32)) : sumOf ExerCount.mismatch ((l.map fun c => (c, ({} : ExerCount))).map Prod.snd) = 0 := by
    induction l with
    | nil => rfl
    | cons c l ih => rwa [List.map_cons, List.map_cons, sumOf_cons, Nat.zero_add]
  simp only [Device.exerComplete_counted hruns (run.lost_of_asWritten _ _ hinject), run.count_of_asWritten _ hinject, hbad, if_true,
    List.foldl_map, Nat.zero_min, Nat.mul_zero, Nat.add_zero]

end

end

/-- Settles O25: each row is exec's function for it; a command acts on the stack that it names, and the end of a run is one of the
equations above. -/
theorem stackCommandsComplete : Obligations.StackCommandsComplete := by
  intro s h stack k hl hk hparity
  refine ⟨fun hpass => ?_, fun v hpass hv => ?_, fun hours hpass => ⟨?_, ?_⟩,
    fun hpass hdiag => ⟨fun hfree => ?_, fun hused => ?_⟩, fun hpass hdiag => ?_,
    fun hpass hdiag hzero => ?_, fun hpass hdiag => ?_, fun c hzero => ?_, fun hzero => ?_,
    fun pattern mode inject channels seed words hpass hdiag hchannels hpattern hmode hinject hencoded hwords hidle => ?_,
    fun pattern mode inject channels seed words hpass hmode hinject => ?_, fun run rest hruns hinject => ?_,
    fun run rest reads hruns hlost hbad => ?_, fun run dec reads c w hlost => ExerRun.uncorrectable_of_lost hlost,
    fun hruns reads => ?_⟩
  · exact .of_command _ hl hpass rfl (Device.onStack_named (d := s.dev.fresh.openCommand 0x0601 h) _ hk hparity)
  · exact .of_command _ hl hpass rfl (Device.onStack_missing (d := s.dev.fresh.openCommand 0x0601 h) _ hv)
  · have hone : stack ≠ 0xFF := by
      rintro rfl
      exact absurd (hk ▸ k.isLt) (by decide)
    exact .of_adminCommand _ hl hpass rfl
      ((if_neg hone).trans (Device.onStack_named (d := s.dev.fresh.openCommand 0x0602 h) _ hk hparity))
  · exact .of_adminCommand _ hl hpass rfl (if_pos rfl)
  · exact .of_stackCommand hl hk hparity _ hpass rfl ((if_neg (ne_true_of_eq_false hdiag)).trans (if_neg (not_not_intro hfree)))
  · exact .of_stackCommand hl hk hparity _ hpass rfl ((if_neg (ne_true_of_eq_false hdiag)).trans (if_pos hused))
  · exact .of_stackCommand hl hk hparity _ hpass rfl (if_pos hdiag)
  · have hstays : ¬ (!s.dev.mem.hbm[k].inDiag) = true :=
      ne_true_of_eq_false (congrArg Bool.not (Stack.inDiag_of_zeroing_none hdiag hzero))
    refine ⟨fun hidle => ?_, fun hbusy => ?_⟩
    · exact .of_stackCommand hl hk hparity _ hpass rfl ((if_neg hstays).trans (if_neg (ne_true_of_eq_false hidle)))
    · exact .of_stackCommand hl hk hparity _ hpass rfl ((if_neg hstays).trans (if_pos hbusy))
  · exact .of_stackCommand hl hk hparity _ hpass rfl (if_pos (congrArg Bool.not (Stack.inDiag_of_not_diag hdiag)))
  · exact .of_act _ hl rfl (Device.diagZeroComplete_some (d := s.dev.fresh) hzero)
  · exact .of_act _ hl rfl (Device.diagZeroComplete_none (d := s.dev.fresh) hzero)
  · exact .of_stackCommand hl hk hparity _ hpass rfl
      ((if_neg (ne_true_of_eq_false (Stack.refusesRun_inRange hdiag hchannels hpattern hmode hinject hencoded hwords))).trans
        (if_neg (ne_true_of_eq_false (maskChannels_idle hidle))))
  · exact .of_stackCommand hl hk hparity _ hpass rfl (if_pos (Stack.refusesRun_injectEncoded hmode hinject))
  · exact .of_act _ hl rfl (Device.exerComplete_asWritten (d := s.dev.fresh) hruns hinject)
  · exact .of_act _ hl rfl (Device.exerComplete_mismatch (d := s.dev.fresh) hruns hlost hbad)
  · exact .of_act _ hl rfl (Device.exerComplete_none (d := s.dev.fresh) reads hruns)

end Sys2Proof.Machine
end

section
/-! A host port: what changes of one port come to, what a packet's opening and a final reply leave of each port, and the entry of the
reply ring that a final reply takes (R329, R330, R509). -/

namespace Sys2Proof.Machine

section
variable (d : Device) (p q : Fin 2) (f g : HostPort → HostPort)

theorem Device.updPort_updPort : (d.updPort p f).updPort p g = d.updPort p fun x => g (f x) := by
  simp [Device.updPort, Bank.upd]

variable {d p f g} in
theorem Device.updPort_congr (h : f d.ports[p] = g d.ports[p]) : d.updPort p f = d.updPort p g := by
  rw [Device.updPort, Device.updPort, Bank.upd, Bank.upd, h]

theorem Device.updPort_port_same : (d.updPort p f).ports[p] = f d.ports[p] := Bank.upd_same ..

variable {d p q f} in
theorem Device.updPort_port_other (h : q ≠ p) : (d.updPort p f).ports[q] = d.ports[q] := Bank.upd_other _ _ _ _ h

variable {d p q f} in
/-- What a change of a port keeps of that port, it keeps of every port. -/
theorem Device.updPort_keeps {β : Type} (π : HostPort → β) (h : π (f d.ports[p]) = π d.ports[p]) :
    π (d.updPort p f).ports[q] = π d.ports[q] := by
  by_cases hq : q = p
  · subst hq
    rw [Device.updPort_port_same, h]
  · rw [Device.updPort_port_other hq]

end

/-! ### The reply interrupt (R331, R503) -/

section
variable (d : Device) (p : Fin 2)

/-- A vector raised may set its pending bit, and keeps whatever of the ports does not depend on the MSI-X table. -/
theorem Device.msix_keeps {β : Type} (π : HostPort → β) (h : ∀ x t, π { x with msix := t } = π x) (v : BitVec 8) (q : Fin 2) :
    π (d.msix p v).ports[q] = π d.ports[q] := by
  fun_cases Device.msix
  · rfl
  · exact Device.updPort_keeps π (h _ _)
  · rfl

theorem Device.msix_port_other {q : Fin 2} (h : q ≠ p) (v : BitVec 8) : (d.msix p v).ports[q] = d.ports[q] := by
  fun_cases Device.msix
  · rfl
  · exact Device.updPort_port_other h
  · rfl

/-- Counting a reply toward the interrupt keeps what depends neither on the count nor on the MSI-X table. -/
theorem Device.coalesce_keeps {β : Type} (π : HostPort → β) (hm : ∀ x t, π { x with msix := t } = π x)
    (hc : ∀ x n t, π { x with coalesced := n, coalesceSince := t } = π x) (q : Fin 2) :
    π (d.coalesce p).ports[q] = π d.ports[q] := by
  fun_cases Device.coalesce
  · rw [Device.msix_keeps _ _ π hm, Device.updPort_keeps π (hc _ _ _)]
  · exact Device.updPort_keeps π (hc _ _ _)

theorem Device.coalesce_port_other {q : Fin 2} (h : q ≠ p) : (d.coalesce p).ports[q] = d.ports[q] := by
  fun_cases Device.coalesce
  · rw [Device.msix_port_other _ _ h, Device.updPort_port_other h]
  · exact Device.updPort_port_other h

end

/-! ### A reply in its ring (R329, R509) -/

theorem length_bytesOf (n v : Nat) : (bytesOf n v).length = n := by
  induction n generalizing v with
  | zero => rfl
  | succ n ih => rw [bytesOf, List.length_cons, ih]

theorem Reply.length_bytes (r : Reply) (credit : Word16) (phase : Nat) : (r.bytes credit phase).length = 32 := by
  simp [Reply.bytes, length_bytesOf]

/-- The host address of the ring entry that TAIL names. -/
def HostPort.tailEntry (q : HostPort) : Nat := q.replyBase.toNat + 32 * (q.tail.toNat % q.ringSize)

/-- A port once a reply has been written to its ring: TAIL has moved on, and the bytes stand in the entry or are lost. -/
def HostPort.takeReply (q : HostPort) (r : Reply) : HostPort :=
  { q with
    tail := q.tail + 1
    hostMem :=
      if q.linkUp then Cells.noteAll q.hostMem q.tailEntry (r.bytes q.consumed (q.replyPhase q.tail.toNat)) else q.hostMem
    lostReplies := if q.linkUp then q.lostReplies else bump q.lostReplies }

theorem Device.writeReply_eq (d : Device) (p : Fin 2) (noIrq : Bool) (r : Reply) :
    d.writeReply p noIrq r =
      if noIrq then d.updPort p (·.takeReply r) else (d.updPort p (·.takeReply r)).coalesce p :=
  congrArg (fun e : Device => if noIrq then e else e.coalesce p) (Device.updPort_congr rfl)

/-- What a reply changes of its port for good: TAIL, the host's memory and the count of lost replies (R329, R509). -/
def HostPort.ring (q : HostPort) : Word32 × List Host.Cell × Word16 := (q.tail, q.hostMem, q.lostReplies)

/-- A command's reply under its own TAG and OPCODE. -/
def OpenCmd.own (c : OpenCmd) (r : Reply) : Reply := { r with tag := c.hdr.tag, opcode := c.opcode }

/-- A reply recorded in the replay window (R333). -/
def HostPort.record (q : HostPort) (tag : Word64) (r : Reply) : HostPort :=
  { q with replay := updWhere (fun x => x.tag == tag) (fun x => { x with reply := some r }) q.replay }

section
variable (d : Device) (p : Fin 2) (noIrq : Bool) (r : Reply) (c : OpenCmd)

theorem Device.writeReply_ring : ((d.writeReply p noIrq r).ports[p]).ring = ((d.ports[p]).takeReply r).ring := by
  have htaken : ((d.updPort p (·.takeReply r)).ports[p]).ring = ((d.ports[p]).takeReply r).ring :=
    congrArg HostPort.ring (Device.updPort_port_same ..)
  rw [Device.writeReply_eq]
  split
  · exact htaken
  · exact (Device.coalesce_keeps _ p HostPort.ring (fun _ _ => rfl) (fun _ _ _ => rfl) p).trans htaken

theorem Device.writeReply_port_other {o : Fin 2} (h : o ≠ p) : (d.writeReply p noIrq r).ports[o] = d.ports[o] := by
  rw [Device.writeReply_eq]
  split
  · exact Device.updPort_port_other h
  · rw [Device.coalesce_port_other _ _ h, Device.updPort_port_other h]

/-- The ports after a command's own reply: the reply is written, and recorded in the replay window. -/
theorem Device.reply_ports : (d.reply c r).ports =
    ((d.writeReply c.hdr.port c.hdr.noIrq (c.own r)).updPort c.hdr.port (·.record c.hdr.tag (c.own r))).ports := by
  simp only [Device.reply]
  split <;> rfl

theorem Device.reply_ring : ((d.reply c r).ports[c.hdr.port]).ring =
    ((d.ports[c.hdr.port]).takeReply (c.own r)).ring := by
  rw [Device.reply_ports, Device.updPort_keeps HostPort.ring rfl, Device.writeReply_ring]

theorem Device.reply_port_other {o : Fin 2} (h : o ≠ c.hdr.port) : (d.reply c r).ports[o] = d.ports[o] := by
  rw [Device.reply_ports, Device.updPort_port_other h, Device.writeReply_port_other _ _ _ _ h]

variable {r} in
/-- A final reply closes its command. -/
theorem Device.reply_opens_final (h : r.final = true) : (d.reply c r).opens = d.opens.erase c := by
  simp only [Device.reply, h, if_true]
  rw [Device.updPort_opens, Device.writeReply_frame]

end

section
variable {q : HostPort} (r : Reply)

/-- Over a link that is up the bytes of a reply stand in the ring entry, byte by byte. -/
theorem HostPort.takeReply_entry (hl : q.linkUp = true) {i : Nat} {b : Byte}
    (hb : (r.bytes q.consumed (q.replyPhase q.tail.toNat))[i]? = some b) :
    Cells.get (q.takeReply r).hostMem (q.tailEntry + i) = b := by
  obtain ⟨hi, hget⟩ := List.getElem?_eq_some_iff.1 hb
  simp only [HostPort.takeReply, hl, if_true]
  rw [Cells.get_noteAll, if_pos (by omega), Nat.add_sub_cancel_left, List.getD_eq_getElem?_getD, hb, Option.getD_some]

/-- No byte outside the ring entry changes. -/
theorem HostPort.takeReply_outside (hl : q.linkUp = true) {a : Nat} (ha : a < q.tailEntry ∨ q.tailEntry + 32 ≤ a) :
    Cells.get (q.takeReply r).hostMem a = Cells.get q.hostMem a := by
  simp only [HostPort.takeReply, hl, if_true]
  rw [Cells.get_noteAll, Reply.length_bytes, if_neg (by omega)]

theorem HostPort.takeReply_linkUp (hl : q.linkUp = true) : (q.takeReply r).lostReplies = q.lostReplies := if_pos hl

theorem HostPort.takeReply_linkDown (hl : q.linkUp = false) :
    (q.takeReply r).hostMem = q.hostMem ∧ (q.takeReply r).lostReplies = bump q.lostReplies :=
  ⟨if_neg (ne_true_of_eq_false hl), if_neg (ne_true_of_eq_false hl)⟩

end

/-- Settles O56: the port is what the reply makes of it, but for what the reply interrupt and the replay window hold, and the rest of
the device is as before. -/
theorem replyReachesItsRing : Obligations.ReplyReachesItsRing := by
  intro d c st result p q entry r bs e
  have hring : (e.ports[p]).ring = (q.takeReply r).ring := d.reply_ring _ c
  have htail : e.ports[p].tail = q.tail + 1 := congrArg Prod.fst hring
  have hmem : e.ports[p].hostMem = (q.takeReply r).hostMem := congrArg (·.2.1) hring
  have hlost : e.ports[p].lostReplies = (q.takeReply r).lostReplies := congrArg (·.2.2) hring
  have hframe : e = { d with ports := e.ports, out := e.out, opens := e.opens } := d.reply_frame c _
  refine ⟨r.length_bytes _ _, htail, d.reply_opens_final c rfl,
    fun hl => ⟨fun i b hb => ?_, fun a ha => ?_, ?_⟩, fun hl => ?_, fun o ho => d.reply_port_other _ c ho, ?_⟩
  · rw [hmem]
    exact HostPort.takeReply_entry r hl hb
  · rw [hmem]
    exact HostPort.takeReply_outside r hl ha
  · rw [hlost]
    exact HostPort.takeReply_linkUp r hl
  · rw [hmem, hlost]
    exact HostPort.takeReply_linkDown r hl
  · rw [hframe]
    exact ⟨rfl, rfl, rfl, rfl⟩

end Sys2Proof.Machine
end

section
/-! PACKET_CONSUME (R323-R330): what the host posts, and what becomes of the packet at the read offset. -/

namespace Sys2Proof.Machine

/-- The 32 bytes of the header at the read offset. -/
def HostPort.header (q : HostPort) : List Byte := q.ringBytes q.readOffset.toNat 32

/-- The LENGTH of that header. -/
def HostPort.packetLength (q : HostPort) : Nat := fieldAt q.header 0 2

/-- The PHASE of that header. -/
def HostPort.packetPhase (q : HostPort) : Bool := (fieldAt q.header 6 1).testBit 0

/-- The bytes of the packet that the header begins. -/
def HostPort.packet (q : HostPort) : List Byte := q.ringBytes q.readOffset.toNat q.packetLength

/-- The port consumes packets: enabled, not faulted, not stalled, and not being cleared. -/
def HostPort.consumes (q : HostPort) : Bool := q.enabled && !q.faulted && !q.stalled && !q.clearing

/-! ### The packet at the read offset -/

section
variable {d : Device} {p : Fin 2} {q : HostPort} (hq : d.ports[p] = q)
include hq

theorem Device.takePacket_oldPhase (h : q.packetPhase ≠ q.expectPhase) : d.takePacket p = d := by
  subst hq
  exact if_pos (Bool.or_eq_true_iff.2 (.inl (bne_iff_ne.2 h)))

omit hq in
theorem Device.takePacket_waits (h : d.dispatchWaits = true) : d.takePacket p = d :=
  if_pos (Bool.or_eq_true_iff.2 (.inr h))

section
variable (hphase : q.packetPhase = q.expectPhase) (hnow : d.dispatchWaits = false)
include hphase hnow

theorem Device.takePacket_next : d.takePacket p =
    if (lengthOk q.packetLength && !q.markStands q.packet) = true then d
    else if (!d.replyRoom p) = true then d
    else if (!lengthOk q.packetLength) = true then d.stallPort p q.header
    else (d.updPort p fun x => x.consume q.packetLength).dispatchPacket p q.packet := by
  have hstands : (q.packetPhase != q.expectPhase || d.dispatchWaits) = false := by simp [hphase, hnow]
  subst hq
  exact if_neg (ne_true_of_eq_false hstands)

theorem Device.takePacket_noMark (hlen : lengthOk q.packetLength = true) (hmark : q.markStands q.packet = false) :
    d.takePacket p = d := by
  rw [Device.takePacket_next hq hphase hnow, if_pos (by simp [hlen, hmark])]

theorem Device.takePacket_noRoom (hroom : d.replyRoom p = false) : d.takePacket p = d := by
  rw [Device.takePacket_next hq hphase hnow, if_pos (c := (!d.replyRoom p) = true) (by simp [hroom]), ite_self]

theorem Device.takePacket_badLength (hlen : lengthOk q.packetLength = false) (hroom : d.replyRoom p = true) :
    d.takePacket p = d.stallPort p q.header := by
  rw [Device.takePacket_next hq hphase hnow]
  simp [hlen, hroom]

theorem Device.takePacket_whole (hlen : lengthOk q.packetLength = true) (hmark : q.markStands q.packet = true)
    (hroom : d.replyRoom p = true) :
    d.takePacket p = (d.updPort p fun x => x.consume q.packetLength).dispatchPacket p q.packet := by
  rw [Device.takePacket_next hq hphase hnow]
  simp [hlen, hmark, hroom]

end

end

/-! ### The row -/

section
variable (d : Device) (p : Fin 2) (posted : List (Word16 × Byte))

/-- The device with what the host posted standing in the port's window. -/
def Device.postTo : Device := d.updPort p fun x => x.post posted

theorem Device.postTo_port : (d.postTo p posted).ports[p] = (d.ports[p]).post posted := Device.updPort_port_same ..

/-- The window counts for nothing in the room of the reply ring. -/
theorem Device.postTo_replyRoom : (d.postTo p posted).replyRoom p = d.replyRoom p := by
  rw [Device.replyRoom, Device.postTo_port]
  rfl

variable {d p} in
theorem Device.packetConsume_linkDown (h : d.linkUp p = false) : d.packetConsume p posted = d := by
  rw [Device.packetConsume, h]
  rfl

variable {d p} in
theorem Device.packetConsume_shut (h : d.linkUp p = true) (hc : ((d.ports[p]).post posted).consumes = false) :
    d.packetConsume p posted = d.postTo p posted := by
  rw [← Device.postTo_port] at hc
  rw [Device.packetConsume, h]
  exact if_neg (ne_true_of_eq_false hc)

variable {d p} in
theorem Device.packetConsume_open (h : d.linkUp p = true) (hc : ((d.ports[p]).post posted).consumes = true) :
    d.packetConsume p posted = (d.postTo p posted).takePacket p := by
  rw [← Device.postTo_port] at hc
  rw [Device.packetConsume, h]
  exact if_pos hc

end

/-- `Runs` of PACKET_CONSUME on a port that consumes packets, from what becomes of the packet at its read offset. -/
theorem Runs.of_takePacket {s : State} {p : Fin 2} {posted : List (Word16 × Byte)} {f : Device → Device} (hl : s.dev.live = true)
    (hup : s.dev.linkUp p = true) (hc : ((s.dev.ports[p]).post posted).consumes = true)
    (htake : (s.dev.fresh.postTo p posted).takePacket p = f s.dev.fresh) : Runs (.packetConsume p posted) s f :=
  .of_act (Device.packetConsume p posted) hl rfl ((Device.packetConsume_open (d := s.dev.fresh) posted hup hc).trans htake)

/-- Settles O30: a port that consumes takes the packet at its read offset as the equations of `takePacket` say, on the device in which
what was posted stands in the window. -/
theorem packetConsumeCompletes : Obligations.PacketConsumeCompletes := by
  intro s p posted hl q hdr n bs
  have hport : (s.dev.fresh.postTo p posted).ports[p] = q := Device.postTo_port ..
  refine ⟨fun hdown => ?_, fun hup hshut => ?_, fun hup hen hfault hstall hclear => ?_⟩
  · exact .of_act (Device.packetConsume p posted) hl rfl (Device.packetConsume_linkDown (d := s.dev.fresh) posted hdown)
  · exact .of_act (Device.packetConsume p posted) hl rfl (Device.packetConsume_shut (d := s.dev.fresh) posted hup hshut)
  have hc : q.consumes = true := by simp [HostPort.consumes, hen, hfault, hstall, hclear]
  refine ⟨fun hphase => ?_, fun hwaits => ?_, fun hphase hnow => ⟨fun hlen hmark => ?_, fun _ _ hroom => ?_,
    fun hlen hmark hroom => ?_, fun hlen hroom => ?_⟩⟩
  · exact .of_takePacket hl hup hc (Device.takePacket_oldPhase hport hphase)
  · exact .of_takePacket hl hup hc (Device.takePacket_waits hwaits)
  · exact .of_takePacket hl hup hc (Device.takePacket_noMark hport hphase hnow hlen hmark)
  · exact .of_takePacket hl hup hc
      (Device.takePacket_noRoom hport hphase hnow ((s.dev.fresh.postTo_replyRoom p posted).trans hroom))
  · exact .of_takePacket hl hup hc
      ((Device.takePacket_whole hport hphase hnow hlen hmark ((s.dev.fresh.postTo_replyRoom p posted).trans hroom)).trans
        (congrArg (·.dispatchPacket p bs) (Device.updPort_updPort ..)))
  · exact .of_takePacket hl hup hc
      (Device.takePacket_badLength hport hphase hnow hlen ((s.dev.fresh.postTo_replyRoom p posted).trans hroom))

end Sys2Proof.Machine
end

section
/-! The registers of an intake port and of admission (R323, R330, R331, R349-R351, R463, R473): what each row makes of a device. -/

namespace Sys2Proof.Machine

/-! ### The ring (R323, R331, R349, R473) -/

section
variable {d : Device} {p : Fin 2}

theorem Device.coalesceTimer_due {since : Tick} (hus : d.ports[p].coalesceUs ≠ 0) (hsince : d.ports[p].coalesceSince = some since) :
    d.coalesceTimer p = (d.updPort p fun q => { q with coalesced := 0, coalesceSince := none }).msix p d.ports[p].vector := by
  simp only [Device.coalesceTimer, hus, hsince, Option.isNone_some, Bool.false_eq_true, or_self, if_false]

theorem Device.coalesceTimer_none (h : d.ports[p].coalesceUs = 0 ∨ d.ports[p].coalesceSince = none) : d.coalesceTimer p = d :=
  if_pos (h.imp_right Option.isNone_iff_eq_none.2)

theorem Device.setEnable_clear_idle (h : d.outstanding p = 0) :
    d.setEnable p false = d.updPort p fun q => { q with enabled := false, enablePending := false, quiesced := true } := by
  refine Device.updPort_congr ?_
  simp only [h, beq_self_eq_true, Bool.or_true]

theorem Device.setEnable_clear_busy (h : d.outstanding p ≠ 0) :
    d.setEnable p false = d.updPort p fun q => { q with enabled := false, enablePending := false } := by
  refine Device.updPort_congr ?_
  simp only [beq_eq_false_iff_ne.2 h, Bool.or_false]

theorem Device.setEnable_set_notReady (h : d.sec.ready = false) : d.setEnable p true = d :=
  if_pos (congrArg Bool.not h)

theorem Device.setEnable_set_ready (h : d.sec.ready = true) :
    d.setEnable p true = d.updPort p fun q => if q.clearing then { q with enablePending := true } else q.start :=
  if_neg (ne_true_of_eq_false (congrArg Bool.not h))

theorem Device.ringRestart_enabled (h : d.ports[p].enabled = true) :
    d.ringRestart p = d.logEvent 0x0006 .warn p.val 0 (srcIntake p) :=
  if_pos (Bool.or_eq_true_iff.2 (.inl h))

theorem Device.ringRestart_disabled (h : d.ports[p].enabled = false) (hpending : d.ports[p].enablePending = false) :
    d.ringRestart p =
      d.updPort p fun q => { q with readOffset := 0, consumed := 0, expectPhase := true, stalled := false, clearing := true } :=
  if_neg (ne_true_of_eq_false (Bool.or_eq_false_iff.2 ⟨h, hpending⟩))

theorem Device.ringResetDone_notClearing (h : d.ports[p].clearing = false) : d.ringResetDone p = d :=
  if_neg (ne_true_of_eq_false h)

section
variable (h : d.ports[p].clearing = true)
include h

theorem Device.ringResetDone_clearing (hpending : d.ports[p].enablePending = false) :
    d.ringResetDone p = d.updPort p fun q => { q with window := [], clearing := false } :=
  (if_pos h).trans (Device.updPort_congr (if_neg (ne_true_of_eq_false hpending)))

/-- An ENABLE written while the window was being cleared takes effect (R323). -/
theorem Device.ringResetDone_enables (hpending : d.ports[p].enablePending = true) :
    d.ringResetDone p = d.updPort p fun q =>
      { q with window := [], clearing := false, enabled := true, enablePending := false, quiesced := false } :=
  (if_pos h).trans (Device.updPort_congr (if_pos hpending))

end

theorem Device.intakeQuiesced_idle (henabled : d.ports[p].enabled = false) (hidle : d.outstanding p = 0) :
    d.intakeQuiesced p = d.updPort p fun q => { q with quiesced := true } :=
  if_pos (Bool.and_eq_true_iff.2 ⟨congrArg Bool.not henabled, beq_iff_eq.2 hidle⟩)

theorem Device.intakeQuiesced_busy (h : d.ports[p].enabled = true ∨ d.outstanding p ≠ 0) : d.intakeQuiesced p = d := by
  refine if_neg fun hquiet => ?_
  obtain ⟨hdisabled, hidle⟩ := Bool.and_eq_true_iff.1 hquiet
  exact h.elim (fun henabled => absurd hdisabled (ne_true_of_eq_false (congrArg Bool.not henabled)))
    fun hbusy => hbusy (beq_iff_eq.1 hidle)

/-! ### The reply ring (R329, R330, R350) -/

/-- A ring register written while the port is not quiesced faults the port (R350). -/
theorem Device.cfgLive_updPort (f : HostPort → HostPort) :
    (d.updPort p f).cfgLive p = (d.updPort p fun q => { f q with faulted := true }).logEvent 0x0005 .error p.val 0 (srcIntake p) := by
  rw [Device.cfgLive, Device.updPort_updPort]

theorem Device.setReplyBase_quiesced (v : Word64) (h : d.ports[p].quiesced = true) :
    d.setReplyBase p v = d.updPort p fun q => { q with replyBase := v &&& 0xFFFFFFFFFFFFF000 } :=
  if_neg (ne_true_of_eq_false (congrArg Bool.not h))

theorem Device.setReplyBase_live (v : Word64) (h : d.ports[p].quiesced = false) :
    d.setReplyBase p v =
      (d.updPort p fun q => { q with replyBase := v &&& 0xFFFFFFFFFFFFF000, faulted := true }).logEvent 0x0005 .error p.val 0
        (srcIntake p) :=
  (if_pos (congrArg Bool.not h)).trans (Device.cfgLive_updPort _)

theorem Device.setReplyCfg_taken (v : Word32) (h : d.ports[p].quiesced = true ∨ v.extractLsb' 11 5 = d.ports[p].sizeLog2) :
    d.setReplyCfg p v = d.updPort p fun q =>
      { q with vector := v.extractLsb' 24 8, coalesceN := v.extractLsb' 16 8, sizeLog2 := v.extractLsb' 11 5
               coalesceUs := v.extractLsb' 0 11 } := by
  refine if_neg ?_
  rw [Bool.and_eq_true, Bool.not_eq_true', bne_iff_ne]
  rintro ⟨hlive, hsize⟩
  exact h.elim (fun hq => absurd hq (ne_true_of_eq_false hlive)) hsize

theorem Device.setReplyCfg_live (v : Word32) (h : d.ports[p].quiesced = false) (hsize : v.extractLsb' 11 5 ≠ d.ports[p].sizeLog2) :
    d.setReplyCfg p v = (d.updPort p fun q =>
      { q with vector := v.extractLsb' 24 8, coalesceN := v.extractLsb' 16 8, sizeLog2 := v.extractLsb' 11 5
               coalesceUs := v.extractLsb' 0 11, faulted := true }).logEvent 0x0005 .error p.val 0 (srcIntake p) :=
  (if_pos (Bool.and_eq_true_iff.2 ⟨congrArg Bool.not h, bne_iff_ne.2 hsize⟩)).trans (Device.cfgLive_updPort _)

end

/-- Settles O31: each row is exec's function for it, a register write takes effect for the requester that may make it, and the function
is one of the equations above. -/
theorem intakeRegisterRowsComplete : Obligations.IntakeRegisterRowsComplete := by
  intro s p hl
  refine ⟨fun since hus hsince => ?_, fun h => ?_, fun req hw => ?_, fun h => ?_, fun h hp => ?_, fun h hp => ?_, fun h hidle => ?_,
    fun h => ?_, fun req hw => ?_⟩
  · exact .of_act (Device.coalesceTimer p) hl rfl (Device.coalesceTimer_due (d := s.dev.fresh) hus hsince)
  · exact .of_act (Device.coalesceTimer p) hl rfl (Device.coalesceTimer_none (d := s.dev.fresh) h)
  · refine ⟨fun hidle => ?_, fun hbusy => ?_, fun hready => ?_, fun hready hclear => ?_, fun hready hclear => ?_, fun hen => ?_,
      fun hen hpending => ?_, ?_, fun v hq => ?_, fun v hq => ?_, fun v => ?_, fun v h => ?_, fun v hq hsize => ?_, fun v => ?_⟩
    · exact .of_write _ _ hl hw rfl (Device.setEnable_clear_idle (d := s.dev.fresh) hidle)
    · exact .of_write _ _ hl hw rfl (Device.setEnable_clear_busy (d := s.dev.fresh) hbusy)
    · exact .of_write _ _ hl hw rfl (Device.setEnable_set_notReady (d := s.dev.fresh) hready)
    · exact .of_write _ _ hl hw rfl ((Device.setEnable_set_ready (d := s.dev.fresh) hready).trans
        (Device.updPort_congr (if_neg (ne_true_of_eq_false hclear))))
    · exact .of_write _ _ hl hw rfl ((Device.setEnable_set_ready (d := s.dev.fresh) hready).trans (Device.updPort_congr (if_pos hclear)))
    · exact .of_write _ _ hl hw rfl (Device.ringRestart_enabled (d := s.dev.fresh) hen)
    · exact .of_write _ _ hl hw rfl (Device.ringRestart_disabled (d := s.dev.fresh) hen hpending)
    · exact .of_write _ _ hl hw rfl rfl
    · exact .of_write _ _ hl hw rfl (Device.setReplyBase_quiesced (d := s.dev.fresh.setWriteShadow req none) v hq)
    · exact .of_write _ _ hl hw rfl (Device.setReplyBase_live (d := s.dev.fresh.setWriteShadow req none) v hq)
    · exact .of_write _ _ hl hw rfl rfl
    · exact .of_write _ _ hl hw rfl (Device.setReplyCfg_taken (d := s.dev.fresh) v h)
    · exact .of_write _ _ hl hw rfl (Device.setReplyCfg_live (d := s.dev.fresh) v hq hsize)
    · exact .of_write _ _ hl hw rfl rfl
  · exact .of_act (Device.ringResetDone p) hl rfl (Device.ringResetDone_notClearing (d := s.dev.fresh) h)
  · exact .of_act (Device.ringResetDone p) hl rfl (Device.ringResetDone_clearing (d := s.dev.fresh) h hp)
  · exact .of_act (Device.ringResetDone p) hl rfl (Device.ringResetDone_enables (d := s.dev.fresh) h hp)
  · exact .of_act (Device.intakeQuiesced p) hl rfl (Device.intakeQuiesced_idle (d := s.dev.fresh) h hidle)
  · exact .of_act (Device.intakeQuiesced p) hl rfl (Device.intakeQuiesced_busy (d := s.dev.fresh) h)
  · exact .of_write _ _ hl hw rfl rfl

end Sys2Proof.Machine
end

section
/-! Device and session commands (R344-R346, R352, R505), and what a firmware image must be to run (R475, R476). -/

namespace Sys2Proof.Machine

/-! ### What a packet leaves as it was -/

section
variable (d : Device) (op : Word16) (h : CmdHdr)

/-- What does not depend on a port's replay window is as before the packet. -/
theorem Device.openCommand_keeps {β : Type} (π : HostPort → β) (hπ : ∀ x l, π { x with replay := l } = π x) (p : Fin 2) :
    π (d.openCommand op h).ports[p] = π d.ports[p] :=
  Device.updPort_keeps (d := d) π (hπ _ _)

@[simp] theorem Device.openCommand_linkUp (p : Fin 2) : (d.openCommand op h).linkUp p = d.linkUp p :=
  d.openCommand_keeps op h HostPort.linkUp (fun _ _ => rfl) p

@[simp] theorem Device.openCommand_downSince (p : Fin 2) : (d.openCommand op h).ports[p].downSince = d.ports[p].downSince :=
  d.openCommand_keeps op h HostPort.downSince (fun _ _ => rfl) p

end

/-! ### The admin role (R352, R505) -/

section
variable {d : Device} {c : OpenCmd} {h : CmdHdr}

/-- ADMIN_ADOPT of a dispatched packet. -/
def Device.adoptRun (h : CmdHdr) (c : OpenCmd) (d : Device) : Device :=
  if d.isAdmin h.port then d.finish c .badParam
  else if !d.linkUp d.admin.port && decide (adoptTicks < (d.tb.now - d.ports[d.admin.port].downSince).toNat) then
    (d.passAdmin h.port true).ok c
  else d.finish c .busy

theorem Device.adoptRun_admin (ha : d.admin.port = h.port) : d.adoptRun h c = d.finish c .badParam :=
  if_pos (beq_iff_eq.2 ha)

section
variable (ha : d.admin.port ≠ h.port)
include ha

theorem Device.adoptRun_other : d.adoptRun h c =
    if (!d.linkUp d.admin.port && decide (adoptTicks < (d.tb.now - d.ports[d.admin.port].downSince).toNat)) = true then
      (d.passAdmin h.port true).ok c
    else d.finish c .busy :=
  if_neg (ne_true_of_eq_false (beq_eq_false_iff_ne.2 ha))

theorem Device.adoptRun_down (hdown : d.linkUp d.admin.port = false)
    (hlong : adoptTicks < (d.tb.now - d.ports[d.admin.port].downSince).toNat) :
    d.adoptRun h c = (d.passAdmin h.port true).ok c :=
  (Device.adoptRun_other ha).trans (if_pos (Bool.and_eq_true_iff.2 ⟨congrArg Bool.not hdown, decide_eq_true hlong⟩))

theorem Device.adoptRun_up (hup : d.linkUp d.admin.port = true) : d.adoptRun h c = d.finish c .busy :=
  (Device.adoptRun_other ha).trans (if_neg (ne_true_of_eq_false (by rw [hup]; rfl)))

end

end

/-! ### Firmware (R475, R476) -/

section
variable {d : Device} {c : OpenCmd} {h : CmdHdr}

/-- FW_LOAD of a dispatched packet. -/
def Device.fwLoadRun (h : CmdHdr) (addr : Word64) (off len total : Nat) (c : OpenCmd) (d : Device) : Device :=
  if !d.chunkOk off len total then d.finish c .badParam
  else if d.sec.state = .running then d.finish c .busy
  else if !d.linkUp h.port then (d.dmaFailed h.port c).finish c .aborted
  else { d with sec := { d.sec with state := .loading, imageLength := some total } }.dmaIssue h.port addr len (.fwChunk off) c

section
variable (addr : Word64) {off len total : Nat}

theorem Device.fwLoadRun_badChunk (hchunk : d.chunkOk off len total = false) :
    d.fwLoadRun h addr off len total c = d.finish c .badParam :=
  if_pos (congrArg Bool.not hchunk)

variable (hchunk : d.chunkOk off len total = true)
include hchunk

theorem Device.fwLoadRun_running (hstate : d.sec.state = .running) : d.fwLoadRun h addr off len total c = d.finish c .busy :=
  (if_neg (ne_true_of_eq_false (congrArg Bool.not hchunk))).trans (if_pos hstate)

theorem Device.fwLoadRun_taken (hstate : d.sec.state ≠ .running) (hup : d.linkUp h.port = true) :
    d.fwLoadRun h addr off len total c =
      { d with sec := { d.sec with state := .loading, imageLength := some total } }.dmaIssue h.port addr len (.fwChunk off) c :=
  ((if_neg (ne_true_of_eq_false (congrArg Bool.not hchunk))).trans (if_neg hstate)).trans
    (if_neg (ne_true_of_eq_false (congrArg Bool.not hup)))

end

/-- An image that the boot ROM is to start: it runs, or the buffer is discarded (R476). -/
def Device.startImage (img : List Byte) (c : OpenCmd) (d : Device) : Device :=
  match d.imageFault img with
  | none => ((d.runImage img).logEvent 0x0B01 .info 0 (fieldAt img 8 4) srcSecurity).ok c
  | some k => ({ d with sec := d.sec.discardImage }.logEvent 0x0B02 .warn 0 k srcSecurity).finish c .authFail

/-- FW_START of a dispatched packet. -/
def Device.fwStartRun (total : Nat) (c : OpenCmd) (d : Device) : Device :=
  if d.sec.imageLength ≠ some total ∨ d.sec.image.length ≠ total then d.finish c .badParam
  else if d.sec.state = .running then d.finish c .busy
  else d.startImage (d.sec.image.map Prod.snd) c

theorem Device.fwStart_eq (total : Word32) : d.fwStart h total = d.command 0x0011 h (Device.fwStartRun total.toNat) := by
  refine congrArg (d.command 0x0011 h) (funext fun c => funext fun e => ?_)
  simp only [Device.fwStartRun, Device.startImage]
  cases e.imageFault (e.sec.image.map Prod.snd) <;> rfl

section
variable {total : Nat}

theorem Device.fwStartRun_badLength (hlen : d.sec.image.length ≠ total) : d.fwStartRun total c = d.finish c .badParam :=
  if_pos (.inr hlen)

variable (htotal : d.sec.imageLength = some total) (hlen : d.sec.image.length = total)
include htotal hlen

theorem Device.fwStartRun_whole : d.fwStartRun total c =
    if d.sec.state = .running then d.finish c .busy else d.startImage (d.sec.image.map Prod.snd) c :=
  if_neg (not_or.2 ⟨not_not_intro htotal, not_not_intro hlen⟩)

theorem Device.fwStartRun_running (hstate : d.sec.state = .running) : d.fwStartRun total c = d.finish c .busy :=
  (Device.fwStartRun_whole htotal hlen).trans (if_pos hstate)

theorem Device.fwStartRun_starts (hstate : d.sec.state ≠ .running) :
    d.fwStartRun total c = d.startImage (d.sec.image.map Prod.snd) c :=
  (Device.fwStartRun_whole htotal hlen).trans (if_neg hstate)

end

end

theorem ite_some_eq_none {α : Type} {P : Prop} [Decidable P] {a : α} {x : Option α} :
    (if P then some a else x) = none ↔ ¬ P ∧ x = none := by
  split <;> simp [*]

theorem not_any_ne_zero {bs : List Byte} : ¬ (bs.any (· != 0)) = true ↔ ∀ b ∈ bs, b = 0 := by simp

/-- Every check of R476 from 2 on passes: the image is well formed, not rolled back, and signed twice. -/
theorem Device.imageFault_eq_none (d : Device) (img : List Byte) :
    d.imageFault img = none ↔
      fieldAt img 0 4 = 0x5A384657 ∧ fieldAt img 4 4 = 8 ∧ (∀ b ∈ (img.drop 20).take 44, b = 0)
        ∧ img.length = 64 + fieldAt img 16 4 + 384 + 16224 ∧ fieldAt img 12 4 % 4 = 0 ∧ 64 ≤ fieldAt img 12 4
        ∧ fieldAt img 12 4 ≤ 60 + fieldAt img 16 4 ∧ fieldAt img 8 4 ≤ 64 ∧ d.seed.svn ≤ fieldAt img 8 4
        ∧ Config.verifyFirst (img.take (64 + fieldAt img 16 4)) ((img.drop (64 + fieldAt img 16 4)).take 384) = true
        ∧ Config.verifySecond (img.take (64 + fieldAt img 16 4)) ((img.drop (64 + fieldAt img 16 4 + 384)).take 16224) = true := by
  simp only [Device.imageFault, ite_some_eq_none, not_or, ne_eq, Decidable.not_not, Nat.not_lt, not_any_ne_zero, Bool.not_eq_true',
    Bool.not_eq_false, sigBytes, Nat.add_assoc, and_assoc, and_true]

/-- The next state of a host command that passes its checks, from what its body makes of the device on which its packet is open. -/
theorem exec_of_command {row : Instr} {op : Word16} {h : CmdHdr} {s : State} {e : Device} (body : OpenCmd → Device → Device)
    (hl : s.dev.live = true) (hpass : s.dev.passes op h) (he : exec row s = s.act fun d => d.command op h body)
    (hb : body ⟨h, op⟩ (s.dev.fresh.openCommand op h) = e) : exec row s = .next (s.after e) :=
  Runs.of_command (f := fun _ => e) body hl hpass he hb

theorem exec_of_adminCommand {row : Instr} {op : Word16} {h : CmdHdr} {s : State} {e : Device} (body : OpenCmd → Device → Device)
    (hl : s.dev.live = true) (hpass : s.dev.passesAdmin op h) (he : exec row s = s.act fun d => d.adminCommand op h body)
    (hb : body ⟨h, op⟩ (s.dev.fresh.openCommand op h) = e) : exec row s = .next (s.after e) :=
  Runs.of_adminCommand (f := fun _ => e) body hl hpass he hb

/-- Settles O32: a command that passes its checks is what its body makes of the device on which its packet is open, and a packet leaves
what the bodies read as it was. -/
theorem sessionCommandsComplete : Obligations.SessionCommandsComplete := by
  refine ⟨fun s h hl => ?_, Device.imageFault_eq_none⟩
  have hlink (op : Word16) (p : Fin 2) : (s.dev.fresh.openCommand op h).linkUp p = s.dev.linkUp p :=
    s.dev.fresh.openCommand_linkUp op h p
  have hstart (total : Word32) : exec (.fwStart h total) s = s.act fun d => d.command 0x0011 h (Device.fwStartRun total.toNat) :=
    congrArg s.act (funext fun d => Device.fwStart_eq total)
  refine ⟨fun hpass => ?_, fun hpass => ?_, fun hpass => ?_, fun hpass hup => ?_, fun hpass hdown => ?_,
    fun hpass ha hdown hlong => ?_, fun hpass ha hup => ?_, fun hpass ha => ?_, fun addr off len total hpass hchunk hstate hup => ?_,
    fun addr off len total hpass hchunk hstate => ?_, fun addr off len total hpass hchunk => ?_,
    fun total hpass hstate htotal hlen => ?_, fun total hpass hstate htotal hlen => ?_, fun total hpass hlen => ?_,
    fun hpass => ?_, fun kind hpass hkind => ?_⟩
  · exact exec_of_command _ hl hpass rfl rfl
  · exact exec_of_command _ hl hpass rfl rfl
  · exact exec_of_command _ hl hpass rfl rfl
  · exact exec_of_adminCommand _ hl hpass rfl (if_pos ((hlink _ _).trans hup))
  · exact exec_of_adminCommand _ hl hpass rfl (if_neg (ne_true_of_eq_false ((hlink _ _).trans hdown)))
  · refine exec_of_command (Device.adoptRun h) hl hpass rfl (Device.adoptRun_down ha ((hlink _ _).trans hdown) ?_)
    rw [Device.openCommand_downSince]
    exact hlong
  · exact exec_of_command (Device.adoptRun h) hl hpass rfl (Device.adoptRun_up ha ((hlink _ _).trans hup))
  · exact exec_of_command (Device.adoptRun h) hl hpass rfl (Device.adoptRun_admin ha)
  · exact exec_of_command (Device.fwLoadRun h addr off.toNat len.toNat total.toNat) hl hpass rfl
      (Device.fwLoadRun_taken addr hchunk hstate ((hlink _ _).trans hup))
  · exact exec_of_command (Device.fwLoadRun h addr off.toNat len.toNat total.toNat) hl hpass rfl
      (Device.fwLoadRun_running addr hchunk hstate)
  · exact exec_of_command (Device.fwLoadRun h addr off.toNat len.toNat total.toNat) hl hpass rfl
      (Device.fwLoadRun_badChunk addr hchunk)
  · exact exec_of_command _ hl hpass (hstart total) (Device.fwStartRun_starts (d := s.dev.fresh.openCommand 0x0011 h) htotal hlen hstate)
  · exact exec_of_command _ hl hpass (hstart total) (Device.fwStartRun_running (d := s.dev.fresh.openCommand 0x0011 h) htotal hlen hstate)
  · exact exec_of_command _ hl hpass (hstart total) (Device.fwStartRun_badLength (d := s.dev.fresh.openCommand 0x0011 h) hlen)
  · exact exec_of_adminCommand _ hl hpass rfl rfl
  · exact exec_of_adminCommand _ hl hpass rfl (if_pos hkind)

end Sys2Proof.Machine
end

section
/-! The header checks of every command of the opcode index (R328, R332-R334, R506, R508): what a dispatched packet meets, and that each
command is dispatched under its own opcode, admin-only where the index says so. -/

namespace Sys2Proof.Machine

/-! ### Checks 2 to 6 of a packet whose bytes are well formed (R332) -/

section
variable {d : Device} {h : CmdHdr} {op : Word16}

theorem Device.headerFault_notRunning (hop : sessionOpcode op = false) (hstate : d.sec.state ≠ .running) :
    d.headerFault h op none = some .badOpcode :=
  if_pos (by simp [hop, hstate])

section
variable (hop : sessionOpcode op = true ∨ d.sec.state = .running)
include hop

theorem Device.headerFault_available : d.headerFault h op none =
    if 2 ≤ h.cls.toNat then some .badParam
    else if h.cls = 0 ∧ h.powerClass ≠ 0 then some .badParam
    else if (!sessionOpcode op && !d.accountEnabled h.port h.account) = true then some .badParam
    else none := by
  refine (if_neg ?_).trans (if_neg nofun)
  rcases hop with hop | hop <;> simp [hop]

theorem Device.headerFault_reservedClass (hcls : 2 ≤ h.cls.toNat) : d.headerFault h op none = some .badParam :=
  (Device.headerFault_available hop).trans (if_pos hcls)

theorem Device.headerFault_powerClass (hcls : h.cls = 0) (hpower : h.powerClass ≠ 0) : d.headerFault h op none = some .badParam := by
  rw [Device.headerFault_available hop, if_pos (⟨hcls, hpower⟩ : h.cls = 0 ∧ h.powerClass ≠ 0), ite_self]

theorem Device.headerFault_account (hsession : sessionOpcode op = false) (haccount : d.accountEnabled h.port h.account = false) :
    d.headerFault h op none = some .badParam := by
  have hcheck : (!sessionOpcode op && !d.accountEnabled h.port h.account) = true := by rw [hsession, haccount]; rfl
  rw [Device.headerFault_available hop, if_pos hcheck, ite_self, ite_self]

theorem Device.headerFault_none (hcls : h.cls.toNat < 2) (hpower : h.cls = 1 ∨ h.powerClass = 0)
    (haccount : sessionOpcode op = true ∨ d.accountEnabled h.port h.account = true) : d.headerFault h op none = none := by
  have hclass : ¬ (h.cls = 0 ∧ h.powerClass ≠ 0) := by
    rintro ⟨hzero, hp⟩
    exact hpower.elim (fun hone => absurd (hzero.symm.trans hone) (by decide)) hp
  have hcheck : (!sessionOpcode op && !d.accountEnabled h.port h.account) = false := by
    rcases haccount with ha | ha <;> simp [ha]
  rw [Device.headerFault_available hop, if_neg (Nat.not_le.2 hcls), if_neg hclass, if_neg (ne_true_of_eq_false hcheck)]

end

end

theorem Device.headerFault_openCommand (d : Device) (op : Word16) (h : CmdHdr) :
    (d.openCommand op h).headerFault h op none = d.headerFault h op none := by
  rw [Device.headerFault, Device.headerFault, Device.openCommand_accountEnabled, Device.openCommand_sec]

/-! ### Dispatch (R332, R333, R334, R506) -/

section
variable {d : Device} {h : CmdHdr} {op : Word16} {admin : Bool} {body : OpenCmd → Device → Device}

theorem Device.dispatch_waits (hwait : d.dispatchWaits = true) : d.dispatch op h none admin body = d := if_pos hwait

theorem Device.dispatch_held {orig : ReplayRec} (hnow : d.dispatchWaits = false)
    (hheld : d.ports[h.port].replay.find? (fun r => r.tag == h.tag) = some orig) :
    d.dispatch op h none admin body = d.replayPacket h op orig := by
  simp only [Device.dispatch, hnow, hheld, Bool.false_eq_true, if_false]

section
variable (hnow : d.dispatchWaits = false) (hnew : d.ports[h.port].replay.find? (fun r => r.tag == h.tag) = none)
include hnow hnew

theorem Device.dispatch_fault {st : Status} (hfault : d.headerFault h op none = some st) :
    d.dispatch op h none admin body = (d.openCommand op h).finish ⟨h, op⟩ st := by
  have hopened : (d.openCommand op h).headerFault h op none = some st := by rw [d.headerFault_openCommand, hfault]
  simp only [Device.dispatch, hnow, hnew, hopened, Bool.false_eq_true, if_false]

theorem Device.dispatch_sound (hsound : d.headerFault h op none = none) :
    d.dispatch op h none admin body =
      if (h.promised && !promisable op) = true then (d.openCommand op h).refuseTime ⟨h, op⟩ .notPromisable
      else if (admin && !d.isAdmin h.port) = true then (d.openCommand op h).finish ⟨h, op⟩ .notAdmin
      else if d.opFaulted op = true then (d.openCommand op h).finish ⟨h, op⟩ .faulted
      else body ⟨h, op⟩ (d.openCommand op h) := by
  have hopened : (d.openCommand op h).headerFault h op none = none := by rw [d.headerFault_openCommand, hsound]
  simp only [Device.dispatch, hnow, hnew, hopened, Bool.false_eq_true, if_false]
  rfl

end

end

/-! ### The commands of the opcode index (R345-R347) -/

/-- A command of the index is dispatched under its own opcode, as admin-only where the index says so, whatever its parameters. -/
def HostCommand.Dispatched (k : HostCommand) : Prop :=
  ∀ (h : CmdHdr) (ps : List Byte), ∃ body, ∀ d : Device,
    k.run h ps d = d.dispatch (BitVec.ofNat 16 k.op) h none (k.admin h ps) body

/-- A dispatch whose body makes the admin check first is an admin-only dispatch, where the command needs no block that can fault. -/
theorem Device.dispatch_adminCheck {op : Word16} (h : CmdHdr) (admin : Bool) (body : OpenCmd → Device → Device)
    (hblock : commandBlock op = none) (d : Device) :
    (d.dispatch op h none false fun c e => if (admin && !e.isAdmin h.port) = true then e.finish c .notAdmin else body c e)
      = d.dispatch op h none admin body := by
  have hworks (e : Device) : e.opFaulted op = false := by rw [Device.opFaulted, hblock]; rfl
  simp only [Device.dispatch, hworks, Bool.false_and, Bool.false_eq_true, if_false]

/-- QUOTA_QUERY of a packet that may name its account (R297). -/
def Device.quotaRun (account tier array : BitVec 8) (c : OpenCmd) (d : Device) : Device :=
  if !quotaFields account tier array then d.finish c .badParam
  else
    let a : BitVec 6 := account.setWidth 6
    let q := d.mem.quotas[a.toNat]'(a.isLt)
    d.ok c ((q.get tier.toNat array.toNat).toNat + 2 ^ 32 * d.used a tier.toNat array.toNat)

/-- QUOTA_QUERY asks for the admin port only where it names another account (R297). -/
theorem quotaQuery_dispatched (h : CmdHdr) (account tier array : BitVec 8) : ∃ body, ∀ d : Device,
    d.quotaQuery h account tier array = d.dispatch 0x010B h none (account.toNat != h.account.toNat) body := by
  refine ⟨Device.quotaRun account tier array, fun d => ?_⟩
  rw [← Device.dispatch_adminCheck h _ _ rfl d]
  refine congrArg (d.command 0x010B h) (funext fun c => funext fun e => ?_)
  simp only [Bool.and_eq_true, bne_iff_ne]
  rfl

theorem runFabPortSet_dispatched (h : CmdHdr) (ps : List Byte) : ∃ body, ∀ d : Device,
    runFabPortSet h ps d = d.adminCommand 0x0701 h body := by
  by_cases hkind : fieldAt ps 0 1 = 0
  · exact ⟨_, fun _ => if_pos hkind⟩
  · exact ⟨_, fun _ => if_neg hkind⟩

theorem runMcastSet_dispatched (h : CmdHdr) (ps : List Byte) : ∃ body, ∀ d : Device,
    runMcastSet h ps d = d.command 0x0706 h body := by
  by_cases hkind : fieldAt ps 1 1 = 0
  · exact ⟨_, fun _ => if_pos hkind⟩
  · exact ⟨_, fun _ => if_neg hkind⟩

section
variable {op size : Nat} {ss : List Spare} {run : CmdHdr → List Byte → Device → Device} {l : List HostCommand}
theorem hostCmd_cons_dispatched (hrun : ∀ h ps, ∃ body, ∀ d, run h ps d = d.command (BitVec.ofNat 16 op) h body)
    (hl : ∀ k ∈ l, k.Dispatched) : ∀ k ∈ hostCmd op size ss run :: l, k.Dispatched :=
  List.forall_mem_cons.2 ⟨hrun, hl⟩

theorem adminCmd_cons_dispatched (hrun : ∀ h ps, ∃ body, ∀ d, run h ps d = d.adminCommand (BitVec.ofNat 16 op) h body)
    (hl : ∀ k ∈ l, k.Dispatched) : ∀ k ∈ adminCmd op size ss run :: l, k.Dispatched :=
  List.forall_mem_cons.2 ⟨hrun, hl⟩

end

theorem sessionCommands_dispatched : ∀ k ∈ sessionCommands, k.Dispatched := by
  iterate 3 refine hostCmd_cons_dispatched (fun _ _ => ⟨_, fun _ => rfl⟩) ?_
  refine adminCmd_cons_dispatched (fun _ _ => ⟨_, fun _ => rfl⟩) ?_
  iterate 3 refine hostCmd_cons_dispatched (fun _ _ => ⟨_, fun _ => rfl⟩) ?_
  refine adminCmd_cons_dispatched (fun _ _ => ⟨_, fun _ => rfl⟩) ?_
  exact List.forall_mem_nil _

theorem memoryCommands_dispatched : ∀ k ∈ memoryCommands, k.Dispatched := by
  iterate 9 refine hostCmd_cons_dispatched (fun _ _ => ⟨_, fun _ => rfl⟩) ?_
  refine adminCmd_cons_dispatched (fun _ _ => ⟨_, fun _ => rfl⟩) ?_
  refine List.forall_mem_cons.2 ⟨fun h _ => quotaQuery_dispatched h .., ?_⟩
  refine adminCmd_cons_dispatched (fun _ _ => ⟨_, fun _ => rfl⟩) ?_
  exact List.forall_mem_nil _

theorem programCommands_dispatched : ∀ k ∈ programCommands, k.Dispatched := by
  iterate 8 refine hostCmd_cons_dispatched (fun _ _ => ⟨_, fun _ => rfl⟩) ?_
  exact List.forall_mem_nil _

theorem gradientCommands_dispatched : ∀ k ∈ gradientCommands, k.Dispatched := by
  iterate 2 refine adminCmd_cons_dispatched (fun _ _ => ⟨_, fun _ => rfl⟩) ?_
  iterate 4 refine hostCmd_cons_dispatched (fun _ _ => ⟨_, fun _ => rfl⟩) ?_
  exact List.forall_mem_nil _

theorem updateCommands_dispatched : ∀ k ∈ updateCommands, k.Dispatched := by
  iterate 5 refine hostCmd_cons_dispatched (fun _ _ => ⟨_, fun _ => rfl⟩) ?_
  exact List.forall_mem_nil _

theorem kvCommands_dispatched : ∀ k ∈ kvCommands, k.Dispatched := by
  iterate 9 refine hostCmd_cons_dispatched (fun _ _ => ⟨_, fun _ => rfl⟩) ?_
  exact List.forall_mem_nil _

theorem stackCommands_dispatched : ∀ k ∈ stackCommands, k.Dispatched := by
  refine hostCmd_cons_dispatched (fun _ _ => ⟨_, fun _ => rfl⟩) ?_
  iterate 4 refine adminCmd_cons_dispatched (fun _ _ => ⟨_, fun _ => rfl⟩) ?_
  exact List.forall_mem_nil _

theorem fabricCommands_dispatched : ∀ k ∈ fabricCommands, k.Dispatched := by
  refine List.forall_mem_cons.2 ⟨runFabPortSet_dispatched, ?_⟩
  refine hostCmd_cons_dispatched (fun _ _ => ⟨_, fun _ => rfl⟩) ?_
  refine adminCmd_cons_dispatched (fun _ _ => ⟨_, fun _ => rfl⟩) ?_
  refine hostCmd_cons_dispatched (fun _ _ => ⟨_, fun _ => rfl⟩) ?_
  refine adminCmd_cons_dispatched (fun _ _ => ⟨_, fun _ => rfl⟩) ?_
  refine List.forall_mem_cons.2 ⟨runMcastSet_dispatched, ?_⟩
  refine hostCmd_cons_dispatched (fun _ _ => ⟨_, fun _ => rfl⟩) ?_
  exact List.forall_mem_nil _

theorem integrityCommands_dispatched : ∀ k ∈ integrityCommands, k.Dispatched := by
  refine adminCmd_cons_dispatched (fun _ _ => ⟨_, fun _ => rfl⟩) ?_
  iterate 2 refine hostCmd_cons_dispatched (fun _ _ => ⟨_, fun _ => rfl⟩) ?_
  refine adminCmd_cons_dispatched (fun _ _ => ⟨_, fun _ => rfl⟩) ?_
  refine hostCmd_cons_dispatched (fun _ _ => ⟨_, fun _ => rfl⟩) ?_
  refine adminCmd_cons_dispatched (fun _ _ => ⟨_, fun _ => rfl⟩) ?_
  refine hostCmd_cons_dispatched (fun _ _ => ⟨_, fun _ => rfl⟩) ?_
  exact List.forall_mem_nil _

theorem powerCommands_dispatched : ∀ k ∈ powerCommands, k.Dispatched := by
  refine adminCmd_cons_dispatched (fun _ _ => ⟨_, fun _ => rfl⟩) ?_
  refine hostCmd_cons_dispatched (fun _ _ => ⟨_, fun _ => rfl⟩) ?_
  iterate 2 refine adminCmd_cons_dispatched (fun _ _ => ⟨_, fun _ => rfl⟩) ?_
  refine hostCmd_cons_dispatched (fun _ _ => ⟨_, fun _ => rfl⟩) ?_
  exact List.forall_mem_nil _

theorem eventCommands_dispatched : ∀ k ∈ eventCommands, k.Dispatched := by
  iterate 2 refine hostCmd_cons_dispatched (fun _ _ => ⟨_, fun _ => rfl⟩) ?_
  iterate 2 refine adminCmd_cons_dispatched (fun _ _ => ⟨_, fun _ => rfl⟩) ?_
  exact List.forall_mem_nil _

theorem securityCommands_dispatched : ∀ k ∈ securityCommands, k.Dispatched := by
  refine hostCmd_cons_dispatched (fun _ _ => ⟨_, fun _ => rfl⟩) ?_
  iterate 5 refine adminCmd_cons_dispatched (fun _ _ => ⟨_, fun _ => rfl⟩) ?_
  iterate 2 refine hostCmd_cons_dispatched (fun _ _ => ⟨_, fun _ => rfl⟩) ?_
  exact List.forall_mem_nil _

/-- Every command of the index is dispatched as the index says (R346). -/
theorem hostCommands_dispatched : ∀ k ∈ hostCommands, k.Dispatched := by
  simp only [hostCommands, List.forall_mem_append, and_assoc]
  exact ⟨sessionCommands_dispatched, memoryCommands_dispatched, programCommands_dispatched, gradientCommands_dispatched,
    updateCommands_dispatched, kvCommands_dispatched, stackCommands_dispatched, fabricCommands_dispatched,
    integrityCommands_dispatched, powerCommands_dispatched, eventCommands_dispatched, securityCommands_dispatched⟩

/-- Settles O54: every command of the index is a dispatch, and each check of a dispatch is one of the equations above. -/
theorem headerChecksDecide : Obligations.HeaderChecksDecide := by
  intro k hk h ps d op held answers
  obtain ⟨body, hbody⟩ := hostCommands_dispatched k hk h ps
  have hrun : k.run h ps d = d.dispatch op h none (k.admin h ps) body := hbody d
  refine ⟨fun hwait => ?_, fun orig hnow hheld => ?_, fun hnow hnew => ?_⟩
  · exact hrun.trans (Device.dispatch_waits hwait)
  · exact hrun.trans (Device.dispatch_held hnow hheld)
  have hfails {st : Status} (hfault : d.headerFault h op none = some st) : answers st :=
    hrun.trans (Device.dispatch_fault hnow hnew hfault)
  refine ⟨fun hop hstate => hfails (Device.headerFault_notRunning hop hstate), fun hop => ⟨fun hcls => ?_, fun hcls hpower => ?_,
    fun _ _ hsession haccount => ?_, fun haccount => ⟨fun hcls hpromise => ?_, fun hcls hpower hadmin hport => ?_⟩⟩⟩
  · exact hfails (Device.headerFault_reservedClass hop hcls)
  · exact hfails (Device.headerFault_powerClass hop hcls hpower)
  · exact hfails (Device.headerFault_account hop hsession haccount)
  · have hsound : d.headerFault h op none = none := Device.headerFault_none hop (by rw [hcls]; decide) (.inl hcls) haccount
    refine hrun.trans ((Device.dispatch_sound hnow hnew hsound).trans (if_pos ?_))
    rw [CmdHdr.promised_eq_true hcls, hpromise]
    rfl
  · have hsound : d.headerFault h op none = none := Device.headerFault_none hop (by rw [hcls]; decide) (.inr hpower) haccount
    have hplain : ¬ (h.promised && !promisable op) = true := by rw [CmdHdr.promised_eq_false hcls]; nofun
    refine hrun.trans ((Device.dispatch_sound hnow hnew hsound).trans ((if_neg hplain).trans (if_pos ?_)))
    rw [hadmin, hport]
    rfl

end Sys2Proof.Machine
end

section
/-! What every step keeps, and what follows every command (R445, R512): the alert latch, and the interrupt sources of changed flags. -/

namespace Sys2Proof.Machine

/-! ### The alert latch (R512) -/

section
variable (d : Device)

@[simp] theorem Device.live_fresh : d.fresh.live = d.live := rfl

/-- A latch of the levels present holds each of them: the levels do not read the latch. -/
theorem Device.latchAlerts_latched (h : d.latchAlerts.live = true) : d.latchAlerts.alertsLatched = true := by
  have hlive : d.live = true := by rwa [Device.latchAlerts_frame] at h
  have hlatch : d.latchAlerts = { d with smb := { d.smb with alert := d.smb.alert ||| d.alertLevels } } := if_pos hlive
  have hlevels : d.latchAlerts.alertLevels = d.alertLevels := by rw [hlatch]; rfl
  have halert : d.latchAlerts.smb.alert = d.smb.alert ||| d.alertLevels := by rw [hlatch]
  rw [Device.alertsLatched, hlevels, halert, beq_iff_eq]
  ext i hi
  simp only [BitVec.getElem_and, BitVec.getElem_or]
  cases d.smb.alert[i] <;> cases d.alertLevels[i] <;> rfl

end

/-- A device that ends with the latch, or does not run, meets the invariant. -/
theorem State.alertInv_of_latched {s : State} (d : Device) (h : s.dev = d.latchAlerts) : s.AlertInv := fun hl _ => by
  rw [h] at hl ⊢
  exact d.latchAlerts_latched hl

theorem State.alertInv_of_settled {s : State} {old d : Device} (h : s.dev = old.settle d) : s.AlertInv := State.alertInv_of_latched _ h

theorem State.alertInv_of_notLive {s : State} (h : s.dev.live = false) : s.AlertInv := fun hl => by simp [h] at hl

/-! ### How a row acts, whether the device runs or not -/

/-- A function that leaves the device running, or not running, as it was: one that notes a pin's level, or moves the time base. -/
def KeepsLive (g : Device → Device) : Prop := ∀ d : Device, (g d).live = d.live

/-- A row that acts on a running device ends with the latch; a device that does not run stays so. -/
theorem State.act_alertInv {s t : State} (f : Device → Device) (h : s.act f = .next t) : t.AlertInv := by
  by_cases hl : s.dev.live = true
  · rw [State.act_live hl] at h
    cases h
    exact State.alertInv_of_settled rfl
  · cases h
    exact State.alertInv_of_notLive (by simp [hl])

theorem State.actTime_alertInv {s t : State} (f : Device → Device) {g : Device → Device} (hg : KeepsLive g)
    (h : s.actTime f g = .next t) : t.AlertInv := by
  by_cases hl : s.dev.live = true
  · rw [State.actTime_live hl] at h
    cases h
    exact State.alertInv_of_settled rfl
  · cases h
    refine State.alertInv_of_notLive ?_
    simp only [if_neg hl]
    split
    · simpa [hg _] using hl
    · simpa using hl

theorem State.actPin_alertInv {s t : State} (f : Device → Device) {g : Device → Device} (hg : KeepsLive g)
    (h : s.actPin f g = .next t) : t.AlertInv := by
  by_cases hl : s.dev.live = true
  · rw [State.actPin_live hl] at h
    cases h
    exact State.alertInv_of_settled rfl
  · cases h
    exact State.alertInv_of_notLive (by simp [hl, hg _])

theorem State.actAlways_alertInv {s t : State} (f : Device → Device) (h : s.actAlways f = .next t) : t.AlertInv := by
  cases h
  exact State.alertInv_of_latched _ rfl

/-! ### What the rows of the time base and of pins do to a device that does not run -/

theorem Device.setBrakePin_live (low : Bool) : KeepsLive (Device.setBrakePin low) := fun _ => rfl
theorem Device.setFailPin_live (low : Bool) : KeepsLive (Device.setFailPin low) := fun _ => rfl
theorem Device.setPerstPin_live (p : Fin 2) (low : Bool) : KeepsLive (Device.setPerstPin p low) := fun _ => rfl
theorem Device.pllLock_live : KeepsLive Device.pllLock := fun d => by fun_cases Device.pllLock <;> rfl
theorem Device.heldExcursion_live (x : Int) : KeepsLive (Device.heldExcursion x) := fun d => by fun_cases Device.heldExcursion <;> rfl
theorem Device.heldRelock_live : KeepsLive Device.heldRelock := fun d => by fun_cases Device.heldRelock <;> rfl
theorem Device.slew_live : KeepsLive Device.slew := fun d => by fun_cases Device.slew <;> rfl
theorem Device.slewStep_live : KeepsLive Device.slewStep := fun d => by fun_cases Device.slewStep <;> simp [Device.slew_live _]
theorem Device.syncPulse_live : KeepsLive Device.syncPulse := fun d => by fun_cases Device.syncPulse <;> rfl
theorem Device.tick_live : KeepsLive Device.tick := fun d => by
  fun_cases Device.tick
  · exact Device.slew_live d
  · rfl

/-- Every row leaves the invariant: it ends with the latch, or the device does not run. -/
theorem exec_alertInv {c : Instr} {s t : State} (h : exec c s = .next t) : t.AlertInv := by
  by_cases hp : powerRow c = true
  · cases c <;> first | (cases hp; done) | exact State.actAlways_alertInv _ h
  by_cases hb : boardRow c = true
  · cases c <;> first | (cases hb; done) | skip
    case pllLock => exact State.actTime_alertInv _ Device.pllLock_live h
    case refExcursion x => exact State.actTime_alertInv _ (Device.heldExcursion_live x) h
    case refRelock => exact State.actTime_alertInv _ Device.heldRelock_live h
    case slewStep => exact State.actTime_alertInv _ Device.slewStep_live h
    case syncOutPulse => exact State.actTime_alertInv _ Device.syncPulse_live h
    case brakeAssert => exact State.actPin_alertInv _ (Device.setBrakePin_live true) h
    case brakeRelease => exact State.actPin_alertInv _ (Device.setBrakePin_live false) h
    case pwrfailAssert => exact State.actPin_alertInv _ (Device.setFailPin_live true) h
    case pwrfailRelease => exact State.actPin_alertInv _ (Device.setFailPin_live false) h
    case perstAssert p => exact State.actPin_alertInv _ (Device.setPerstPin_live p true) h
    case perstRelease p => exact State.actPin_alertInv _ (Device.setPerstPin_live p false) h
  · obtain ⟨f, hf⟩ := exec_acts c (by simpa using hp) (by simpa using hb)
    exact State.act_alertInv f (hf s ▸ h)

/-- Settles O52: a step is a row, or a control-clock cycle with no command, and each of them leaves the invariant. -/
theorem everyStepLatchesItsAlerts : Obligations.EveryStepLatchesItsAlerts := by
  intro s t h
  unfold step at h
  split at h
  · exact exec_alertInv h
  · exact State.actTime_alertInv _ Device.tick_live h

/-! ### Interrupt sources of changed flags (R445) -/

/-- What follows a command leaves every flag, and every FILTER, as it was. -/
theorem Device.settle_flags (old d : Device) : (old.settle d).flags = d.flags := by
  obtain ⟨src, alert, hsettle, -⟩ := old.settle_frame d
  rw [hsettle]
  rfl

theorem Device.settle_epoch (old d : Device) : (old.settle d).evr.epoch = d.evr.epoch := by
  obtain ⟨src, alert, hsettle, -⟩ := old.settle_frame d
  rw [hsettle]

theorem Device.settle_filter (old d : Device) (n : Fin 512) : (old.settle d).intc.src[n].filter = d.intc.src[n].filter := by
  obtain ⟨src, alert, hsettle, hpend, -⟩ := old.settle_frame d
  rw [hsettle]
  simp only
  rw [hpend n]

/-- The step of `Device.pulseChanges`: the source of a pair of flags that differ is asserted. -/
def Device.pulseIfChanged (d : Device) (x : (Nat × Bool × Bool × Bool) × (Nat × Bool × Bool × Bool)) : Device :=
  if x.1 = x.2 then d else d.pulse x.2.1

theorem Device.pulseIfChanged_cases (d : Device) (x : (Nat × Bool × Bool × Bool) × (Nat × Bool × Bool × Bool)) :
    d.pulseIfChanged x = d ∨ ∃ s, d.pulseIfChanged x = d.pulse s := by
  unfold Device.pulseIfChanged
  split
  · exact .inl rfl
  · exact .inr ⟨_, rfl⟩

/-- Among sources asserted one after the other, that of a changed pair is pending at the end, where its FILTER lets it be sensed. -/
theorem Device.pulseIfChanged_foldl_pend {l : List ((Nat × Bool × Bool × Bool) × (Nat × Bool × Bool × Bool))}
    {x : (Nat × Bool × Bool × Bool) × (Nat × Bool × Bool × Bool)} {n : Fin 512} (hx : x ∈ l) (hne : x.1 ≠ x.2) (hn : x.2.1 = n.val)
    (d : Device) (hfilter : d.intc.src[n].filter.toNat ≤ 1) :
    (l.foldl Device.pulseIfChanged d).intc.src[n].pend = true := by
  induction l generalizing d with
  | nil => exact absurd hx List.not_mem_nil
  | cons y r ih =>
    obtain rfl | hr := List.mem_cons.1 hx
    · have hpend : (d.pulseIfChanged x).intc.src[n].pend = true := by
        rw [Device.pulseIfChanged, if_neg hne, Device.pulse_src, hn]
        simp only [hfilter, beq_self_eq_true, decide_true, Bool.and_self, Bool.or_true]
      obtain ⟨src, hsrc, -, hkeep⟩ := Device.pulses_frame _ Device.pulseIfChanged_cases r (d.pulseIfChanged x)
      rw [List.foldl_cons, hsrc]
      exact hkeep n hpend
    · refine ih hr _ ?_
      obtain h | ⟨s, h⟩ := d.pulseIfChanged_cases y
      · rwa [h]
      · rwa [h, Device.pulse_src]

theorem Device.pulseChanges_eq (old d : Device) : old.pulseChanges d = (old.flags.zip d.flags).foldl Device.pulseIfChanged d := rfl

/-- A flag that a command changed is pending after what follows the command, unless the command has reset the device. -/
theorem Device.settle_pend {old d : Device} (hepoch : d.evr.epoch = old.evr.epoch) {i : Nat} {a b : Nat × Bool × Bool × Bool}
    (ha : old.flags[i]? = some a) (hb : d.flags[i]? = some b) (hne : a ≠ b) {n : Fin 512} (hn : b.1 = n.val)
    (hfilter : d.intc.src[n].filter.toNat ≤ 1) : (old.settle d).intc.src[n].pend = true := by
  have hmem : (a, b) ∈ old.flags.zip d.flags := by
    refine List.mem_of_getElem? (i := i) ?_
    rw [List.getElem?_zip_eq_some]
    exact ⟨ha, hb⟩
  rw [Device.settle, if_pos hepoch, Device.latchAlerts_frame, Device.pulseChanges_eq]
  exact Device.pulseIfChanged_foldl_pend hmem hne hn d hfilter

/-- Settles O53: a row takes a running device to what a function of its operands makes of it, and what follows asserts the source of each
flag that differs. -/
theorem flagChangesRaiseTheirSource : Obligations.FlagChangesRaiseTheirSource := by
  intro c s t hl hp hexec hepoch i a b ha hb hne n hn hfilter
  obtain ⟨f, hf⟩ := exec_live c hp
  have ht : t = { s with dev := s.dev.settle (f s.dev.fresh) } := Host.Outcome.next.inj (hexec.symm.trans (hf s hl))
  subst ht
  rw [Device.settle_flags] at hb
  rw [Device.settle_epoch] at hepoch
  rw [Device.settle_filter] at hfilter
  exact Device.settle_pend hepoch ha hb hne hn hfilter

end Sys2Proof.Machine
end

section
/-! How a command acts (R445, R472, R512): it answers, it leaves the queue alone, and what follows it changes little. -/

namespace Sys2Proof.Machine

/-- Settles O48: the queue's front is run on the rest. -/
theorem stepRunsFront : Obligations.StepRunsFront := fun _ _ _ => rfl

/-- A row answers a next state with the queue as it was: each of the four ways in which a row acts does. -/
theorem exec_answers (c : Instr) (s : State) : ∃ t, exec c s = .next t ∧ t.pending = s.pending := by
  by_cases hp : powerRow c = true
  · cases c <;> first | (cases hp; done) | exact ⟨_, rfl, rfl⟩
  by_cases hb : boardRow c = true
  · cases c <;> first | (cases hb; done) | exact ⟨_, rfl, rfl⟩
  · obtain ⟨f, hf⟩ := exec_acts c (by simpa using hp) (by simpa using hb)
    exact ⟨_, hf s, rfl⟩

theorem State.act_notLive {f : Device → Device} {s : State} (h : s.dev.live = false) : s.act f = .next { s with dev := s.dev.fresh } := by
  simp [State.act, h]

/-- Settles O49: a row answers, and one that is not the board's acts on a running device alone. -/
theorem everyCommandAnswers : Obligations.EveryCommandAnswers := by
  refine fun c s => ⟨exec_answers c s, fun hp hb hl => ?_⟩
  obtain ⟨f, hf⟩ := exec_acts c hp hb
  rw [hf, State.act_notLive hl]

/-- Settles O50: what follows a command changes pending bits and the alert latch, and clears none. -/
theorem whatFollowsACommand : Obligations.WhatFollowsACommand := by
  intro old d
  obtain ⟨src, alert, hsettle, hsrc, hpend, halert⟩ := old.settle_frame d
  rw [hsettle]
  exact ⟨rfl, hsrc, hpend, halert⟩

end Sys2Proof.Machine
end

section
/-! EVR_ACCEPT and a later occurrence in a step (R456; log entry 122): such an occurrence is folded into the record of its event, if there is
one, before any filter sees it. -/

namespace Sys2Proof.Machine

/-- A later occurrence of an INFO event. -/
def laterInfo : Occurrence := { code := 0x0605, severity := .info, source := 3, tick := 5, key := 1, again := true }

/-- A running device whose recorder is set to drop INFO events, holds no record, and has a later occurrence waiting. -/
def Device.filtering : Device :=
  { State.reset.dev with evr := { State.reset.dev.evr with minSeverity := true, queue := [laterInfo] } }

theorem Device.settle_evr (old d : Device) : (old.settle d).evr = d.evr := by
  obtain ⟨src, alert, hsettle, -⟩ := old.settle_frame d
  rw [hsettle]

/-- Refutes O42: with INFO events filtered, EVR_ACCEPT of a later occurrence of one is said to count it in DROP_FILTERED, and does not. -/
theorem not_eventRowsComplete : ¬ Obligations.EventRowsComplete := by
  rintro ⟨hrows, -⟩
  have hl : Device.filtering.live = true := by decide +kernel
  obtain ⟨-, haccept, -⟩ := hrows ⟨Device.filtering, []⟩ hl
  have hruns := (haccept laterInfo [] rfl).1 rfl rfl
  have hdoes : exec .evrAccept ⟨Device.filtering, []⟩ = .next _ := State.act_live (f := Device.evrStep) hl
  have hdrops := congrArg (fun t : State => t.dev.evr.dropFiltered) (Host.Outcome.next.inj (hdoes.symm.trans hruns))
  simp only [State.after, Device.settle_evr] at hdrops
  exact absurd hdrops (by decide +kernel)

end Sys2Proof.Machine
end

section
/-! The interrupt controller and the control cores (R441-R451, R465, R469): what each row makes of a device, which source is routed to which
core, and what the address map grants. -/

namespace Sys2Proof.Machine

/-! ### Elements of banks -/

section
variable {α : Type} {n : Nat} {v : Vector α n} {i : Fin n} {f g : α → α}

/-- A change of one element depends on what it makes of that element alone. -/
theorem Bank.upd_congr (h : f v[i] = g v[i]) : Bank.upd v i f = Bank.upd v i g := congrArg (v.set i.val · i.isLt) h

theorem Bank.upd_eq_self (h : f v[i] = v[i]) : Bank.upd v i f = v := (congrArg (v.set i.val · i.isLt) h).trans (Vector.set_getElem_self _)

end

section
variable {d : Device} {c : Fin 4} {f g : Core → Core}

theorem Device.updCore_congr (h : f d.cores[c] = g d.cores[c]) : d.updCore c f = d.updCore c g :=
  congrArg (fun b => { d with cores := b }) (Bank.upd_congr h)

theorem Device.updCore_eq_self (h : f d.cores[c] = d.cores[c]) : d.updCore c f = d :=
  congrArg (fun b => { d with cores := b }) (Bank.upd_eq_self h)

end


/-! ### The core that a source goes to (R447, R448) -/

/-- The least of a list's values, and of a value to start from, is at most each of them. -/
theorem foldl_min_le {α : Type} (w : α → Nat) (l : List α) (m : Nat) :
    l.foldl (fun m c => min m (w c)) m ≤ m ∧ ∀ c ∈ l, l.foldl (fun m c => min m (w c)) m ≤ w c := by
  induction l generalizing m with
  | nil => exact ⟨Nat.le_refl m, fun c hc => absurd hc List.not_mem_nil⟩
  | cons a r ih =>
    obtain ⟨hstart, hrest⟩ := ih (min m (w a))
    refine ⟨hstart.trans (Nat.min_le_left m (w a)), fun c hc => ?_⟩
    obtain rfl | hr := List.mem_cons.1 hc
    · exact hstart.trans (Nat.min_le_right m (w c))
    · exact hrest c hr

/-- That least value is one of them. -/
theorem foldl_min_attained {α : Type} (w : α → Nat) (l : List α) (m : Nat) :
    l.foldl (fun m c => min m (w c)) m = m ∨ ∃ c ∈ l, w c = l.foldl (fun m c => min m (w c)) m := by
  induction l generalizing m with
  | nil => exact .inl rfl
  | cons a r ih =>
    obtain h | ⟨c, hc, h⟩ := ih (min m (w a))
    · obtain hm | ha := Nat.le_total m (w a)
      · exact .inl (h.trans (Nat.min_eq_left hm))
      · exact .inr ⟨a, List.mem_cons_self, (h.trans (Nat.min_eq_right ha)).symm⟩
    · exact .inr ⟨c, List.mem_cons_of_mem a hc, h⟩

/-- Every core is somewhere in the order from the pointer. -/
theorem mem_fromPointer : ∀ p c : Fin 4, c ∈ fromPointer p := by decide

section
variable {d : Device} {s : Fin 512} {free : List (Fin 4)} {c : Fin 4}

/-- The cores among which one is picked: those in `free` that are eligible. -/
theorem Device.mem_pickable :
    c ∈ ((fromPointer d.intc.pointer).filter fun c => free.contains c && d.eligible s c) ↔ c ∈ free ∧ d.eligible s c = true := by
  simp [mem_fromPointer]

/-- No core is picked where none is eligible. -/
theorem Device.pickCore_none (h : d.pickCore s free = none) : ∀ e ∈ free, d.eligible s e = false := by
  intro e he
  by_contra hel
  have hmem := (Device.mem_pickable (d := d) (s := s)).2 ⟨he, Bool.of_not_eq_false hel⟩
  simp only [Device.pickCore] at h
  split at h
  · next hnil => exact absurd (hnil ▸ hmem) List.not_mem_nil
  · next e r _ =>
    rw [Option.map_eq_none_iff, List.head?_eq_none_iff, List.filter_eq_nil_iff] at h
    obtain hmin | ⟨x, hx, hmin⟩ := foldl_min_attained (fun c => d.cores[c].runPriority) (e :: r) d.cores[e].runPriority
    · exact h e List.mem_cons_self (beq_iff_eq.2 hmin.symm)
    · exact h x hx (beq_iff_eq.2 hmin)

/-- A core that is picked is an eligible one of the lowest running priority. -/
theorem Device.pickCore_some {tie : Bool} (h : d.pickCore s free = some (c, tie)) :
    c ∈ free ∧ d.eligible s c = true ∧ ∀ e ∈ free, d.eligible s e = true → d.cores[c].runPriority ≤ d.cores[e].runPriority := by
  simp only [Device.pickCore] at h
  split at h
  · cases h
  · next e r hes =>
    obtain ⟨x, hx, hxc⟩ := Option.map_eq_some_iff.1 h
    obtain ⟨rfl, -⟩ := Prod.mk.inj hxc
    obtain ⟨hmem, hleast⟩ := List.mem_filter.1 (List.mem_of_head? hx)
    obtain ⟨hfree, hel⟩ := Device.mem_pickable.1 (hes ▸ hmem)
    refine ⟨hfree, hel, fun y hy hyel => ?_⟩
    rw [beq_iff_eq.1 hleast]
    exact (foldl_min_le (fun c => d.cores[c].runPriority) _ _).2 y (hes ▸ Device.mem_pickable.2 ⟨hy, hyel⟩)

end

/-! ### The source that is routed (R447, R448) -/

section
variable {d : Device} {free : List (Fin 4)}

/-- A source that routing looks at: it has a line, is pending, and a core of `free` is eligible for it. -/
def Device.Routable (d : Device) (free : List (Fin 4)) (m : Fin 512) : Prop :=
  m ≠ 0 ∧ d.pendingSource m = true ∧ ∃ e ∈ free, d.eligible m e = true

/-- A source is eligible for a core at a priority above the core's own, so not at 0. -/
theorem Device.eligible_priority {n : Fin 512} {c : Fin 4} (h : d.eligible n c = true) :
    d.cores[c].runPriority < d.intc.src[n].priority.toNat := by
  simp only [Device.eligible, Bool.and_eq_true, decide_eq_true_eq] at h
  exact h.1.1.2

/-- A source goes before another (R448): the higher PRIORITY, or the lower number at the same. -/
def Device.RanksBefore (d : Device) (n m : Fin 512) : Prop :=
  d.intc.src[m].priority.toNat < d.intc.src[n].priority.toNat ∨ (d.intc.src[m].priority = d.intc.src[n].priority ∧ n ≤ m)

/-- The ranking after some sources were looked at: the first of them, with the core it goes to, or none. -/
structure Device.FirstOf (d : Device) (free : List (Fin 4)) (l : List (Fin 512)) (best : Option (Fin 512 × Fin 4 × Bool)) : Prop where
  ofNone : best = none → ∀ m ∈ l, ¬ d.Routable free m
  ofSome : ∀ {b}, best = some b → b.1 ∈ l ∧ b.1 ≠ 0 ∧ d.pendingSource b.1 = true ∧ d.pickCore b.1 free = some b.2
    ∧ ∀ m ∈ l, d.Routable free m → d.RanksBefore b.1 m

/-- The step of `Device.topSource`: the next source takes the place of the first one where it outranks it and has a core. -/
def Device.rankNext (d : Device) (free : List (Fin 4)) (best : Option (Fin 512 × Fin 4 × Bool)) (s : Fin 512) :
    Option (Fin 512 × Fin 4 × Bool) :=
  if s.val = 0 ∨ d.intc.src[s].priority.toNat = 0 ∨ !d.pendingSource s then best
  else if best.all fun b => decide (d.intc.src[b.1].priority.toNat < d.intc.src[s].priority.toNat) then
    (match d.pickCore s free with | some (c, t) => some (s, c, t) | none => best)
  else best

theorem Device.topSource_eq : d.topSource free = (Bank.indices 512).foldl (d.rankNext free) none := by
  unfold Device.topSource
  congr 1
  funext best s
  unfold Device.rankNext
  cases best <;> rfl

variable {l : List (Fin 512)} {s : Fin 512} {best : Option (Fin 512 × Fin 4 × Bool)}

theorem forall_mem_concat {α : Type} {p : α → Prop} {l : List α} {a : α} : (∀ x ∈ l ++ [a], p x) ↔ (∀ x ∈ l, p x) ∧ p a := by
  simp [or_imp, forall_and]

/-- A source that is not routable leaves the first as it is. -/
theorem Device.FirstOf.skip (h : d.FirstOf free l best) (hs : ¬ d.Routable free s) : d.FirstOf free (l ++ [s]) best where
  ofNone hbest := forall_mem_concat.2 ⟨h.ofNone hbest, hs⟩
  ofSome hbest := by
    obtain ⟨hn, hzero, hpend, hpick, hfirst⟩ := h.ofSome hbest
    exact ⟨List.mem_append_left _ hn, hzero, hpend, hpick, forall_mem_concat.2 ⟨hfirst, fun hr => absurd hr hs⟩⟩

/-- A later source with no more than its priority leaves the first as it is. -/
theorem Device.FirstOf.outranked {b : Fin 512 × Fin 4 × Bool} (h : d.FirstOf free l (some b)) (hlt : ∀ m ∈ l, m < s)
    (hle : d.intc.src[s].priority.toNat ≤ d.intc.src[b.1].priority.toNat) : d.FirstOf free (l ++ [s]) (some b) where
  ofNone := nofun
  ofSome hbest := by
    cases hbest
    obtain ⟨hn, hzero, hpend, hpick, hfirst⟩ := h.ofSome rfl
    have hs : d.RanksBefore b.1 s := (Nat.lt_or_eq_of_le hle).imp_right fun heq => ⟨BitVec.eq_of_toNat_eq heq, (hlt _ hn).le⟩
    exact ⟨List.mem_append_left _ hn, hzero, hpend, hpick, forall_mem_concat.2 ⟨hfirst, fun _ => hs⟩⟩

/-- A source that outranks the first, and has a core, takes its place. -/
theorem Device.FirstOf.replace {x : Fin 4 × Bool} (h : d.FirstOf free l best) (hzero : s ≠ 0) (hpend : d.pendingSource s = true)
    (hpick : d.pickCore s free = some x) (hbetter : ∀ b ∈ best, d.intc.src[b.1].priority.toNat < d.intc.src[s].priority.toNat) :
    d.FirstOf free (l ++ [s]) (some (s, x)) where
  ofNone := nofun
  ofSome hbest := by
    cases hbest
    have hbefore : ∀ m ∈ l, d.Routable free m → d.RanksBefore s m := fun m hm hr => by
      cases hb : best with
      | none => exact absurd hr (h.ofNone hb m hm)
      | some b =>
        obtain ⟨-, -, -, -, hfirst⟩ := h.ofSome hb
        exact .inl ((hfirst m hm hr).elim (·.trans (hbetter b hb)) fun heq => heq.1 ▸ hbetter b hb)
    exact ⟨List.mem_append_right _ (List.mem_singleton_self s), hzero, hpend, hpick,
      forall_mem_concat.2 ⟨hbefore, fun _ => .inr ⟨rfl, le_refl s⟩⟩⟩

theorem Device.FirstOf.rankNext (h : d.FirstOf free l best) (hlt : ∀ m ∈ l, m < s) :
    d.FirstOf free (l ++ [s]) (d.rankNext free best s) := by
  unfold Device.rankNext
  split
  · next hskip =>
    refine h.skip fun ⟨hzero, hpend, e, _, hel⟩ => ?_
    have hprio := Device.eligible_priority hel
    obtain h0 | hp | hnot := hskip
    · exact hzero (Fin.ext h0)
    · omega
    · simp [hpend] at hnot
  · next hlook =>
    obtain ⟨hzero, -, hpend⟩ := not_or.1 hlook |>.imp_right not_or.1
    split
    · next hbetter =>
      split
      · next c tie hpick =>
        refine h.replace (fun h0 => hzero (congrArg Fin.val h0)) (by simpa using hpend) hpick fun b hb => ?_
        rw [hb] at hbetter
        simpa using hbetter
      · next hpick =>
        exact h.skip fun ⟨_, _, e, he, hel⟩ => by simp [Device.pickCore_none hpick e he] at hel
    · next hworse =>
      cases best with
      | none => simp at hworse
      | some b => exact h.outranked hlt (by simpa using hworse)

/-- Sources looked at in rising order leave the first of them. -/
theorem Device.FirstOf.foldl {l' : List (Fin 512)} (h : d.FirstOf free l best) (hlt : (l ++ l').SortedLT) :
    d.FirstOf free (l ++ l') (l'.foldl (d.rankNext free) best) := by
  induction l' generalizing l best with
  | nil => simpa using h
  | cons s r ih =>
    have hnext := h.rankNext fun m hm => (List.pairwise_append.1 hlt.pairwise).2.2 m hm s List.mem_cons_self
    rw [List.append_cons] at hlt ⊢
    exact ih hnext hlt

/-- Of all sources, the one that is routed is the first. -/
theorem Device.topSource_firstOf : d.FirstOf free (Bank.indices 512) (d.topSource free) := by
  rw [Device.topSource_eq]
  have hnone : d.FirstOf free [] none := ⟨fun _ m hm => absurd hm List.not_mem_nil, nofun⟩
  have hsorted : (([] : List (Fin 512)) ++ Bank.indices 512).SortedLT := by
    rw [List.nil_append]
    exact List.sortedLT_finRange 512
  have hfold := hnone.foldl hsorted
  rwa [List.nil_append] at hfold

/-- The source that is routed, and the core that it goes to: an eligible one of the lowest running priority (R447, R448). -/
theorem Device.topSource_spec {n : Fin 512} {c : Fin 4} {tie : Bool} (h : d.topSource free = some (n, c, tie)) :
    n ≠ 0 ∧ d.pendingSource n = true ∧ c ∈ free ∧ d.eligible n c = true ∧ d.cores[c].runPriority < d.intc.src[n].priority.toNat
      ∧ (∀ e ∈ free, d.eligible n e = true → d.cores[c].runPriority ≤ d.cores[e].runPriority)
      ∧ ∀ m : Fin 512, d.Routable free m → d.RanksBefore n m := by
  obtain ⟨-, hzero, hpend, hpick, hrank⟩ := Device.topSource_firstOf.ofSome h
  obtain ⟨hfree, hel, hleast⟩ := Device.pickCore_some hpick
  exact ⟨hzero, hpend, hfree, hel, Device.eligible_priority hel, hleast, fun m => hrank m (List.mem_finRange m)⟩

end

/-! ### What the address map grants (R441) -/

theorem coreGrants_fetch (a : Nat) : coreGrants .fetch a = true ↔ a < 0x10000 ∨ (0x10000000 ≤ a ∧ a < 0x14000000) := by
  simp [coreGrants]

/-- A range that grants stores grants loads. -/
theorem coreGrants_load_of_store {a : Nat} (h : coreGrants .store a = true) : coreGrants .load a = true := by
  simp only [coreGrants, Bool.or_eq_true] at h ⊢
  tauto

/-- The boot ROM and the record area grant loads alone. -/
theorem coreGrants_readOnly {a : Nat} (h : a < 0x10000 ∨ (0x20000000 ≤ a ∧ a < 0x20100000)) :
    coreGrants .load a = true ∧ coreGrants .store a = false := by
  constructor
  · simp only [coreGrants, Bool.or_eq_true, decide_eq_true_eq]
    tauto
  · simp only [coreGrants, Bool.or_eq_false_iff, decide_eq_false_iff_not]
    omega

/-- The register space grants nothing. -/
theorem coreGrants_registers {a : Nat} (h : 0x40000000 ≤ a ∧ a < 0x44000000) (kind : CoreAccess) : coreGrants kind a = false := by
  cases kind <;> simp only [coreGrants, Bool.or_eq_false_iff, decide_eq_false_iff_not] <;> omega

/-! ### The rows as functions of the device -/

section
variable {d : Device}

/-! #### Sources (R446) -/

theorem Device.senseChange_noLine (asserted : Bool) : d.senseChange 0 asserted = d := rfl

theorem Device.senseChange_edge {n : BitVec 9} (asserted : Bool) (hn : n ≠ 0) (hedge : d.intc.isLevel ⟨n.toNat, n.isLt⟩ = false) :
    d.senseChange n asserted = d.updIntc fun i => { i with src := Bank.upd i.src ⟨n.toNat, n.isLt⟩ fun x =>
      { x with sensed := asserted, pend := x.pend || (asserted && !x.sensed) } } := by
  simp only [Device.senseChange, if_neg hn, hedge, Bool.not_false, Bool.and_true]
  exact congrArg (fun b => { d with intc := { d.intc with src := b } }) (Bank.upd_congr rfl)

theorem Device.senseChange_level {n : BitVec 9} (asserted : Bool) (hn : n ≠ 0) (hlevel : d.intc.isLevel ⟨n.toNat, n.isLt⟩ = true) :
    d.senseChange n asserted =
      d.updIntc fun i => { i with src := Bank.upd i.src ⟨n.toNat, n.isLt⟩ fun x => { x with sensed := asserted } } := by
  simp only [Device.senseChange, if_neg hn, hlevel, Bool.not_true, Bool.and_false, Bool.or_false]
  exact congrArg (fun b => { d with intc := { d.intc with src := b } }) (Bank.upd_congr rfl)

/-! #### Routing and the end of an interrupt (R448, R450) -/

theorem Device.interruptRoute_parity (h : d.intc.parity.getLsbD 43 = true) : d.interruptRoute = d := if_pos h

set_option maxRecDepth 2048 in
/-- One source of a cycle of routing (R448). -/
theorem Device.routeCycle_succ (k : Nat) (free : List (Fin 4)) :
    d.routeCycle (k + 1) free = (match d.topSource free with
    | none => d
    | some (s, c, tie) =>
      let d := d.deliver s d.intc.src[s].priority.toNat c
      let d := if tie then { d with intc := { d.intc with pointer := c + 1 } } else d
      Device.routeCycle k (free.filter (· != c)) d) := by
  delta Device.routeCycle
  rfl

theorem Device.interruptRoute_none (h : d.intc.parity.getLsbD 43 = false) (htop : d.topSource (Bank.indices 4) = none) :
    d.interruptRoute = d := by
  have hparity : d.parityOf 43 = false := h
  simp only [Device.interruptRoute, hparity, Device.routeCycle_succ, htop, Bool.false_eq_true, if_false]

theorem Device.interruptRoute_some {n : Fin 512} {c : Fin 4} (h : d.intc.parity.getLsbD 43 = false)
    (htop : d.topSource (Bank.indices 4) = some (n, c, false)) :
    d.interruptRoute = (d.deliver n d.intc.src[n].priority.toNat c).routeCycle 3 ((Bank.indices 4).filter (· != c)) := by
  have hparity : d.parityOf 43 = false := h
  simp only [Device.interruptRoute, hparity, Device.routeCycle_succ, htop, Bool.false_eq_true, if_false]

theorem eoiSource_toNat (v : Word32) : (v.extractLsb' 0 9).toNat = v.toNat % 512 := by simp

/-- INTC_EOI that the top of the stack does not answer is an order fault: what was written and what the top holds go into the record. -/
def Device.orderFault (d : Device) (c : Fin 4) (v : Word32) (top : Nat) : Device :=
  (d.updIntc fun i => { i with faultOrder := true, orderCore := c }).logEvent 0x0A01 .error c.val
    (evData [(2, v.toNat % 512), (2, top)]) srcEvr

variable {c : Fin 4} {v : Word32} {e : InService}

theorem Device.eoi_top (htop : d.cores[c].stack.getLast? = some e) (hs : e.source = v.extractLsb' 0 9) :
    d.eoi c v = d.updCore c fun k => { k with stack := k.stack.dropLast } := by
  simp only [Device.eoi, htop, hs, if_true]

theorem Device.eoi_other (htop : d.cores[c].stack.getLast? = some e) (hs : e.source ≠ v.extractLsb' 0 9) :
    d.eoi c v = d.orderFault c v (e.source.toNat + 2 ^ 11 * e.level.toNat) := by
  simp only [Device.eoi, htop, if_neg hs, eoiSource_toNat]
  rfl

theorem Device.eoi_empty (h : d.cores[c].stack = []) : d.eoi c v = d.orderFault c v 0 := by
  simp only [Device.eoi, h, List.getLast?_nil, eoiSource_toNat]
  rfl

/-! #### The fault interrupt (R451) -/

theorem Device.faultDeliver_due (hc : d.faultCore = c) (hcause : (d.intc.faultOrder || d.intc.faultParity || d.intc.faultPost) = true)
    (hrun : d.cores[c].running = true) (hhalt : d.cores[c].debugHalted = false) (hserved : ∀ e ∈ d.cores[c].stack, e.level ≠ 16) :
    d.faultDeliver = d.deliver 0 16 c := by
  have hany : (d.cores[c].stack.any fun e => e.level == 16) = false := List.any_eq_false.2 fun e he => by simpa using hserved e he
  simp only [Device.faultDeliver, hc, hcause, hrun, hhalt, hany, Bool.not_false, Bool.and_self, if_true]

theorem Device.faultDeliver_noCause (hcause : (d.intc.faultOrder || d.intc.faultParity || d.intc.faultPost) = false) :
    d.faultDeliver = d := by
  simp only [Device.faultDeliver, hcause, Bool.false_and, Bool.false_eq_true, if_false]

theorem Device.faultDeliver_inService (hc : d.faultCore = c) (hserved : ∃ e ∈ d.cores[c].stack, e.level = 16) : d.faultDeliver = d := by
  have hany : (d.cores[c].stack.any fun e => e.level == 16) = true := by
    obtain ⟨e, he, hlevel⟩ := hserved
    exact List.any_eq_true.2 ⟨e, he, beq_iff_eq.2 hlevel⟩
  simp only [Device.faultDeliver, hc, hany, Bool.not_true, Bool.and_false, Bool.false_eq_true, if_false]

/-! #### INTC_SWSET (R469) -/

theorem Intc.setSoftware_hardware (i : Intc) (h : v.toNat % 512 < 256) : i.setSoftware v = i :=
  if_pos ((eoiSource_toNat v).symm ▸ h)

theorem Intc.setSoftware_software (i : Intc) {n : Fin 512} (hn : v.toNat % 512 = n.val) (h : 256 ≤ n.val) :
    i.setSoftware v = { i with src := Bank.upd i.src n fun x => { x with pend := true } } := by
  obtain rfl : n = ⟨(v.extractLsb' 0 9).toNat, (v.extractLsb' 0 9).isLt⟩ := Fin.ext (hn.symm.trans (eoiSource_toNat v).symm)
  exact if_neg (Nat.not_lt.2 h)

/-! #### A core's own interrupts and faults (R443, R444) -/

theorem Device.mtimer_notDue (h : d.tb.now.toNat < d.cores[c].mtimecmp.toNat) :
    d.mtimer c = d.updCore c fun k => { k with mtip := false } := by
  simp only [Device.mtimer, decide_eq_false (Nat.not_le.2 h), Bool.false_and, Bool.false_eq_true, if_false]

theorem Device.mtimer_held (h : d.cores[c].mtimecmp.toNat ≤ d.tb.now.toNat) (hheld : (d.cores[c].mtie && d.cores[c].takes) = false) :
    d.mtimer c = d.updCore c fun k => { k with mtip := true } := by
  simp only [Device.mtimer, decide_eq_true h, Bool.true_and]
  exact Device.updCore_congr (if_neg (ne_true_of_eq_false hheld))

theorem Device.mtimer_taken (h : d.cores[c].mtimecmp.toNat ≤ d.tb.now.toNat) (hen : d.cores[c].mtie = true)
    (htakes : d.cores[c].takes = true) :
    d.mtimer c = d.updCore c fun k => Core.takeLocal { k with mtip := true } 7 := by
  simp only [Device.mtimer, decide_eq_true h, Bool.true_and]
  exact Device.updCore_congr (if_pos (Bool.and_eq_true_iff.2 ⟨hen, htakes⟩))

theorem Device.msipWrite_held {b : Bool} (hheld : (b && d.cores[c].msie && d.cores[c].takes) = false) :
    d.msipWrite c b = d.updCore c fun k => { k with msip := b } :=
  Device.updCore_congr (if_neg (ne_true_of_eq_false hheld))

theorem Device.msipWrite_taken (hen : d.cores[c].msie = true) (htakes : d.cores[c].takes = true) :
    d.msipWrite c true = d.updCore c fun k => Core.takeLocal { k with msip := true } 3 :=
  Device.updCore_congr (if_pos (Bool.and_eq_true_iff.2 ⟨hen, htakes⟩))

theorem Device.accessFault_runs (kind : CoreAccess) (a : Word64) (hrun : d.cores[c].running = true)
    (hhalt : d.cores[c].debugHalted = false) :
    d.accessFault c kind a =
      d.updCore c fun k => k.enter (BitVec.ofNat 64 (coreCause kind)) a (mtvecTarget k.mtvec false (coreCause kind)) :=
  Device.updCore_congr (if_pos (by simp only [hrun, hhalt, Bool.not_false, Bool.and_self]))

theorem Device.coreAccess_faults {kind : CoreAccess} {a : Word64} (h : coreGrants kind a.toNat = false) (hrun : d.cores[c].running = true)
    (hhalt : d.cores[c].debugHalted = false) :
    d.coreAccess c kind a =
      d.updCore c fun k => k.enter (BitVec.ofNat 64 (coreCause kind)) a (mtvecTarget k.mtvec false (coreCause kind)) :=
  (if_neg (ne_true_of_eq_false h)).trans (Device.accessFault_runs kind a hrun hhalt)

theorem Device.coreAccess_idle {kind : CoreAccess} {a : Word64} (h : coreGrants kind a.toNat = true ∨ d.cores[c].running = false) :
    d.coreAccess c kind a = d := by
  unfold Device.coreAccess
  split
  · rfl
  · next hgrants =>
    exact Device.updCore_eq_self (if_neg (by simp only [h.resolve_left hgrants, Bool.false_and, Bool.false_eq_true, not_false_eq_true]))

end

/-- Settles O41: each row is exec's function for it, and the function is one of the equations above; the map's ranges are intervals, and the
source that is routed is the first in a rising order of sources. -/
theorem interruptRowsComplete : Obligations.InterruptRowsComplete := by
  refine ⟨fun s hl => ?_, fun a => ⟨coreGrants_fetch a, coreGrants_load_of_store, coreGrants_readOnly, coreGrants_registers⟩,
    fun d free n c tie htop => ?_⟩
  · refine ⟨fun a => ?_, fun n a hn hedge => ?_, fun n a hn hlevel => ?_, fun hparity => ?_, fun hparity htop => ?_,
      fun n c hparity htop => ?_, fun c v e htop => ⟨fun hs => ?_, fun hs => ?_⟩, fun c v hempty => ?_,
      fun c hc => ⟨fun hcause hrun hhalt hserved => ?_, fun hcause => ?_, fun hserved => ?_⟩,
      fun req hw => ⟨fun v => ?_, fun v hv => ?_, fun v n hn hv => ?_⟩, fun c => ⟨fun h => ?_, fun h hheld => ?_, fun h hen htakes => ?_,
        fun v hheld => ?_, fun hen htakes => ?_, fun kind a hgrants hrun hhalt => ?_, fun kind a h => ?_⟩⟩
    · exact .of_act (Device.senseChange 0 a) hl rfl (Device.senseChange_noLine a)
    · exact .of_act (Device.senseChange n a) hl rfl (Device.senseChange_edge a hn hedge)
    · exact .of_act (Device.senseChange n a) hl rfl (Device.senseChange_level a hn hlevel)
    · exact .of_act Device.interruptRoute hl rfl (Device.interruptRoute_parity hparity)
    · exact .of_act Device.interruptRoute hl rfl (Device.interruptRoute_none hparity htop)
    · exact .of_act Device.interruptRoute hl rfl (Device.interruptRoute_some hparity htop)
    · exact .of_act (Device.eoi c v) hl rfl (Device.eoi_top htop hs)
    · exact .of_act (Device.eoi c v) hl rfl (Device.eoi_other htop hs)
    · exact .of_act (Device.eoi c v) hl rfl (Device.eoi_empty hempty)
    · exact .of_act Device.faultDeliver hl rfl (Device.faultDeliver_due hc hcause hrun hhalt hserved)
    · exact .of_act Device.faultDeliver hl rfl (Device.faultDeliver_noCause hcause)
    · exact .of_act Device.faultDeliver hl rfl (Device.faultDeliver_inService hc hserved)
    · exact .of_write _ (Device.updIntc · (Intc.clearFault v)) hl hw rfl rfl
    · exact .of_write _ (Device.updIntc · (Intc.setSoftware v)) hl hw rfl
        (congrArg (fun i => { s.dev.fresh with intc := i }) (Intc.setSoftware_hardware _ hv))
    · exact .of_write _ (Device.updIntc · (Intc.setSoftware v)) hl hw rfl
        (congrArg (fun i => { s.dev.fresh with intc := i }) (Intc.setSoftware_software _ hn hv))
    · exact .of_act (Device.mtimer c) hl rfl (Device.mtimer_notDue h)
    · exact .of_act (Device.mtimer c) hl rfl (Device.mtimer_held h hheld)
    · exact .of_act (Device.mtimer c) hl rfl (Device.mtimer_taken h hen htakes)
    · exact .of_act (Device.msipWrite c v) hl rfl (Device.msipWrite_held hheld)
    · exact .of_act (Device.msipWrite c true) hl rfl (Device.msipWrite_taken hen htakes)
    · exact .of_act (Device.coreAccess c kind a) hl rfl (Device.coreAccess_faults hgrants hrun hhalt)
    · exact .of_act (Device.coreAccess c kind a) hl rfl (Device.coreAccess_idle h)
  · obtain ⟨hzero, hpend, hfree, hel, hprio, hleast, hrank⟩ := Device.topSource_spec htop
    exact ⟨hzero, hpend, hfree, hel, hprio, hleast, fun m hm hmpend hmel => hrank m ⟨hm, hmpend, hmel⟩⟩

end Sys2Proof.Machine
end

section
/-! POWER_ON_RESET, POWER_LOSS, SYSRST_N, CONTAINMENT_RESET and BOOT_READY (R472-R474, R488-R490, R526, R528): what each makes of a device, and
what leaving a reset changes. -/

namespace Sys2Proof.Machine

section
variable (d : Device)

/-! ### Leaving a reset (R426, R427, R488, R528) -/

/-- What leaving a reset may write: the recorder, the interrupt controller, the time base, what Bellows samples, and the messages. -/
def Device.leaveWith (evr : Evr) (intc : Intc) (tb : TimeBase) (brake fail : Bool) (out : List Output) : Device :=
  { d with evr := evr, intc := intc, tb := tb, bel := { d.bel with brake := brake, powerFail := fail }, out := out }

/-- Whatever reads none of that is kept as the device leaves its reset. -/
theorem Device.leaveReset_keeps {β : Type} (π : Device → β)
    (h : ∀ (d : Device) evr intc tb brake fail out, π (d.leaveWith evr intc tb brake fail out) = π d) : π d.leaveReset = π d := by
  have hlog (d : Device) (code : Nat) (sev : Severity) (source data key : Nat) : π (d.logEvent code sev source data key) = π d := by
    rw [Device.logEvent_frame]
    exact h d _ _ d.tb d.bel.brake d.bel.powerFail d.out
  have hpins (d : Device) : π d.samplePins = π d := by
    simp only [Device.samplePins]
    split
    · exact (hlog ..).trans (h d d.evr d.intc d.tb _ _ d.out)
    · exact h d d.evr d.intc d.tb _ _ d.out
  have htrain (d : Device) : π d.beginTraining = π d := h d d.evr d.intc d.tb d.bel.brake d.bel.powerFail _
  unfold Device.leaveReset
  split
  · rfl
  · refine (htrain _).trans ((hpins _).trans ?_)
    split
    · exact (hlog ..).trans ((h _ _ _ _ _ _ _).trans (hlog ..))
    · exact hlog ..

/-- No excursion lasts: the time base is left as it is. -/
theorem Device.leaveReset_tb_steady (h : d.tb.excursion = false) : d.leaveReset.tb = d.tb := by
  have hlog : (d.logEvent 0x0B04 .info 0 0 srcSecurity).tb.excursion = false := by rw [Device.logEvent_tb, h]
  simp only [Device.leaveReset, hlog, Bool.false_eq_true, if_false]
  split <;> simp

/-- The whole of leaving a reset, where nothing lasts and no pin is low. -/
theorem Device.leaveReset_quiet (hreset : d.pins.inReset = false) (hexc : d.tb.excursion = false) (hbrake : d.pins.pwrbrakeLow = false)
    (hfail : d.pins.pwrfailLow = false) : d.leaveReset =
      { d.logEvent 0x0B04 .info 0 0 srcSecurity with
        bel := { d.bel with brake := false, powerFail := false }
        out := d.out ++ (([0, 1] : List (Fin 2)).filter fun p => !d.ports[p].perst).map .pcieTraining } := by
  have hpowered : d.leaveReset = (d.logEvent 0x0B04 .info 0 0 srcSecurity).samplePins.beginTraining := by
    have hlog : (d.logEvent 0x0B04 .info 0 0 srcSecurity).tb.excursion = false := by rw [Device.logEvent_tb, hexc]
    simp only [Device.leaveReset, hreset, hlog, Bool.false_eq_true, if_false]
  obtain ⟨evr, src, hlog⟩ : ∃ evr src, d.logEvent 0x0B04 .info 0 0 srcSecurity = { d with evr := evr, intc := { d.intc with src := src } } :=
    ⟨_, _, Device.logEvent_frame ..⟩
  rw [hpowered, hlog]
  simp only [Device.samplePins, hbrake, hfail, Bool.false_eq_true, if_false]
  rfl

/-! ### What a reset keeps of the pins (R489) -/

@[simp] theorem Device.msix_pins (p : Fin 2) (v : BitVec 8) : (d.msix p v).pins = d.pins := by rw [Device.msix_frame]

@[simp] theorem Device.logEvent_pins (code : Nat) (sev : Severity) (source data key : Nat) :
    (d.logEvent code sev source data key).pins = d.pins := by rw [Device.logEvent_frame]

@[simp] theorem Device.reply_pins (c : OpenCmd) (r : Reply) : (d.reply c r).pins = d.pins := by rw [Device.reply_frame]

@[simp] theorem Device.ok_pins (c : OpenCmd) (result : Nat) : (d.ok c result).pins = d.pins := d.reply_pins ..

@[simp] theorem Device.recordNew_pins (o : Occurrence) : (d.recordNew o).pins = d.pins := by
  simp only [Device.recordNew]
  (repeat' split) <;> simp

@[simp] theorem Device.foldInto_pins (i : Nat) (o : Occurrence) : (d.foldInto i o).pins = d.pins := by
  fun_cases Device.foldInto <;> simp

@[simp] theorem Device.evrAgain_pins (o : Occurrence) : (d.evrAgain o).pins = d.pins := by fun_cases Device.evrAgain <;> simp

@[simp] theorem Device.evrTake_pins (o : Occurrence) : (d.evrTake o).pins = d.pins := by fun_cases Device.evrTake <;> simp

@[simp] theorem Device.evrStep_pins : d.evrStep.pins = d.pins := by fun_cases Device.evrStep <;> simp

@[simp] theorem Device.evrDrain_pins : d.evrDrain.pins = d.pins := foldl_keeps Device.pins _ (fun e _ => e.evrStep_pins) _ d

@[simp] theorem Device.seedCommitHead_pins (o : SeedOp) (rest : List SeedOp) : (d.seedCommitHead o rest).pins = d.pins := by
  simp only [Device.seedCommitHead]
  (repeat' split) <;> simp

@[simp] theorem Device.seedCommit_pins : d.seedCommit.pins = d.pins := by fun_cases Device.seedCommit <;> simp

@[simp] theorem Device.leaveReset_pins : d.leaveReset.pins = d.pins := d.leaveReset_keeps Device.pins fun _ _ _ _ _ _ _ => rfl

/-- A reset made while SYSRST_N is low is held until its release (R526). -/
theorem Device.resetTo_inReset (kind : BitVec 2) : (d.resetTo kind).pins.inReset = d.pins.sysrstLow := by
  rw [Device.resetTo, Device.leaveReset_pins]
  simp [Device.loadSeed]

/-! ### What starting up gives (R472, R490) -/

/-- What start-up leaves of a field that leaving a reset does not write. -/
theorem Device.startUp_keeps {β : Type} (π : Device → β)
    (h : ∀ (d : Device) evr intc tb brake fail out, π (d.leaveWith evr intc tb brake fail out) = π d) :
    π d.startUp = π ({ Device.powerOn d.seed with
      pins := d.pins.afterPower true, ports := Vector.ofFn fun p => (d.ports[p]).afterReset p, free := d.free, out := d.out }).loadSeed :=
  Device.leaveReset_keeps _ π h

theorem Device.startUp_tb : d.startUp.tb = {} := Device.leaveReset_tb_steady _ rfl

end

/-! ### Resets that wait, and the end of start-up -/

section
variable {d : Device}

theorem Device.containmentReset_due (hpending : d.sec.containmentPending = true)
    (h : d.lastWordsOver = true ∨ lastWordsWait ≤ (d.tb.now - d.sec.containmentSince).toNat) : d.containmentReset = d.resetTo 3 :=
  if_pos (by simpa [hpending] using h)

theorem Device.containmentReset_waits (hwords : d.lastWordsOver = false)
    (h : (d.tb.now - d.sec.containmentSince).toNat < lastWordsWait) : d.containmentReset = d :=
  if_neg (by simpa [hwords] using fun _ => h)

theorem Device.containmentReset_none (h : d.sec.containmentPending = false) : d.containmentReset = d := if_neg (by simp [h])

theorem Device.bootReady_ready (hready : d.sec.ready = false) (hfail : d.pins.startFail = false) (hstack : d.sec.stackFail = 0)
    (htrained : ∀ k : Fin 20, d.mem.hbm[k].trained = true) :
    d.bootReady 0 = { d with sec := { d.sec with ready := true } } := by
  have hall : ((Bank.indices 20).all fun k => d.mem.hbm[k].trained) = true := List.all_eq_true.2 fun k _ => htrained k
  simp only [Device.bootReady, hready, hfail, hstack, hall, Bool.or_self, Bool.false_eq_true, if_false, ne_eq, not_true_eq_false, or_self,
    if_true]

theorem Device.bootReady_fails {dies : BitVec 26} (hready : d.sec.ready = false) (hfail : d.pins.startFail = false)
    (h : dies ≠ 0 ∨ d.sec.stackFail ≠ 0) : d.bootReady dies =
      { d with sec := { d.sec with dieFail := dies }, pins := { d.pins with startFail := true } }.logEvent 0x0B03 .fatal 0
        (dies.toNat + 2 ^ 26 * d.sec.stackFail.toNat) srcSecurity := by
  simp only [Device.bootReady, hready, hfail, Bool.or_self, Bool.false_eq_true, if_false, if_pos h]

/-! ### SYSRST_N (R526) -/

theorem Device.sysrstAssert_powered (hpowered : d.pins.powered = true) (htrip : d.pins.tripped = false) (hhigh : d.pins.sysrstLow = false) :
    d.sysrstAssert = Device.resetTo 1 { d with pins := { d.pins with sysrstLow := true } } := by
  simp [Device.sysrstAssert, hpowered, htrip, hhigh]

theorem Device.sysrstAssert_notPowered (h : d.pins.powered = false ∨ d.pins.tripped = true) :
    d.sysrstAssert = { d with pins := { d.pins with sysrstLow := true } } :=
  if_neg (by rcases h with h | h <;> simp [h])

end

/-- `RunsAlways` from the function that a row of power acts by. -/
theorem RunsAlways.of_actAlways {c : Instr} {s : State} {f : Device → Device} (g : Device → Device) (he : exec c s = s.actAlways g)
    (hg : g s.dev.fresh = f s.dev.fresh) : RunsAlways c s f := by
  rw [RunsAlways, he, State.actAlways, hg]

/-- Settles O4: each row is exec's function for it, and start-up and power loss are the device after power-on with what they keep. -/
theorem powerAndResetCommandsComplete : Obligations.PowerAndResetCommandsComplete := by
  refine ⟨fun s => ⟨fun hoff => ⟨?_, ?_⟩, fun hon => ⟨?_, fun pins => ⟨rfl, rfl, rfl, rfl, rfl⟩⟩, fun hon => ?_, fun hoff => ?_⟩,
    fun s => ⟨fun hon htrip hhigh => ⟨?_, fun d => Device.resetTo_inReset ..⟩, fun h => ?_, fun hheld => ?_, fun hheld => ?_,
      fun d => d.leaveReset_quiet, fun hl hpending h => ?_, fun hl hwords h => ?_, fun hl hnone => ?_,
      fun hl hready hfail hstack htrained => ?_, fun dies hl hready hfail h => ?_⟩⟩
  · exact .of_actAlways Device.powerOnReset rfl (if_neg (ne_true_of_eq_false hoff))
  · have hkeeps {β : Type} (π : Device → β) := s.dev.startUp_keeps π
    exact ⟨hkeeps Device.seed fun _ _ _ _ _ _ _ => rfl, s.dev.startUp_tb, hkeeps (·.bel.board) fun _ _ _ _ _ _ _ => rfl,
      hkeeps Device.mem fun _ _ _ _ _ _ _ => rfl, hkeeps Device.progs fun _ _ _ _ _ _ _ => rfl,
      hkeeps Device.cores fun _ _ _ _ _ _ _ => rfl, hkeeps Device.sec fun _ _ _ _ _ _ _ => rfl,
      hkeeps Device.admin fun _ _ _ _ _ _ _ => rfl, hkeeps (·.pins.powered) fun _ _ _ _ _ _ _ => rfl⟩
  · exact .of_actAlways Device.powerLoss rfl (if_pos hon)
  · exact .of_actAlways Device.powerOnReset rfl (if_pos hon)
  · exact .of_actAlways Device.powerLoss rfl (if_neg (ne_true_of_eq_false hoff))
  · exact .of_actAlways Device.sysrstAssert rfl (Device.sysrstAssert_powered (d := s.dev.fresh) hon htrip hhigh)
  · exact .of_actAlways Device.sysrstAssert rfl (Device.sysrstAssert_notPowered (d := s.dev.fresh) h)
  · exact .of_actAlways Device.sysrstRelease rfl (if_neg (ne_true_of_eq_false hheld))
  · exact .of_actAlways Device.sysrstRelease rfl (if_pos hheld)
  · exact .of_act Device.containmentReset hl rfl (Device.containmentReset_due (d := s.dev.fresh) hpending h)
  · exact .of_act Device.containmentReset hl rfl (Device.containmentReset_waits (d := s.dev.fresh) hwords h)
  · exact .of_act Device.containmentReset hl rfl (Device.containmentReset_none (d := s.dev.fresh) hnone)
  · exact .of_act (Device.bootReady 0) hl rfl (Device.bootReady_ready (d := s.dev.fresh) hready hfail hstack htrained)
  · exact .of_act (Device.bootReady dies) hl rfl (Device.bootReady_fails (d := s.dev.fresh) hready hfail h)

end Sys2Proof.Machine
end

section
/-! Register writes that their requester may not make (R507). -/

namespace Sys2Proof.Machine

section
variable {d : Device} {off : Nat} {own : Option (Fin 2)} {p : Fin 2} (f : Device → Device)

theorem Device.writeBy_linkDown (h : d.linkUp p = false) : d.writeBy (.port p) off own f = d := by simp [Device.writeBy, h]

/-- A port that is neither the admin port nor the register's own has its write discarded, reported and logged. -/
theorem Device.writeBy_refused (hup : d.linkUp p = true) (hadmin : d.isAdmin p = false) (hown : own ≠ some p) :
    d.writeBy (.port p) off own f = (d.emit (.aerCompleterAbort p)).logEvent 0x0A05 .warn off p.val (srcIntake p) := by
  simp [Device.writeBy, hup, hadmin, hown]

end

/-- A row of a register write acts by a write to the register it names. -/
theorem exec_of_writtenRegister {c : Instr} {req : Requester} {off : Nat} {own : Option (Fin 2)}
    (h : writtenRegister c = some (req, off, own)) :
    ∃ g : Device → Device → Device, ∀ s, exec c s = s.act fun d => d.writeBy req off own (g d) := by
  unfold writtenRegister at h
  split at h <;> cases h <;> exact ⟨_, fun s => by rw [exec]; exact congrArg (State.act · s) (funext fun _ => rfl)⟩

/-- Settles O55: every row of a register write goes through the one check of its requester. -/
theorem refusedWritesChangeNothing : Obligations.RefusedWritesChangeNothing := by
  intro s c req off own hl hreg
  obtain ⟨g, hg⟩ := exec_of_writtenRegister hreg
  refine ⟨?_, ?_, ?_⟩
  · rintro (rfl | rfl)
    · exact .of_act _ hl (hg s) rfl
    · exact .of_act _ hl (hg s) rfl
  · rintro p rfl hdown
    exact .of_act _ hl (hg s) (Device.writeBy_linkDown (d := s.dev.fresh) _ hdown)
  · rintro p rfl hup hadmin hown
    exact .of_act _ hl (hg s) (Device.writeBy_refused (d := s.dev.fresh) _ hup hadmin hown)

end Sys2Proof.Machine
end

section
/-! The control cores across a reset and under CC_RUN (R442). -/

namespace Sys2Proof.Machine

section
variable (d : Device)

/-! ### After a reset -/

theorem Device.leaveReset_cores : d.leaveReset.cores = d.cores := d.leaveReset_keeps Device.cores fun _ _ _ _ _ _ _ => rfl

theorem Device.resetTo_cores (kind : BitVec 2) : (d.resetTo kind).cores = resetCores := by
  rw [Device.resetTo, Device.leaveReset_cores]
  rfl

theorem Device.startUp_cores : d.startUp.cores = resetCores := by
  rw [Device.startUp, Device.leaveReset_cores]
  rfl

/-- The cores as a reset leaves them: CC0 begins at address 0, and no other runs. -/
theorem resetCores_start : (resetCores[(0 : Fin 4)]).running = true ∧ (resetCores[(0 : Fin 4)]).pc = 0
    ∧ ∀ c : Fin 4, c ≠ 0 → (resetCores[c]).running = false := by decide +kernel

/-! ### CC_RUN -/

/-- What CC_RUN's bit makes of its core. -/
def Core.run (k : Core) (entry : Word64) (bit : Bool) : Core :=
  if bit then (if k.running then k else { k with running := true, pc := entry })
  else { threshold := k.threshold, postImage := k.postImage, postWritten := k.postWritten }

theorem Device.runBit_zero (v : Word32) : d.runBit v 0 = d := rfl

theorem Device.runBit_eq (v : Word32) {c : Fin 4} (hc : c ≠ 0) :
    d.runBit v c = d.updCore c fun k => k.run d.intc.entry (v.getLsbD c.val) := by
  have hc' : c.val ≠ 0 := fun h => hc (Fin.ext h)
  simp only [Device.runBit, if_neg hc', Core.run]
  split <;> rfl

/-- CC_RUN written: each core but CC0 follows its bit. -/
def Device.runAll (v : Word32) : Device := (Bank.indices 4).foldl (Device.runBit v) d

theorem Device.runAll_eq (v : Word32) : d.runAll v =
    ((d.updCore 1 (·.run d.intc.entry (v.getLsbD 1))).updCore 2 (·.run d.intc.entry (v.getLsbD 2))).updCore 3
      (·.run d.intc.entry (v.getLsbD 3)) := by
  have hfold : d.runAll v = (((d.runBit v 0).runBit v 1).runBit v 2).runBit v 3 := rfl
  rw [hfold, Device.runBit_zero, Device.runBit_eq _ _ (c := 1) (by decide), Device.runBit_eq _ _ (c := 2) (by decide),
    Device.runBit_eq _ _ (c := 3) (by decide)]
  rfl

theorem Device.runAll_cores (v : Word32) (c : Fin 4) :
    (d.runAll v).cores[c] = if c = 0 then d.cores[c] else d.cores[c].run d.intc.entry (v.getLsbD c.val) := by
  rw [Device.runAll_eq]
  simp only [Device.updCore_cores, Bank.upd_get]
  match c with
  | 0 => rfl
  | 1 => rfl
  | 2 => rfl
  | 3 => rfl

@[simp] theorem Device.settle_cores (old : Device) : (old.settle d).cores = d.cores := by
  obtain ⟨src, alert, hsettle, -⟩ := old.settle_frame d
  rw [hsettle]

end

/-- Settles O58: a reset gives the cores their reset values, and CC_RUN gives each core what its bit says. -/
theorem coresStartAndStop : Obligations.CoresStartAndStop := by
  refine ⟨fun d kind => ?_, fun d => ?_, fun s req v hl hw => ?_⟩
  · rw [Device.resetTo_cores]
    exact resetCores_start
  · rw [Device.startUp_cores]
    exact resetCores_start
  · have hruns : Runs (.ccRunWrite req v) s fun d => d.runAll v := .of_write _ (Device.runAll · v) hl hw rfl rfl
    have hcore (c : Fin 4) : (s.after (s.dev.fresh.runAll v)).dev.cores[c] = _ :=
      (congrArg (fun b : Vector Core 4 => b[c]) (Device.settle_cores ..)).trans (s.dev.fresh.runAll_cores v c)
    refine ⟨_, hruns, (hcore 0).trans (if_pos rfl), fun c hc hbit => ?_, fun c hc hbit hstop => ?_, fun c hc hbit hrun => ?_⟩
    · rw [hcore, if_neg hc, hbit]
      rfl
    · rw [hcore, if_neg hc, hbit]
      exact if_neg (ne_true_of_eq_false hstop)
    · rw [hcore, if_neg hc, hbit]
      exact if_pos hrun

end Sys2Proof.Machine
end

section
/-! SVN_INCREMENT and the images that may start (R476, R482), and what replies and events leave of the start-up and of the Seedbank. -/

namespace Sys2Proof.Machine

/-! ### Replies and events leave the start-up and the Seedbank as they are -/

section
variable (d : Device)

@[simp] theorem Device.logEvent_sec (code : Nat) (sev : Severity) (source data key : Nat) :
    (d.logEvent code sev source data key).sec = d.sec := by rw [Device.logEvent_frame]

@[simp] theorem Device.logEvent_seed (code : Nat) (sev : Severity) (source data key : Nat) :
    (d.logEvent code sev source data key).seed = d.seed := by rw [Device.logEvent_frame]

@[simp] theorem Device.writeReply_sec (p : Fin 2) (noIrq : Bool) (r : Reply) : (d.writeReply p noIrq r).sec = d.sec := by
  rw [Device.writeReply_frame]

@[simp] theorem Device.writeReply_seed (p : Fin 2) (noIrq : Bool) (r : Reply) : (d.writeReply p noIrq r).seed = d.seed := by
  rw [Device.writeReply_frame]

@[simp] theorem Device.reply_sec (c : OpenCmd) (r : Reply) : (d.reply c r).sec = d.sec := by rw [Device.reply_frame]

@[simp] theorem Device.reply_seed (c : OpenCmd) (r : Reply) : (d.reply c r).seed = d.seed := by rw [Device.reply_frame]

@[simp] theorem Device.finish_sec (c : OpenCmd) (st : Status) (result : Nat) : (d.finish c st result).sec = d.sec := d.reply_sec ..

@[simp] theorem Device.finish_seed (c : OpenCmd) (st : Status) (result : Nat) : (d.finish c st result).seed = d.seed := d.reply_seed ..

@[simp] theorem Device.ok_sec (c : OpenCmd) (result : Nat) : (d.ok c result).sec = d.sec := d.reply_sec ..

@[simp] theorem Device.ok_seed (c : OpenCmd) (result : Nat) : (d.ok c result).seed = d.seed := d.reply_seed ..

@[simp] theorem Device.refuseTime_sec (c : OpenCmd) (why : RefusalReason) : (d.refuseTime c why).sec = d.sec := Device.reply_sec ..

@[simp] theorem Device.replayPacket_sec (h : CmdHdr) (op : Word16) (orig : ReplayRec) : (d.replayPacket h op orig).sec = d.sec := by
  simp only [Device.replayPacket, Device.remember, Device.writeReply_sec, Device.updPort_sec]
  split <;> simp

@[simp] theorem Device.settle_sec (old : Device) : (old.settle d).sec = d.sec := by
  obtain ⟨src, alert, hsettle, -⟩ := old.settle_frame d
  rw [hsettle]

end

/-! ### A dispatched packet -/

/-- A packet leaves the start-up as it is, unless its command's body runs. -/
theorem Device.command_sec_or_body (d : Device) (op : Word16) (h : CmdHdr) (body : OpenCmd → Device → Device) :
    (d.command op h body).sec = d.sec ∨ d.command op h body = body ⟨h, op⟩ (d.openCommand op h) := by
  unfold Device.command Device.dispatch
  split
  · exact .inl rfl
  split
  · exact .inl (by simp)
  simp only
  split
  · exact .inl (by simp)
  (repeat' split) <;> first | exact .inr rfl | exact .inl (by simp)

/-- An image starts on a device that does not run one only past the check that it is not rolled back (R476). -/
theorem Device.fwStartRun_svn {d : Device} {total : Nat} {c : OpenCmd} (hstate : d.sec.state ≠ .running)
    (hrun : (d.fwStartRun total c).sec.state = .running) : d.seed.svn ≤ fieldAt (d.sec.image.map Prod.snd) 8 4 := by
  unfold Device.fwStartRun Device.startImage at hrun
  split at hrun
  · rw [Device.finish_sec] at hrun
    exact absurd hrun hstate
  split at hrun
  · next hfault =>
    obtain ⟨-, -, -, -, -, -, -, -, hsvn, -⟩ := (Device.imageFault_eq_none d _).1 hfault
    exact hsvn
  · simp [Security.discardImage] at hrun

/-! ### SVN_INCREMENT (R482) -/

/-- A committed SVN_INCREMENT raises the counter by one. -/
theorem Device.seedCommitHead_svn (d : Device) {o : SeedOp} (rest : List SeedOp) (h : o.write = .svn) :
    (d.seedCommitHead o rest).seed.svn = d.seed.svn + 1 := by
  simp only [Device.seedCommitHead, h, SeedWrite.isLastWords, Seedbank.apply, Bool.false_eq_true, if_false]
  split <;> simp

/-- Settles O57: the command meets its one check before the write is asked for, the commit adds 1, and the check of R476 that an image is
not rolled back stands before every start. -/
theorem svnIncrementRaisesTheCounter : Obligations.SvnIncrementRaisesTheCounter := by
  refine ⟨fun s h hl hpass => ⟨fun hle => ?_, fun hlt => ?_⟩, fun d o rest h => d.seedCommitHead_svn rest h,
    fun s t h length hl hstate hexec hrun => ?_⟩
  · exact .of_adminCommand _ hl hpass rfl (if_neg (Nat.not_lt.2 hle))
  · exact .of_adminCommand _ hl hpass rfl (if_pos hlt)
  · have ht : t = s.after (s.dev.fresh.fwStart h length) := Host.Outcome.next.inj (hexec.symm.trans (State.act_live hl))
    rw [ht, State.after, Device.settle_sec, Device.fwStart_eq] at hrun
    obtain hsame | hbody := s.dev.fresh.command_sec_or_body 0x0011 h (Device.fwStartRun length.toNat)
    · exact absurd (hsame ▸ hrun) hstate
    · rw [hbody] at hrun
      exact Device.fwStartRun_svn (d := s.dev.fresh.openCommand 0x0011 h) hstate hrun

end Sys2Proof.Machine
end

section
/-! The integrity commands (R387, R404, R407, R409-R411): what each makes of a device on which its packet has passed the checks. -/

namespace Sys2Proof.Machine

/-! ### A command that names a program slot (R148) -/

section
variable {d : Device} {c : OpenCmd} {prog : BitVec 8} {k : Fin 16} {p : Program} (hk : prog.toNat = k.val) (hp : d.progs[k] = some p)
include hk hp

theorem Device.slotFault_owned {account : BitVec 6} (ha : p.account = account) : d.slotFault prog account = none := by
  simp only [Device.slotFault, asFin_eq_some hk, hp, ha, if_true]

theorem Device.slotRunning_loaded : d.slotRunning prog = (p.state == .running) := by
  simp only [Device.slotRunning, asFin_eq_some hk, hp, Option.any_some]

variable (ha : p.account = c.hdr.account) (f : Program → Program)
include ha

theorem Device.slotSetting_stopped (hstate : p.state ≠ .running) : d.slotSetting c prog f = (d.updProg k f).ok c := by
  have hstopped : (p.state == .running) = false := beq_eq_false_iff_ne.2 hstate
  simp only [Device.slotSetting, Device.slotFault_owned hk hp ha, Device.slotRunning_loaded hk hp, hstopped, asFin_eq_some hk,
    Bool.false_eq_true, if_false]

theorem Device.slotSetting_running (hstate : p.state = .running) : d.slotSetting c prog f = d.finish c .busy := by
  simp only [Device.slotSetting, Device.slotFault_owned hk hp ha, Device.slotRunning_loaded hk hp, hstate, BEq.rfl, if_true]

end

/-! ### INTEG_QUERY (R411) -/

/-- What INTEG_QUERY answers, once its packet has passed the checks. -/
def Device.integQueryRun (array prog : BitVec 8) (c : OpenCmd) (d : Device) : Device :=
  match asFin 8 array.toNat with
  | none => d.finish c .badParam
  | some n =>
    if prog = 0xFF then d.ok c (d.integWord n 0 0)
    else match d.slotFault prog c.hdr.account with
      | some st => d.finish c st
      | none =>
        match (asFin 16 prog.toNat).bind fun k => d.progs[k] with
        | some p => d.ok c (d.integWord n p.replayQ p.hallmarkK)
        | none => d.finish c .badParam

section
variable {d : Device} {c : OpenCmd} {array prog : BitVec 8} {n : Fin 8} (hn : array.toNat = n.val)
include hn

theorem Device.integQueryRun_device : d.integQueryRun array 0xFF c = d.ok c (d.integWord n 0 0) := by
  simp only [Device.integQueryRun, asFin_eq_some hn, if_true]

theorem Device.integQueryRun_program {k : Fin 16} {p : Program} (hk : prog.toNat = k.val) (hp : d.progs[k] = some p)
    (ha : p.account = c.hdr.account) : d.integQueryRun array prog c = d.ok c (d.integWord n p.replayQ p.hallmarkK) := by
  have hslot : prog ≠ 0xFF := by
    rintro rfl
    exact absurd (hk ▸ k.isLt) (by decide)
  simp only [Device.integQueryRun, asFin_eq_some hn, if_neg hslot, Device.slotFault_owned hk hp ha, asFin_eq_some hk, Option.bind_some, hp]

end

/-! ### ASSAY_RUN and REPAIR_COMMIT (R407, R409) -/

/-- What ASSAY_RUN makes of a device on which its packet has passed the checks. -/
def Device.assayRunRun (array mode : BitVec 8) (c : OpenCmd) (d : Device) : Device :=
  match asFin 8 array.toNat with
  | none => d.finish c .badParam
  | some n =>
    let r : AssayRun := { array := n, cmd := some c }
    if 1 < mode.toNat ∨ d.integ.pack.isNone then d.finish c .badParam
    else if d.integ.quarantine.getLsbD n.val ∨ (mode = 1 ∧ !d.arrays[n].quiesced) then d.finish c .busy
    else if mode = 1 then d.updInteg fun i => { i with atOnce := i.atOnce ++ [r] }
    else d.updInteg fun i => { i with asked := i.asked ++ [r] }

section
variable {d : Device} {c : OpenCmd} {array mode : BitVec 8} {n : Fin 8} (hn : array.toNat = n.val)
include hn

theorem Device.assayRunRun_noPack (hpack : d.integ.pack = none) : d.assayRunRun array mode c = d.finish c .badParam := by
  simp only [Device.assayRunRun, asFin_eq_some hn, hpack, Option.isNone_none, or_true, if_true]

variable (hpack : d.integ.pack.isSome = true) (hmode : mode.toNat ≤ 1)
include hpack hmode

theorem Device.assayRunRun_packed : d.assayRunRun array mode c =
    if d.integ.quarantine.getLsbD n.val ∨ (mode = 1 ∧ !d.arrays[n].quiesced) then d.finish c .busy
    else if mode = 1 then d.updInteg fun i => { i with atOnce := i.atOnce ++ [{ array := n, cmd := some c }] }
    else d.updInteg fun i => { i with asked := i.asked ++ [{ array := n, cmd := some c }] } := by
  have hheld : ¬ (1 < mode.toNat ∨ d.integ.pack.isNone) := by
    simpa [← Option.not_isSome, hpack] using hmode
  simp only [Device.assayRunRun, asFin_eq_some hn, if_neg hheld]

theorem Device.assayRunRun_busy (h : d.integ.quarantine.getLsbD n.val = true ∨ (mode = 1 ∧ d.arrays[n].quiesced = false)) :
    d.assayRunRun array mode c = d.finish c .busy :=
  (Device.assayRunRun_packed hn hpack hmode).trans (if_pos (h.imp_right fun ⟨hone, hq⟩ => ⟨hone, by rw [hq]; rfl⟩))

end

section
variable {d : Device} {c : OpenCmd} {array : BitVec 8} {n : Fin 8} (hn : array.toNat = n.val) (hpack : d.integ.pack.isSome = true)
  (hquar : d.integ.quarantine.getLsbD n.val = false)
include hn hpack hquar

theorem Device.assayRunRun_asked : d.assayRunRun array 0 c =
    d.updInteg fun i => { i with asked := i.asked ++ [{ array := n, cmd := some c }] } :=
  (Device.assayRunRun_packed hn hpack (by decide)).trans
    ((if_neg (by rintro (h | ⟨h, -⟩); exacts [ne_true_of_eq_false hquar h, absurd h (by decide)])).trans (if_neg (by decide)))

theorem Device.assayRunRun_atOnce (hq : d.arrays[n].quiesced = true) : d.assayRunRun array 1 c =
    d.updInteg fun i => { i with atOnce := i.atOnce ++ [{ array := n, cmd := some c }] } :=
  (Device.assayRunRun_packed hn hpack (by decide)).trans
    ((if_neg (by rintro (h | ⟨-, h⟩); exacts [ne_true_of_eq_false hquar h, absurd (hq ▸ h) (by decide)])).trans (if_pos rfl))

end

/-- What REPAIR_COMMIT makes of a device on which its packet has passed the checks. -/
def Device.repairCommitRun (array col : BitVec 8) (c : OpenCmd) (d : Device) : Device :=
  match asFin 8 array.toNat with
  | none => d.finish c .badParam
  | some n => if 100 < col.toNat ∧ col ≠ 0x7F then d.finish c .badParam else d.seedCommand c (.repair n (col.extractLsb' 0 7))

theorem Device.repairCommitRun_array {d : Device} {c : OpenCmd} {array col : BitVec 8} {n : Fin 8} (hn : array.toNat = n.val) :
    d.repairCommitRun array col c =
      if 100 < col.toNat ∧ col ≠ 0x7F then d.finish c .badParam else d.seedCommand c (.repair n (col.extractLsb' 0 7)) := by
  simp only [Device.repairCommitRun, asFin_eq_some hn]

/-! ### TWIN_SET and ASSAY_LOAD (R387, R404) -/

/-- What TWIN_SET makes of a device on which its packet has passed the checks. -/
def Device.twinSetRun (en : BitVec 8) (c : OpenCmd) (d : Device) : Device :=
  if 1 < en.toNat then d.finish c .badParam
  else if !d.twinFree (en == 1) then d.finish c .busy
  else (d.updInteg fun i => { i with twin := en == 1, pairs := Vector.replicate 4 .run }).ok c

theorem Device.twinSetRun_free {d : Device} {c : OpenCmd} {en : BitVec 8} (hen : en.toNat ≤ 1) (hfree : d.twinFree (en == 1) = true) :
    d.twinSetRun en c = (d.updInteg fun i => { i with twin := en == 1, pairs := Vector.replicate 4 .run }).ok c :=
  (if_neg (Nat.not_lt.2 hen)).trans (if_neg (by rw [hfree]; decide))

theorem Device.twinSetRun_held {d : Device} {c : OpenCmd} {en : BitVec 8} (hen : en.toNat ≤ 1) (hheld : d.twinFree (en == 1) = false) :
    d.twinSetRun en c = d.finish c .busy :=
  (if_neg (Nat.not_lt.2 hen)).trans (if_pos (by rw [hheld]; decide))

/-- What ASSAY_LOAD makes of a device on which its packet has passed the checks. -/
def Device.assayLoadRun (h : CmdHdr) (addr : Word64) (len : Word32) (c : OpenCmd) (d : Device) : Device :=
  if len.toNat % 8 ≠ 0 ∨ maxPack < len.toNat ∨ len.toNat < packFrame then d.finish c .badParam
  else if d.integ.running then d.finish c .busy
  else if !d.linkUp h.port then (d.dmaFailed h.port c).finish c .aborted
  else d.dmaIssue h.port addr len.toNat .assay c

section
variable {d : Device} {h : CmdHdr} {c : OpenCmd} {len : Word32} (addr : Word64)

theorem Device.assayLoadRun_badLength (hbad : len.toNat % 8 ≠ 0 ∨ len.toNat < 16672 ∨ 16777216 < len.toNat) :
    d.assayLoadRun h addr len c = d.finish c .badParam :=
  if_pos (hbad.imp_right Or.symm)

variable (hlen : len.toNat % 8 = 0) (hmin : 16672 ≤ len.toNat) (hmax : len.toNat ≤ 16777216)
include hlen hmin hmax

theorem Device.assayLoadRun_length : d.assayLoadRun h addr len c =
    if d.integ.running then d.finish c .busy
    else if !d.linkUp h.port then (d.dmaFailed h.port c).finish c .aborted
    else d.dmaIssue h.port addr len.toNat .assay c :=
  if_neg (by simp only [maxPack, packFrame, sigBytes]; omega)

theorem Device.assayLoadRun_fetch (hrun : d.integ.running = false) (hup : d.linkUp h.port = true) :
    d.assayLoadRun h addr len c = d.dmaIssue h.port addr len.toNat .assay c :=
  (Device.assayLoadRun_length addr hlen hmin hmax).trans ((if_neg (ne_true_of_eq_false hrun)).trans (if_neg (by rw [hup]; decide)))

end

/-- Settles O38: each row's body meets the checks of its rule in their order. -/
theorem integrityCommandsComplete : Obligations.IntegrityCommandsComplete := by
  intro s h hl
  refine ⟨fun en hpass hen => ⟨fun hfree => ?_, fun hheld => ?_⟩, fun en hpass hen => ?_, fun prog k p hk hp ha =>
      ⟨fun q hpass hq => ⟨fun hstate => ?_, fun hstate => ?_⟩, fun q hpass hq => ?_, fun v hpass hstate => ?_, fun v hpass hstate => ?_,
        fun array n hpass hn => ?_⟩,
    fun array n hpass hn => ?_, fun addr len hpass hlen hmin hmax => ⟨fun hrun => ?_, fun hrun hup => ?_⟩, fun addr len hpass hbad => ?_,
    fun array n hpass hn hpack => ⟨fun hquar => ?_, fun hquar => ⟨?_, fun hq => ?_, fun hq => ?_⟩⟩, fun array hpass hlt hpack => ?_,
    fun array col n hpass hn => ⟨fun hcol => ?_, fun hover hcol => ?_⟩⟩
  · exact .of_adminCommand (Device.twinSetRun en) hl hpass rfl (Device.twinSetRun_free (d := s.dev.fresh.openCommand 0x0801 h) hen hfree)
  · exact .of_adminCommand (Device.twinSetRun en) hl hpass rfl (Device.twinSetRun_held (d := s.dev.fresh.openCommand 0x0801 h) hen hheld)
  · exact .of_adminCommand (Device.twinSetRun en) hl hpass rfl (if_pos hen)
  · exact .of_command _ hl hpass rfl ((if_neg (Nat.not_lt.2 hq)).trans
      (Device.slotSetting_stopped (d := s.dev.fresh.openCommand 0x0802 h) hk hp ha _ hstate))
  · exact .of_command _ hl hpass rfl ((if_neg (Nat.not_lt.2 hq)).trans
      (Device.slotSetting_running (d := s.dev.fresh.openCommand 0x0802 h) hk hp ha _ hstate))
  · exact .of_command _ hl hpass rfl (if_pos hq)
  · exact .of_command _ hl hpass rfl (Device.slotSetting_stopped (d := s.dev.fresh.openCommand 0x0803 h) hk hp ha _ hstate)
  · exact .of_command _ hl hpass rfl (Device.slotSetting_running (d := s.dev.fresh.openCommand 0x0803 h) hk hp ha _ hstate)
  · exact .of_command (Device.integQueryRun array prog) hl hpass rfl
      (Device.integQueryRun_program (d := s.dev.fresh.openCommand 0x0807 h) hn hk hp ha)
  · exact .of_command (Device.integQueryRun array 0xFF) hl hpass rfl
      (Device.integQueryRun_device (d := s.dev.fresh.openCommand 0x0807 h) hn)
  · exact .of_adminCommand (Device.assayLoadRun h addr len) hl hpass rfl
      ((Device.assayLoadRun_length (d := s.dev.fresh.openCommand 0x0804 h) addr hlen hmin hmax).trans (if_pos hrun))
  · exact .of_adminCommand (Device.assayLoadRun h addr len) hl hpass rfl
      (Device.assayLoadRun_fetch (d := s.dev.fresh.openCommand 0x0804 h) addr hlen hmin hmax hrun
        ((s.dev.fresh.openCommand_linkUp 0x0804 h h.port).trans hup))
  · exact .of_adminCommand (Device.assayLoadRun h addr len) hl hpass rfl (Device.assayLoadRun_badLength addr hbad)
  · exact .of_command (Device.assayRunRun array 0) hl hpass rfl
      (Device.assayRunRun_busy (d := s.dev.fresh.openCommand 0x0805 h) hn hpack (by decide) (.inl hquar))
  · exact .of_command (Device.assayRunRun array 0) hl hpass rfl
      (Device.assayRunRun_asked (d := s.dev.fresh.openCommand 0x0805 h) hn hpack hquar)
  · exact .of_command (Device.assayRunRun array 1) hl hpass rfl
      (Device.assayRunRun_atOnce (d := s.dev.fresh.openCommand 0x0805 h) hn hpack hquar hq)
  · exact .of_command (Device.assayRunRun array 1) hl hpass rfl
      (Device.assayRunRun_busy (d := s.dev.fresh.openCommand 0x0805 h) hn hpack (by decide) (.inr ⟨rfl, hq⟩))
  · exact .of_command (Device.assayRunRun array 0) hl hpass rfl
      (Device.assayRunRun_noPack (d := s.dev.fresh.openCommand 0x0805 h) (n := ⟨array.toNat, hlt⟩) rfl hpack)
  · exact .of_adminCommand (Device.repairCommitRun array col) hl hpass rfl
      ((Device.repairCommitRun_array (d := s.dev.fresh.openCommand 0x0806 h) hn).trans
        (if_neg fun ⟨hover, hne⟩ => hcol.elim (Nat.not_le.2 hover) hne))
  · exact .of_adminCommand (Device.repairCommitRun array col) hl hpass rfl
      ((Device.repairCommitRun_array (d := s.dev.fresh.openCommand 0x0806 h) hn).trans (if_pos ⟨hover, hcol⟩))

end Sys2Proof.Machine
end

section
/-! BEL_COUNT_CLR and the ticks that BEL_BEYOND has counted short of a millisecond. -/

namespace Sys2Proof.Machine

/-- A running device on which an array has been beyond its class for one tick of a brake, short of a counted millisecond. -/
def Device.braked : Device :=
  { State.reset.dev with bel := { State.reset.dev.bel with beyondTicks := #v[1, 0, 0] } }

theorem Device.settle_bel (old d : Device) : (old.settle d).bel = d.bel := by
  obtain ⟨src, alert, hsettle, -⟩ := old.settle_frame d
  rw [hsettle]

/-- BEL_COUNT_CLR forgets the ticks counted short of a millisecond, too. -/
theorem Device.clearCounts_beyondTicks (d : Device) : (d.updBel Bellows.clearCounts).bel.beyondTicks = Vector.replicate 3 0 := rfl

/-- Refutes O39: BEL_COUNT_CLR, which is said to clear the four counters alone, also clears the tick counted short of a millisecond. -/
theorem not_supplyAndTemperatureRowsComplete : ¬ Obligations.SupplyAndTemperatureRowsComplete := by
  rintro ⟨hsupply, -⟩
  have hl : Device.braked.live = true := by decide +kernel
  obtain ⟨-, -, -, -, -, -, -, -, -, -, -, -, -, -, -, hwrites⟩ := hsupply ⟨Device.braked, []⟩ hl
  have hruns := (hwrites (.core 0) rfl).2.2
  have hdoes : Runs (.belCountClr (.core 0)) ⟨Device.braked, []⟩ fun d => d.updBel Bellows.clearCounts :=
    .of_write (own := none) _ _ hl rfl rfl rfl
  have hticks := congrArg (fun t : State => t.dev.bel.beyondTicks) (Host.Outcome.next.inj (hdoes.symm.trans hruns))
  simp only [State.after, Device.settle_bel, Device.clearCounts_beyondTicks] at hticks
  exact absurd hticks (by decide +kernel)

end Sys2Proof.Machine
end

section
/-! The rows of twin mode, of spot replay, of the hallmark and of whole-array assays, and the integrity registers (R385-R413). -/

namespace Sys2Proof.Machine

/-! ### TWIN_UNIT_COMPARE and ASSAY_COMPLETE (R385, R389, R390) -/

/-- What the comparison of a unit leads to, by the state of its pair and whether the pass digests are equal. -/
def Device.compared (d : Device) (p : Fin 4) (u : Fin 16 × Nat × Fin 17 × Nat) : TwinState → Bool → Device
  | .run, true => d.commitUnit u
  | .run, false =>
    ((d.setPair p .retry).updInteg fun i => { i with twinMismatches := bump i.twinMismatches }).logEvent 0x0801 .warn p.val 0 srcIntegrity
  | .retry, true => ((d.commitUnit u).setPair p .run).updInteg fun i => { i with retryEqual := bump i.retryEqual }
  | .retry, false => (d.setPair p .assay).updInteg fun i => { i with escalations := bump i.escalations }
  | .retry2, true => (d.commitUnit u).setPair p .run
  | .retry2, false => d.escalate p [primaryOf p, shadowOf p]
  | .assay, _ => d
  | .quarantined, _ => d

section
variable {d : Device} {p : Fin 4} (a b : List Upset)

theorem Device.twinCompare_noUnit (h : d.integ.twin = false ∨ d.twinUnit p = none) : d.twinCompare p a b = d := by
  rcases h with h | h
  · exact if_pos (by rw [h]; rfl)
  · simp only [Device.twinCompare, h, ite_self]

theorem Device.twinCompare_over (h : d.integ.pairs[p] = .assay ∨ d.integ.pairs[p] = .quarantined) : d.twinCompare p a b = d := by
  unfold Device.twinCompare
  split
  · rfl
  · rcases h with h | h <;> simp only [h] <;> split <;> first | rfl | contradiction

theorem Device.twinCompare_unit {u : Fin 16 × Nat × Fin 17 × Nat} {st : TwinState} {equal : Bool} (htwin : d.integ.twin = true)
    (hunit : d.twinUnit p = some u) (hpair : d.integ.pairs[p] = st)
    (hequal : (passDigests (d.unitAt u) a == passDigests (d.unitAt u) b) = equal) : d.twinCompare p a b = d.compared p u st equal := by
  simp only [Device.twinCompare, htwin, hunit, hpair, hequal, Bool.not_true, Bool.false_eq_true, if_false, Option.map_some,
    Option.all_some]
  cases st <;> cases equal <;> rfl

end

section
variable {d : Device} {p : Fin 4}

theorem Device.pairAssayed_idle (a b : AssayResult) (h : d.integ.pairs[p] ≠ .assay) : d.pairAssayed p a b = d := if_pos h

variable (h : d.integ.pairs[p] = .assay)
include h

theorem Device.pairAssayed_noPack (a b : AssayResult) (hpack : d.integ.pack = none) :
    d.pairAssayed p a b = d.escalate p [primaryOf p, shadowOf p] := by
  simp only [Device.pairAssayed, h, Device.found, hpack, Option.isSome_none, Bool.false_eq_true, if_false, ne_eq, not_true_eq_false]
  rfl

variable (hpack : d.integ.pack.isSome = true)
include hpack

theorem Device.pairAssayed_primary (c : BitVec 7) (hspare : d.arrays[primaryOf p].spareLocked = false) :
    d.pairAssayed p (.column c) .pass =
      ((d.updInteg fun i => { i with fails := bump i.fails, passes := bump i.passes }).steerTo (primaryOf p) c.toNat).setPair p .retry2 := by
  have hfree : ((d.updInteg fun i => (i.countRun (.column c)).countRun .pass).arrays[primaryOf p].spareLocked) = false := hspare
  simp only [Device.pairAssayed, h, Device.found, hpack, if_true, ne_eq, not_true_eq_false, if_false, Device.repairable, hfree,
    Bool.false_eq_true]
  rfl

theorem Device.pairAssayed_shadow (c : BitVec 7) (hspare : d.arrays[shadowOf p].spareLocked = false) :
    d.pairAssayed p .pass (.column c) =
      ((d.updInteg fun i => { i with passes := bump i.passes, fails := bump i.fails }).steerTo (shadowOf p) c.toNat).setPair p .retry2 := by
  have hfree : ((d.updInteg fun i => (i.countRun .pass).countRun (.column c)).arrays[shadowOf p].spareLocked) = false := hspare
  simp only [Device.pairAssayed, h, Device.found, hpack, if_true, ne_eq, not_true_eq_false, if_false, Device.repairable, hfree,
    Bool.false_eq_true]
  rfl

theorem Device.pairAssayed_notLocalised : d.pairAssayed p .pass .notLocalised =
    (d.updInteg fun i => { i with passes := bump i.passes, fails := bump i.fails }).escalate p [shadowOf p] := by
  simp only [Device.pairAssayed, h, Device.found, hpack, if_true, ne_eq, not_true_eq_false, if_false, Device.repairable]
  rfl

end

/-! ### REPLAY_COMPARE (R386, R393) -/

section
variable {d : Device} {n : Nat} (x y : List Upset) (a b : AssayResult) (t : Nat)

theorem Device.replayCompare_none (h : d.integ.replays[n]? = none) : d.replayCompare n x y a b t = d := by
  simp only [Device.replayCompare, h]

variable {r : Replayed} (h : d.integ.replays[n]? = some r)
include h

theorem Device.replayCompare_waits (hdone : d.replayDone r = false) : d.replayCompare n x y a b t = d := by
  simp only [Device.replayCompare, h, hdone, Bool.not_false, if_true]

theorem Device.replayCompare_done (hdone : d.replayDone r = true) : d.replayCompare n x y a b t =
    let e := (d.updInteg fun t => { t with replays := t.replays.eraseIdx n, replayed := bump t.replayed }).addDelay .integrityRetry t
      fun p => p.names r.array.val || p.names (r.array.val ^^^ 1)
    if digest (upsetTerms r.terms x) = digest (upsetTerms r.terms y) then e else e.replayDiffers r a b := by
  simp only [Device.replayCompare, h, hdone, Bool.not_true, Bool.false_eq_true, if_false]

end

/-! ### Hallmark reports and verdicts (R399, R400) -/

section
variable {d : Device}

theorem Device.hallmarkArrives_top (r : HallmarkReport) (h : d.fab.isTop = true) : d.hallmarkArrives r =
    { d with integ := { d.integ with
      reports := (d.integ.reports.filter fun x : HallmarkReport =>
        !(x.group == r.group && x.version == r.version && x.rank == r.rank)) ++ [r] } }.decideHallmark r.group r.version :=
  if_pos h

theorem Device.hallmarkArrives_relays (r : HallmarkReport) {t : Nat} (h : d.fab.isTop = false) (htop : d.fab.topManager = some t)
    (hdomain : d.fab.isDomainManager = true) : d.hallmarkArrives r =
    d.sendRecord t .hallmarkReport
      (bytesOf 2 r.group ++ bytesOf 2 r.rank.toNat ++ bytesOf 4 r.version ++ bytesOf 2 r.k ++ bytesOf 16 r.value.toNat) := by
  simp only [Device.hallmarkArrives, h, htop, hdomain, Bool.false_eq_true, if_false, if_true]

section
variable {v : Nat} (hjob : d.fab.job ≠ .none) (hhold : d.fab.job ≠ .hold) (hprog : d.jobProgram = none)
  (hv : d.integ.hmVersion.toNat = v)
include hjob hhold hprog hv

theorem Device.takeVerdict_agreed : d.takeVerdict v 0 = { d with integ := { d.integ with hmAgreed := true } } := by
  simp only [Device.takeVerdict, hjob, hhold, hprog, hv, or_self, if_false, if_true]
  rfl

theorem Device.takeVerdict_expelled : d.takeVerdict v 1 =
    (({ d with integ := { d.integ with hmAgreed := false } }.logMismatch v).haltAll .expelled).loseRank d.fab.rank.toNat
      d.fab.rank.toNat := by
  simp only [Device.takeVerdict, hjob, hhold, hprog, hv, or_self, if_false, if_true]
  exact if_pos rfl

end

theorem Device.takeVerdict_outside {v : Nat} (x : BitVec 2) (h : d.fab.job = .none ∨ d.fab.job = .hold) : d.takeVerdict v x = d :=
  if_pos h

end

/-! ### Segments of whole-array assays (R407) -/

section
variable {d : Device} {n : Fin 8}

theorem Device.waSegment_noPack (res : Option AssayResult) (h : d.integ.pack = none) : d.waSegment n res = d :=
  if_pos (by rw [h]; rfl)

variable (hpack : d.integ.pack.isSome = true)
include hpack

theorem Device.waSegment_atOnce {r : AssayRun} (res : Option AssayResult) (hrun : (d.integ.atOnce.find? fun x => x.array == n) = some r) :
    d.waSegment n res =
      d.segment r res fun i r => { i with atOnce := updFirst (fun x => x.array == n) (fun _ => r) i.atOnce } := by
  simp only [Device.waSegment, ← Option.not_isSome, hpack, hrun, Bool.not_true, Bool.false_eq_true, if_false]

variable (hnone : (d.integ.atOnce.find? fun x => x.array == n) = none) (hidle : d.idleSlot n = true)
include hnone hidle

theorem Device.waSegment_running {r : AssayRun} (res : Option AssayResult) (hrun : d.integ.run = some r) (hn : r.array = n)
    (hgoes : d.integ.waEn = true ∨ r.cmd.isSome = true) :
    d.waSegment n res = d.segment r res fun i r => { i with run := some r } := by
  have hmine : (decide (r.array = n) && (d.integ.waEn || r.cmd.isSome)) = true := by simpa [hn] using hgoes
  simp only [Device.waSegment, ← Option.not_isSome, hpack, hnone, hidle, hrun, hmine, Bool.not_true, Bool.false_eq_true, if_false, if_true]

theorem Device.waSegment_asked {r : AssayRun} {rest : List AssayRun} (res : Option AssayResult) (hrun : d.integ.run = none)
    (hasked : d.integ.asked = r :: rest) (hn : r.array = n) (hcmd : r.cmd.isSome = true) :
    d.waSegment n res =
      (d.updInteg fun i => { i with run := some r, asked := rest }).segment r res fun i r => { i with run := some r } := by
  simp only [Device.waSegment, ← Option.not_isSome, hpack, hnone, hidle, hrun, Device.waStart, hasked, hn, hcmd, Bool.not_true,
    Bool.false_eq_true, if_false, if_true, Device.updInteg, List.drop_one, List.tail_cons]

end

/-! ### The registers (R408, R412, R413) -/

/-- The bits that a mask has beyond those of another are those of the other's complement in it. -/
theorem newBit_eq (mask q : BitVec 8) (m : Fin 8) : (mask.getLsbD m.val && !q.getLsbD m.val) = (mask &&& ~~~q).getLsbD m.val := by
  simp [m.isLt]

theorem filter_one (n : Fin 8) : ((Bank.indices 8).filter fun m => decide (m = n)) = [n] := by
  revert n
  decide

theorem newBit_concat {q : BitVec 8} {n : Fin 8} (h : q.getLsbD n.val = false) (m : Fin 8) :
    ((q ||| 1#8 <<< n.val).getLsbD m.val && !q.getLsbD m.val) = decide (m = n) := by
  rcases eq_or_ne m n with rfl | hne
  · simp only [h, BitVec.getLsbD_or, BitVec.getLsbD_shiftLeft, m.isLt, decide_true, Bool.false_or, Bool.not_false, Bool.and_true,
      Bool.true_and, Nat.sub_self, lt_self_iff_false, decide_false]
    rfl
  · have hbit : (1#8 <<< n.val).getLsbD m.val = false := by
      rw [← BitVec.twoPow_eq, BitVec.getLsbD_twoPow, Bool.and_eq_false_iff]
      exact .inr (decide_eq_false fun h => hne (Fin.ext h.symm))
    rw [BitVec.getLsbD_or, hbit, Bool.or_false, Bool.and_not_self, decide_eq_false hne]

section
variable {d : Device}

theorem Device.setQuarantine_cleared {mask : BitVec 8} (h : mask &&& ~~~d.integ.quarantine = 0) :
    d.setQuarantine mask = d.updInteg fun i => { i with quarantine := i.quarantine &&& mask } := by
  have hnew : ((Bank.indices 8).filter fun n => mask.getLsbD n.val && !d.integ.quarantine.getLsbD n.val) = [] := by
    simp only [newBit_eq, h, List.filter_eq_nil_iff]
    exact fun m _ => by simp
  rw [Device.setQuarantine, hnew, List.foldl_nil]

theorem Device.quarantine_new {n : Fin 8} (h : d.integ.quarantine.getLsbD n.val = false) : d.quarantine n =
    (((d.updInteg fun i => { i with quarantine := i.quarantine ||| (1#8 <<< n.val) }).dropAssays n).logEvent 0x0808 .error n.val 0
      srcIntegrity).faultBound n :=
  if_neg (ne_true_of_eq_false h)

theorem Device.setQuarantine_set {n : Fin 8} (h : d.integ.quarantine.getLsbD n.val = false) :
    d.setQuarantine (d.integ.quarantine ||| 1#8 <<< n.val) =
      (((d.updInteg fun i => { i with quarantine := i.quarantine ||| (1#8 <<< n.val) }).dropAssays n).logEvent 0x0808 .error n.val 0
        srcIntegrity).faultBound n := by
  have hkept : (d.updInteg fun i => { i with quarantine := i.quarantine &&& (d.integ.quarantine ||| 1#8 <<< n.val) }) = d := by
    have hq : d.integ.quarantine &&& (d.integ.quarantine ||| 1#8 <<< n.val) = d.integ.quarantine := by ext; simp +contextual
    simp only [Device.updInteg, hq]
  simp only [Device.setQuarantine, newBit_concat h, filter_one, List.foldl_cons, List.foldl_nil, hkept]
  exact Device.quarantine_new h

theorem Device.setRotPeriod_unpromised (v : Word32) (h : d.adm.promises = []) :
    d.setRotPeriod v = d.updInteg fun i => { i with rotPeriod := v.extractLsb' 0 20 } := by
  have hnone : (d.updInteg fun i => { i with rotPeriod := v.extractLsb' 0 20 }).adm.promises = [] := h
  simp only [Device.setRotPeriod, hnone, List.map_nil]
  rw [← hnone]

end

/-- Settles O37: each row is exec's function for it, and the function is one of the equations above. -/
theorem integrityRowsComplete : Obligations.IntegrityRowsComplete := by
  refine ⟨fun s p hl => ⟨fun a b h => ?_, fun u a b htwin hunit heq => ⟨fun hpair => ?_, fun hpair => ?_, fun hpair => ?_⟩,
      fun u a b htwin hunit hne => ⟨fun hpair => ?_, fun hpair => ?_, fun hpair => ?_⟩, fun a b h => ?_, fun a b h => ?_,
      fun a b h hpack => ?_, fun c h hpack hspare => ?_, fun c h hpack hspare => ?_, fun h hpack => ?_, fun n x y a b t h => ?_,
      fun n r x y a b t h => ⟨fun hdone => ?_, fun hdone heq => ?_, fun hdone hne => ?_⟩⟩,
    fun s hl => ⟨fun g r v k x htop => ?_, fun g r v k x t hnot htop hdomain => ?_, fun v x h => ?_, fun v hjob hhold hprog hv => ?_,
      fun v hjob hhold hprog hv => ?_, fun n res hpack => ?_, fun n r hpack hrun => ⟨?_, fun res => ?_⟩,
      fun n r hpack hnone hidle hrun hn hgoes => ⟨?_, fun res => ?_⟩, fun n r rest hpack hnone hidle hrun hasked hn hcmd => ?_, ?_,
      fun req hw => ⟨fun mask h => ?_, fun n h => ?_, ?_, fun v h => ?_⟩⟩⟩
  · exact .of_act (Device.twinCompare p a b) hl rfl (Device.twinCompare_noUnit (d := s.dev.fresh) a b h)
  iterate 3
    · exact .of_act (Device.twinCompare p a b) hl rfl
        (Device.twinCompare_unit (d := s.dev.fresh) a b htwin hunit hpair (beq_iff_eq.2 heq))
  iterate 3
    · exact .of_act (Device.twinCompare p a b) hl rfl
        (Device.twinCompare_unit (d := s.dev.fresh) a b htwin hunit hpair (beq_eq_false_iff_ne.2 hne))
  · exact .of_act (Device.twinCompare p a b) hl rfl (Device.twinCompare_over (d := s.dev.fresh) a b h)
  · exact .of_act (Device.pairAssayed p a b) hl rfl (Device.pairAssayed_idle (d := s.dev.fresh) a b h)
  · exact .of_act (Device.pairAssayed p a b) hl rfl (Device.pairAssayed_noPack (d := s.dev.fresh) h a b hpack)
  · exact .of_act (Device.pairAssayed p (.column c) .pass) hl rfl (Device.pairAssayed_primary (d := s.dev.fresh) h hpack c hspare)
  · exact .of_act (Device.pairAssayed p .pass (.column c)) hl rfl (Device.pairAssayed_shadow (d := s.dev.fresh) h hpack c hspare)
  · exact .of_act (Device.pairAssayed p .pass .notLocalised) hl rfl (Device.pairAssayed_notLocalised (d := s.dev.fresh) h hpack)
  · exact .of_act (Device.replayCompare n x y a b t.toNat) hl rfl (Device.replayCompare_none (d := s.dev.fresh) x y a b t.toNat h)
  · exact .of_act (Device.replayCompare n x y a b t.toNat) hl rfl (Device.replayCompare_waits (d := s.dev.fresh) x y a b t.toNat h hdone)
  · exact .of_act (Device.replayCompare n x y a b t.toNat) hl rfl
      ((Device.replayCompare_done (d := s.dev.fresh) x y a b t.toNat h hdone).trans (if_pos heq))
  · exact .of_act (Device.replayCompare n x y a b t.toNat) hl rfl
      ((Device.replayCompare_done (d := s.dev.fresh) x y a b t.toNat h hdone).trans (if_neg hne))
  · exact .of_act (Device.hallmarkArrives · { group := g.toNat, rank := r, version := v.toNat, k := k.toNat, value := x }) hl rfl
      (Device.hallmarkArrives_top (d := s.dev.fresh) _ htop)
  · exact .of_act (Device.hallmarkArrives · { group := g.toNat, rank := r, version := v.toNat, k := k.toNat, value := x }) hl rfl
      (Device.hallmarkArrives_relays (d := s.dev.fresh) _ hnot htop hdomain)
  · exact .of_act (Device.takeVerdict · v.toNat x) hl rfl (Device.takeVerdict_outside (d := s.dev.fresh) x h)
  · exact .of_act (Device.takeVerdict · v.toNat 0) hl rfl
      (Device.takeVerdict_agreed (d := s.dev.fresh) hjob hhold hprog (congrArg BitVec.toNat hv))
  · exact .of_act (Device.takeVerdict · v.toNat 1) hl rfl
      (Device.takeVerdict_expelled (d := s.dev.fresh) hjob hhold hprog (congrArg BitVec.toNat hv))
  · exact .of_act (Device.waSegment n res) hl rfl (Device.waSegment_noPack (d := s.dev.fresh) res hpack)
  · exact .of_act (Device.waSegment n none) hl rfl (Device.waSegment_atOnce (d := s.dev.fresh) hpack none hrun)
  · exact .of_act (Device.waSegment n (some res)) hl rfl (Device.waSegment_atOnce (d := s.dev.fresh) hpack (some res) hrun)
  · exact .of_act (Device.waSegment n none) hl rfl
      (Device.waSegment_running (d := s.dev.fresh) hpack hnone hidle none hrun hn hgoes)
  · exact .of_act (Device.waSegment n (some res)) hl rfl
      (Device.waSegment_running (d := s.dev.fresh) hpack hnone hidle (some res) hrun hn hgoes)
  · exact .of_act (Device.waSegment n none) hl rfl
      (Device.waSegment_asked (d := s.dev.fresh) hpack hnone hidle none hrun hasked hn hcmd)
  · exact .of_act Device.waAbandon hl rfl rfl
  · exact .of_write offInteg (Device.setQuarantine mask) hl hw rfl (Device.setQuarantine_cleared (d := s.dev.fresh) h)
  · exact .of_write offInteg _ hl hw rfl (Device.setQuarantine_set (d := s.dev.fresh) h)
  · exact .of_write offInteg (Device.updInteg · Integrity.clearCounts) hl hw rfl rfl
  · exact .of_write (offInteg + 0x10) (Device.setRotPeriod v) hl hw rfl (Device.setRotPeriod_unpromised (d := s.dev.fresh) v h)

end Sys2Proof.Machine
end

section
/-! BELLOWS_INTERVAL (R418-R420, R428) and the commands of block 0x09 (R423, R430, R436, R437). -/

namespace Sys2Proof.Machine

/-! ### The governor (R428) -/

theorem Device.goalW_le_targetW (d : Device) (est : Nat) (activity : List Nat) : d.goalW est activity ≤ d.targetW := Nat.min_le_left ..

section
variable (b : Bellows) (free : Bool) (goal : Nat)

theorem Bellows.governNext_le_rise : b.governNext free goal ≤ b.governed + b.slope.toNat := by
  simp only [Bellows.governNext]
  split
  · split <;> omega
  · omega

theorem Bellows.governNext_ge_fall (hbrake : b.brake = false) : b.governed ≤ b.governNext false goal + b.slope.toNat := by
  simp only [Bellows.governNext, hbrake, Bool.or_self, Bool.false_eq_true, if_false]
  split <;> omega

theorem Bellows.governNext_le_goal (hbrake : b.brake = true) : b.governNext free goal ≤ goal := by
  simp only [Bellows.governNext, hbrake, Bool.true_or, if_true]
  split <;> omega

end

/-! ### Bubbles and granted classes (R420) -/

/-- No array that holds a grant has more bubbles in `b'` than it had in `b` or its class allows. -/
def Device.WithinClass (d : Device) (b b' : Vector (BitVec 4) 8) : Prop :=
  ∀ n pc, d.grantedClass n = some pc → b'[n].toNat ≤ max b[n].toNat pc

theorem Device.WithinClass.refl (d : Device) (b : Vector (BitVec 4) 8) : d.WithinClass b b := fun _ _ _ => Nat.le_max_left ..

/-- What is picked from a list, one element after another, is of the list. -/
theorem foldl_pick_mem {α : Type} {f : Option α → α → Option α} (hf : ∀ best a, f best a = best ∨ f best a = some a) {l : List α}
    {best : Option α} {x : α} (h : l.foldl f best = some x) : best = some x ∨ x ∈ l := by
  induction l generalizing best with
  | nil => exact .inl h
  | cons a l ih =>
    obtain hbest | hmem := ih h
    · obtain hkept | hnew := hf best a
      · exact .inl (hkept.symm.trans hbest)
      · exact .inr (Option.some.inj (hnew.symm.trans hbest) ▸ List.mem_cons_self)
    · exact .inr (List.mem_cons_of_mem a hmem)

section
variable {d : Device} {b b' : Vector (BitVec 4) 8} {n : Fin 8}

theorem Device.nextBubble_below {stage : Nat} (h : d.nextBubble stage b = some n) : b[n].toNat < d.bubbleLimit stage n := by
  obtain hnone | hmem := foldl_pick_mem (fun best _ => by cases best <;> dsimp only <;> (try split) <;> simp) h
  · cases hnone
  · exact of_decide_eq_true (List.mem_filter.1 hmem).2

theorem Device.lastBubble_pos (h : d.lastBubble b = some n) : 0 < b[n].toNat := by
  obtain hnone | hmem := foldl_pick_mem (fun best _ => by cases best <;> dsimp only <;> (try split) <;> simp) h
  · cases hnone
  · have hpick := (List.mem_filter.1 hmem).2
    simp only at hpick
    split at hpick
    · obtain ⟨pc, -, hpc⟩ := (Option.any_eq_true _ _).1 hpick
      exact (Nat.zero_le pc).trans_lt (of_decide_eq_true hpc)
    · split at hpick
      · exact of_decide_eq_true ((Bool.and_eq_true_iff.1 hpick).2)
      · exact of_decide_eq_true hpick

theorem Device.bubbleLimit_granted {stage pc : Nat} (hstage : stage = 2 ∨ stage = 3) (h : d.grantedClass n = some pc) :
    d.bubbleLimit stage n ≤ pc := by
  simp only [Device.bubbleLimit, h]
  rcases hstage with rfl | rfl
  · exact Nat.zero_le pc
  · exact Nat.le_refl pc

/-- One array given another number of bubbles stays within its class if that number does. -/
theorem Device.WithinClass.upd {f : BitVec 4 → BitVec 4} (h : d.WithinClass b b')
    (hn : ∀ pc, d.grantedClass n = some pc → (f b'[n]).toNat ≤ max b[n].toNat pc) : d.WithinClass b (Bank.upd b' n f) := by
  intro m pc hm
  rcases eq_or_ne m n with rfl | hne
  · rw [Bank.upd_same]
    exact hn pc hm
  · rw [Bank.upd_other _ _ _ _ hne]
    exact h m pc hm

/-- Shedding of BEST_EFFORT arrays, and of PROMISED ones up to their class, keeps within the classes. -/
theorem Device.WithinClass.shedStage {stage : Nat} (hstage : stage = 2 ∨ stage = 3) (excess start k : Nat) (h : d.WithinClass b b') :
    d.WithinClass b (d.shedStage stage excess start k b') := by
  induction k generalizing b' with
  | zero => exact h
  | succ k ih =>
    simp only [Device.shedStage]
    split
    · split
      · next n hn =>
        refine ih (h.upd fun pc hpc => ?_)
        have hlimit := (Device.nextBubble_below hn).trans_le (Device.bubbleLimit_granted hstage hpc)
        have hadd : (b'[n] + 1).toNat ≤ b'[n].toNat + 1 := (BitVec.toNat_add ..).trans_le (Nat.mod_le ..)
        omega
      · exact h
    · exact h

theorem Device.WithinClass.shed (excess : Nat) : d.WithinClass b (d.shed excess false b) :=
  have hfirst : d.WithinClass b (d.shedStage 2 excess (d.bubbleLoad b) 120 b) := .shedStage (.inl rfl) _ _ _ (.refl d b)
  .shedStage (.inr rfl) _ _ _ hfirst

/-- Bubbles given back keep within the classes. -/
theorem Device.WithinClass.giveBack (most k : Nat) (h : d.WithinClass b b') : d.WithinClass b (d.giveBack most k b') := by
  induction k generalizing b' with
  | zero => exact h
  | succ k ih =>
    simp only [Device.giveBack]
    split
    · exact h
    · next n hn =>
      split
      · refine ih (h.upd fun pc hpc => ?_)
        have hpos := Device.lastBubble_pos hn
        have hsub : (b'[n] - 1).toNat ≤ b'[n].toNat := by bv_omega
        exact hsub.trans (h n pc hpc)
      · exact h

end

/-! ### BELLOWS_INTERVAL -/

section
variable (d : Device) (raw : Word16) (activity : List Nat)

/-- The governed level an interval ends with. -/
def Device.nextGoverned : Nat := d.bel.governNext d.arraysHalted (5 * d.goalW (d.bel.trimmed raw.toNat).toNat activity)

/-- The bubbles an interval ends with. -/
def Device.nextBubbles : Vector (BitVec 4) 8 :=
  let est := d.bel.trimmed raw.toNat
  let gov := d.nextGoverned raw activity
  let level := min d.targetW (gov / 5)
  let work := est.toNat - ballastW d.bel.density
  if level < work then
    d.shed (work - level) (decide (d.targetW = d.bel.hardW) || decide (gov < 5 * d.goalW est.toNat activity)) d.bel.bubbles
  else d.giveBack (d.bubbleLoad d.bel.bubbles + (level - work) * 656 * 65536) 120 d.bel.bubbles

variable {d raw activity} in
/-- Where C_hard does not set T and no rise is governed, the bubbles stay within the classes. -/
theorem Device.nextBubbles_withinClass (hcap : d.targetW < d.bel.hardW) (hgov : 5 * d.targetW ≤ d.nextGoverned raw activity) :
    d.WithinClass d.bel.bubbles (d.nextBubbles raw activity) := by
  have hgoal := d.goalW_le_targetW (d.bel.trimmed raw.toNat).toNat activity
  have hsoft : (decide (d.targetW = d.bel.hardW)
      || decide (d.nextGoverned raw activity < 5 * d.goalW (d.bel.trimmed raw.toNat).toNat activity)) = false := by
    rw [decide_eq_false hcap.ne, decide_eq_false (by omega), Bool.or_self]
  simp only [Device.nextBubbles, hsoft]
  split
  · exact .shed _
  · exact .giveBack _ _ (.refl d _)

/-- What learning a phase keeps of Bellows. -/
theorem Bellows.endPhases_keeps {α : Type} (b : Bellows) (now : Nat) (π : Bellows → α)
    (hπ : ∀ (b : Bellows) ps qs, π { b with profiles := ps, phases := qs } = π b) : π (b.endPhases now) = π b := by
  have hlearn (b : Bellows) (p : Phase) : π (b.learn p) = π b := by
    cases hobs : p.observed with
    | none => simp only [Bellows.learn, hobs]
    | some obs =>
      simp only [Bellows.learn, hobs]
      split <;> exact hπ b _ b.phases
  exact (foldl_keeps π _ hlearn _ _).trans (hπ b b.profiles _)

/-- What the end of an interval keeps of Bellows: all but the phases, their profiles and the governed rise. -/
theorem Bellows.sampled_keeps {α : Type} (b : Bellows) (now : Nat) (activity : List Nat) {c : Prop} [Decidable c] (π : Bellows → α)
    (hphases : ∀ (b : Bellows) ps qs, π { b with profiles := ps, phases := qs } = π b)
    (hrising : ∀ (b : Bellows) r, π { b with rising := r } = π b) :
    π (if c then { (b.endPhases now).samplePhases now activity with rising := none } else (b.endPhases now).samplePhases now activity)
      = π b := by
  have hsample : π ((b.endPhases now).samplePhases now activity) = π b :=
    (hphases _ (b.endPhases now).profiles _).trans (b.endPhases_keeps now π hphases)
  split
  · exact (hrising ..).trans hsample
  · exact hsample

/-- What an interval changes (R418-R420, R428): Bellows and the arrays' bubble counters. -/
theorem Device.bellowsInterval_frame : ∃ bel arrays, d.bellowsInterval raw activity = { d with bel := bel, arrays := arrays }
    ∧ bel.estimate = d.bel.trimmed raw.toNat ∧ bel.target = satOf 16 d.targetW ∧ bel.governed = d.nextGoverned raw activity
    ∧ bel.bubbles = d.nextBubbles raw activity := by
  refine ⟨(d.bellowsInterval raw activity).bel, (d.bellowsInterval raw activity).arrays, rfl, ?_⟩
  refine ⟨?_, ?_, ?_, ?_⟩
  · exact Bellows.sampled_keeps _ _ _ Bellows.estimate (fun _ _ _ => rfl) fun _ _ => rfl
  · exact Bellows.sampled_keeps _ _ _ Bellows.target (fun _ _ _ => rfl) fun _ _ => rfl
  · exact Bellows.sampled_keeps _ _ _ Bellows.governed (fun _ _ _ => rfl) fun _ _ => rfl
  · exact Bellows.sampled_keeps _ _ _ Bellows.bubbles (fun _ _ _ => rfl) fun _ _ => rfl

end

/-! ### The commands of block 0x09 -/

/-- What CAP_SET makes of a device on which its packet has passed the checks. -/
def Device.capSetRun (w : Word16) (c : OpenCmd) (d : Device) : Device :=
  if 5400 < w.toNat then d.finish c .badParam
  else if w = 0 then (d.updBel fun b => { b with soft := 5400 }).ok c 5400
  else if w.toNat < Config.floorCalW then
    ((d.updBel fun b => { b with soft := BitVec.ofNat 16 Config.floorCalW }).finish c .capBelowFloor Config.floorCalW).logEvent 0x0901 .info 0
      0 srcBellows
  else (d.updBel fun b => { b with soft := w }).ok c w.toNat

section
variable {d : Device} {c : OpenCmd} {w : Word16}

theorem Device.capSetRun_over (h : 5400 < w.toNat) : d.capSetRun w c = d.finish c .badParam := if_pos h

theorem Device.capSetRun_none : d.capSetRun 0 c = (d.updBel fun b => { b with soft := 5400 }).ok c 5400 := rfl

variable (hw : w ≠ 0) (hmax : w.toNat ≤ 5400)
include hw hmax

theorem Device.capSetRun_cap (hfloor : Config.floorCalW ≤ w.toNat) :
    d.capSetRun w c = (d.updBel fun b => { b with soft := w }).ok c w.toNat := by
  rw [Device.capSetRun, if_neg (Nat.not_lt.2 hmax), if_neg hw, if_neg (Nat.not_lt.2 hfloor)]

theorem Device.capSetRun_floor (hfloor : w.toNat < Config.floorCalW) : d.capSetRun w c =
    ((d.updBel fun b => { b with soft := BitVec.ofNat 16 Config.floorCalW }).finish c .capBelowFloor Config.floorCalW).logEvent 0x0901 .info 0
      0 srcBellows := by
  rw [Device.capSetRun, if_neg (Nat.not_lt.2 hmax), if_neg hw, if_pos hfloor]

end

/-- A setting that waits for no PROMISED command, as RAMP_SET and BALLAST_SET make it of a device. -/
def Device.unpromisedSetting (bad : Prop) [Decidable bad] (f : Bellows → Bellows) (c : OpenCmd) (d : Device) : Device :=
  if bad then d.finish c .badParam
  else if !d.adm.promises.isEmpty then d.finish c .busy
  else (d.updBel f).ok c

section
variable {d : Device} {c : OpenCmd} {bad : Prop} [Decidable bad] (f : Bellows → Bellows)

theorem Device.unpromisedSetting_bad (h : bad) : d.unpromisedSetting bad f c = d.finish c .badParam := if_pos h

theorem Device.unpromisedSetting_free (h : ¬ bad) (hnone : d.adm.promises = []) : d.unpromisedSetting bad f c = (d.updBel f).ok c :=
  (if_neg h).trans (if_neg (by rw [hnone]; decide))

theorem Device.unpromisedSetting_held (h : ¬ bad) (hsome : d.adm.promises ≠ []) : d.unpromisedSetting bad f c = d.finish c .busy :=
  (if_neg h).trans (if_pos (by simpa using hsome))

end

/-- What PROFILE_CLEAR makes of a device on which its packet has passed the checks. -/
def Device.profileClearRun (prog : BitVec 8) (c : OpenCmd) (d : Device) : Device :=
  if prog = 0xFF then
    if (Bank.indices 16).any fun k => (d.progs[k]).any fun p => p.state == .running then d.finish c .busy
    else ((d.updBel (·.clearProfiles fun _ => true)).logEvent 0x0909 .info 0 0 srcBellows).ok c
  else match d.slotFault prog c.hdr.account with
    | some st => d.finish c st
    | none =>
      if d.slotRunning prog then d.finish c .busy
      else ((d.updBel (·.clearProfiles (· == prog.toNat))).logEvent 0x0909 .info 0 0 srcBellows).ok c

theorem Bellows.clearProfiles_all (b : Bellows) : b.clearProfiles (fun _ => true) = { b with profiles := [], phases := [] } := by
  simp only [Bellows.clearProfiles, Bool.not_true, List.filter_false]

section
variable {d : Device} {c : OpenCmd}

theorem Device.profileClearRun_all (h : ∀ k : Fin 16, ∀ p, d.progs[k] = some p → p.state ≠ .running) : d.profileClearRun 0xFF c =
    ((d.updBel fun b => { b with profiles := [], phases := [] }).logEvent 0x0909 .info 0 0 srcBellows).ok c := by
  have hstopped : ¬ ((Bank.indices 16).any fun k => (d.progs[k]).any fun p => p.state == .running) = true := by
    intro hany
    obtain ⟨k, -, hk⟩ := List.any_eq_true.1 hany
    obtain ⟨p, hp, hrun⟩ := (Option.any_eq_true _ _).1 hk
    exact h k p hp (beq_iff_eq.1 hrun)
  simp only [Device.profileClearRun, if_true, if_neg hstopped, Bellows.clearProfiles_all]

variable {prog : BitVec 8} {k : Fin 16} {p : Program} (hk : prog.toNat = k.val) (hp : d.progs[k] = some p) (ha : p.account = c.hdr.account)
include hk hp ha

theorem Device.profileClearRun_slot : d.profileClearRun prog c =
    if p.state == .running then d.finish c .busy
    else ((d.updBel fun b => { b with profiles := b.profiles.filter fun x => x.slot != k.val
                                      phases := b.phases.filter fun x => x.slot != k.val }).logEvent 0x0909 .info 0 0 srcBellows).ok c := by
  have hslot : prog ≠ 0xFF := by
    rintro rfl
    exact absurd (hk ▸ k.isLt) (by decide)
  simp only [Device.profileClearRun, if_neg hslot, Device.slotFault_owned hk hp ha, Device.slotRunning_loaded hk hp, hk]
  rfl

end

/-- Settles O40: the governor's lemmas bound the next level, and the stages of R420 that are left without C_hard or a governed rise keep the
bubbles within the classes; each command's body meets the checks of its rule in their order. -/
theorem bellowsIntervalAndSettingsComplete : Obligations.BellowsIntervalAndSettingsComplete := by
  refine ⟨fun s raw activity hl => ⟨_, State.act_live (f := Device.bellowsInterval raw activity) hl, ?_⟩, fun s h hl =>
    ⟨fun w hpass => ⟨fun hover => ?_, fun hnone => ?_, fun hw hmax hfloor => ?_, fun hw hmax hfloor => ?_⟩, fun hpass => ?_,
      fun slope hpass hslope hmax => ⟨fun hnone => ?_, fun hsome => ?_⟩, fun slope hpass hbad => ?_,
      fun en floor hpass hen hmax => ⟨fun hnone => ?_, fun hsome => ?_⟩,
      fun prog k p hpass hk hp ha => ⟨fun hstate => ?_, fun hstate => ?_⟩, fun hpass hstopped => ?_⟩⟩
  · obtain ⟨bel, arrays, hframe, hest, htarget, hgov, hbubbles⟩ := Device.bellowsInterval_frame s.dev.fresh raw activity
    obtain ⟨src, alert, hsettle, -⟩ := s.dev.settle_frame (s.dev.fresh.bellowsInterval raw activity)
    rw [hsettle, hframe]
    refine ⟨hest, htarget, hgov, hgov ▸ s.dev.bel.governNext_le_rise .., fun hbrake hbusy => ?_, fun hbrake => ?_,
      fun htw hle => ?_, rfl, rfl, rfl, fun _ => rfl⟩
    · have hfall := s.dev.bel.governNext_ge_fall (5 * s.dev.goalW (s.dev.bel.trimmed raw.toNat).toNat activity) hbrake
      rw [← hbusy] at hfall
      exact hfall.trans_eq (congrArg (· + _) hgov.symm)
    · exact hgov.trans_le ((s.dev.bel.governNext_le_goal _ _ hbrake).trans
        (Nat.mul_le_mul_left 5 (s.dev.goalW_le_targetW ..)))
    · have hwithin := Device.nextBubbles_withinClass (d := s.dev.fresh) htw (hle.trans_eq hgov)
      rw [← hbubbles] at hwithin
      exact hwithin
  · exact .of_adminCommand (Device.capSetRun w) hl hpass rfl (Device.capSetRun_over hover)
  · subst hnone
    exact .of_adminCommand (Device.capSetRun 0) hl hpass rfl Device.capSetRun_none
  · exact .of_adminCommand (Device.capSetRun w) hl hpass rfl (Device.capSetRun_cap hw hmax hfloor)
  · exact .of_adminCommand (Device.capSetRun w) hl hpass rfl (Device.capSetRun_floor hw hmax hfloor)
  · exact .of_command _ hl hpass rfl rfl
  · exact .of_adminCommand (Device.unpromisedSetting (slope = 0 ∨ 200 < slope.toNat) _) hl hpass rfl
      (Device.unpromisedSetting_free (d := s.dev.fresh.openCommand 0x0903 h) _ (by simpa using ⟨hslope, hmax⟩) hnone)
  · exact .of_adminCommand (Device.unpromisedSetting (slope = 0 ∨ 200 < slope.toNat) fun b => { b with slope := slope }) hl hpass rfl
      (Device.unpromisedSetting_held (d := s.dev.fresh.openCommand 0x0903 h) _ (by simpa using ⟨hslope, hmax⟩) hsome)
  · exact .of_adminCommand (Device.unpromisedSetting (slope = 0 ∨ 200 < slope.toNat) fun b => { b with slope := slope }) hl hpass rfl
      (Device.unpromisedSetting_bad _ hbad)
  · exact .of_adminCommand (Device.unpromisedSetting (1 < en.toNat ∨ 5400 < floor.toNat) _) hl hpass rfl
      (Device.unpromisedSetting_free (d := s.dev.fresh.openCommand 0x0904 h) _ (by simpa using ⟨hen, hmax⟩) hnone)
  · exact .of_adminCommand (Device.unpromisedSetting (1 < en.toNat ∨ 5400 < floor.toNat) fun b =>
        { b with ballastEn := en = 1, ballastFloor := floor }) hl hpass rfl
      (Device.unpromisedSetting_held (d := s.dev.fresh.openCommand 0x0904 h) _ (by simpa using ⟨hen, hmax⟩) hsome)
  · exact .of_command (Device.profileClearRun prog) hl hpass rfl
      ((Device.profileClearRun_slot (d := s.dev.fresh.openCommand 0x0905 h) hk hp ha).trans (if_neg (by simpa using hstate)))
  · exact .of_command (Device.profileClearRun prog) hl hpass rfl
      ((Device.profileClearRun_slot (d := s.dev.fresh.openCommand 0x0905 h) hk hp ha).trans (if_pos (by simpa using hstate)))
  · exact .of_command (Device.profileClearRun 0xFF) hl hpass rfl
      (Device.profileClearRun_all (d := s.dev.fresh.openCommand 0x0905 h) hstopped)

end Sys2Proof.Machine
end

section
/-! The security commands and the Seedbank writes they ask for (R479-R487, R491, R492). -/

namespace Sys2Proof.Machine

/-! ### A Seedbank write that a command asks for (R480, R485-R487) -/

/-- The check of R485, in its units. -/
theorem holdupPasses_iff {uf v mj : Nat} : holdupPasses uf v mj = true ↔ 2 * mj * 20000000 < uf * (v * v - 5600 * 5600) := by
  unfold holdupPasses holdupUnits holdupPerMj
  exact decide_eq_true_iff

section
variable {d : Device} {c : OpenCmd} {w : SeedWrite}

theorem Device.seedCommand_atLimit (h : d.seed.atLimit w = true) :
    d.seedCommand c w = (d.finish c .limitReached).logEvent 0x0B07 .warn 0 0 srcSecurity :=
  if_pos h

variable (hlimit : d.seed.atLimit w = false)
include hlimit

theorem Device.seedCommand_powerFail (hfail : d.bel.powerFail = true) : d.seedCommand c w =
    (d.finish c .holdup).logEvent 0x0B06 .warn 0 (evData [(4, 0), (2, d.bel.voltage.toNat)]) srcSecurity :=
  (if_neg (ne_true_of_eq_false hlimit)).trans (if_pos hfail)

variable (hfail : d.bel.powerFail = false) (hnone : d.sec.writes = [])
include hfail hnone

/-- A write that no other is before meets the hold-up check at once. -/
theorem Device.seedCommand_checked (hsvn : w ≠ .svn) : d.seedCommand c w =
    (let uf := d.seed.capFor w
    let v := d.bel.voltage.toNat
    let mj := holdupUnits uf v / holdupPerMj
    if holdupPasses uf v w.reqMj then
      { d with sec := { d.sec with
          writes := [{ write := w, cmd := some c, started := true }], hold := true, holdupOutcome := 1, lastEMj := satOf 20 mj } }
    else
      Device.seedPump 1
        (({ d with sec := { d.sec with writes := [], holdupOutcome := 2, lastEMj := satOf 20 mj } }.finish c .holdup).logEvent 0x0B06 .warn 0
          (evData [(4, mj), (2, v)]) srcSecurity)) := by
  have hbeq : (w == .svn) = false := by cases w <;> first | rfl | exact absurd rfl hsvn
  rw [Device.seedCommand, if_neg (ne_true_of_eq_false hlimit), if_neg (ne_true_of_eq_false hfail), Device.seedAsk, Device.seedRun]
  simp only [hnone, List.nil_append, List.length_singleton, Device.seedPump, hbeq, hlimit, hfail, Bool.false_and, Bool.false_eq_true,
    if_false, Device.seedEnd]

theorem Device.seedCommand_starts (hsvn : w ≠ .svn)
    (hpasses : 2 * w.reqMj * 20000000 < d.seed.capFor w * (d.bel.voltage.toNat * d.bel.voltage.toNat - 5600 * 5600)) :
    ∃ e, d.seedCommand c w = { d with sec := { d.sec with
      writes := [{ write := w, cmd := some c, started := true }], hold := true, holdupOutcome := 1, lastEMj := e } } :=
  ⟨_, (Device.seedCommand_checked hlimit hfail hnone hsvn).trans (if_pos (holdupPasses_iff.2 hpasses))⟩

theorem Device.seedCommand_refused (hsvn : w ≠ .svn)
    (hshort : d.seed.capFor w * (d.bel.voltage.toNat * d.bel.voltage.toNat - 5600 * 5600) ≤ 2 * w.reqMj * 20000000) :
    (d.seedCommand c w).seed = d.seed ∧ (d.seedCommand c w).sec.writes = [] ∧ (d.seedCommand c w).sec.holdupOutcome = 2
      ∧ (d.seedCommand c w).sec.hold = false := by
  have hfails : ¬ holdupPasses (d.seed.capFor w) d.bel.voltage.toNat w.reqMj = true :=
    fun h => Nat.not_lt.2 hshort (holdupPasses_iff.1 h)
  rw [Device.seedCommand_checked hlimit hfail hnone hsvn]
  simp only [hfails, Bool.false_eq_true, if_false, Device.seedPump, Device.logEvent_sec, Device.finish_sec]
  exact ⟨by simp, trivial, trivial, trivial⟩

end

/-! ### What the commands make of a device on which their packet has passed the checks -/

/-- What ATTEST answers. -/
def Device.attestRun (p : Fin 2) (addr : Word64) (nonce : List Byte) (c : OpenCmd) (d : Device) : Device :=
  if addr.toNat % 64 ≠ 0 ∨ !d.seed.identity then d.finish c .badParam
  else (d.hostWrite p addr (d.attestReport nonce)).ok c 17312

/-- What LASTWORDS_READ answers. -/
def Device.lastwordsReadRun (p : Fin 2) (addr : Word64) (start max : Word16) (c : OpenCmd) (d : Device) : Device :=
  if addr.toNat % 64 ≠ 0 ∨ 255 < start.toNat ∨ max = 0 ∨ 256 < max.toNat then d.finish c .badParam
  else
    let all := d.seed.committed
    let rs := (all.drop start.toNat).take max.toNat
    let d := if rs.isEmpty then d else d.hostWrite p addr (rs.flatMap EventRecord.bytes)
    d.ok c (rs.length + 2 ^ 16 * all.length)

section
variable {d : Device} {c : OpenCmd} {p : Fin 2} {addr : Word64} {nonce : List Byte}

theorem Device.attestRun_report (haddr : addr.toNat % 64 = 0) (hid : d.seed.identity = true) :
    d.attestRun p addr nonce c = (d.hostWrite p addr (d.attestReport nonce)).ok c 17312 :=
  if_neg (by simp [haddr, hid])

theorem Device.attestRun_bad (h : addr.toNat % 64 ≠ 0 ∨ d.seed.identity = false) : d.attestRun p addr nonce c = d.finish c .badParam :=
  if_pos (h.imp_right fun hid => by rw [hid]; rfl)

variable {start max : Word16} (haddr : addr.toNat % 64 = 0) (hstart : start.toNat ≤ 255) (hpos : max ≠ 0) (hmax : max.toNat ≤ 256)
include haddr hstart hpos hmax

theorem Device.lastwordsReadRun_good : d.lastwordsReadRun p addr start max c =
    (let rs := (d.seed.committed.drop start.toNat).take max.toNat
    (if rs.isEmpty then d else d.hostWrite p addr (rs.flatMap EventRecord.bytes)).ok c
      (rs.length + 2 ^ 16 * d.seed.committed.length)) :=
  if_neg (by
    rintro (h | h | h | h)
    exacts [h haddr, Nat.not_lt.2 hstart h, hpos h, Nat.not_lt.2 hmax h])

theorem Device.lastwordsReadRun_none (hnone : (d.seed.committed.drop start.toNat).take max.toNat = []) :
    d.lastwordsReadRun p addr start max c = d.ok c (2 ^ 16 * d.seed.committed.length) := by
  simp only [Device.lastwordsReadRun_good haddr hstart hpos hmax, hnone, List.isEmpty_nil, if_true, List.length_nil, Nat.zero_add]

theorem Device.lastwordsReadRun_some {rs : List EventRecord} (hrs : (d.seed.committed.drop start.toNat).take max.toNat = rs)
    (hsome : rs ≠ []) : d.lastwordsReadRun p addr start max c =
      (d.hostWrite p addr (rs.flatMap EventRecord.bytes)).ok c (rs.length + 2 ^ 16 * d.seed.committed.length) := by
  have hne : ¬ rs.isEmpty = true := by simpa using hsome
  simp only [Device.lastwordsReadRun_good haddr hstart hpos hmax, hrs, hne, Bool.false_eq_true, if_false]

end

theorem Device.seedbankCommit_started {d : Device} {o : SeedOp} {rest : List SeedOp} (h : d.sec.writes = o :: rest)
    (ho : o.started = true) : d.seedbankCommit = (d.seedCommitHead o rest).seedRun := by
  simp only [Device.seedbankCommit, Device.seedCommit, h, ho, if_true]

/-- Settles O44: each command's body meets the checks of its rule in their order, and a Seedbank write with none before it meets its
hold-up check at once. -/
theorem securityRowsComplete : Obligations.SecurityRowsComplete := by
  refine ⟨fun s h hl => ⟨fun addr nonce hpass => ⟨fun haddr hid => ?_, fun hbad => ?_⟩, fun hpass => ?_, fun hpass => ?_,
      fun confirm hpass hne => ?_, fun uf hpass => ⟨fun hpos hmax => ?_, fun hbad => ?_⟩,
      fun w hpass => ⟨fun hfloor hmax => ?_, fun hbad => ?_⟩, fun item hpass => ⟨fun hitem => ?_, fun hitem => ?_⟩,
      fun addr start max hpass haddr hstart hpos hmax => ⟨fun hnone => ?_, fun hsome => ?_⟩, fun o rest hw ho => ?_⟩,
    fun d c w hsvn _ => ⟨fun hlimit => ?_, fun hlimit hfail => ?_, fun hlimit hfail hnone => ⟨fun hpasses => ?_, fun hshort => ?_⟩⟩⟩
  · exact .of_command (Device.attestRun h.port addr nonce) hl hpass rfl
      (Device.attestRun_report (d := s.dev.fresh.openCommand 0x0B01 h) haddr hid)
  · exact .of_command (Device.attestRun h.port addr nonce) hl hpass rfl (Device.attestRun_bad (d := s.dev.fresh.openCommand 0x0B01 h) hbad)
  · exact .of_adminCommand _ hl hpass rfl rfl
  · exact .of_adminCommand _ hl hpass rfl (if_neg (not_not_intro rfl))
  · exact .of_adminCommand _ hl hpass rfl (if_pos hne)
  · exact .of_adminCommand _ hl hpass rfl (if_neg fun hbad => hbad.elim hpos (Nat.not_lt.2 hmax))
  · exact .of_adminCommand _ hl hpass rfl (if_pos hbad)
  · exact .of_adminCommand _ hl hpass rfl (if_neg fun hbad => hbad.elim (Nat.not_lt.2 hfloor) (Nat.not_lt.2 hmax))
  · exact .of_adminCommand _ hl hpass rfl (if_pos hbad)
  · exact .of_command _ hl hpass rfl (if_neg (Nat.not_lt.2 hitem))
  · exact .of_command _ hl hpass rfl (if_pos hitem)
  · exact .of_command (Device.lastwordsReadRun h.port addr start max) hl hpass rfl
      (Device.lastwordsReadRun_none (d := s.dev.fresh.openCommand 0x0B08 h) haddr hstart hpos hmax hnone)
  · exact .of_command (Device.lastwordsReadRun h.port addr start max) hl hpass rfl
      (Device.lastwordsReadRun_some (d := s.dev.fresh.openCommand 0x0B08 h) haddr hstart hpos hmax rfl hsome)
  · exact .of_act Device.seedbankCommit hl rfl (Device.seedbankCommit_started (d := s.dev.fresh) hw ho)
  · exact Device.seedCommand_atLimit hlimit
  · exact Device.seedCommand_powerFail hlimit hfail
  · exact Device.seedCommand_starts hlimit hfail hnone hsvn hpasses
  · exact Device.seedCommand_refused hlimit hfail hnone hsvn hshort

end Sys2Proof.Machine
end

section
/-! Register reads and writes, reserved accesses and parity faults (R444, R462-R466, R507). -/

namespace Sys2Proof.Machine

/-! ### Reads (R463, R464) -/

section
variable {d : Device} {req : Requester} {off : Nat} {part : RegPart}

theorem Device.registerRead_unheard (h : d.hears req = false) : d.registerRead req off part = d := if_pos (by rw [h]; rfl)

variable (hears : d.hears req = true)
include hears

theorem Device.registerRead_reserved (h : d.accessAt req off part = none) : d.registerRead req off part = d.readReserved req off := by
  simp only [Device.registerRead, hears, h, Bool.not_true, Bool.false_eq_true, if_false]

variable {reg : Nat} {r : Reg} {p : RegPart} (h : d.accessAt req off part = some (reg, r, p))
include h

theorem Device.registerRead_narrow (hr : r.wide = false) :
    d.registerRead req off part = d.emit (.readDone req (.value (BitVec.ofNat 64 r.value))) := by
  simp only [Device.registerRead, hears, h, hr, Bool.not_true, Bool.false_eq_true, if_false]

theorem Device.registerRead_wide (hr : r.wide = true) : d.registerRead req off part =
    (d.readStaged req reg p (BitVec.ofNat 64 r.value)).2.emit
      (.readDone req (.value (d.readStaged req reg p (BitVec.ofNat 64 r.value)).1)) := by
  simp only [Device.registerRead, hears, h, hr, Bool.not_true, Bool.false_eq_true, if_false, if_true]

end

/-- The high half that a read of the low half of the same register left is what a read of the high half answers. -/
theorem Device.readStaged_shadowed {d : Device} {req : Requester} {reg : Nat} {sh : Shadow} (v : Word64)
    (h : d.readShadow[req.index] = some sh) (hreg : sh.reg = reg) : d.readStaged req reg .hi v = (sh.value.setWidth 64, d) := by
  simp only [Device.readStaged, h, hreg, if_true]

/-! ### Writes (R464, R466, R507) -/

section
variable {d : Device} {req : Requester} {off : Nat} {part : RegPart} {v : Word64}

theorem Device.regWrite_unheard (h : d.hears req = false) : d.regWrite req off part v = d := if_pos (by rw [h]; rfl)

variable (hears : d.hears req = true)
include hears

theorem Device.regWrite_reserved (h : d.accessAt req off part = none) : d.regWrite req off part v = d.writeReserved req off := by
  simp only [Device.regWrite, hears, h, Bool.not_true, Bool.false_eq_true, if_false]

theorem Device.regWrite_register {reg : Nat} {r : Reg} {p : RegPart} (h : d.accessAt req off part = some (reg, r, p)) :
    d.regWrite req off part v = d.writeBy req off (ownPage req off) (Device.writeReg req reg p v) := by
  simp only [Device.regWrite, hears, h, Bool.not_true, Bool.false_eq_true, if_false]

end

/-- A requester that may write a register is heard. -/
theorem Device.hears_of_mayWrite {d : Device} {req : Requester} {own : Option (Fin 2)} (h : d.mayWrite req own = true) :
    d.hears req = true := by
  cases req with
  | port p => exact (Bool.and_eq_true_iff.1 h).1
  | core c => rfl
  | smbus => cases h
  | jtag => cases h

section
variable {d : Device} {p : Fin 2} (off : Nat)

theorem Device.reservedAccess_linkDown (w : Bool) (h : d.linkUp p = false) : d.reservedAccess p off w = d := if_pos (by rw [h]; rfl)

theorem Device.reservedAccess_linkUp (w : Bool) (h : d.linkUp p = true) :
    d.reservedAccess p off w = if w then d.writeReserved (.port p) off else d.readReserved (.port p) off :=
  if_neg (by rw [h]; decide)

end

/-! ### Parity faults (R465) -/

/-- What a program needs of a block depends on the mode of the arrays, on objects and on the job alone. -/
theorem Device.needsBlock_congr {d e : Device} (hinteg : d.integ = e.integ) (hmem : d.mem = e.mem) (hfab : d.fab = e.fab) (p : Program)
    (b : Nat) : d.needsBlock p b = e.needsBlock p b := by
  have harrays : d.laneArrays = e.laneArrays := funext fun n => by simp only [Device.laneArrays, hinteg]
  simp only [Device.needsBlock, Device.programArrays, Device.usesStack, Device.obj?, Device.joined, harrays, hinteg, hmem, hfab]

/-- FAULTED changes a block's own status. -/
theorem Device.faultStatus_keeps {α : Type} (b : Nat) (d : Device) (π : Device → α)
    (h : ∀ (d : Device) ports arrays tun evr, π { d with ports := ports, arrays := arrays, tun := tun, evr := evr } = π d) :
    π (d.faultStatus b) = π d := by
  simp only [Device.faultStatus, Device.updArray]
  split
  · exact h d _ d.arrays d.tun d.evr
  split
  · exact h d d.ports _ d.tun d.evr
  split
  · exact h d d.ports d.arrays _ d.evr
  split
  · exact h d d.ports d.arrays d.tun _
  · rfl

section
variable {d : Device} {b : Nat}

theorem Device.parityFault_none (h : 49 ≤ b) : d.parityFault b = d := if_pos h

/-- A parity fault of a block other than the EVR, up to the steps and commands that need it. -/
def Device.blockFault (d : Device) (b : Nat) : Device :=
  ((d.updIntc fun i => { i with parity := i.parity ||| (1#49 <<< b), faultParity := true }).logEvent 0x0A02 .error b 0
    (blockSource b)).faultStatus b

theorem Device.blockFault_needsBlock (d : Device) (b : Nat) (p : Program) (n : Nat) :
    (d.blockFault b).needsBlock p n = d.needsBlock p n := by
  refine Device.needsBlock_congr ?_ ?_ ?_ p n
  · exact (Device.faultStatus_keeps b _ Device.integ fun _ _ _ _ _ => rfl).trans (by rw [Device.logEvent_frame]; rfl)
  · exact (Device.faultStatus_keeps b _ Device.mem fun _ _ _ _ _ => rfl).trans (by rw [Device.logEvent_frame]; rfl)
  · exact (Device.faultStatus_keeps b _ Device.fab fun _ _ _ _ _ => rfl).trans (by rw [Device.logEvent_frame]; rfl)

theorem Device.parityFault_block (hb : b < 49) (hevr : b ≠ 44) : d.parityFault b =
    ((d.blockFault b).faultAll fun p => !p.steps.isEmpty && d.needsBlock p b).faultCommands b := by
  have hneeds : (fun p : Program => !p.steps.isEmpty && (d.blockFault b).needsBlock p b) = fun p => !p.steps.isEmpty && d.needsBlock p b :=
    funext fun p => by rw [Device.blockFault_needsBlock]
  rw [← hneeds, Device.parityFault, if_neg (Nat.not_le.2 hb)]
  simp only [if_neg hevr]
  rfl

theorem Device.parityFault_evr : d.parityFault 44 =
    (let d' := d.updIntc fun i => { i with parity := i.parity ||| (1#49 <<< 44), faultParity := true }
    ({ d' with evr := { d'.evr with faulted := true, accepting := false } }.faultAll fun p =>
      !p.steps.isEmpty && d.needsBlock p 44)) := rfl

end

/-- Settles O43: what each access makes of a device follows from whether its requester is heard and which register it names. -/
theorem registerRowsComplete : Obligations.RegisterRowsComplete := by
  intro s hl
  refine ⟨fun req off part v h => ⟨?_, ?_⟩, fun req off part reg r p hears h => ⟨fun hr => ?_, fun hr hp => ?_, fun hr hp => ?_,
      fun sh hr hp hsh hreg => ?_⟩, fun req off part v reg r p hw h => ?_, fun p off part v reg r q hup hadmin hown h => ?_,
    fun p off hup => ⟨?_, ?_, fun part v h => ⟨?_, ?_⟩⟩, fun p off w hdown => ?_, fun c off part v h => ⟨?_, ?_⟩, fun b hb => ?_,
    fun b hb hevr => ?_, ?_⟩
  · exact .of_act (Device.registerRead req off.toNat part) hl rfl (Device.registerRead_unheard (d := s.dev.fresh) h)
  · exact .of_act (Device.regWrite req off.toNat part v) hl rfl (Device.regWrite_unheard (d := s.dev.fresh) h)
  · exact .of_act (Device.registerRead req off.toNat part) hl rfl (Device.registerRead_narrow (d := s.dev.fresh) hears h hr)
  · subst hp
    exact .of_act (Device.registerRead req off.toNat part) hl rfl (Device.registerRead_wide (d := s.dev.fresh) hears h hr)
  · subst hp
    exact .of_act (Device.registerRead req off.toNat part) hl rfl (Device.registerRead_wide (d := s.dev.fresh) hears h hr)
  · subst hp
    refine .of_act (Device.registerRead req off.toNat part) hl rfl ((Device.registerRead_wide (d := s.dev.fresh) hears h hr).trans ?_)
    rw [Device.readStaged_shadowed (d := s.dev.fresh) _ hsh hreg]
  · exact .of_act (Device.regWrite req off.toNat part v) hl rfl
      ((Device.regWrite_register (d := s.dev.fresh) (Device.hears_of_mayWrite hw) h).trans (Device.writeBy_of_mayWrite _ _ hw))
  · exact .of_act (Device.regWrite (.port p) off.toNat part v) hl rfl
      ((Device.regWrite_register (d := s.dev.fresh) (req := .port p) hup h).trans
        (Device.writeBy_refused (d := s.dev.fresh) _ hup (decide_eq_false hadmin) hown))
  · exact .of_act (Device.reservedAccess p off.toNat true) hl rfl (Device.reservedAccess_linkUp (d := s.dev.fresh) _ true hup)
  · exact .of_act (Device.reservedAccess p off.toNat false) hl rfl (Device.reservedAccess_linkUp (d := s.dev.fresh) _ false hup)
  · exact .of_act (Device.registerRead (.port p) off.toNat part) hl rfl
      (Device.registerRead_reserved (d := s.dev.fresh) (req := .port p) hup h)
  · exact .of_act (Device.regWrite (.port p) off.toNat part v) hl rfl
      (Device.regWrite_reserved (d := s.dev.fresh) (req := .port p) hup h)
  · exact .of_act (Device.reservedAccess p off.toNat w) hl rfl (Device.reservedAccess_linkDown (d := s.dev.fresh) _ w hdown)
  · exact .of_act (Device.registerRead (.core c) off.toNat part) hl rfl
      (Device.registerRead_reserved (d := s.dev.fresh) (req := .core c) rfl h)
  · exact .of_act (Device.regWrite (.core c) off.toNat part v) hl rfl
      (Device.regWrite_reserved (d := s.dev.fresh) (req := .core c) rfl h)
  · exact .of_act (Device.parityFault b.toNat) hl rfl (Device.parityFault_none hb)
  · exact .of_act (Device.parityFault b.toNat) hl rfl (Device.parityFault_block (d := s.dev.fresh) hb hevr)
  · exact .of_act (Device.parityFault 44) hl rfl (Device.parityFault_evr (d := s.dev.fresh))

end Sys2Proof.Machine
end

section
/-! The rows of the PCIe links and of MSI-X (R502, R503, R505, R507, R509, R510, R516, R528). -/

namespace Sys2Proof.Machine

/-- `Runs` from the function a row of a pin acts by on a device that runs. -/
theorem Runs.of_actPin {c : Instr} {s : State} {f : Device → Device} (g g' : Device → Device) (h : s.dev.live = true)
    (he : exec c s = s.actPin g g') (hg : g s.dev.fresh = f s.dev.fresh) : Runs c s f := by
  rw [Runs, he, State.actPin_live h, hg, State.after]

/-! ### Changes of a link (R505) -/

section
variable {d : Device} {p : Fin 2} {f : HostPort → HostPort}

theorem Device.linkUp_updPort : (d.updPort p f).linkUp p = (f d.ports[p]).linkUp := by
  rw [Device.linkUp, Device.updPort_port_same]

/-- A change under which a port's link stays as it was is neither counted nor logged. -/
theorem Device.changeLink_same (h : (f d.ports[p]).linkUp = d.linkUp p) : d.changeLink p f = d.updPort p f := by
  have hafter : (d.updPort p f).linkUp p = d.linkUp p := Device.linkUp_updPort.trans h
  simp only [Device.changeLink, Device.linkChanged, hafter]
  cases d.linkUp p <;> rfl

theorem Device.changeLink_down (hup : d.linkUp p = true) (hdown : (f d.ports[p]).linkUp = false) : d.changeLink p f =
    (d.updPort p fun q => { f q with downCount := bump (f q).downCount, downSince := d.tb.now }).logEvent 0x0008 .warn p.val 0
      (srcIntake p) := by
  simp only [Device.changeLink, Device.linkChanged, hup, Device.linkUp_updPort.trans hdown, Device.updPort_updPort]
  rfl

theorem Device.changeLink_up (hdown : d.linkUp p = false) (hup : (f d.ports[p]).linkUp = true) : d.changeLink p f =
    (d.updPort p f).logEvent 0x0009 .info p.val ((d.updPort p f).linkWord p) (srcIntake p) := by
  simp only [Device.changeLink, Device.linkChanged, hdown, Device.linkUp_updPort.trans hup]

/-! ### The links' rows (R505, R509, R510, R516, R528) -/

theorem Device.perstRelease_asserted (h : d.ports[p].perst = true) (hdl : d.ports[p].dlUp = false) :
    d.perstRelease p = (d.updPort p fun q => { q with perst := false }).emit (.pcieTraining p) := by
  have hdown : ({ d.ports[p] with perst := false } : HostPort).linkUp = d.linkUp p := by
    simp only [Device.linkUp, HostPort.linkUp, hdl, Bool.false_and]
  rw [Device.perstRelease, if_pos h, Device.changeLink_same (f := fun q => { q with perst := false }) hdown]

theorem Device.linkRise_perst (w : BitVec 5) (sp : BitVec 3) (en mask : Bool) (h : d.ports[p].perst = true) :
    d.linkRise p w sp en mask = d := if_pos h

theorem Device.linkRise_down (w : BitVec 5) (sp : BitVec 3) (en mask : Bool) (h : d.ports[p].perst = false) (hdown : d.linkUp p = false) :
    d.linkRise p w sp en mask =
      (let e := d.updPort p fun q =>
        { q with dlUp := true, d3hot := false, width := w, speed := sp, msixEnable := en, msixMask := mask }
      let e := e.logEvent 0x0009 .info p.val (e.linkWord p) (srcIntake p)
      if en && !mask then e.sendPending p else e) := by
  have hup : ({ d.ports[p] with
      dlUp := true, d3hot := false, width := w, speed := sp, msixEnable := en, msixMask := mask } : HostPort).linkUp = true := by
    simp only [HostPort.linkUp, h]
    rfl
  rw [Device.linkRise, if_neg (ne_true_of_eq_false h)]
  rw [Device.changeLink_up (f := fun q =>
    { q with dlUp := true, d3hot := false, width := w, speed := sp, msixEnable := en, msixMask := mask }) hdown hup]

theorem Device.poisoned_up (h : d.linkUp p = true) : d.poisoned p = d.emit (.aerPoisoned p) := if_pos h

theorem Device.poisoned_down (h : d.linkUp p = false) : d.poisoned p = d := if_neg (ne_true_of_eq_false h)

end

/-! ### MSI-X (R503, R507) -/

/-- A message is sent where nothing holds it back. -/
theorem Device.msix_emits {d : Device} {p : Fin 2} {v : BitVec 8} (hen : d.ports[p].msixEnable = true) (hup : d.linkUp p = true)
    (hmask : d.ports[p].msixMask = false) (hentry : (d.ports[p].msix[v.toNat]'v.isLt).masked = false) : d.msix p v = d.emit (.msix p v) := by
  rw [Device.linkUp] at hup
  simp only [Device.msix, hen, hup, hmask, hentry, Bool.not_true, Bool.or_self, Bool.false_eq_true, if_false]

section
variable {d : Device} {req : Requester} {p : Fin 2} {v : BitVec 8}

theorem Device.msixUnmask_unreached (h : reachesMsix req p = false ∨ d.hears req = false) : d.msixUnmask req p v = d :=
  if_neg fun hboth => by
    obtain ⟨hreach, hhears⟩ := Bool.and_eq_true_iff.1 hboth
    exact h.elim (fun h => absurd hreach (ne_true_of_eq_false h)) fun h => absurd hhears (ne_true_of_eq_false h)

variable (hreach : reachesMsix req p = true) (hhears : d.hears req = true)
include hreach hhears

theorem Device.msixUnmask_reached : d.msixUnmask req p v = d.clearMask p ⟨v.toNat, v.isLt⟩ :=
  if_pos (Bool.and_eq_true_iff.2 ⟨hreach, hhears⟩)

/-- A pending bit outlasts the clearing of its mask bit while its port sends no message. -/
theorem Device.msixUnmask_held (h : d.ports[p].msixEnable = false ∨ d.ports[p].msixMask = true ∨ d.linkUp p = false) :
    d.msixUnmask req p v =
      d.updPort p fun q => { q with msix := Bank.upd q.msix ⟨v.toNat, v.isLt⟩ fun e => { e with masked := false } } := by
  have hheld : (!d.ports[p].msixEnable || d.ports[p].msixMask || !d.linkUp p) = true := by
    rcases h with h | h | h <;> rw [h] <;> simp
  rw [Device.msixUnmask_reached hreach hhears, Device.clearMask, if_pos hheld]

variable (hen : d.ports[p].msixEnable = true) (hmask : d.ports[p].msixMask = false) (hup : d.linkUp p = true)
include hen hmask hup

theorem Device.msixUnmask_sends : d.msixUnmask req p v = d.unmask p ⟨v.toNat, v.isLt⟩ := by
  have hsends : ¬ (!d.ports[p].msixEnable || d.ports[p].msixMask || !d.linkUp p) = true := by rw [hen, hmask, hup]; decide
  rw [Device.msixUnmask_reached hreach hhears, Device.clearMask, if_neg hsends]

theorem Device.msixUnmask_notPending (h : d.ports[p].msix[v.toNat].pend = false) : d.msixUnmask req p v =
    d.updPort p fun q => { q with msix := Bank.upd q.msix ⟨v.toNat, v.isLt⟩ fun e => { e with masked := false, pend := false } } :=
  (Device.msixUnmask_sends hreach hhears hen hmask hup).trans (if_neg (ne_true_of_eq_false h))

theorem Device.msixUnmask_pending (h : d.ports[p].msix[v.toNat].pend = true) : d.msixUnmask req p v =
    (d.updPort p fun q => { q with msix := Bank.upd q.msix ⟨v.toNat, v.isLt⟩ fun e =>
      { e with masked := false, pend := false } }).emit (.msix p v) := by
  refine (Device.msixUnmask_sends hreach hhears hen hmask hup).trans ((if_pos h).trans ?_)
  rw [show BitVec.ofNat 8 (Fin.val (n := 256) ⟨v.toNat, v.isLt⟩) = v from (BitVec.ofNat_toNat 8 v).trans (BitVec.setWidth_eq v)]
  refine Device.msix_emits ?_ (Device.linkUp_updPort.trans hup) ?_ ?_ <;> rw [Device.updPort_port_same]
  · exact hen
  · exact hmask
  · exact congrArg MsixEntry.masked (Bank.upd_same d.ports[p].msix ⟨v.toNat, v.isLt⟩ fun e => { e with masked := false, pend := false })

end

/-- Settles O45: each row changes its port's link by one of the equations above, or an MSI-X entry. -/
theorem hostLinkRowsComplete : Obligations.HostLinkRowsComplete := by
  intro s p hl
  refine ⟨fun hdown => ?_, fun hup => ?_, fun hperst hdl => ?_, fun hperst => ?_, fun hup => ?_, fun hup => ⟨?_, ?_⟩,
    fun w sp en mask hperst => ?_, fun w sp en hperst hdown => ?_, fun w sp hperst hdown => ?_, fun hup => ?_, fun hdown => ?_,
    fun req v h => ?_, fun req v hreach hhears => ⟨fun hen hmask hup => ⟨fun h => ?_, fun h => ?_⟩, fun h => ?_⟩⟩
  · exact .of_actPin (Device.perstAssert p) _ hl rfl
      (congrArg (Device.stopPort · p) (Device.changeLink_same (d := s.dev.fresh)
        (f := fun q => { q.dropLink.configDefault with perst := true }) hdown.symm))
  · exact .of_actPin (Device.perstAssert p) _ hl rfl
      (congrArg (Device.stopPort · p) (Device.changeLink_down (d := s.dev.fresh)
        (f := fun q => { q.dropLink.configDefault with perst := true }) hup rfl))
  · exact .of_actPin (Device.perstRelease p) _ hl rfl (Device.perstRelease_asserted (d := s.dev.fresh) hperst hdl)
  · exact .of_actPin (Device.perstRelease p) _ hl rfl (if_neg (ne_true_of_eq_false hperst))
  · exact .of_act (Device.hotReset p) hl rfl
      (congrArg (Device.stopPort · p) (Device.changeLink_down (d := s.dev.fresh) (f := fun q => q.dropLink.configDefault) hup rfl))
  · exact .of_act (Device.linkDown p false) hl rfl (Device.changeLink_down (d := s.dev.fresh) hup rfl)
  · exact .of_act (Device.linkDown p true) hl rfl (Device.changeLink_down (d := s.dev.fresh) hup (Bool.and_false _))
  · exact .of_act (Device.linkRise p w sp en mask) hl rfl (Device.linkRise_perst (d := s.dev.fresh) w sp en mask hperst)
  · exact .of_act (Device.linkRise p w sp en true) hl rfl
      ((Device.linkRise_down (d := s.dev.fresh) w sp en true hperst hdown).trans (if_neg (by rw [Bool.not_true, Bool.and_false]; decide)))
  · exact .of_act (Device.linkRise p w sp true false) hl rfl
      ((Device.linkRise_down (d := s.dev.fresh) w sp true false hperst hdown).trans (if_pos rfl))
  · exact .of_act (Device.poisoned p) hl rfl (Device.poisoned_up (d := s.dev.fresh) hup)
  · exact .of_act (Device.poisoned p) hl rfl (Device.poisoned_down (d := s.dev.fresh) hdown)
  · exact .of_act (Device.msixUnmask req p v) hl rfl (Device.msixUnmask_unreached (d := s.dev.fresh) h)
  · exact .of_act (Device.msixUnmask req p v) hl rfl (Device.msixUnmask_pending (d := s.dev.fresh) hreach hhears hen hmask hup h)
  · exact .of_act (Device.msixUnmask req p v) hl rfl (Device.msixUnmask_notPending (d := s.dev.fresh) hreach hhears hen hmask hup h)
  · exact .of_act (Device.msixUnmask req p v) hl rfl (Device.msixUnmask_held (d := s.dev.fresh) hreach hhears h)

end Sys2Proof.Machine
end

section
/-! The SMBus board port and the JTAG port (R483, R511, R512, R529, R530). -/

namespace Sys2Proof.Machine

/-! ### SMBus (R511, R512) -/

/-- The first field of a list adds its value at its place. -/
theorem fieldsOf_cons (low width value : Nat) (fs : List (Nat × Nat × Nat)) :
    fieldsOf ((low, width, value) :: fs) = value % 2 ^ width * 2 ^ low + fieldsOf fs :=
  sumOf_cons ..

theorem fieldsOf_nil : fieldsOf [] = 0 := rfl

/-- The answer to a block read of a command code: its data, and the PEC over the whole message. -/
def Device.smbAnswer (code : Byte) (bs : List Byte) (d : Device) : Device :=
  d.emit (.smb bs (smbPec ([0xB4, code, 0xB5, BitVec.ofNat 8 bs.length] ++ bs)))

section
variable {d : Device} {code : Nat} {bs : List Byte}

theorem Device.smbRead_data (h : d.smbData code = some bs) (hcause : code ≠ 0x05) :
    d.smbRead code = d.smbAnswer (BitVec.ofNat 8 code) bs := by
  simp only [Device.smbRead, h, if_neg hcause]
  rfl

theorem Device.smbRead_cause : d.smbRead 0x05 =
    { d.smbAnswer 0x05 (bytesOf 4 d.smb.alert.toNat) with smb := { d.smb with alert := 0 } } := by
  rw [← List.append_nil (bytesOf 4 d.smb.alert.toNat)]
  rfl

theorem Device.smbRead_nack (h : code ∉ [0x00, 0x01, 0x02, 0x03, 0x04, 0x05, 0x11]) : d.smbRead code = d.emit .smbNack := by
  have hnone : d.smbData code = none := by
    unfold Device.smbData
    split <;> first | rfl | exact absurd (by decide) h
  simp only [Device.smbRead, hnone]

/-- The fields of DEVICE_INFO put together. -/
theorem Device.smbData_deviceInfo : d.smbData 0x00 = some (bytesOf 8
    (8 + 2 ^ 8 * Config.ctrlStepping.toNat + 2 ^ 16 * d.sec.state.code + 2 ^ 18 * d.sec.ready.toNat
      + 2 ^ 19 * d.admin.port.val + 2 ^ 20 * (d.linkUp 0).toNat + 2 ^ 21 * (d.linkUp 1).toNat)) := by
  have hstep : Config.ctrlStepping.toNat < 2 ^ 8 := Config.ctrlStepping.isLt.trans (by decide)
  have hcode : d.sec.state.code < 2 ^ 2 := by cases d.sec.state <;> decide
  have hport : d.admin.port.val < 2 ^ 1 := d.admin.port.isLt
  have hbit (b : Bool) : b.toNat < 2 ^ 1 := by cases b <;> decide
  have hfields : fieldsOf [(0, 8, 8), (8, 8, Config.ctrlStepping.toNat), (16, 2, d.sec.state.code), (18, 1, d.sec.ready.toNat),
      (19, 1, d.admin.port.val), (20, 1, (d.linkUp 0).toNat), (21, 1, (d.linkUp 1).toNat)] =
      8 + 2 ^ 8 * Config.ctrlStepping.toNat + 2 ^ 16 * d.sec.state.code + 2 ^ 18 * d.sec.ready.toNat
        + 2 ^ 19 * d.admin.port.val + 2 ^ 20 * (d.linkUp 0).toNat + 2 ^ 21 * (d.linkUp 1).toNat := by
    simp only [fieldsOf_cons, fieldsOf_nil, Nat.mod_eq_of_lt hstep, Nat.mod_eq_of_lt hcode, Nat.mod_eq_of_lt hport,
      Nat.mod_eq_of_lt (hbit _)]
    omega
  simp only [Device.smbData, List.flatMap_cons, List.flatMap_nil, List.append_nil, hfields]

theorem Device.smbData_regRead : d.smbData 0x11 =
    some (bytesOf 8 (((d.regAt .smbus d.smb.regOffset.toNat).map Reg.value).getD 0)) :=
  congrArg some (List.append_nil _)

theorem Device.smbData_power : d.smbData 0x01 = some (bytesOf 2 d.bel.estimate.toNat ++ bytesOf 2 d.bel.target.toNat
    ++ bytesOf 2 d.bel.measured.toNat ++ bytesOf 2 (min d.bel.supply.toNat d.bel.converterW)) := by
  simp only [Device.smbData, List.flatMap_cons, List.flatMap_nil, List.append_nil, List.append_assoc]

theorem Device.smbData_eventSummary : d.smbData 0x04 =
    some (bytesOf 8 d.evr.countsReg.value ++ bytesOf 8 d.evr.dropsReg.value ++ bytesOf 8 d.evr.summaryReg.value) := by
  simp only [Device.smbData, List.flatMap_cons, List.flatMap_nil, List.append_nil, List.append_assoc]

end

section
variable {d : Device} {v : Word32} {pec : Option Byte}

theorem Device.smbWrite_nack {code : Nat} (h : code ≠ 0x10) : d.smbWrite code v pec = d.emit .smbNack := if_pos h

theorem Device.smbWrite_offset : d.smbWrite 0x10 v none = { d with smb := { d.smb with regOffset := v } } := rfl

theorem Device.smbWrite_checked (c : Byte) : d.smbWrite 0x10 v (some c) =
    if c = smbPec ([0xB4, 0x10, 4] ++ bytesOf 4 v.toNat) then { d with smb := { d.smb with regOffset := v } } else d := by
  rw [Device.smbWrite, if_neg (not_not_intro rfl)]
  simp only [Option.all_some, beq_iff_eq]
  rfl

theorem Device.alertResponse_quiet (h : d.smb.alert = 0) : d.alertResponse = d.emit .smbNack := if_pos h

theorem Device.alertResponse_asserted (h : d.smb.alert ≠ 0) : d.alertResponse = d.emit (.smb [0x5A] (smbPec [0x19, 0x5A])) := if_neg h

end

/-! ### JTAG (R483, R529, R530) -/

section
variable {d : Device} (scan : List TapPins)

theorem Device.tapScan_seed : (d.tapScan scan).seed = d.seed := by
  unfold Device.tapScan
  split
  · rfl
  · dsimp only
    split <;> rfl

variable {scan} (target : DebugTarget) (halt : Bool)

theorem Device.debugSet_unreached (h : d.seed.debugDisabled = true ∨ (d.tapScan scan).pins.tap.state = .testLogicReset) :
    (d.tapScan scan).debugSet target halt = d.tapScan scan := by
  have hunreached : ((d.tapScan scan).seed.debugDisabled || (d.tapScan scan).pins.tap.state == .testLogicReset) = true := by
    rw [Device.tapScan_seed]
    rcases h with h | h <;> rw [h] <;> simp
  exact if_pos hunreached

theorem Device.debugSet_reached (hdebug : d.seed.debugDisabled = false) (htap : (d.tapScan scan).pins.tap.state ≠ .testLogicReset) :
    (d.tapScan scan).debugSet target halt = match target with
      | .core c => (d.tapScan scan).updCore c fun k => { k with debugHalted := halt }
      | .array n => (d.tapScan scan).updArray n fun a => { a with debugFrozen := halt } := by
  have hreached : ¬ ((d.tapScan scan).seed.debugDisabled || (d.tapScan scan).pins.tap.state == .testLogicReset) = true := by
    rw [Device.tapScan_seed, hdebug, beq_eq_false_iff_ne.2 htap]
    decide
  exact (if_neg hreached).trans (by cases target <;> rfl)

end

section
variable (debug : Bool) (free : Nat) (t : Tap) (tms tdi : Bool)

/-- TRST_N low holds the TAP in Test-Logic-Reset. -/
theorem Tap.clock_trst : (Tap.clock debug free t ⟨false, tms, tdi⟩).1.state = .testLogicReset := rfl

theorem Tap.clock_state : (Tap.clock debug free t ⟨true, tms, tdi⟩).1.state = t.state.next tms := by
  simp only [Tap.clock, Bool.not_true, Bool.false_eq_true, if_false]
  cases t.state <;> simp only <;> split <;> rfl

theorem Tap.clock_capture (hinstr : t.instr = .idcode) (hstate : t.state = .captureDr) :
    (Tap.clock debug free t ⟨true, tms, tdi⟩).1.shift = bitsOf idcode := by
  simp only [Tap.clock, hstate, hinstr, Bool.not_true, Bool.false_eq_true, if_false]
  split <;> rfl

end

/-- Settles O47: an SMBus row reads or writes a command code by one of the equations above, and a debug request acts after its scan. -/
theorem boardPortRowsComplete : Obligations.BoardPortRowsComplete := by
  intro s hl answer offset
  refine ⟨?_, ?_, ?_, ?_, ?_, ?_, fun v => ⟨?_, ?_, fun c hne => ?_⟩, fun r hreg => ?_, fun hnone => ?_,
    fun code d h => Device.smbRead_nack h, fun code v pec d h => Device.smbWrite_nack h, fun h => ?_, fun h => ?_,
    fun x scan h => ⟨?_, ?_⟩, fun scan hdebug htap => ⟨fun c => ⟨?_, ?_⟩, fun n => ⟨?_, ?_⟩⟩,
    fun debug free t tms tdi => ⟨Tap.clock_trst .., Tap.clock_state .., Tap.clock_capture debug free t tms tdi⟩⟩
  · exact .of_act (Device.smbRead 0x00) hl rfl (Device.smbRead_data (d := s.dev.fresh) Device.smbData_deviceInfo (by decide))
  · exact .of_act (Device.smbRead 0x01) hl rfl (Device.smbRead_data (d := s.dev.fresh) Device.smbData_power (by decide))
  · exact .of_act (Device.smbRead 0x02) hl rfl
      (Device.smbRead_data (d := s.dev.fresh) (congrArg some (List.append_nil _)) (by decide))
  · exact .of_act (Device.smbRead 0x03) hl rfl
      (Device.smbRead_data (d := s.dev.fresh) (congrArg some (List.append_nil _)) (by decide))
  · exact .of_act (Device.smbRead 0x04) hl rfl (Device.smbRead_data (d := s.dev.fresh) Device.smbData_eventSummary (by decide))
  · exact .of_act (Device.smbRead 0x05) hl rfl (Device.smbRead_cause (d := s.dev.fresh))
  · exact .of_act (Device.smbWrite 0x10 v none) hl rfl rfl
  · exact .of_act (Device.smbWrite 0x10 v (some (offset v))) hl rfl ((Device.smbWrite_checked (d := s.dev.fresh) _).trans (if_pos rfl))
  · exact .of_act (Device.smbWrite 0x10 v (some c)) hl rfl ((Device.smbWrite_checked (d := s.dev.fresh) c).trans (if_neg hne))
  · refine .of_act (Device.smbRead 0x11) hl rfl (Device.smbRead_data (d := s.dev.fresh) (Device.smbData_regRead.trans ?_) (by decide))
    rw [show s.dev.fresh.regAt .smbus s.dev.fresh.smb.regOffset.toNat = _ from hreg]
    rfl
  · refine .of_act (Device.smbRead 0x11) hl rfl (Device.smbRead_data (d := s.dev.fresh) (Device.smbData_regRead.trans ?_) (by decide))
    rw [show s.dev.fresh.regAt .smbus s.dev.fresh.smb.regOffset.toNat = _ from hnone]
    rfl
  · exact .of_act Device.alertResponse hl rfl (Device.alertResponse_quiet (d := s.dev.fresh) h)
  · exact .of_act Device.alertResponse hl rfl (Device.alertResponse_asserted (d := s.dev.fresh) h)
  · exact .of_act (fun d => (d.tapScan scan).debugSet x true) hl rfl (Device.debugSet_unreached (d := s.dev.fresh) x true h)
  · exact .of_act (fun d => (d.tapScan scan).debugSet x false) hl rfl (Device.debugSet_unreached (d := s.dev.fresh) x false h)
  · exact .of_act (fun d => (d.tapScan scan).debugSet (.core c) true) hl rfl
      (Device.debugSet_reached (d := s.dev.fresh) (.core c) true hdebug htap)
  · exact .of_act (fun d => (d.tapScan scan).debugSet (.core c) false) hl rfl
      (Device.debugSet_reached (d := s.dev.fresh) (.core c) false hdebug htap)
  · exact .of_act (fun d => (d.tapScan scan).debugSet (.array n) true) hl rfl
      (Device.debugSet_reached (d := s.dev.fresh) (.array n) true hdebug htap)
  · exact .of_act (fun d => (d.tapScan scan).debugSet (.array n) false) hl rfl
      (Device.debugSet_reached (d := s.dev.fresh) (.array n) false hdebug htap)

end Sys2Proof.Machine
end

section
/-! FRAME_RECEIVE (R355-R358, R362): what a frame comes to by its port, its FCS, its LSN, its job and its type. -/

namespace Sys2Proof.Machine

/-! ### Changes of an Octing port -/

section
variable {d : Device} {p : Fin 8} {f g : OctPort → OctPort}

theorem Device.updOct_congr (h : f d.fab.ports[p] = g d.fab.ports[p]) : d.updOct p f = d.updOct p g :=
  congrArg (fun b => { d with fab := { d.fab with ports := b } }) (Bank.upd_congr h)

theorem Device.updOct_eq_self (h : f d.fab.ports[p] = d.fab.ports[p]) : d.updOct p f = d :=
  congrArg (fun b => { d with fab := { d.fab with ports := b } }) (Bank.upd_eq_self h)

end

/-- An acknowledgement finds nothing to release in an empty replay buffer. -/
theorem OctPort.release_empty {q : OctPort} (now : Tick) (acked : Word16) (h : q.replay = []) : q.release now acked = q := by
  simp only [OctPort.release, h, List.filter_nil, if_true]

theorem Device.linkAck_empty {d : Device} {p : Fin 8} (acked : Word16) (h : d.fab.ports[p].replay = []) : d.linkAck p acked = d := by
  rw [Device.linkAck]
  split
  · exact Device.updOct_eq_self (OctPort.release_empty _ _ h)
  · rfl

/-! ### A frame on the wire (R355, R356) -/

section
variable {d : Device} {p : Fin 8} {f : Frame} {lockstep : Bool}

theorem Device.frameReceive_down (ok : Bool) (h : d.fab.ports[p].up = false) : d.frameReceive p f ok lockstep = d :=
  if_pos (by rw [h]; rfl)

variable (hup : d.fab.ports[p].up = true)
include hup

theorem Device.frameReceive_badFcs : d.frameReceive p f false lockstep =
    if d.fab.ports[p].mode = .direct then d.dropFrame.emitLink p .linkNak false else d.dropFrame := by
  simp only [Device.frameReceive, hup, Bool.not_true, Bool.not_false, Bool.false_eq_true, if_false, if_true]

theorem Device.frameReceive_goodFcs : d.frameReceive p f true lockstep =
    if f.ethertype ≠ d.fab.ports[p].ethertype || !d.joined || f.jobTag ≠ d.fab.jobTag then d.dropFrame
    else if f.version ≠ 1 then d
    else if d.fab.ports[p].mode = .direct then d.linkFrame p f lockstep
    else d.routeFrame p f lockstep := by
  simp only [Device.frameReceive, hup, Bool.not_true, Bool.false_eq_true, if_false]

theorem Device.frameReceive_foreign (h : f.ethertype ≠ d.fab.ports[p].ethertype ∨ d.joined = false ∨ f.jobTag ≠ d.fab.jobTag) :
    d.frameReceive p f true lockstep = d.dropFrame := by
  rw [Device.frameReceive_goodFcs hup]
  exact if_pos (by simpa only [Bool.or_eq_true, decide_eq_true_eq, Bool.not_eq_true', or_assoc] using h)

variable (htype : f.ethertype = d.fab.ports[p].ethertype) (hjoined : d.joined = true) (htag : f.jobTag = d.fab.jobTag)
include htype hjoined htag

theorem Device.frameReceive_ofJob : d.frameReceive p f true lockstep =
    if f.version ≠ 1 then d
    else if d.fab.ports[p].mode = .direct then d.linkFrame p f lockstep
    else d.routeFrame p f lockstep := by
  rw [Device.frameReceive_goodFcs hup]
  exact if_neg (by simp [htype, hjoined, htag])

end

/-! ### A frame on a DIRECT port (R362) -/

section
variable {d : Device} {p : Fin 8} {f : Frame} (lockstep : Bool)

/-- A frame that is none of the link's own meets the check of its LSN. -/
theorem Device.linkFrame_transport (hreplay : d.fab.ports[p].replay = []) (hack : f.type ≠ .linkAck) (hnak : f.type ≠ .linkNak) :
    d.linkFrame p f lockstep = d.directFrame p f lockstep := by
  rw [Device.linkFrame, Device.linkAck_empty _ hreplay]
  split <;> first | rfl | exact absurd ‹_› hack | exact absurd ‹_› hnak

theorem Device.directFrame_inOrder (h : f.lsn = d.fab.ports[p].rxLsn) : d.directFrame p f lockstep =
    (d.updOct p fun q => { q with rxLsn := q.rxLsn + 1, ackDue := true }).routeFrame p f lockstep :=
  if_pos h

variable (h : f.lsn ≠ d.fab.ports[p].rxLsn)
include h

theorem Device.directFrame_gap (hahead : (f.lsn - d.fab.ports[p].rxLsn).toNat < 32768) :
    d.directFrame p f lockstep = d.emitLink p .linkNak false :=
  (if_neg h).trans (if_pos (by rw [lsnBefore, bne_iff_ne.2 h.symm, decide_eq_true hahead]; rfl))

theorem Device.directFrame_repeated (hbehind : 32768 ≤ (f.lsn - d.fab.ports[p].rxLsn).toNat) : d.directFrame p f lockstep = d :=
  (if_neg h).trans (if_neg (by rw [lsnBefore, decide_eq_false (Nat.not_lt.2 hbehind), Bool.and_false]; decide))

end

/-! ### A frame that the link has delivered (R358) -/

section
variable {d : Device} {p : Fin 8} {f : Frame} (lockstep : Bool)

theorem Device.routeFrame_noHops (h : f.hopsLeft = 0) : d.routeFrame p f lockstep = d.dropFrame := if_pos h

variable (hhops : f.hopsLeft ≠ 0)
include hhops

theorem Device.routeFrame_forward (h : f.dst ≠ d.fab.rank) :
    d.routeFrame p f lockstep = d.sendFrame (f.pcp == d.fab.ports[p].ctrlPcp) { f with hopsLeft := f.hopsLeft - 1 } :=
  (if_neg hhops).trans (if_pos h)

theorem Device.routeFrame_forMe (h : f.dst = d.fab.rank) : d.routeFrame p f lockstep = d.frameForMe p f lockstep :=
  (if_neg hhops).trans (if_neg (not_not_intro h))

end

section
variable {d : Device} {p : Fin 8} {f : Frame} (lockstep : Bool)

theorem Device.frameForMe_ack (h : f.type = .ack) : d.frameForMe p f lockstep = d.ackReceive f.src f.msgId f.msgLength.toNat := by
  simp only [Device.frameForMe, h]

theorem Device.frameForMe_heartbeat (h : f.type = .heartbeat) :
    d.frameForMe p f lockstep = d.decoded p.val f.payload fun bs d => d.takeHeartbeat f.src bs := by
  simp only [Device.frameForMe, h]

theorem Device.frameForMe_message (h : f.type = .data ∨ f.type = .control ∨ f.type = .pull ∨ f.type = .prune) :
    d.frameForMe p f lockstep = d.acceptFrame p f lockstep := by
  rcases h with h | h | h | h <;> simp only [Device.frameForMe, h]

theorem Device.frameForMe_reserved {n : Fin 8} (h : f.type = .reserved n) : d.frameForMe p f lockstep = d := by
  simp only [Device.frameForMe, h]

end

/-- Settles O33: the row meets the checks of R355 and R362 in their order, and a delivered frame goes by its hops, its destination and its
type. -/
theorem frameReceiveCompletes : Obligations.FrameReceiveCompletes := by
  refine ⟨fun s p f lockstep hl => ⟨fun ok hdown => ?_, fun hup hmode => ?_, fun hup hmode => ?_, fun hup h => ?_,
      fun hup htype hjoined htag => ⟨fun hv => ?_, fun hv hmode => ?_, fun hv hmode => ?_⟩⟩,
    fun d p f lockstep => ⟨fun _ hreplay hack hnak => ?_, fun h => ?_, fun hhops h => ?_, fun hhops h => ?_⟩⟩
  · exact .of_act (Device.frameReceive p f ok lockstep) hl rfl (Device.frameReceive_down (d := s.dev.fresh) ok hdown)
  · exact .of_act (Device.frameReceive p f false lockstep) hl rfl
      ((Device.frameReceive_badFcs (d := s.dev.fresh) hup).trans (if_neg hmode))
  · exact .of_act (Device.frameReceive p f false lockstep) hl rfl
      ((Device.frameReceive_badFcs (d := s.dev.fresh) hup).trans (if_pos hmode))
  · exact .of_act (Device.frameReceive p f true lockstep) hl rfl (Device.frameReceive_foreign (d := s.dev.fresh) hup h)
  · exact .of_act (Device.frameReceive p f true lockstep) hl rfl
      ((Device.frameReceive_ofJob (d := s.dev.fresh) hup htype hjoined htag).trans (if_pos hv))
  · exact .of_act (Device.frameReceive p f true lockstep) hl rfl
      ((Device.frameReceive_ofJob (d := s.dev.fresh) hup htype hjoined htag).trans ((if_neg (not_not_intro hv)).trans (if_neg hmode)))
  · exact .of_act (Device.frameReceive p f true lockstep) hl rfl
      ((Device.frameReceive_ofJob (d := s.dev.fresh) hup htype hjoined htag).trans ((if_neg (not_not_intro hv)).trans (if_pos hmode)))
  · rw [Device.linkFrame_transport lockstep hreplay hack hnak]
    exact ⟨d.directFrame_inOrder lockstep, d.directFrame_gap lockstep, d.directFrame_repeated lockstep⟩
  · exact Device.routeFrame_noHops lockstep h
  · exact Device.routeFrame_forward lockstep hhops h
  · rw [Device.routeFrame_forMe lockstep hhops h]
    exact ⟨Device.frameForMe_ack lockstep, Device.frameForMe_heartbeat lockstep, Device.frameForMe_message lockstep,
      fun n => Device.frameForMe_reserved lockstep⟩

end Sys2Proof.Machine
end

section
/-! The rows of link-level retry, of ports and of acknowledged messages (R354, R358, R361-R363, R365). -/

namespace Sys2Proof.Machine

/-! ### Link-level retry (R362) -/

section
variable {d : Device} {p : Fin 8}

theorem Device.linkAck_direct (lsn : Word16) (h : d.fab.ports[p].mode = .direct) :
    d.linkAck p lsn = d.updOct p fun q => q.release d.tb.now lsn := if_pos h

theorem Device.linkAck_other (lsn : Word16) (h : d.fab.ports[p].mode ≠ .direct) : d.linkAck p lsn = d := if_neg h

theorem Device.linkNak_direct (lsn : Word16) (resync : Bool) (h : d.fab.ports[p].mode = .direct) : d.linkNak p lsn resync =
    if resync then d.updOct p fun q => { q with rxLsn := 0 }
    else (d.updOct p fun q => q.release d.tb.now (lsn - 1)).replayFrom p lsn :=
  if_neg (not_not_intro h)

theorem Device.linkAckTimer_due (h : d.fab.ports[p].mode = .direct) (hdue : d.fab.ports[p].ackDue = true) :
    d.linkAckTimer p = (d.updOct p fun q => { q with ackDue := false }).emitLink p .linkAck false := if_pos ⟨h, hdue⟩

theorem Device.linkAckTimer_quiet (h : d.fab.ports[p].ackDue = false) : d.linkAckTimer p = d :=
  if_neg fun ⟨_, hdue⟩ => ne_true_of_eq_false h hdue

theorem Device.linkReplayTimer_empty (h : d.fab.ports[p].replay = []) : d.linkReplayTimer p = d := by
  simp only [Device.linkReplayTimer, h]

theorem Device.linkAbandon_empty (h : d.fab.ports[p].replay = []) : d.linkAbandon p = d := by
  simp only [Device.linkAbandon, h, List.head?_nil, Option.any_none, Bool.false_eq_true, and_false, if_false]

section
variable {f : ReplayFrame} {r : List ReplayFrame} (hmode : d.fab.ports[p].mode = .direct) (h : d.fab.ports[p].replay = f :: r)
include hmode h

theorem Device.linkReplayTimer_waiting : d.linkReplayTimer p =
    if 1000 ≤ d.ticksSince d.fab.ports[p].progress then d.replayFrom p f.frame.lsn else d := by
  simp only [Device.linkReplayTimer, h, hmode, true_and]

theorem Device.linkAbandon_waiting : d.linkAbandon p =
    if 8000 ≤ d.ticksSince f.firstSent then
      ((d.updOct p fun q => { q with abandoned := satAdd q.abandoned q.replay.length, replay := [], txLsn := 0 }).emitLink p .linkNak
        true).logEvent 0x0702 .info p.val 0 (srcOct p.val)
    else d := by
  simp only [Device.linkAbandon, h, hmode, List.head?_cons, Option.any_some, decide_eq_true_eq, true_and]

end

/-! ### Ports (R354, R358, R365) -/

theorem Device.octDown_aligned (h : d.fab.ports[p].aligned = true) : d.octDown p =
    (((d.updOct p fun q => { q with aligned := false, retrains := bump q.retrains }).logEvent 0x0701 .warn p.val 0 (srcOct p.val)).emit
      (.octRetrain p)).flushPort p := if_pos h

theorem Device.octDown_down (h : d.fab.ports[p].aligned = false) : d.octDown p = d := if_neg (ne_true_of_eq_false h)

theorem Device.octUp_on (h : d.fab.ports[p].mode ≠ .off) : d.octUp p = (d.updOct p fun q => { q with aligned := true }).flushAll :=
  if_neg h

theorem Device.octUp_off (h : d.fab.ports[p].mode = .off) : d.octUp p = d := if_pos h

theorem Device.pfc_switched (ctrl pause : Bool) (h : d.fab.ports[p].mode = .switched) : d.pfc p ctrl pause =
    (let e := d.updOct p fun q => if ctrl then { q with pausedCtrl := pause } else { q with pausedData := pause }
    if pause then e else e.flushPort p) := if_neg (not_not_intro h)

theorem Device.pfc_other (ctrl pause : Bool) (h : d.fab.ports[p].mode ≠ .switched) : d.pfc p ctrl pause = d := if_pos h

end

/-! ### Acknowledged messages (R361, R363) -/

/-- The grant of an ACK noted, and its message forgotten. -/
def Device.acknowledged (d : Device) (r : BitVec 14) (id : BitVec 48) (c : Nat) : Device :=
  d.updFab fun f => { f.updPeer r fun x => { x with credit := some c } with
    out := f.out.filter fun x => !(x.dst == r && x.msgId == id) }

section
variable {d : Device} {r : BitVec 14} {id : BitVec 48} (c : Nat)

theorem Device.ackReceive_unknown (h : d.fab.out.find? (fun m => m.dst == r && m.msgId == id && m.tries != 0) = none) :
    d.ackReceive r id c = (d.updFab fun f => f.updPeer r fun x => { x with credit := some c }).sendWaiting := by
  have hout : (d.updFab fun f => f.updPeer r fun x => { x with credit := some c }).fab.out = d.fab.out := rfl
  simp only [Device.ackReceive, hout, h]

theorem Device.e2eTimeout_unknown (h : d.fab.out.find? (fun m => m.dst == r && m.msgId == id && m.tries != 0) = none) :
    d.e2eTimeout r id = d := by
  simp only [Device.e2eTimeout, h]

variable {m : OutMsg} (h : d.fab.out.find? (fun m => m.dst == r && m.msgId == id && m.tries != 0) = some m)
include h

theorem Device.ackReceive_control {n : Nat} (hkind : m.kind = .control n) :
    d.ackReceive r id c = (d.acknowledged r id c).sendWaiting := by
  have hout : (d.updFab fun f => f.updPeer r fun x => { x with credit := some c }).fab.out = d.fab.out := rfl
  simp only [Device.ackReceive, hout, h, hkind]
  rfl

theorem Device.ackReceive_hop {k : Fin 16} {n b : Nat} (hkind : m.kind = .hop k.val n b) : d.ackReceive r id c =
    (((d.acknowledged r id c).updStep k n (updBucket b fun x => { x with unacked := x.unacked - 1 })).bucketCheck k n b).sendWaiting := by
  have hout : (d.updFab fun f => f.updPeer r fun x => { x with credit := some c }).fab.out = d.fab.out := rfl
  simp only [Device.ackReceive, hout, h, hkind, asFin_eq_some (rfl : k.val = k.val)]
  rfl

theorem Device.e2eTimeout_early (hearly : d.ticksSince m.lastSent < 1000 * d.fab.e2eUs) : d.e2eTimeout r id = d := by
  simp only [Device.e2eTimeout, h, if_pos hearly]

variable (hlate : 1000 * d.fab.e2eUs ≤ d.ticksSince m.lastSent)
include hlate

theorem Device.e2eTimeout_again (htries : m.tries < d.fab.maxTries) : d.e2eTimeout r id =
    ((d.updFab fun f =>
      { f with
        out := updFirst (fun x => x.dst == r && x.msgId == id) (fun _ => { m with tries := m.tries + 1, lastSent := d.tb.now }) f.out
        retransmits := bump f.retransmits }).logEvent 0x0703 .info 0 0 srcJob).sendFrames
      { m with tries := m.tries + 1, lastSent := d.tb.now } := by
  simp only [Device.e2eTimeout, h, if_neg (Nat.not_lt.2 hlate), if_pos htries]

theorem Device.e2eTimeout_lost (htries : d.fab.maxTries ≤ m.tries) : d.e2eTimeout r id =
    (d.updFab fun f => { f with out := f.out.filter fun x => !(x.dst == r && x.msgId == id) }).loseRank r.toNat d.fab.rank.toNat := by
  simp only [Device.e2eTimeout, h, if_neg (Nat.not_lt.2 hlate), if_neg (Nat.not_lt.2 htries)]

end

/-- Settles O34: each row is exec's function for it, and the function is one of the equations above. -/
theorem linkRowsComplete : Obligations.LinkRowsComplete := by
  intro s p hl
  refine ⟨fun lsn h => ?_, fun lsn h => ?_, fun lsn h => ?_, fun lsn h => ?_, fun h hdue => ?_, fun h => ?_,
    fun f r hmode h => ⟨fun ht => ?_, fun ht => ?_, fun ht => ?_, fun ht => ?_⟩, fun h => ⟨?_, ?_⟩, fun h => ?_, fun h => ?_, fun h => ?_,
    fun h => ?_, fun h => ⟨?_, ?_, ?_, ?_⟩, fun c b h => ?_, fun r id c => ⟨fun h => ⟨?_, ?_⟩, fun m h => ⟨fun n hkind => ?_,
      fun k n b hkind => ?_, fun ht => ?_, fun ht htries => ?_, fun ht htries => ?_⟩⟩⟩
  · exact .of_act (Device.linkAck p lsn) hl rfl (Device.linkAck_direct (d := s.dev.fresh) lsn h)
  · exact .of_act (Device.linkAck p lsn) hl rfl (Device.linkAck_other (d := s.dev.fresh) lsn h)
  · exact .of_act (Device.linkNak p lsn true) hl rfl (Device.linkNak_direct (d := s.dev.fresh) lsn true h)
  · exact .of_act (Device.linkNak p lsn false) hl rfl (Device.linkNak_direct (d := s.dev.fresh) lsn false h)
  · exact .of_act (Device.linkAckTimer p) hl rfl (Device.linkAckTimer_due (d := s.dev.fresh) h hdue)
  · exact .of_act (Device.linkAckTimer p) hl rfl (Device.linkAckTimer_quiet (d := s.dev.fresh) h)
  · exact .of_act (Device.linkReplayTimer p) hl rfl
      ((Device.linkReplayTimer_waiting (d := s.dev.fresh) hmode h).trans (if_pos ht))
  · exact .of_act (Device.linkReplayTimer p) hl rfl
      ((Device.linkReplayTimer_waiting (d := s.dev.fresh) hmode h).trans (if_neg (Nat.not_le.2 ht)))
  · exact .of_act (Device.linkAbandon p) hl rfl ((Device.linkAbandon_waiting (d := s.dev.fresh) hmode h).trans (if_pos ht))
  · exact .of_act (Device.linkAbandon p) hl rfl
      ((Device.linkAbandon_waiting (d := s.dev.fresh) hmode h).trans (if_neg (Nat.not_le.2 ht)))
  · exact .of_act (Device.linkReplayTimer p) hl rfl (Device.linkReplayTimer_empty (d := s.dev.fresh) h)
  · exact .of_act (Device.linkAbandon p) hl rfl (Device.linkAbandon_empty (d := s.dev.fresh) h)
  · exact .of_act (Device.octDown p) hl rfl (Device.octDown_aligned (d := s.dev.fresh) h)
  · exact .of_act (Device.octDown p) hl rfl (Device.octDown_down (d := s.dev.fresh) h)
  · exact .of_act (Device.octUp p) hl rfl (Device.octUp_on (d := s.dev.fresh) h)
  · exact .of_act (Device.octUp p) hl rfl (Device.octUp_off (d := s.dev.fresh) h)
  · exact .of_act (Device.pfc p true true) hl rfl (Device.pfc_switched (d := s.dev.fresh) true true h)
  · exact .of_act (Device.pfc p false true) hl rfl (Device.pfc_switched (d := s.dev.fresh) false true h)
  · exact .of_act (Device.pfc p true false) hl rfl (Device.pfc_switched (d := s.dev.fresh) true false h)
  · exact .of_act (Device.pfc p false false) hl rfl (Device.pfc_switched (d := s.dev.fresh) false false h)
  · exact .of_act (Device.pfc p c b) hl rfl (Device.pfc_other (d := s.dev.fresh) c b h)
  · exact .of_act (Device.e2eTimeout r id) hl rfl (Device.e2eTimeout_unknown (d := s.dev.fresh) h)
  · exact .of_act (Device.ackReceive r id c.toNat) hl rfl (Device.ackReceive_unknown (d := s.dev.fresh) c.toNat h)
  · exact .of_act (Device.ackReceive r id c.toNat) hl rfl (Device.ackReceive_control (d := s.dev.fresh) c.toNat h hkind)
  · exact .of_act (Device.ackReceive r id c.toNat) hl rfl (Device.ackReceive_hop (d := s.dev.fresh) c.toNat h hkind)
  · exact .of_act (Device.e2eTimeout r id) hl rfl (Device.e2eTimeout_early (d := s.dev.fresh) h ht)
  · exact .of_act (Device.e2eTimeout r id) hl rfl (Device.e2eTimeout_again (d := s.dev.fresh) h ht htries)
  · exact .of_act (Device.e2eTimeout r id) hl rfl (Device.e2eTimeout_lost (d := s.dev.fresh) h ht htries)

end Sys2Proof.Machine
end

section
/-! The rows of the job hierarchy (R367-R375, R379, R380): heartbeats, losses, resumes, barriers and multicasts. -/

namespace Sys2Proof.Machine

/-! ### A device in no job -/

section
variable {d : Device} (h : d.joined = false)
include h

theorem Device.heartbeatTimer_alone : d.heartbeatTimer = d := if_neg (ne_true_of_eq_false h)

theorem Device.heartbeatReceive_alone (src : BitVec 14) (st : JobState) (t1 t2 t3 : Word64) : d.heartbeatReceive src st t1 t2 t3 = d :=
  if_pos (by rw [h]; rfl)

theorem Device.heartbeatTimeout_alone (r : BitVec 14) : d.heartbeatTimeout r = d :=
  if_neg (by rw [h, Bool.false_and, Bool.false_and]; decide)

theorem Device.loseRank_alone (rank source : Nat) : d.loseRank rank source = d := if_pos (by rw [h]; rfl)

theorem Device.resumeReady_alone (r : BitVec 14) (n : Word32) : d.resumeReady r n = d := if_pos (by rw [h]; rfl)

theorem Device.barrierReleased_alone (id : Word32) (scope : BitVec 2) (g : Nat) (tick : Word64) : d.barrierReleased id scope g tick = d :=
  if_pos (by rw [h]; rfl)

end

theorem Device.managerSilent_alone {d : Device} (h : d.fab.job = .none) : d.managerSilent = d := by
  unfold Device.managerSilent
  split
  · exact if_neg (by rw [h]; rintro ⟨hjob | hjob, -⟩ <;> cases hjob)
  · rfl

/-! ### A device in no job, or in HOLD -/

section
variable {d : Device} (h : d.joined = false ∨ d.fab.job = .hold)
include h

/-- What is received by a device in no job, or in HOLD, is discarded (R371). -/
theorem Device.discards : (!d.joined || d.fab.job == .hold) = true := by
  rcases h with h | h <;> rw [h]
  · rfl
  · exact Bool.or_true _

theorem Device.barrierEntry_discarded (id : Word32) (scope : BitVec 2) (src g : Nat) : d.barrierEntry id scope src g = d :=
  if_pos (Device.discards h)

theorem Device.pruneReceive_discarded (src : BitVec 14) (tensor v : Word32) (first count : Nat) :
    d.pruneReceive src tensor v first count = d := if_pos (Device.discards h)

theorem Device.pullReceive_discarded (src : BitVec 14) (tensor v : Word32) (first count : Nat) :
    d.pullReceive src tensor v first count = d := by
  unfold Device.pullReceive
  split
  · rfl
  split
  · rfl
  · exact if_pos (by rw [Device.discards h, Bool.true_or, Bool.true_or])

end

/-- A device in a job and not in HOLD takes what is received. -/
theorem Device.takes_received {d : Device} (hjob : d.joined = true) (hhold : d.fab.job ≠ .hold) :
    (!d.joined || d.fab.job == .hold) = false := by
  rw [hjob, beq_eq_false_iff_ne.2 hhold]
  rfl

/-! ### Heartbeats (R367-R370, R372, R373) -/

section
variable {d : Device} {src : BitVec 14} {st : JobState} (t1 t2 t3 : Word64) (hjob : d.joined = true)
include hjob

theorem Device.heartbeatTimer_joined : d.heartbeatTimer = d.fab.beatTargets.foldl (fun d r => d.sendHeartbeat r) d := if_pos hjob

theorem Device.heartbeatReceive_lost (hlost : (d.fab.peer src).lost = true) (hst : st ≠ .joining) :
    d.heartbeatReceive src st t1 t2 t3 = d := by
  rw [Device.heartbeatReceive, hjob, hlost, bne_iff_ne.2 hst]
  rfl

variable (hlives : (d.fab.peer src).lost = false ∨ st = .joining)
include hlives

theorem Device.heartbeatReceive_heard : d.heartbeatReceive src st t1 t2 t3 =
    (let e := d.updFab fun f => f.hear src (st == .joining) d.tb.now t1 d.jobTime
    if d.fab.joinedIntoHold src st then e.enterHold d.fab.rank.toNat
    else if d.fab.manager ≠ some src.toNat then e
    else
      let e := e.updFab fun f => { f with lastManagerBeat := d.tb.now }
      let e := if t2 = 0 then e else e.exchange t1 t2 t3
      if st = .hold ∧ e.fab.job = .active then e.enterHold src.toNat else e) := by
  have hheard : ¬ ((d.fab.peer src).lost && st != .joining) = true := by
    rcases hlives with h | h <;> rw [h]
    · exact Bool.false_ne_true
    · rw [show (JobState.joining != JobState.joining) = false from rfl, Bool.and_false]
      exact Bool.false_ne_true
  rw [Device.heartbeatReceive, hjob, if_neg (by decide), if_neg hheard]
  rfl

theorem Device.heartbeatReceive_other (hhold : d.fab.joinedIntoHold src st = false) (hmanager : d.fab.manager ≠ some src.toNat) :
    d.heartbeatReceive src st t1 t2 t3 = d.updFab fun f => f.hear src (st == .joining) d.tb.now t1 d.jobTime := by
  rw [Device.heartbeatReceive_heard t1 t2 t3 hjob hlives]
  exact (if_neg (ne_true_of_eq_false hhold)).trans (if_pos hmanager)

/-- The manager's heartbeat is noted, and its times of an exchange are used once it has heard this member. -/
theorem Device.heartbeatReceive_manager (hhold : d.fab.joinedIntoHold src st = false) (hmanager : d.fab.manager = some src.toNat) :
    d.heartbeatReceive src st t1 t2 t3 =
      (let e := d.updFab fun f => { f.hear src (st == .joining) d.tb.now t1 d.jobTime with lastManagerBeat := d.tb.now }
      let e := if t2 = 0 then e else e.exchange t1 t2 t3
      if st = .hold ∧ e.fab.job = .active then e.enterHold src.toNat else e) := by
  rw [Device.heartbeatReceive_heard t1 t2 t3 hjob hlives]
  exact (if_neg (ne_true_of_eq_false hhold)).trans (if_neg (not_not_intro hmanager))

end

theorem Device.heartbeatReceive_joinedIntoHold {d : Device} {src : BitVec 14} {st : JobState} (t1 t2 t3 : Word64) (hjob : d.joined = true)
    (hlost : (d.fab.peer src).lost = false) (hhold : d.fab.joinedIntoHold src st = true) : d.heartbeatReceive src st t1 t2 t3 =
      (d.updFab fun f => f.hear src false d.tb.now t1 d.jobTime).enterHold d.fab.rank.toNat := by
  have hst : st = .hold := by
    simp only [Fabric.joinedIntoHold, Bool.and_eq_true, beq_iff_eq] at hhold
    exact hhold.1.2
  subst hst
  rw [Device.heartbeatReceive_heard t1 t2 t3 hjob (.inl hlost)]
  exact if_pos hhold

/-- A member that is not the top manager hears of no domain manager's joining. -/
theorem Fabric.joinedIntoHold_notTop {f : Fabric} (src : BitVec 14) (st : JobState) (h : f.isTop = false) :
    f.joinedIntoHold src st = false := by
  simp only [Fabric.joinedIntoHold, h, Bool.false_and]

section
variable {d : Device} {r : BitVec 14}

theorem Device.heartbeatTimeout_supervised {t : Tick} (hjob : d.joined = true) (hmem : r.toNat ∈ d.fab.supervised)
    (hbeat : (d.fab.peer r).lastHeartbeat = some t) : d.heartbeatTimeout r =
      if 300000 ≤ d.ticksSince t then d.loseRank r.toNat d.fab.rank.toNat else d := by
  simp only [Device.heartbeatTimeout, hjob, List.contains_iff_mem.2 hmem, hbeat, Option.any_some, Device.silentSince, Bool.true_and,
    decide_eq_true_eq]

theorem Device.heartbeatTimeout_unheard (h : r.toNat ∉ d.fab.supervised ∨ (d.fab.peer r).lastHeartbeat = none) :
    d.heartbeatTimeout r = d := by
  refine if_neg fun hall => ?_
  obtain ⟨hfirst, hbeat⟩ := Bool.and_eq_true_iff.1 hall
  rcases h with h | h
  · exact h (List.contains_iff_mem.1 (Bool.and_eq_true_iff.1 hfirst).2)
  · rw [h] at hbeat
    cases hbeat

theorem Device.managerSilent_manager {m : Nat} (h : d.fab.manager = some m) : d.managerSilent =
    if (d.fab.job = .active ∨ d.fab.job = .resuming) ∧ 300000 ≤ d.ticksSince d.fab.lastManagerBeat then d.enterHold m else d := by
  simp only [Device.managerSilent, h, Device.silentSince, decide_eq_true_eq]

theorem Device.managerSilent_none (h : d.fab.manager = none) : d.managerSilent = d := by
  simp only [Device.managerSilent, h]

end

/-! ### Resumes (R374) -/

section
variable {d : Device} {r : BitVec 14} {n : Word32} (hjob : d.joined = true)
include hjob

theorem Device.resumeReady_top (htop : d.fab.isTop = true) : d.resumeReady r n =
    (d.updFab fun f => f.updPeer r fun p => { p with ready := some n }).checkResume := by
  simp only [Device.resumeReady, hjob, htop, Bool.not_true, Bool.false_eq_true, if_false, if_true]

variable (htop : d.fab.isTop = false)
include htop

theorem Device.resumeReady_relayed {t : Nat} (hdomain : d.fab.isDomainManager = true) (ht : d.fab.topManager = some t) :
    d.resumeReady r n = d.sendRecord t .ready (bytesOf 2 r.toNat ++ bytesOf 4 n.toNat) := by
  simp only [Device.resumeReady, hjob, htop, hdomain, ht, Bool.not_true, Bool.false_eq_true, if_false, if_true]

theorem Device.resumeReady_worker (hdomain : d.fab.isDomainManager = false) : d.resumeReady r n = d := by
  simp only [Device.resumeReady, hjob, htop, hdomain, Bool.not_true, Bool.false_eq_true, if_false]

end

section
variable {d : Device} (hdomain : d.fab.isDomainManager = false)
include hdomain

theorem Device.resumeRelease_elsewhere {tick : Word64} (hjob : d.fab.job ≠ .resuming) (ht : tick ≠ resumeRefused) :
    d.resumeRelease tick = d.updFab fun f => f.clearReady.clearLost := by
  simp only [Device.resumeRelease, hdomain, Bool.false_eq_true, if_false, if_neg ht]
  exact if_pos hjob

variable {c : OpenCmd} {n : Word32} (hjob : d.fab.job = .resuming) (hresume : d.fab.resume = some (c, n))
include hjob hresume

theorem Device.resumeRelease_released {tick : Word64} (ht : tick ≠ resumeRefused) : d.resumeRelease tick =
    ((d.updFab fun f => { f.clearReady.clearLost with resume := none, job := .active }).ok c tick.toNat).logEvent 0x0705 .info 0 0
      srcJob := by
  have hcmd : (d.updFab fun f => f.clearReady.clearLost).fab.resume = some (c, n) := hresume
  simp only [Device.resumeRelease, hdomain, Bool.false_eq_true, if_false, if_neg ht, hcmd, Option.map_some]
  exact if_neg (not_not_intro hjob)

theorem Device.resumeRelease_refused : d.resumeRelease resumeRefused =
    (d.updFab fun f => { f.clearReady with resume := none, job := .hold }).finish c .badParam := by
  have hcmd : (d.updFab fun f => f.clearReady).fab.resume = some (c, n) := hresume
  simp only [Device.resumeRelease, hdomain, Bool.false_eq_true, if_false, if_true, hcmd, Option.map_some]
  exact if_neg (not_not_intro hjob)

end

/-! ### Barriers (R375) -/

section
variable {d : Device} {id : Word32} {scope : BitVec 2} {src g : Nat} (hjob : d.joined = true)
include hjob

section
variable (hhold : d.fab.job ≠ .hold)
include hhold

theorem Device.barrierEntry_counted : d.barrierEntry id scope src g =
    if d.memberLevel src then d.barrierMember id scope g src
    else if d.fab.isTop && scope != 1 then d.barrierDomain id scope (if scope = 2 then g else 0) (d.fab.domainOf src)
    else d :=
  if_neg (ne_true_of_eq_false (Device.takes_received hjob hhold))

end

variable {tick : Word64} (hdomain : d.fab.isDomainManager = false)
include hdomain

theorem Device.barrierReleased_pending {b : Barrier} (h : d.fab.barriers.find? (d.fab.released id scope g) = some b) :
    d.barrierReleased id scope g tick =
      (d.updFab fun f => { f with barriers := f.barriers.filter fun x => x.id != id }).ok b.cmd tick.toNat := by
  simp only [Device.barrierReleased, hjob, hdomain, Bool.not_true, Bool.false_eq_true, false_and, if_false]
  rw [h]

theorem Device.barrierReleased_notPending (h : d.fab.barriers.find? (d.fab.released id scope g) = none) :
    d.barrierReleased id scope g tick = d := by
  simp only [Device.barrierReleased, hjob, hdomain, Bool.not_true, Bool.false_eq_true, false_and, if_false]
  rw [h]

end

/-! ### Multicasts (R379, R380) -/

section
variable {d : Device} {n : Nat} {r : BitVec 14} {m : Multicast} {a : Nat} (hm : d.fab.mcasts[n]? = some m)
  (hr : (d.fab.progress m).receivers.find? (fun x => x.1 == r && !x.2.2) = some (r, a, false))
include hm hr

theorem Device.mcastLag_receiver : d.mcastLag n r =
    if d.lagsBy (d.fab.progress m) r a && (d.fab.progress m).receivers.any fun x => x.1 != r && decide (a < x.2.1) then
      d.prune (d.fab.progress m) r a
    else d := by
  simp only [Device.mcastLag, hm, hr]

theorem Device.mcastLag_prunes (hlags : d.lagsBy (d.fab.progress m) r a = true)
    (hahead : ∃ x ∈ (d.fab.progress m).receivers, x.1 ≠ r ∧ a < x.2.1) : d.mcastLag n r = d.prune (d.fab.progress m) r a := by
  rw [Device.mcastLag_receiver hm hr]
  refine if_pos (Bool.and_eq_true_iff.2 ⟨hlags, List.any_eq_true.2 ?_⟩)
  obtain ⟨x, hx, hne, hlt⟩ := hahead
  exact ⟨x, hx, Bool.and_eq_true_iff.2 ⟨bne_iff_ne.2 hne, decide_eq_true hlt⟩⟩

theorem Device.mcastLag_waits (h : d.lagsBy (d.fab.progress m) r a = false
    ∨ ∀ x ∈ (d.fab.progress m).receivers, x.1 = r ∨ x.2.1 ≤ a) : d.mcastLag n r = d := by
  rw [Device.mcastLag_receiver hm hr]
  refine if_neg fun hall => ?_
  obtain ⟨hlags, hany⟩ := Bool.and_eq_true_iff.1 hall
  rcases h with h | h
  · exact ne_true_of_eq_false h hlags
  · obtain ⟨x, hx, hboth⟩ := List.any_eq_true.1 hany
    obtain ⟨hne, hlt⟩ := Bool.and_eq_true_iff.1 hboth
    exact (h x hx).elim (bne_iff_ne.1 hne) (Nat.not_le.2 (of_decide_eq_true hlt))

end

section
variable {d : Device} {tensor : Word32} {k : Fin 16} {p : Program} (src : BitVec 14) {v : Word32} {first count : Nat}

theorem Device.pullReceive_unreleased (h : d.releaserOf tensor = none) : d.pullReceive src tensor v first count = d := by
  simp only [Device.pullReceive, h]

variable (hjob : d.joined = true) (hhold : d.fab.job ≠ .hold) (hrel : d.releaserOf tensor = some (k, p))
include hjob hhold hrel

theorem Device.pruneReceive_released : d.pruneReceive src tensor v first count =
    (d.updFab fun f => f.updPeer src fun x => { x with prunedIn := some (k.val, v.toNat - 1) }).sendMsg src.toNat .pull
      (rangeFields tensor v.toNat first count) (d.stepLate k (v.toNat - 1)) false .pull := by
  simp only [Device.pruneReceive, Device.takes_received hjob hhold, hrel, Option.map_some, Bool.false_eq_true, if_false]

theorem Device.pullReceive_served {ord : Nat} {st : StepState} (hord : p.ordinalOf tensor = some ord) (hv : p.version tensor = v.toNat)
    (hfits : first + count ≤ (p.released ord).elems) (hst : p.stepAt (v.toNat - 1) = some st) :
    d.pullReceive src tensor v first count =
      (let bs := (d.readWeights st tensor first count).flatMap fun w => bytesOf 2 (w32ToZ16 .rne w).1.toNat
      (d.updFab fun f => { f with pulled := satAdd f.pulled (ceilDiv bs.length 1024) }).sendMsg src.toNat
        (.mcast k.val (v.toNat - 1) ord first) (rangeHeader tensor.toNat v.toNat first ++ bs) (d.stepLate k (v.toNat - 1)) false) := by
  simp only [Device.pullReceive, Device.takes_received hjob hhold, hrel, hord, hv, hst, BEq.rfl, Bool.true_or, Bool.not_true, Bool.or_false,
    decide_eq_false (Nat.not_lt.2 hfits), Bool.false_eq_true, if_false, Option.getD_some]
  rfl

end

/-- Settles O35: a device in no job idles in each row, and on a member each row is one of the equations above. -/
theorem jobRowsComplete : Obligations.JobRowsComplete := by
  refine ⟨fun s hl hnone => ?_, fun s hl hjob => ?_⟩
  · have halone : s.dev.fresh.joined = false := Device.joined_eq_false hnone
    refine ⟨?_, fun src st o t1 t2 t3 => ?_, fun r => ?_, ?_, fun src r => ?_, fun r n => ?_, fun id scope src g => ?_,
      fun id scope g tick => ?_, fun src tensor v first count => ?_, fun src tensor v first count => ?_⟩
    · exact .of_act Device.heartbeatTimer hl rfl (Device.heartbeatTimer_alone halone)
    · exact .of_act (Device.heartbeatReceive src st t1 t2 t3) hl rfl (Device.heartbeatReceive_alone halone src st t1 t2 t3)
    · exact .of_act (Device.heartbeatTimeout r) hl rfl (Device.heartbeatTimeout_alone halone r)
    · exact .of_act Device.managerSilent hl rfl (Device.managerSilent_alone (d := s.dev.fresh) hnone)
    · exact .of_act (Device.loseRank · r.toNat src.toNat) hl rfl (Device.loseRank_alone halone r.toNat src.toNat)
    · exact .of_act (Device.resumeReady r n) hl rfl (Device.resumeReady_alone halone r n)
    · exact .of_act (Device.barrierEntry id scope src.toNat g.toNat) hl rfl
        (Device.barrierEntry_discarded (.inl halone) id scope src.toNat g.toNat)
    · exact .of_act (Device.barrierReleased id scope g.toNat tick) hl rfl
        (Device.barrierReleased_alone halone id scope g.toNat tick)
    · exact .of_act (Device.pruneReceive src tensor v first count) hl rfl
        (Device.pruneReceive_discarded (.inl halone) src tensor v first count)
    · exact .of_act (Device.pullReceive src tensor v first count) hl rfl
        (Device.pullReceive_discarded (.inl halone) src tensor v first count)
  have hjoined : s.dev.fresh.joined = true := Device.joined_of_job hjob
  refine ⟨?_, fun src st o t1 t2 t3 hlost hst => ?_, fun src st o t1 t2 t3 hlives hhold hmanager => ?_,
    fun src st o t1 t2 t3 hlost hhold => ?_, fun src st o t1 t3 hlost htop hmanager => ⟨fun h => ?_, fun hst hact => ?_, fun t2 ht2 hst => ?_⟩,
    fun r t hmem hbeat => ⟨fun ht => ?_, fun ht => ?_⟩, fun r h => ?_, fun m hm => ⟨fun hact ht => ?_, fun h => ?_⟩, fun hm => ?_,
    fun src r => ?_, fun r n => ⟨fun htop => ?_, fun t htop hdomain ht => ?_, fun htop hdomain => ?_⟩,
    fun tick c n hres hdomain hcmd => ⟨fun ht => ?_, ?_⟩, fun tick hres hdomain ht => ?_, fun id scope src g hhold => ?_,
    fun id scope src g hhold => ⟨fun hlevel => ?_, fun hlevel htop hscope => ?_, fun hlevel h => ?_⟩,
    fun id scope g tick hdomain => ⟨fun b hb => ?_, fun hb => ?_⟩, fun n r m a hm hr => ⟨fun hlags hahead => ?_, fun h => ?_⟩,
    fun src tensor v first count hhold => ⟨?_, ?_⟩, fun src tensor v first count k p hhold hrel => ?_,
    fun src tensor v first count k p ord st hhold hrel hord hv hfits hst => ?_, fun src tensor v first count hrel => ?_⟩
  · exact exec_of_act Device.heartbeatTimer hl rfl (Device.heartbeatTimer_joined hjoined)
  · exact .of_act (Device.heartbeatReceive src st t1 t2 t3) hl rfl (Device.heartbeatReceive_lost t1 t2 t3 hjoined hlost hst)
  · exact exec_of_act (Device.heartbeatReceive src st t1 t2 t3) hl rfl
      (Device.heartbeatReceive_other t1 t2 t3 hjoined hlives hhold hmanager)
  · exact exec_of_act (Device.heartbeatReceive src st t1 t2 t3) hl rfl
      (Device.heartbeatReceive_joinedIntoHold t1 t2 t3 hjoined hlost hhold)
  · refine exec_of_act (Device.heartbeatReceive src st t1 0 t3) hl rfl ((Device.heartbeatReceive_manager t1 0 t3 hjoined (.inl hlost)
      (Fabric.joinedIntoHold_notTop src st htop) hmanager).trans (if_neg fun ⟨hst, hact⟩ => ?_))
    exact h.elim (· hst) (· hact)
  · subst hst
    exact exec_of_act (Device.heartbeatReceive src .hold t1 0 t3) hl rfl ((Device.heartbeatReceive_manager t1 0 t3 hjoined (.inl hlost)
      (Fabric.joinedIntoHold_notTop src .hold htop) hmanager).trans (if_pos ⟨rfl, hact⟩))
  · refine exec_of_act (Device.heartbeatReceive src st t1 t2 t3) hl rfl ((Device.heartbeatReceive_manager t1 t2 t3 hjoined (.inl hlost)
      (Fabric.joinedIntoHold_notTop src st htop) hmanager).trans ((if_neg fun ⟨hhold, _⟩ => hst hhold).trans (if_neg ht2)))
  · exact exec_of_act (Device.heartbeatTimeout r) hl rfl
      ((Device.heartbeatTimeout_supervised hjoined hmem hbeat).trans (if_pos ht))
  · exact .of_act (Device.heartbeatTimeout r) hl rfl
      ((Device.heartbeatTimeout_supervised hjoined hmem hbeat).trans (if_neg (Nat.not_le.2 ht)))
  · exact .of_act (Device.heartbeatTimeout r) hl rfl (Device.heartbeatTimeout_unheard (d := s.dev.fresh) h)
  · exact exec_of_act Device.managerSilent hl rfl ((Device.managerSilent_manager (d := s.dev.fresh) hm).trans (if_pos ⟨hact, ht⟩))
  · refine .of_act Device.managerSilent hl rfl ((Device.managerSilent_manager (d := s.dev.fresh) hm).trans (if_neg ?_))
    rintro ⟨hact, ht⟩
    rcases h with h | h | h
    · rcases hact with hact | hact <;> cases h.symm.trans hact
    · rcases hact with hact | hact <;> cases h.symm.trans hact
    · exact Nat.not_le.2 h ht
  · exact .of_act Device.managerSilent hl rfl (Device.managerSilent_none (d := s.dev.fresh) hm)
  · exact exec_of_act (Device.loseRank · r.toNat src.toNat) hl rfl rfl
  · exact exec_of_act (Device.resumeReady r n) hl rfl (Device.resumeReady_top hjoined htop)
  · exact exec_of_act (Device.resumeReady r n) hl rfl (Device.resumeReady_relayed hjoined htop hdomain ht)
  · exact .of_act (Device.resumeReady r n) hl rfl (Device.resumeReady_worker hjoined htop hdomain)
  · exact exec_of_act (Device.resumeRelease tick) hl rfl (Device.resumeRelease_released (d := s.dev.fresh) hdomain hres hcmd ht)
  · exact exec_of_act (Device.resumeRelease resumeRefused) hl rfl
      (Device.resumeRelease_refused (d := s.dev.fresh) hdomain hres hcmd)
  · exact exec_of_act (Device.resumeRelease tick) hl rfl (Device.resumeRelease_elsewhere (d := s.dev.fresh) hdomain hres ht)
  · exact .of_act (Device.barrierEntry id scope src.toNat g.toNat) hl rfl
      (Device.barrierEntry_discarded (d := s.dev.fresh) (.inr hhold) id scope src.toNat g.toNat)
  · exact exec_of_act (Device.barrierEntry id scope src.toNat g.toNat) hl rfl
      ((Device.barrierEntry_counted hjoined hhold).trans (if_pos hlevel))
  · exact exec_of_act (Device.barrierEntry id scope src.toNat g.toNat) hl rfl
      ((Device.barrierEntry_counted hjoined hhold).trans ((if_neg (ne_true_of_eq_false hlevel)).trans
        (if_pos (Bool.and_eq_true_iff.2 ⟨htop, bne_iff_ne.2 hscope⟩))))
  · refine .of_act (Device.barrierEntry id scope src.toNat g.toNat) hl rfl
      ((Device.barrierEntry_counted hjoined hhold).trans ((if_neg (ne_true_of_eq_false hlevel)).trans (if_neg fun hboth => ?_)))
    obtain ⟨htop, hscope⟩ := Bool.and_eq_true_iff.1 hboth
    exact h.elim (fun h => ne_true_of_eq_false h htop) (bne_iff_ne.1 hscope)
  · exact exec_of_act (Device.barrierReleased id scope g.toNat tick) hl rfl
      (Device.barrierReleased_pending (d := s.dev.fresh) hjoined hdomain hb)
  · exact .of_act (Device.barrierReleased id scope g.toNat tick) hl rfl
      (Device.barrierReleased_notPending (d := s.dev.fresh) hjoined hdomain hb)
  · exact exec_of_act (Device.mcastLag n r) hl rfl (Device.mcastLag_prunes (d := s.dev.fresh) hm hr hlags hahead)
  · exact .of_act (Device.mcastLag n r) hl rfl (Device.mcastLag_waits (d := s.dev.fresh) hm hr h)
  · exact .of_act (Device.pruneReceive src tensor v first count) hl rfl
      (Device.pruneReceive_discarded (d := s.dev.fresh) (.inr hhold) src tensor v first count)
  · exact .of_act (Device.pullReceive src tensor v first count) hl rfl
      (Device.pullReceive_discarded (d := s.dev.fresh) (.inr hhold) src tensor v first count)
  · exact exec_of_act (Device.pruneReceive src tensor v first count) hl rfl
      (Device.pruneReceive_released (d := s.dev.fresh) src hjoined hhold hrel)
  · exact exec_of_act (Device.pullReceive src tensor v first count) hl rfl
      (Device.pullReceive_served (d := s.dev.fresh) src hjoined hhold hrel hord hv hfits hst)
  · exact .of_act (Device.pullReceive src tensor v first count) hl rfl (Device.pullReceive_unreleased (d := s.dev.fresh) src hrel)

end Sys2Proof.Machine
end
